-- ==== Sys2Proof/Word.lean ====
section
/-!
DEFINITION. The plain types the manual's fields are made of. Bit vectors are used for what the manual masks, compares as
unsigned words or stores as bytes; counts, sequences, sizes and times are natural numbers.
-/

namespace Sys2Proof

abbrev Byte := BitVec 8
/-- A 32-bit field that the part masks or repeats unchanged (bucket ID, don't-care mask, controller tag, digest). -/
abbrev Word32 := BitVec 32
/-- A 64-bit field that the part compares or takes apart (key hash, version stamp, guard map). -/
abbrev Word64 := BitVec 64
/-- A set of slots 0 to 7: bit j stands for slot j (R198). -/
abbrev SlotSet := BitVec 8
/-- Controller ports CP0 to CP3. -/
abbrev PortId := Fin 4
/-- Slots 0 to 7 of the site table. -/
abbrev SlotId := Fin 8
/-- Span ports SP0 and SP1. -/
abbrev SpanId := Fin 2
/-- Generators G0 to G7. -/
abbrev GenId := Fin 8
/-- Microseconds (00, Conventions). -/
abbrev Time := Nat
/-- The sequence of an intent (00, Conventions). -/
abbrev Seq := Nat

end Sys2Proof
end

