-- ==== Sys2Proof/Syntax.lean ====
section
/-!
DEFINITION. The commands of the block: one constructor of Instr for each row of spec/opcode_table.json, with its operands.

Every event that comes from outside the part carries `at`, the time at which it comes (log 2). The expiry of a timer
carries none: it comes when the timer is due. Enumerated fields of command records are codes (R198, log 7), because the
rules answer BAD_FIELD for a code outside its table.
-/

namespace Sys2Proof

/-- The fields of an APPEND command record (01, APPEND; the body layout of 11.2). -/
structure AppendBody where
  /-- 1 PUT, 2 DELETE, 3 META (R198: coded from 1 in the order of the table). -/
  kind : Nat
  keyLen : Nat
  tag : Word32
  bucket : Word32
  payloadLen : Nat
  keyHash : Word64
  stamp : Word64
  locator : Nat
  digest : Word32
  key : List Byte
  deriving DecidableEq, Repr, Inhabited

/-- The fields of a QUERY KEY record (R40, R41). -/
structure KeyQuery where
  bucket : Word32
  keyHash : Word64
  keyLen : Nat
  key : List Byte
  deriving DecidableEq, Repr, Inhabited

/-- The fields of a SET PLACEMENT record (R55): the entry number and the six fields of R42. -/
structure SetPlacementBody where
  entry : Nat
  enabled : Bool
  bucket : Word32
  mask : Word32
  allSites : Bool
  slots : SlotSet
  quorum : Nat
  hold : Bool
  deriving DecidableEq, Repr, Inhabited

/-- The fields of a READ PLACEMENT record (R56): selector 1 ENTRY, 2 MODE, 3 PROBE. -/
structure ReadPlacementBody where
  selector : Nat
  entry : Nat
  bucket : Word32
  deriving DecidableEq, Repr, Inhabited

/-- The fields of a SET PLACEMENT MODE record (R57): expiry action 1 RELEASE, 2 DENY. -/
structure SetModeBody where
  strict : Bool
  mirrorAll : Bool
  defaultQuorum : Nat
  holdLimit : Nat
  expiryAction : Nat
  deriving DecidableEq, Repr, Inhabited

/-- The fields of an ATTACH SITE record (R83): span port 1 SP0, 2 SP1; mode 1 PACED, 2 UNPACED. -/
structure AttachSiteBody where
  slot : Nat
  site : Nat
  spanPort : Nat
  generator : Nat
  share : Nat
  mode : Nat
  lend : Bool
  maxWindow : Nat
  evictable : Bool
  deriving DecidableEq, Repr, Inhabited

/-- The fields of a SET GENERATOR record (R104): enable 1 on, 2 off. -/
structure SetGeneratorBody where
  generator : Nat
  enable : Nat
  rate : Nat
  period : Nat
  deriving DecidableEq, Repr, Inhabited

/-- The fields of a SET SITE PACING record (R105): mode 1 PACED, 2 UNPACED; LEND 1 on, 2 off. -/
structure SetSitePacingBody where
  slot : Nat
  generator : Nat
  share : Nat
  mode : Nat
  lend : Nat
  maxWindow : Nat
  deriving DecidableEq, Repr, Inhabited

/-- The body of a command record, one constructor for each command of the command summary (09, 9.10) in its order, and
one for a kind code that names no command (R199). -/
inductive CmdBody where
  | append (b : AppendBody)
  | flush (delay : Nat)
  | readJournal (seq addr : Nat)
  | queryKey (q : KeyQuery)
  | setPlacement (b : SetPlacementBody)
  | readPlacement (b : ReadPlacementBody)
  | setPlacementMode (b : SetModeBody)
  | release (seq : Nat)
  | deny (seq : Nat)
  | attachSite (b : AttachSiteBody)
  | detachSite (slot : Nat)
  | fenceSite (slot : Nat)
  | unfenceSite (slot : Nat)
  | rejoinSite (slot : Nat)
  | rewindSite (slot target : Nat)
  /-- none asks for ALL (R88). -/
  | readSite (slot : Option Nat)
  | setGenerator (b : SetGeneratorBody)
  | setSitePacing (b : SetSitePacingBody)
  | queryIntent (seq : Nat)
  | postLanding (id addr capacity : Nat)
  /-- outcome 1 STORED, 2 REJECTED (R141). -/
  | stored (arrival outcome : Nat)
  | readInbound (arrival : Nat)
  | guardOn
  | guardOff
  /-- bit g is 1 when group g is MARKED (R161). -/
  | setGuardMap (map : Word64)
  | setPressureLimits (lowWatermark criticalReserve : Nat)
  /-- none asks for ALL (R163). -/
  | readSegments (segment : Option Nat)
  | attachPort
  | detachPort
  | fencePort (port : Nat)
  | unfencePort (port : Nat)
  | readStatus
  /-- bit k names the k-th fault kind of R176. -/
  | clearFaults (kinds : Byte)
  /-- one code for each of the seven kinds of R176: 1 on, 2 off. -/
  | setNoticeMask (settings : List Nat)
  | setLocalSite (site : Nat)
  | unknown (code : Nat)
  deriving DecidableEq, Repr, Inhabited

/-- A command record (11.2): the command ID that the controller chooses (R168), and the body. -/
structure CmdRec where
  cid : Word32
  body : CmdBody
  deriving DecidableEq, Repr, Inhabited

/-- The fields of a span header that the rules read (R63). Magic, version, length and CRC are right in every frame that is
named by its kind; a frame in which they may be wrong comes as BAD_FRAME, in bytes. -/
structure FrameHdr where
  sender : Nat
  receiver : Nat
  start : Nat
  deriving DecidableEq, Repr, Inhabited

/-- The intent descriptor of an OPEN frame (R63, R124; 11.4). -/
structure OpenDesc where
  seq : Nat
  /-- 1 PUT, 2 DELETE, 3 META. -/
  kind : Nat
  keyLen : Nat
  key : List Byte
  tag : Word32
  bucket : Word32
  keyHash : Word64
  stamp : Word64
  payloadLen : Nat
  digest : Word32
  deriving DecidableEq, Repr, Inhabited

/-- R172, R173: which read of a payload brings its data: the fetch's intent, the port it reads through, and the number of the
read (log 37). -/
structure ReadName where
  seq : Nat
  port : PortId
  number : Nat
  deriving DecidableEq, Repr, Inhabited

/-- What a start will find of the array (R191, R193; log 24): the pages (segment, page) whose read fails its CRC, and the
segments whose erase fails its verify. -/
structure StartMedia where
  unreadable : List (Nat × Nat)
  eraseFails : List Nat
  deriving DecidableEq, Repr, Inhabited

/-- The commands of the block, in the order of spec/opcode_table.json. -/
inductive Instr where
  | commandPosted (at_ : Time) (p : PortId) (r : CmdRec)
  | responseRemoved (at_ : Time) (p : PortId)
  | unknownCommandKind (at_ : Time) (p : PortId) (cid : Word32) (code : Nat)
  | append (at_ : Time) (p : PortId) (cid : Word32) (b : AppendBody)
  | flush (at_ : Time) (p : PortId) (cid : Word32) (delay : Nat)
  | readJournal (at_ : Time) (p : PortId) (cid : Word32) (seq addr : Nat)
  | journalRecordWriteDone (at_ : Time) (p : PortId)
  | commitTimerExpiry
  | pageProgramComplete (at_ : Time) (ok : Bool)
  | checkpointTimerExpiry
  | pageReadComplete (at_ : Time) (ok : Bool)
  | eraseSuspendComplete (at_ : Time)
  | eraseComplete (at_ : Time) (ok : Bool)
  | holdDeadlineExpiry (seq : Nat)
  | setPlacement (at_ : Time) (p : PortId) (cid : Word32) (b : SetPlacementBody)
  | readPlacement (at_ : Time) (p : PortId) (cid : Word32) (b : ReadPlacementBody)
  | setPlacementMode (at_ : Time) (p : PortId) (cid : Word32) (b : SetModeBody)
  | release (at_ : Time) (p : PortId) (cid : Word32) (seq : Nat)
  | deny (at_ : Time) (p : PortId) (cid : Word32) (seq : Nat)
  | queryKey (at_ : Time) (p : PortId) (cid : Word32) (q : KeyQuery)
  | attachSite (at_ : Time) (p : PortId) (cid : Word32) (b : AttachSiteBody)
  | detachSite (at_ : Time) (p : PortId) (cid : Word32) (slot : Nat)
  | fenceSite (at_ : Time) (p : PortId) (cid : Word32) (slot : Nat)
  | unfenceSite (at_ : Time) (p : PortId) (cid : Word32) (slot : Nat)
  | rejoinSite (at_ : Time) (p : PortId) (cid : Word32) (slot : Nat)
  | rewindSite (at_ : Time) (p : PortId) (cid : Word32) (slot target : Nat)
  | readSite (at_ : Time) (p : PortId) (cid : Word32) (slot : Option Nat)
  | helloReceived (at_ : Time) (sp : SpanId) (h : FrameHdr) (expected : Nat)
  | helloAckReceived (at_ : Time) (sp : SpanId) (h : FrameHdr) (answered : Nat)
  | probeTimerExpiry (j : SlotId)
  | openReceived (at_ : Time) (sp : SpanId) (h : FrameHdr) (frameLen : Nat) (desc : OpenDesc)
  | carryReceived (at_ : Time) (sp : SpanId) (h : FrameHdr) (seq chunk : Nat) (data : List Byte)
  | receiptReceived (at_ : Time) (sp : SpanId) (h : FrameHdr) (entries : List (Nat × Nat))
  | gapReceived (at_ : Time) (sp : SpanId) (h : FrameHdr) (seq : Nat) (ranges : List (Nat × Nat))
  | busyReceived (at_ : Time) (sp : SpanId) (h : FrameHdr) (seq : Nat)
  | busyPauseExpiry (j : SlotId)
  | retryDeadlineExpiry (j : SlotId) (seq : Nat)
  | frameTransmitted (at_ : Time) (sp : SpanId)
  | pacingGrant (g : GenId)
  | setGenerator (at_ : Time) (p : PortId) (cid : Word32) (b : SetGeneratorBody)
  | setSitePacing (at_ : Time) (p : PortId) (cid : Word32) (b : SetSitePacingBody)
  | queryIntent (at_ : Time) (p : PortId) (cid : Word32) (seq : Nat)
  | silenceTimerExpiry (arrival : Nat)
  | postLanding (at_ : Time) (p : PortId) (cid : Word32) (id addr capacity : Nat)
  | landingWriteComplete (at_ : Time) (p : PortId)
  | stored (at_ : Time) (p : PortId) (cid : Word32) (arrival outcome : Nat)
  | readInbound (at_ : Time) (p : PortId) (cid : Word32) (arrival : Nat)
  | guardLineChange (at_ : Time) (asserted : Bool)
  | guardSettlingExpiry
  | guardOn (at_ : Time) (p : PortId) (cid : Word32)
  | guardOff (at_ : Time) (p : PortId) (cid : Word32)
  | setGuardMap (at_ : Time) (p : PortId) (cid : Word32) (map : Word64)
  | setPressureLimits (at_ : Time) (p : PortId) (cid : Word32) (lowWatermark criticalReserve : Nat)
  | readSegments (at_ : Time) (p : PortId) (cid : Word32) (segment : Option Nat)
  | attachPort (at_ : Time) (p : PortId) (cid : Word32)
  | detachPort (at_ : Time) (p : PortId) (cid : Word32)
  | fencePort (at_ : Time) (p : PortId) (cid : Word32) (port : Nat)
  | unfencePort (at_ : Time) (p : PortId) (cid : Word32) (port : Nat)
  | readStatus (at_ : Time) (p : PortId) (cid : Word32)
  | clearFaults (at_ : Time) (p : PortId) (cid : Word32) (kinds : Byte)
  | setNoticeMask (at_ : Time) (p : PortId) (cid : Word32) (settings : List Nat)
  | functionReset (at_ : Time) (p : PortId)
  | fetchReadComplete (at_ : Time) (read : ReadName) (data : List Byte)
  | fetchTimeout (seq : Nat)
  | setLocalSite (at_ : Time) (p : PortId) (cid : Word32) (site : Nat)
  | powerWarnAssert (at_ : Time)
  | resetLineAssert (at_ : Time)
  | powerWarnDeassert (at_ : Time)
  | resetLineDeassert (at_ : Time)
  | backupCellLow (at_ : Time)
  | powerUp (at_ : Time) (media : StartMedia)
  | startEnd (at_ : Time)
  | noticeRemoved (at_ : Time) (p : PortId)
  | powerLoss (at_ : Time)
  | badFrame (at_ : Time) (sp : SpanId) (bytes : List Byte)
  deriving DecidableEq, Repr, Inhabited

end Sys2Proof
end

