-- ==== Sys2Proof/Decode.lean ====
section
/-!
DEFINITION. The command that a word of the opcode table spells. No row of spec/opcode_table.json gives bits, so no word
spells a command.
-/

namespace Sys2Proof

/-- The rows of the opcode table give no bits. -/
def decodeTableWord (_nbits _w : Nat) : Option Instr := none

end Sys2Proof
end

