-- ==== Sys2Proof/Config.lean ====
section
/-!
DEFINITION. The values the manual leaves open. Each is an opaque constant: no proof can know its value, and a statement
holds whatever it is.
-/

namespace Sys2Proof

/-- R185: "a check value over the retained tables". The manual does not give the function (log 21). -/
opaque Config.checkWord {α : Type} : α → Word32

/-- R185 asks whether the backup cell is above its threshold. The table reports its fall (BACKUP_CELL_LOW) and not its
recovery, so after a fall its level at the n-th question is open (log 22). -/
opaque Config.cellRecovered : Nat → Bool

/-- R53, R58: the outcome that the answer of a RELEASE carries when a failed read resolved the intent before the DECISION
record's page passed (log 23). The argument is the intent's sequence; 1 to 3 stand for LIVE, UNINDEXED and STALE. -/
opaque Config.voidReleaseOutcome : Nat → Nat

/-- 11.3: the contents of a SETTINGS record are named and not laid out: the byte of the settings at an offset from 4 on
(log 49). -/
opaque Config.settingsByte {α : Type} : α → Nat → Byte

end Sys2Proof
end

