-- ==== Sys2Proof/Machine/State.lean ====
section
/-!
DEFINITION. The state of the part: every piece of state the manual names (INVENTORY.md, "State"), as plain data, and the
state after reset.

`Dev` is the part. `State` is the part with the queue of the commands that wait. A field marked MODEL is the model's own.
-/

namespace Sys2Proof.Machine

/-! ## Names -/

/-- R184. -/
inductive PartState where
  | starting | ready | quiescing
  deriving DecidableEq, Repr, Inhabited

/-- R184: how a start obtained the part's state. -/
inductive StartKind where
  | first | warm | cold
  deriving DecidableEq, Repr, Inhabited

/-- How far a quiesce has come (R187, R189). `idle`: none has begun; `placing`: steps 1 to 3 of R187; `frontierPlaced`:
step 4; `shutdownPlaced`: step 5 waits for the page; `complete`: R188; `returning`: R189 has ended it, and the RESUME
record's page is awaited. -/
inductive QuiescePhase where
  | idle | placing | frontierPlaced | shutdownPlaced | complete | returning
  deriving DecidableEq, Repr, Inhabited

/-- R2. -/
inductive SegState where
  | blank | filling | full | reclaiming | suspended | damaged | retired
  deriving DecidableEq, Repr, Inhabited

/-- R12. -/
inductive BufState where
  | empty | filling | programming
  deriving DecidableEq, Repr, Inhabited

/-- R12: the two staging buffers. -/
inductive BufId where
  | a | b
  deriving DecidableEq, Repr, Inhabited

/-- R7. -/
inductive IntentKind where
  | put | delete | metadata
  deriving DecidableEq, Repr, Inhabited

/-- R61. -/
inductive SiteState where
  | detached | probing | active | stalled | fenced | evicted
  deriving DecidableEq, Repr, Inhabited

/-- The new state of a SITE-EVENT record (R79, 11.3): a slot state, or REWIND. -/
inductive EventState where
  | state (s : SiteState)
  | rewind
  deriving DecidableEq, Repr, Inhabited

/-- R79. -/
inductive SiteCause where
  | command | probeAnswered | retriesExhausted | eviction | peerRestart
  deriving DecidableEq, Repr, Inhabited

/-- R51: a decision on a held intent; also the expiry action of R43. -/
inductive Decision where
  | released | denied
  deriving DecidableEq, Repr, Inhabited

/-- R48. -/
inductive DecisionCause where
  | command | expiry
  deriving DecidableEq, Repr, Inhabited

/-- R52, R58. -/
inductive ReleaseOutcome where
  | live | unindexed | stale
  deriving DecidableEq, Repr, Inhabited

/-- R111. -/
inductive SkipReason where
  | superseded | stale | evicted | detached | denied
  deriving DecidableEq, Repr, Inhabited

/-- R111: a site mark. -/
inductive Mark where
  | pending | inFlight | acked | skipped (r : SkipReason) | failed
  deriving DecidableEq, Repr, Inhabited

/-- R32. -/
inductive Unindexed where
  | setFull | countFull | collision | unreadable | race
  deriving DecidableEq, Repr, Inhabited

/-- R107. -/
inductive StagedOutcome where
  | live | unindexed | stale | held | overflowDenied
  deriving DecidableEq, Repr, Inhabited

/-- R116. -/
inductive Verdict where
  | durable | superseded | shortfall
  deriving DecidableEq, Repr, Inhabited

/-- R60. -/
inductive PaceMode where
  | paced | unpaced
  deriving DecidableEq, Repr, Inhabited

/-- R164. -/
inductive PortState where
  | offline | online | fenced | lost
  deriving DecidableEq, Repr, Inhabited

/-- R165. -/
inductive PortCause where
  | command | fence | fetchTimeout | functionReset
  deriving DecidableEq, Repr, Inhabited

/-- R176. -/
inductive FaultKind where
  | journalMedia | retentionLost | queueOverrun | stall | overrun | digest | protocol
  deriving DecidableEq, Repr, Inhabited

/-- R176: what a latch is about. A slot carries its site number. -/
inductive FaultScope where
  | part
  | port (p : PortId)
  | slot (j : SlotId) (site : Option Nat)
  deriving DecidableEq, Repr, Inhabited

/-- 9.7, in the order of the table. -/
inductive Status where
  | starting | fenced | notAttached | done | accepted | stale | held | notPlaced | journalFull | badStamp | badField
  | notFound | wrongState | guardLine
  deriving DecidableEq, Repr, Inhabited

/-- R63: the outcome of a RECEIPT entry. -/
inductive ReceiptOutcome where
  | stored | supersededAtPeer | refused
  deriving DecidableEq, Repr, Inhabited

/-- R124: the states of an entry of the arrival list. -/
inductive ArrivalState where
  | assembling | waitingLanding | delivering | delivered
  deriving DecidableEq, Repr, Inhabited

/-- R124. -/
inductive LocalCompare where
  | newer | older | none
  deriving DecidableEq, Repr, Inhabited

/-- R156. -/
inductive PressureLevel where
  | normal | low | critical
  deriving DecidableEq, Repr, Inhabited

/-- R157. -/
inductive BlockCause where
  | guard | held | notEvictable
  deriving DecidableEq, Repr, Inhabited

/-- R163: what holds a FULL segment back. -/
inductive HeldBack where
  | eligible | guard | held | unresolved | control
  deriving DecidableEq, Repr, Inhabited

/-! ## Stored settings (what a SETTINGS record carries, R8) -/

/-- R42. "Site set or ALL-SITES" is a flag beside a set of slots; with the flag on the set is kept, reported and compared
too (log 51). -/
structure PlacementEntry where
  enabled : Bool := false
  bucket : Word32 := 0
  mask : Word32 := 0
  allSites : Bool := false
  slots : SlotSet := 0
  quorum : Nat := 1
  hold : Bool := false
  deriving DecidableEq, Repr, Inhabited

/-- R43. -/
structure PlacementMode where
  strict : Bool := true
  mirrorAll : Bool := false
  defaultQuorum : Nat := 1
  /-- seconds -/
  holdLimit : Nat := 30
  expiryAction : Decision := .denied
  deriving DecidableEq, Repr, Inhabited

/-- R89, the stored part of a generator. -/
structure GenSettings where
  enable : Bool := false
  rate : Nat := 1
  period : Nat := 1000
  deriving DecidableEq, Repr, Inhabited

/-- R60, the configuration part of a slot, with the fence and eviction marks of R79. The defaults are the DETACHED
values; `site` is none exactly in a slot that holds no configuration. -/
structure SiteConfig where
  site : Option Nat := none
  spanPort : SpanId := 0
  generator : Fin 4 := 0
  share : Nat := 0
  mode : PaceMode := .paced
  lend : Bool := false
  maxWindow : Nat := 65536
  evictable : Bool := false
  fenceMark : Bool := false
  evictMark : Bool := false
  deriving DecidableEq, Repr, Inhabited

/-- Every stored setting. The defaults are the values of a FIRST start (R18, R42, R43, R60, R89, R150, R177, R191). -/
structure Settings where
  localSite : Option Nat := none
  commitDelay : Nat := 200
  placement : Vector PlacementEntry 48 := Vector.replicate 48 {}
  mode : PlacementMode := {}
  gens : Vector GenSettings 8 := Vector.replicate 8 {}
  sites : Vector SiteConfig 8 := Vector.replicate 8 {}
  guardMap : Word64 := 0
  lowWatermark : Nat := 128
  criticalReserve : Nat := 32
  portFence : Vector Bool 4 := Vector.replicate 4 false
  /-- bit k admits the k-th kind of R176. -/
  masks : Vector (BitVec 7) 4 := Vector.replicate 4 127
  deriving DecidableEq, Repr, Inhabited

/-! ## The journal -/

/-- R7. The key length is the length of `key`; `entry` none is "mirror". -/
structure IntentRec where
  seq : Seq
  kind : IntentKind
  origin : PortId
  tag : Word32
  bucket : Word32
  keyHash : Word64
  key : List Byte
  stamp : Word64
  payloadLen : Nat
  locator : Nat
  digest : Word32
  entry : Option Nat
  siteSet : SlotSet
  quorum : Nat
  held : Bool
  deriving DecidableEq, Repr, Inhabited

/-- R7, R8: the records of the journal. -/
inductive Rec where
  | intent (r : IntentRec)
  | settings (c : Settings)
  | frontier (slots : Vector (SiteState × Option Nat) 8)
  | decision (seq : Seq) (d : Decision)
  | siteEvent (j : SlotId) (st : EventState) (target : Nat)
  | shutdown (count : Nat)
  | resume (count : Nat)
  deriving DecidableEq, Repr, Inhabited

/-- MODEL: names one taken command of a port (log 8). -/
structure Tok where
  port : PortId
  id : Nat
  deriving DecidableEq, Repr, Inhabited

/-- A record in a staging buffer, and the command that is answered when it passes (R14), if any. -/
structure Staged where
  item : Rec
  owner : Option Tok := none
  deriving DecidableEq, Repr, Inhabited

/-- R12. -/
structure Buffer where
  state : BufState := .empty
  recs : List Staged := []
  deriving DecidableEq, Repr, Inhabited

/-- R4: a programmed page. Its header follows from the position and the records, the CRC included (pageBytes); `crcOk` says
that the page reads with that CRC (log 48). A page whose program failed or was torn holds no records (log 11). -/
structure Page where
  num : Nat
  pos : Nat
  recs : List Rec
  crcOk : Bool
  deriving DecidableEq, Repr, Inhabited

/-- R1: a segment with its per-segment record. -/
structure Segment where
  state : SegState := .blank
  eraseCount : Nat := 0
  failed : List Nat := []
  pages : List Page := []
  deriving DecidableEq, Repr, Inhabited

/-- R21: a FLUSH in progress, and the buffers it waits for. -/
structure FlushWait where
  tok : Tok
  a : Bool
  b : Bool
  deriving DecidableEq, Repr, Inhabited

/-- The staging block and the journal's counters (R9 to R15). -/
structure Journal where
  bufA : Buffer := {}
  bufB : Buffer := {}
  /-- R14: the buffers in PROGRAMMING, in the order in which they entered it. -/
  progQ : List BufId := []
  /-- R12 case 3: the buffer that held the most recently programmed page. -/
  lastProg : Option BufId := none
  /-- R13: when the commit timer is due; none when it is stopped. -/
  commitDue : Option Time := none
  /-- R11: the control queue. -/
  ctrlQ : List Rec := []
  nextPos : Nat := 1
  nextSeq : Seq := 1
  /-- R9, R193: the ranges of sequences that COLD starts passed over, newest first. -/
  passedOver : List (Seq × Seq) := []
  /-- R6: the page positions of the cached pages, ascending (log 9). -/
  tailCache : List Nat := []
  progFails : Nat := 0
  consecFails : Nat := 0
  flushes : List FlushWait := []
  deriving DecidableEq, Repr, Inhabited

/-- Who asked for an array read (R17, R27, R41, R68, R23, R133). -/
inductive Requester where
  | lookup (p : PortId) (id : Nat)
  | queryKey (t : Tok) (q : KeyQuery) (way creation : Nat)
  | readJournal (t : Tok) (seq addr : Nat)
  | dispatch (j : SlotId) (seq : Seq)
  | arrival (id way creation : Nat)
  deriving DecidableEq, Repr, Inhabited

/-- R16: a waiting read of one page, for one record of it. -/
structure ReadReq where
  seg : Nat
  page : Nat
  /-- the sequence of the record that the requester wants -/
  seq : Seq
  who : Requester
  deriving DecidableEq, Repr, Inhabited

/-- R16: the operation the array performs. -/
inductive ArrayOp where
  | program (buf : BufId) (seg page pos : Nat)
  | read (r : ReadReq)
  | erase (seg : Nat)
  /-- the suspension of the erase of this segment is in progress -/
  | suspending (seg : Nat)
  deriving DecidableEq, Repr, Inhabited

/-- The journal array and its arbiter (R1, R16). A segment that is not listed is BLANK with `baseErase` erasures, no
failed page and no page (log 5). -/
structure ArrayBlk where
  segs : List (Nat × Segment) := []
  baseErase : Nat := 0
  op : Option ArrayOp := none
  suspended : Option Nat := none
  reads : List ReadReq := []
  deriving DecidableEq, Repr, Inhabited

/-! ## Key index (R24) -/

structure KeyEntry where
  bucket : Word32
  keyHash : Word64
  keyLen : Nat
  creation : Seq
  /-- the live sequence and the live stamp, present or absent together -/
  live : Option (Seq × Word64)
  count : Nat
  deriving DecidableEq, Repr, Inhabited

structure KeyIndex where
  /-- by way: set × 8 + way number; a way that is not listed is free -/
  ways : List (Nat × KeyEntry) := []
  setFull : Nat := 0
  countFull : Nat := 0
  collision : Nat := 0
  unreadable : Nat := 0
  race : Nat := 0
  deriving DecidableEq, Repr, Inhabited

/-- R27: the result part of a key lookup's outcome. -/
inductive LookupResult where
  | matched | collision | unreadable
  deriving DecidableEq, Repr, Inhabited

/-- R27: the outcome of a key lookup. -/
inductive Outcome27 where
  | none
  | found (way creation : Nat) (r : LookupResult)
  deriving DecidableEq, Repr, Inhabited

/-- R27: the lookup of a port's head APPEND. -/
inductive Lookup where
  | reading (id way creation : Nat)
  | known (o : Outcome27)
  deriving DecidableEq, Repr, Inhabited

/-! ## Held intents (R48) -/

inductive HeldState where
  | staged
  /-- the deadline; none while it is stopped (R54) -/
  | waiting (due : Option Time)
  | deciding (d : Decision) (c : DecisionCause)
  deriving DecidableEq, Repr, Inhabited

structure HeldEntry where
  seq : Seq
  state : HeldState
  deriving DecidableEq, Repr, Inhabited

structure HeldList where
  entries : List HeldEntry := []
  overflow : Nat := 0
  deriving DecidableEq, Repr, Inhabited

/-! ## Status array (R107) -/

structure Slot where
  /-- WRITTEN, else STAGED; a FREE slot is not listed -/
  written : Bool
  origin : PortId
  tag : Word32
  marks : List (SlotId × Mark)
  quorum : Nat
  outcome : StagedOutcome
  pendingSup : Option Seq := none
  supersededBy : Option Seq := none
  /-- the key index way (log 13) -/
  link : Option Nat := none
  held : Bool := false
  /-- the reason decided at staging, applied at the write (R109) -/
  stagedReason : Option Unindexed := none
  unindexed : Option Unindexed := none
  fetchBlocked : Bool := false
  digestRetried : Option PortId := none
  holdOverflow : Bool := false
  verdict : Option Verdict := none
  deriving DecidableEq, Repr, Inhabited

/-- R120: the 250 ms checkpoint timer. -/
inductive Checkpoint where
  | stopped | running (due : Time) | expired
  deriving DecidableEq, Repr, Inhabited

structure StatusArray where
  /-- by sequence, ascending; the slot of sequence s is the slot numbered s modulo 4,194,304 (R107, log 10) -/
  slots : List (Seq × Slot) := []
  durable : Nat := 0
  superseded : Nat := 0
  shortfall : Nat := 0
  frontierChanged : Bool := false
  resolutions : Nat := 0
  checkpoint : Checkpoint := .stopped
  lastFrontier : Option Time := none
  deriving DecidableEq, Repr, Inhabited

/-! ## Site table, running part (R60) -/

/-- R68: an intent being prepared. `record` is its record, once read. -/
structure Candidate where
  seq : Seq
  record : Option IntentRec := none
  reading : Bool := false
  deriving DecidableEq, Repr, Inhabited

/-- R72. `record` is the record its dispatcher read (MODEL, log 34). -/
structure InFlight where
  seq : Seq
  size : Nat
  firstSend : Time
  lastSend : Option Time := none
  retries : Nat := 0
  deadline : Option Time := none
  sentOnce : Bool := true
  record : IntentRec
  deriving DecidableEq, Repr, Inhabited

/-- R70: one frame of a send. -/
inductive Piece where
  | opening
  | chunk (k : Nat)
  deriving DecidableEq, Repr, Inhabited

/-- R70: the send in progress: the frames not yet handed over. -/
structure Send where
  seq : Seq
  pieces : List Piece
  deriving DecidableEq, Repr, Inhabited

/-- R70, R73, R75: a resend that is due; no chunks listed means the whole intent. -/
structure Resend where
  seq : Seq
  chunks : Option (List Nat)
  deriving DecidableEq, Repr, Inhabited

/-- R60, the running part of a slot; the defaults are the FIRST column of R62, whose cursor is a dash: it is 0 (log 5). -/
structure Site where
  state : SiteState := .detached
  cursor : Seq := 0
  frontier : Option Seq := none
  candidates : List Candidate := []
  inFlight : List InFlight := []
  credit : Int := 0
  /-- srtt and rttvar, or no sample (R98) -/
  rtt : Option (Int × Int) := none
  busyCount : Nat := 0
  busyEnd : Option Time := none
  probeCount : Nat := 0
  probeDue : Option Time := none
  peerStart : Option Nat := none
  stall : Bool := false
  overrun : Bool := false
  digest : Bool := false
  protocol : Bool := false
  duplicates : Nat := 0
  stale : Nat := 0
  framesSent : Nat := 0
  bytesSent : Nat := 0
  send : Option Send := none
  resends : List Resend := []
  deriving DecidableEq, Repr, Inhabited

/-! ## Span ports (R63) -/

inductive FrameBody where
  | hello (expected : Nat)
  | helloAck (answered : Nat)
  | opening (d : OpenDesc)
  | carry (seq chunk : Nat) (data : List Byte)
  | receipt (entries : List (Seq × ReceiptOutcome))
  | gap (seq : Nat) (ranges : List (Nat × Nat))
  | busy (seq : Nat)
  deriving DecidableEq, Repr, Inhabited

/-- A frame the part sends: the header fields it fills and the body. -/
structure Frame where
  sender : Nat
  receiver : Nat
  start : Nat
  body : FrameBody
  deriving DecidableEq, Repr, Inhabited

/-- One span port. -/
structure SpanPort where
  sending : Option Frame := none
  ctrlQ : List Frame := []
  lastServed : SlotId := 7
  badFrames : Nat := 0
  deriving DecidableEq, Repr, Inhabited

/-- R89, the running part of a generator. -/
structure GenRun where
  due : Option Time := none
  lastPool : Int := 0
  lastDiscarded : Int := 0
  deriving DecidableEq, Repr, Inhabited

/-! ## Fetch unit (R171, R172) -/

structure FetchReq where
  seq : Seq
  origin : PortId
  len : Nat
  locator : Nat
  digest : Word32
  deriving DecidableEq, Repr, Inhabited

structure Fetch where
  req : FetchReq
  port : PortId
  started : Time
  /-- a read is in progress; false after a quiesce abandoned it (R186) -/
  reading : Bool
  /-- the port of the first mismatch; the mismatch count is 1 when it is present -/
  mismatch : Option PortId
  /-- MODEL: the number of the read (log 37) -/
  read : Nat
  deriving DecidableEq, Repr, Inhabited

structure CacheEntry where
  seq : Seq
  data : List Byte
  deriving DecidableEq, Repr, Inhabited

structure FetchUnit where
  queue : List FetchReq := []
  active : List Fetch := []
  /-- least recently used first -/
  cache : List CacheEntry := []
  timeouts : Nat := 0
  mismatches : Nat := 0
  fetchFailed : Nat := 0
  /-- MODEL: the number of the next read (log 37) -/
  nextRead : Nat := 0
  deriving DecidableEq, Repr, Inhabited

/-! ## Inbound unit (R124, R125) -/

/-- R134. -/
structure Landing where
  id : Nat
  addr : Nat
  capacity : Nat
  deriving DecidableEq, Repr, Inhabited

/-- R124: the lookup result of a complete arrival. -/
inductive ArrivalLookup where
  | absent | pending | none | found (way creation : Nat)
  deriving DecidableEq, Repr, Inhabited

structure Arrival where
  id : Nat
  slot : SlotId
  desc : OpenDesc
  kind : IntentKind
  /-- R125: the number of blocks reserved -/
  blocks : Nat
  /-- chunk index and bytes, ascending -/
  chunks : List (Nat × List Byte) := []
  gaps : Nat := 0
  silenceDue : Option Time := none
  state : ArrivalState := .assembling
  lookup : ArrivalLookup := .absent
  compare : Option LocalCompare := none
  /-- R133: the completion order; 0 until the entry is in WAITING_LANDING (log 83) -/
  order : Nat := 0
  delivery : Option (PortId × Landing) := none
  attempt : Nat := 0
  heldReceipt : Option (SlotId × Seq) := none
  deriving DecidableEq, Repr, Inhabited

/-- R125. -/
structure DoneEntry where
  slot : SlotId
  seq : Seq
  outcome : ReceiptOutcome
  deriving DecidableEq, Repr, Inhabited

/-- R142: the counts that READ INBOUND reports. -/
structure InboundCounts where
  doneHits : Nat := 0
  repeats : Nat := 0
  displaced : Nat := 0
  answeredAtOnce : Nat := 0
  listFull : Nat := 0
  arenaFull : Nat := 0
  pressureNotices : Nat := 0
  gapReports : Nat := 0
  dropped : Nat := 0
  orphans : Nat := 0
  duplicates : Nat := 0
  digestRefusals : Nat := 0
  deliveries : Nat := 0
  returned : Nat := 0
  raised : Nat := 0
  withheld : Nat := 0
  notReady : Nat := 0
  deriving DecidableEq, Repr, Inhabited

structure Inbound where
  arrivals : List Arrival := []
  done : List DoneEntry := []
  nextId : Nat := 1
  /-- R133: counts without a bound (log 83) -/
  nextOrder : Nat := 0
  lastPort : PortId := 3
  lastPressure : Option Time := none
  refusals : Nat := 0
  counts : InboundCounts := {}
  /-- MODEL: the receipts raised in this event, in the order in which they were raised (R126) -/
  raised : List (SlotId × Seq × ReceiptOutcome) := []
  deriving DecidableEq, Repr, Inhabited

/-- A DMA write in progress to a port's memory (R23, R136): a READ JOURNAL names its command. -/
structure DmaWrite where
  port : PortId
  addr : Nat
  data : List Byte
  journal : Option (Tok × Nat × Bool)
  deriving DecidableEq, Repr, Inhabited

/-! ## Reclaim and guards (R146, R151) -/

inductive Engine where
  | idle | waiting (seg : Nat) | erasing (seg : Nat)
  deriving DecidableEq, Repr, Inhabited

structure Reclaim where
  engine : Engine := .idle
  armed : Bool := false
  lastBlocked : Option (BlockCause × Option Nat) := none
  erased : Nat := 0
  suspensions : Nat := 0
  withdrawn : Nat := 0
  eraseFails : Nat := 0
  wear : Nat := 0
  evictions : Nat := 0
  pressureNotices : Nat := 0
  deriving DecidableEq, Repr, Inhabited

structure Guard where
  software : Bool := false
  filtered : Bool := true
  raw : Bool := false
  settleDue : Option Time := none
  deriving DecidableEq, Repr, Inhabited

/-! ## Records the ports see (chapter 11) -/

/-- R196: what the START notice of the most recent start carries beside the kind and the start count. It is taken when the
start ends and does not change before the next one. -/
structure StartInfo where
  site : Option Nat := none
  damaged : Nat := 0
  retentionLost : Bool := false
  scanStart : Option Seq := none
  scannedTail : Option Seq := none
  passedOver : Option (Seq × Seq) := none
  badPages : Nat := 0
  heldAgain : Nat := 0
  noticesDropped : Nat := 0
  deriving DecidableEq, Repr, Inhabited

structure NoticeRoute where
  seq : Seq
  tag : Word32
  origin : PortId
  deriving DecidableEq, Repr, Inhabited

/-- The bodies of the notice kinds, in the order of their codes (11.2). -/
inductive NoticeBody where
  | durable (r : NoticeRoute) (acked quorum : Nat)
  | superseded (r : NoticeRoute) (acked quorum : Nat) (by_ : Seq)
  | shortfall (r : NoticeRoute) (acked quorum : Nat) (closed : List (SlotId × Mark))
  | held (r : NoticeRoute) (bucket : Word32) (entry : Option Nat) (limit : Nat)
  | holdExpired (r : NoticeRoute) (d : Decision)
  | delivered (arrival attempt landing site : Nat) (seq : Seq) (kind : IntentKind) (bucket : Word32) (len : Nat)
      (c : LocalCompare)
  | fetchFailed (r : NoticeRoute) (first second : PortId)
  | siteState (j : SlotId) (site : Option Nat) (old new : SiteState) (c : SiteCause)
  | portState (p : PortId) (old new : PortState) (c : PortCause)
  | lowWatermark (f h : Int) (level : PressureLevel) (lw cr : Nat)
  | blocked (f h : Int) (level : PressureLevel) (lw cr : Nat) (cause : BlockCause) (seg group : Option Nat)
      (heldSeq : Option Seq) (slot : Option SlotId)
  | inboundPressure (listFull arenaFull : Bool) (refusals places blocks : Nat)
  | fault (k : FaultKind) (sc : FaultScope)
  | start (kind : StartKind) (count : Nat) (info : StartInfo)
  deriving DecidableEq, Repr, Inhabited

structure Notice where
  number : Nat
  redirected : Bool
  body : NoticeBody
  deriving DecidableEq, Repr, Inhabited

/-- R22. -/
structure JournalSummary where
  tail : Int
  next : Seq
  lowest : Seq
  filling : Option (Nat × Nat)
  segCounts : List Nat
  bufA : BufState × Nat
  bufB : BufState × Nat
  ctrl : Nat
  progFails : Nat
  media : Bool
  deriving DecidableEq, Repr, Inhabited

/-- R88, one slot. -/
structure SiteReport where
  config : SiteConfig
  state : SiteState
  cursor : Seq
  frontier : Option Seq
  candidates : Nat
  inFlight : Nat
  inFlightBytes : Nat
  window : Nat
  credit : Int
  rtt : Option (Int × Int × Int)
  busyCount : Nat
  busyEnd : Option Time
  probeCount : Nat
  peerStart : Option Nat
  stall : Bool
  overrun : Bool
  digest : Bool
  protocol : Bool
  duplicates : Nat
  stale : Nat
  framesSent : Nat
  bytesSent : Nat
  oldest : Option (Seq × Nat × Option Time)
  deriving DecidableEq, Repr, Inhabited

/-- R88, ALL: one slot. -/
structure SiteLine where
  site : Option Nat
  state : SiteState
  frontier : Option Seq
  stall : Bool
  overrun : Bool
  digest : Bool
  protocol : Bool
  deriving DecidableEq, Repr, Inhabited

/-- R104. -/
structure GenReport where
  settings : GenSettings
  grant : Nat
  members : Nat
  w : Nat
  d : Nat
  lastPool : Int
  lastDiscarded : Int
  deriving DecidableEq, Repr, Inhabited

/-- R122. -/
structure StatusSummary where
  lowest : Seq
  tail : Int
  next : Seq
  staged : Nat
  written : Nat
  unresolved : Nat
  unresolvedHeld : Nat
  unresolvedBlocked : Nat
  frontiers : List (SlotId × Seq)
  verdicts : Nat × Nat × Nat
  resolutions : Nat
  frontierChanged : Bool
  sinceFrontier : Option Nat
  deriving DecidableEq, Repr, Inhabited

/-- R123, case 4. -/
structure IntentReport where
  written : Bool
  origin : PortId
  tag : Word32
  marks : List (SlotId × Mark)
  quorum : Nat
  acked : Nat
  openMarks : Nat
  outcome : StagedOutcome
  held : Bool
  unindexed : Option Unindexed
  fetchBlocked : Bool
  digestRetried : Bool
  holdOverflow : Bool
  resolved : Bool
  verdict : Option Verdict
  supersededBy : Option Seq
  deriving DecidableEq, Repr, Inhabited

/-- R142, the summary. -/
structure InboundSummary where
  assembling : Nat
  waiting : Nat
  delivering : Nat
  delivered : Nat
  freePlaces : Nat
  freeBlocks : Nat
  done : Nat
  landings : List Nat
  lastPort : PortId
  counts : InboundCounts
  deriving DecidableEq, Repr, Inhabited

/-- R142, one entry. -/
structure ArrivalReport where
  id : Nat
  slot : SlotId
  seq : Seq
  kind : IntentKind
  bucket : Word32
  keyHash : Word64
  keyLen : Nat
  stamp : Word64
  payloadLen : Nat
  digest : Word32
  tag : Word32
  blocks : Nat
  chunks : Nat
  lowestMissing : Option Nat
  gaps : Nat
  silenceDue : Option Time
  state : ArrivalState
  lookup : ArrivalLookup
  compare : Option LocalCompare
  order : Nat
  delivery : Option (PortId × Landing)
  attempt : Nat
  heldReceipt : Option (Option Nat × Seq)
  deriving DecidableEq, Repr, Inhabited

/-- R163, ALL. -/
structure SegmentsReport where
  f : Nat
  h : Int
  u : Seq
  next : Seq
  level : PressureLevel
  lowWatermark : Nat
  criticalReserve : Nat
  armed : Bool
  lastBlocked : Option (BlockCause × Option Nat)
  engine : Engine
  targetState : Option SegState
  floor : Seq
  topGap : Nat
  floorSegment : Option Nat
  guardMap : Word64
  software : Bool
  raw : Bool
  filtered : Bool
  counts : List Nat
  deriving DecidableEq, Repr, Inhabited

/-- R163, one segment. -/
structure SegmentReport where
  state : SegState
  eraseCount : Nat
  group : Nat
  guarded : Bool
  programmed : Nat
  failed : Nat
  positions : Option (Nat × Nat)
  intents : Option (Seq × Seq)
  heldBack : Option HeldBack
  deriving DecidableEq, Repr, Inhabited

/-- R181, one port. -/
structure PortReport where
  state : PortState
  fence : Bool
  outstanding : Nat
  notices : Nat
  noticeNumber : Nat
  lost : Nat
  timeouts : Nat
  mask : BitVec 7
  deriving DecidableEq, Repr, Inhabited

/-- R181. -/
structure StatusReport where
  part : PartState
  kind : StartKind
  count : Nat
  localSite : Option Nat
  ports : List PortReport
  partLost : Nat
  lastGranted : PortId
  fetching : Nat
  queued : Nat
  cacheUsed : Nat
  cachePinned : Nat
  blocked : Nat
  timeouts : Nat
  mismatches : Nat
  fetchFailed : Nat
  faults : List (FaultKind × FaultScope)
  deriving DecidableEq, Repr, Inhabited

/-- The body of a response record: what the command's rule says the response holds. -/
inductive RespBody where
  | none
  | appendTag (tag : Word32)
  | append (seq : Seq) (tag : Word32) (set : SlotSet) (quorum : Nat)
  | journalSummary (s : JournalSummary)
  | journalRecord (size : Nat) (programmed : Bool)
  | placementEntry (e : PlacementEntry)
  | placementMode (m : PlacementMode) (staged waiting deciding : Nat) (earliest : Option Time) (overflow : Nat)
  | probe (deciding : Option (Option Nat)) (set : SlotSet) (quorum : Nat) (held : Bool)
  | modeSettings (m : PlacementMode)
  | release (o : Option ReleaseOutcome)
  | keySummary (used fullSets setFull countFull collision unreadable race unwritten : Nat)
  | keyEntry (set way creation : Nat) (live : Option (Seq × Word64)) (count : Nat)
  | count (n : Nat)
  | site (r : SiteReport)
  | sites (l : List SiteLine) (bad0 bad1 foreign : Nat)
  | gen (r : GenReport)
  | sitePacing (generator : Fin 4) (share : Nat) (mode : PaceMode) (lend : Bool) (maxWindow : Nat) (credit : Int)
      (window : Nat)
  | statusSummary (s : StatusSummary)
  | intent (r : IntentReport)
  | landings (n : Nat)
  | inboundSummary (s : InboundSummary)
  | arrival (r : ArrivalReport)
  | guardOn (filtered : Bool) (marked : Nat)
  | guardMap (m : Word64)
  | pressure (lw cr : Nat) (l : PressureLevel)
  | segments (r : SegmentsReport)
  | segment (r : SegmentReport)
  | attach (kind : StartKind) (count : Nat) (site : Option Nat) (faults : List (FaultKind × FaultScope))
  | status (r : StatusReport)
  | cleared (done left : List (FaultKind × FaultScope))
  | mask (m : BitVec 7)
  deriving DecidableEq, Repr, Inhabited

/-- A response record (11.2): the kind code, the status, the flags byte (R199), the command ID and the body. -/
structure Response where
  kind : Nat
  status : Status
  flags : Byte
  cid : Word32
  body : RespBody
  deriving DecidableEq, Repr, Inhabited

/-! ## Ports (R164 to R170) -/

/-- R20: the answer of a staged APPEND, as its staging decided it. It stays with the command: when the DECISION record of R50
passes, the intent's segment can have left the chain and its slot can be FREE (R110). -/
structure AppendAnswer where
  seq : Seq
  tag : Word32
  set : SlotSet
  quorum : Nat
  outcome : StagedOutcome
  unindexed : Bool
  overflow : Bool
  deriving DecidableEq, Repr, Inhabited

/-- What the answer of a taken command is made from, when its records have passed. -/
inductive Cont where
  /-- answered by another event, or at once -/
  | none
  | append (a : AppendAnswer)
  | done
  | setPlacement (entry : Nat)
  | setMode
  | release (seq : Seq) (o : Option ReleaseOutcome)
  | count (n : Nat)
  | setGenerator (g : GenId)
  | setSitePacing (j : SlotId)
  | guardMap
  | pressure
  | mask
  deriving DecidableEq, Repr, Inhabited

/-- R166, R167: a command that the port has taken and that is not yet answered. -/
structure Taken where
  id : Nat
  cid : Word32
  kind : Nat
  holds : Bool := true
  /-- its response is to be discarded (R14) -/
  discard : Bool := false
  cont : Cont := .none
  deriving DecidableEq, Repr, Inhabited

structure Port where
  state : PortState := .offline
  cmdQ : List CmdRec := []
  respQ : List Response := []
  noticeQ : List Notice := []
  noticeNumber : Nat := 1
  lost : Nat := 0
  timeouts : Nat := 0
  overrun : Bool := false
  landings : List Landing := []
  lookup : Option Lookup := none
  taken : List Taken := []
  deriving DecidableEq, Repr, Inhabited

/-- R170: what the granted command still has to do. -/
inductive GrantWork where
  /-- an APPEND that is not yet examined (R19), with its lookup's outcome -/
  | examine (b : AppendBody) (o : Outcome27)
  /-- records to be placed (R12); a FLUSH then closes the FILLING buffer (R21) -/
  | place (recs : List Staged) (flush : Bool)
  /-- the DECISION record of an APPEND that found the held list full, placed directly after its intent record (R50) -/
  | second (r : Staged)
  deriving DecidableEq, Repr, Inhabited

structure Grant where
  tok : Tok
  work : GrantWork
  deriving DecidableEq, Repr, Inhabited

structure Intake where
  last : PortId := 3
  grant : Option Grant := none
  deriving DecidableEq, Repr, Inhabited

/-! ## The preservation unit (R184) -/

structure Power where
  powered : Bool := true
  warn : Bool := false
  resetLine : Bool := false
  startCount : Nat := 1
  kind : StartKind := .first
  latch : Bool := false
  /-- R185; 0 before the first quiesce, where the latch is clear (log 21) -/
  checkWord : Word32 := 0
  causePower : Bool := false
  causeReset : Bool := false
  phase : QuiescePhase := .idle
  stopped : Bool := false
  cellLow : Bool := false
  cellReads : Nat := 0
  info : StartInfo := {}
  media : StartMedia := ⟨[], []⟩
  deriving DecidableEq, Repr, Inhabited

/-! ## The part -/

/-- Everything the part holds. -/
structure Dev where
  now : Time := 0
  examined : Bool := false
  nextToken : Nat := 0
  part : PartState := .ready
  power : Power := {}
  settings : Settings := {}
  journal : Journal := {}
  array : ArrayBlk := {}
  index : KeyIndex := {}
  held : HeldList := {}
  status : StatusArray := {}
  sites : Vector Site 8 := Vector.replicate 8 {}
  span : Vector SpanPort 2 := Vector.replicate 2 {}
  foreign : Nat := 0
  gens : Vector GenRun 8 := Vector.replicate 8 {}
  fetch : FetchUnit := {}
  inbound : Inbound := {}
  dma : List DmaWrite := []
  reclaim : Reclaim := {}
  guard : Guard := {}
  ports : Vector Port 4 := Vector.replicate 4 {}
  partLost : Nat := 0
  intake : Intake := {}
  journalMedia : Bool := false
  retentionLost : Bool := false
  deriving DecidableEq, Repr, Inhabited

/-- The block: the part, and the commands that wait, first in, first out. -/
structure State where
  pending : List Instr
  dev : Dev
  deriving DecidableEq, Repr

/-- No command of this block stops it: every rule gives its command an effect. The type is closed, and no meaning raises
its one constructor. -/
inductive Fault where
  /-- Raised by nothing. Safe. -/
  | none
  deriving DecidableEq, Repr

/-- Why a command has no meaning in the model. -/
inductive Refusal where
  /-- Raised by Dispatch for a command that has no meaning yet; safe, the machine stops. -/
  | notModelled (mnemonic : String)
  deriving DecidableEq, Repr

/-- The part when the FIRST start of a factory-new card ends (R18, R38, R54, R62, R121, R139, R150, R177, R191, R196;
log 5): READY, every port OFFLINE, every slot DETACHED, the checkpoint timer and the guard line's settling timer
running. -/
def Dev.reset : Dev where
  array := { baseErase := 1 }
  status := { checkpoint := .running 250000 }
  reclaim := { armed := true }
  guard := { settleDue := some 10000 }

/-- The machine right after reset: the part as above and no command waiting. -/
def State.reset : State where
  pending := []
  dev := Dev.reset

end Sys2Proof.Machine
end

