-- ==== Sys2Proof/Machine/Operands.lean ====
section
/-!
DEFINITION. The operand forms of the commands: what the enumerated codes stand for (R198, R199), the sizes that follow from
a length (R4, R7, R8, R63), and the clamps.
-/

namespace Sys2Proof.Machine

/-! ## Codes -/

/-- R7: PUT, DELETE, META, coded from 1. -/
def intentKindOf : Nat → Option IntentKind
  | 1 => some .put
  | 2 => some .delete
  | 3 => some .metadata
  | _ => none

def intentKindCode : IntentKind → Nat
  | .put => 1
  | .delete => 2
  | .metadata => 3

/-- A setting that a rule tests for being on or off (R104, R105, R183): 1 on, 2 off (log 7). -/
def onOffOf : Nat → Option Bool
  | 1 => some true
  | 2 => some false
  | _ => none

/-- R83: 1 SP0, 2 SP1 (log 7). -/
def spanOf : Nat → Option SpanId
  | 1 => some 0
  | 2 => some 1
  | _ => none

/-- R83, R105: 1 PACED, 2 UNPACED (log 7). -/
def paceModeOf : Nat → Option PaceMode
  | 1 => some .paced
  | 2 => some .unpaced
  | _ => none

/-- R57: 1 RELEASE, 2 DENY (log 7). -/
def expiryActionOf : Nat → Option Decision
  | 1 => some .released
  | 2 => some .denied
  | _ => none

/-- R141: the outcome of a STORED command: 1 STORED, 2 REJECTED (log 7). The receipt of a REJECTED arrival is REFUSED. -/
def storedOutcomeOf : Nat → Option ReceiptOutcome
  | 1 => some .stored
  | 2 => some .refused
  | _ => none

/-- R63: the outcome of a RECEIPT entry. -/
def receiptOutcomeOf : Nat → Option ReceiptOutcome
  | 1 => some .stored
  | 2 => some .supersededAtPeer
  | 3 => some .refused
  | _ => none

def receiptOutcomeCode : ReceiptOutcome → Nat
  | .stored => 1
  | .supersededAtPeer => 2
  | .refused => 3

def slotOf (n : Nat) : Option SlotId := if h : n < 8 then some ⟨n, h⟩ else none

def portOf (n : Nat) : Option PortId := if h : n < 4 then some ⟨n, h⟩ else none

def genOf (n : Nat) : Option GenId := if h : n < 8 then some ⟨n, h⟩ else none

def genIndexOf (n : Nat) : Option (Fin 4) := if h : n < 4 then some ⟨n, h⟩ else none

def entryOf (n : Nat) : Option (Fin 48) := if h : n < 48 then some ⟨n, h⟩ else none

/-- R53, R58 (log 23): the outcome that the free value of Config stands for. -/
def releaseOutcomeOf : Nat → ReleaseOutcome
  | 1 => .live
  | 2 => .unindexed
  | _ => .stale

/-! ## The command summary (9.10) -/

/-- R199: the command kind code is the command's position in the command summary. -/
def kindCode : CmdBody → Nat
  | .append _ => 1
  | .flush _ => 2
  | .readJournal .. => 3
  | .queryKey _ => 4
  | .setPlacement _ => 5
  | .readPlacement _ => 6
  | .setPlacementMode _ => 7
  | .release _ => 8
  | .deny _ => 9
  | .attachSite _ => 10
  | .detachSite _ => 11
  | .fenceSite _ => 12
  | .unfenceSite _ => 13
  | .rejoinSite _ => 14
  | .rewindSite .. => 15
  | .readSite _ => 16
  | .setGenerator _ => 17
  | .setSitePacing _ => 18
  | .queryIntent _ => 19
  | .postLanding .. => 20
  | .stored .. => 21
  | .readInbound _ => 22
  | .guardOn => 23
  | .guardOff => 24
  | .setGuardMap _ => 25
  | .setPressureLimits .. => 26
  | .readSegments _ => 27
  | .attachPort => 28
  | .detachPort => 29
  | .fencePort _ => 30
  | .unfencePort _ => 31
  | .readStatus => 32
  | .clearFaults _ => 33
  | .setNoticeMask _ => 34
  | .setLocalSite _ => 35
  | .unknown c => c

/-- 9.10, "Uses the intake arbiter". -/
def usesArbiter : CmdBody → Bool
  | .append _ | .flush _ | .setPlacement _ | .setPlacementMode _ | .release _ | .deny _ | .attachSite _ | .detachSite _
  | .fenceSite _ | .unfenceSite _ | .rejoinSite _ | .rewindSite .. | .setGenerator _ | .setSitePacing _ | .setGuardMap _
  | .setPressureLimits .. | .fencePort _ | .unfencePort _ | .setNoticeMask _ | .setLocalSite _ => true
  | _ => false

/-! ## Sizes -/

/-- R7: the size of an intent record. -/
def recordSize (keyLen : Nat) : Nat := (112 + keyLen + 15) / 16 * 16

/-- R7, R8: the size of a record. -/
def Rec.size : Rec → Nat
  | .intent r => recordSize r.key.length
  | .settings _ => 1536
  | .frontier _ => 160
  | .decision .. | .siteEvent .. | .shutdown _ | .resume _ => 32

/-- R4: the bytes of a page that are available for records. -/
def pageRoom : Nat := 4064

/-- R63, R125: the number of chunks of a payload. -/
def chunkCount (len : Nat) : Nat := (len + 8191) / 8192

/-- R63: the length of chunk k of a payload of len bytes. -/
def chunkLen (len k : Nat) : Nat := min 8192 (len - 8192 * k)

/-- R63: the length of the OPEN frame. -/
def openLen (keyLen : Nat) : Nat := 64 + recordSize keyLen

/-- R63: the encoded size of an intent. -/
def encodedSize (keyLen len : Nat) : Nat := openLen keyLen + 64 * chunkCount len + len

/-- R7: the range of the payload length for the kind. -/
def payloadLenOk : IntentKind → Nat → Bool
  | .put, n => 1 ≤ n && n ≤ 67108864
  | .metadata, n => 1 ≤ n && n ≤ 65536
  | .delete, n => n == 0

/-! ## Clamps and counters -/

def clamp (lo hi n : Nat) : Nat := max lo (min hi n)

/-- A count that saturates at 65,535. -/
def sat16 (n : Nat) : Nat := min n 65535

/-- A count that R199 gives 4 bytes; at its largest value it stays (log 18). -/
def sat32 (n : Nat) : Nat := min n 4294967295

/-- A 64-bit count; at its largest value it stays (R142, R181; for the others log 18). -/
def sat64 (n : Nat) : Nat := min n 18446744073709551615

/-- R198: the members of a set of slots, ascending. -/
def slotsOf (s : SlotSet) : List SlotId := (List.finRange 8).filter fun j => s.getLsbD j.val

/-- R198: the set of the slots listed. -/
def setOfSlots (l : List SlotId) : SlotSet := l.foldl (fun s j => s ||| (1 <<< j.val : BitVec 8)) 0

def allSlots : List SlotId := [0, 1, 2, 3, 4, 5, 6, 7]

def allPorts : List PortId := [0, 1, 2, 3]

def allGens : List GenId := [0, 1, 2, 3, 4, 5, 6, 7]

/-- The ports in number order, starting after p and wrapping from CP3 to CP0; p itself comes last. -/
def portsAfter (p : PortId) : List PortId := [p + 1, p + 2, p + 3, p]

/-- The slots in slot order, starting after j and wrapping; j itself comes last. -/
def slotsAfter (j : SlotId) : List SlotId := [j + 1, j + 2, j + 3, j + 4, j + 5, j + 6, j + 7, j]

end Sys2Proof.Machine
end

