-- ==== Sys2Proof/Machine/Ops.lean ====
section
/-!
DEFINITION. The named operations over the state that every family uses: sparse tables, the clock, the ports' queues
(notices and answers), the site table, the segments of the array, the slots of the status array, and where a record stands.
-/

namespace Sys2Proof.Machine

/-! ## Sparse tables

A table is a list of (key, value) pairs in strictly rising order of the key. A key that is not listed has the table's
default value, and no entry with the default value is listed. -/

def Tbl.get {α : Type} : List (Nat × α) → Nat → Option α
  | [], _ => none
  | (k, v) :: t, x => if x = k then some v else Tbl.get t x

def Tbl.put {α : Type} : List (Nat × α) → Nat → α → List (Nat × α)
  | [], x, a => [(x, a)]
  | (k, v) :: t, x, a =>
    if x < k then (x, a) :: (k, v) :: t else if x = k then (x, a) :: t else (k, v) :: Tbl.put t x a

def Tbl.del {α : Type} : List (Nat × α) → Nat → List (Nat × α)
  | [], _ => []
  | (k, v) :: t, x => if x = k then t else (k, v) :: Tbl.del t x

/-- The keys rise strictly. -/
def Tbl.ascending {α : Type} : List (Nat × α) → Bool
  | [] => true
  | (k, _) :: t => t.all (fun e => decide (k < e.1)) && Tbl.ascending t

/-- The lowest number at or above n, among the next `fuel` numbers, that is not a key of the table. -/
def Tbl.firstFree {α : Type} (l : List (Nat × α)) : Nat → Nat → Nat
  | 0, n => n
  | fuel + 1, n => if (Tbl.get l n).isSome then Tbl.firstFree l fuel (n + 1) else n

/-! ## The clock -/

/-- The clock moves to t, or stays when t lies behind it (log 2), and a new event begins (log 28). -/
def Dev.tick (t : Time) (d : Dev) : Dev := { d with now := max d.now t, examined := false }

/-- A timer that is due at t has expired at the time `now`. -/
def timerDue (due : Option Time) (now : Time) : Bool :=
  match due with
  | some t => decide (t ≤ now)
  | none => false

/-! ## Ports -/

def Dev.modPort (p : PortId) (f : Port → Port) (d : Dev) : Dev := { d with ports := d.ports.set p (f d.ports[p]) }

def Dev.online (d : Dev) (p : PortId) : Bool := d.ports[p].state == .online

def Dev.onlinePorts (d : Dev) : List PortId := allPorts.filter d.online

/-- R166: the outstanding count of a port. -/
def Port.outstanding (q : Port) : Nat :=
  q.cmdQ.length + (q.taken.filter fun t => !t.discard).length + q.respQ.length

/-- R167: a command that the port has taken holds it. -/
def Port.isHeld (q : Port) : Bool := q.taken.any fun t => t.holds

/-- R169: the number after n; 4,294,967,295 is followed by 1. -/
def noticeAfter (n : Nat) : Nat := if n ≥ 4294967295 then 1 else n + 1

/-- R169: a notice addressed to a port takes the current number, whether or not the queue has room for it. -/
def Port.addNotice (redirected : Bool) (b : NoticeBody) (q : Port) : Port :=
  if q.noticeQ.length < 256 then
    { q with
      noticeQ := q.noticeQ ++ [⟨q.noticeNumber, redirected, b⟩]
      noticeNumber := noticeAfter q.noticeNumber }
  else
    { q with noticeNumber := noticeAfter q.noticeNumber, lost := sat16 (q.lost + 1) }

def Dev.notify (p : PortId) (redirected : Bool) (b : NoticeBody) (d : Dev) : Dev := d.modPort p (Port.addNotice redirected b)

/-- R169: SITE_STATE, PORT_STATE, PRESSURE, INBOUND_PRESSURE go to each port that is ONLINE. -/
def Dev.broadcast (b : NoticeBody) (d : Dev) : Dev := d.onlinePorts.foldl (fun d p => d.notify p false b) d

/-- R169: the successor of a port. -/
def Dev.successor (d : Dev) (p : PortId) : Option PortId := if d.online p then some p else d.onlinePorts.head?

/-- R118, R169: a notice routed for an origin port. -/
def Dev.route (origin : PortId) (b : NoticeBody) (d : Dev) : Dev :=
  match d.successor origin with
  | some q => d.notify q (q != origin) b
  | none => { d with partLost := sat16 (d.partLost + 1) }

/-- R173 to R175: the next ONLINE port in number order after p, wrapping; p itself when it alone is ONLINE. -/
def Dev.nextOnline (d : Dev) (p : PortId) : Option PortId := (portsAfter p).find? d.online

/-- R168: the part answers a taken command. A response that is to be discarded (R14) is not posted. -/
def Port.answer (id : Nat) (st : Status) (fl : Byte) (b : RespBody) (q : Port) : Port :=
  match q.taken.find? (fun t => t.id == id) with
  | none => q
  | some t =>
    { q with
      taken := q.taken.filter (fun t => t.id != id)
      respQ := if t.discard then q.respQ else q.respQ ++ [⟨t.kind, st, fl, t.cid, b⟩] }

def Dev.answer (tok : Tok) (st : Status) (fl : Byte) (b : RespBody) (d : Dev) : Dev :=
  d.modPort tok.port (Port.answer tok.id st fl b)

/-- An answer with a status alone. -/
def Dev.refuse (tok : Tok) (st : Status) (d : Dev) : Dev := d.answer tok st 0 .none

/-- Change a taken command's entry. -/
def Dev.modTaken (tok : Tok) (f : Taken → Taken) (d : Dev) : Dev :=
  d.modPort tok.port fun q => { q with taken := q.taken.map fun t => if t.id == tok.id then f t else t }

/-- What the command's answer is to be made from, when its records have passed. -/
def Dev.setCont (tok : Tok) (c : Cont) (d : Dev) : Dev := d.modTaken tok fun t => { t with cont := c }

/-! ## Sites -/

def Dev.modSite (j : SlotId) (f : Site → Site) (d : Dev) : Dev := { d with sites := d.sites.set j (f d.sites[j]) }

def Dev.modConfig (j : SlotId) (f : SiteConfig → SiteConfig) (d : Dev) : Dev :=
  { d with settings := { d.settings with sites := d.settings.sites.set j (f d.settings.sites[j]) } }

def Dev.config (d : Dev) (j : SlotId) : SiteConfig := d.settings.sites[j]

def Dev.siteState (d : Dev) (j : SlotId) : SiteState := d.sites[j].state

def Dev.modSpan (sp : SpanId) (f : SpanPort → SpanPort) (d : Dev) : Dev := { d with span := d.span.set sp (f d.span[sp]) }

/-- R89: the generator that a slot is mapped to. -/
def SiteConfig.gen (c : SiteConfig) : GenId :=
  if c.spanPort = 0 then ⟨c.generator.val, by omega⟩ else ⟨4 + c.generator.val, by omega⟩

/-- The slot, other than a DETACHED one, that holds a site number. -/
def Dev.slotOfSite (d : Dev) (site : Nat) : Option SlotId :=
  allSlots.find? fun j => d.siteState j != .detached && (d.config j).site == some site

/-- R63: a frame is raised into the control queue of the slot's span port; one raised while the queue is full is dropped. -/
def Dev.raiseFrame (j : SlotId) (b : FrameBody) (d : Dev) : Dev :=
  let f : Frame := ⟨d.settings.localSite.getD 0, (d.config j).site.getD 0, d.power.startCount, b⟩
  d.modSpan (d.config j).spanPort fun s => if s.ctrlQ.length < 4096 then { s with ctrlQ := s.ctrlQ ++ [f] } else s

/-! ## Sequences -/

/-- R9: the tail is the sequence before the next one. -/
def Dev.beyondTail (d : Dev) (s : Seq) : Bool := decide (d.journal.nextSeq ≤ s)

/-- R9, R193: s was passed over at a COLD start. -/
def Dev.passedOver (d : Dev) (s : Seq) : Bool := d.journal.passedOver.any fun r => decide (r.1 ≤ s) && decide (s ≤ r.2)

/-! ## Segments -/

/-- The state of a segment that is not listed. -/
def ArrayBlk.blankSeg (a : ArrayBlk) : Segment := { eraseCount := a.baseErase }

def ArrayBlk.seg (a : ArrayBlk) (n : Nat) : Segment := (Tbl.get a.segs n).getD a.blankSeg

/-- A segment equal to what an unlisted one reads as is not listed. -/
def ArrayBlk.putSeg (n : Nat) (s : Segment) (a : ArrayBlk) : ArrayBlk :=
  { a with segs := if s = a.blankSeg then Tbl.del a.segs n else Tbl.put a.segs n s }

def Dev.seg (d : Dev) (n : Nat) : Segment := d.array.seg n

def Dev.modSeg (n : Nat) (f : Segment → Segment) (d : Dev) : Dev := { d with array := d.array.putSeg n (f (d.array.seg n)) }

def segmentCount : Nat := 2048

/-- R2: the count F of BLANK segments. -/
def ArrayBlk.free (a : ArrayBlk) : Nat := segmentCount - (a.segs.filter fun e => e.2.state != .blank).length

def Dev.free (d : Dev) : Nat := d.array.free

/-- R22: the count of segments in a state. -/
def ArrayBlk.countState (a : ArrayBlk) (st : SegState) : Nat :=
  if st = .blank then a.free else (a.segs.filter fun e => e.2.state == st).length

/-- R3: the BLANK segment with the lowest erase count, and the lowest number among equals. Among the segments that are
not listed, the lowest-numbered one stands for all. -/
def ArrayBlk.chooseBlank (a : ArrayBlk) : Option Nat :=
  let unlisted := Tbl.firstFree a.segs a.segs.length 0
  let listed := a.segs.filterMap fun e => if e.2.state = .blank then some (e.1, e.2.eraseCount) else none
  let all := if unlisted < segmentCount then (unlisted, a.baseErase) :: listed else listed
  let better (x y : Nat × Nat) : Bool := decide (x.2 < y.2) || (x.2 == y.2 && decide (x.1 < y.1))
  match all with
  | [] => none
  | h :: t => some (t.foldl (fun best e => if better e best then e else best) h).1

/-- R2: at most one segment is FILLING. -/
def ArrayBlk.filling (a : ArrayBlk) : Option Nat := (a.segs.find? fun e => e.2.state == .filling).map (·.1)

/-- The FULL and FILLING segments: those whose pages the journal holds. -/
def ArrayBlk.held (a : ArrayBlk) : List (Nat × Segment) :=
  a.segs.filter fun e => e.2.state == .full || e.2.state == .filling

/-- A page of a segment is not in the failed-page list. Whether its CRC is right is found when it is read (R17, log 62). -/
def Segment.unfailed (s : Segment) (p : Page) : Bool := !s.failed.contains p.num

/-- R4: a page of a segment is valid: it reads with the CRC of its header (pageCrc) and is not in the failed-page list. -/
def Segment.valid (s : Segment) (p : Page) : Bool := p.crcOk && s.unfailed p

/-- The pages of the journal that have not failed, with their segments, by segment number. -/
def ArrayBlk.unfailedPages (a : ArrayBlk) : List (Nat × Page) :=
  a.held.flatMap fun e => (e.2.pages.filter e.2.unfailed).map fun p => (e.1, p)

/-- R4: the valid pages of the journal, with their segments, by segment number. -/
def ArrayBlk.validPages (a : ArrayBlk) : List (Nat × Page) :=
  a.held.flatMap fun e => (e.2.pages.filter e.2.valid).map fun p => (e.1, p)

def Rec.intentSeq : Rec → Option Seq
  | .intent r => some r.seq
  | _ => none

def recsIntents (l : List Rec) : List Seq := l.filterMap Rec.intentSeq

def Page.intents (p : Page) : List Seq := recsIntents p.recs

/-- The sequences of the intents whose records lie in a segment, valid pages or not (log 11). -/
def Segment.intents (s : Segment) : List Seq := s.pages.flatMap Page.intents

def minOf : List Nat → Option Nat
  | [] => none
  | h :: t => some (t.foldl min h)

def maxOf : List Nat → Option Nat
  | [] => none
  | h :: t => some (t.foldl max h)

/-- R22, R122: the lowest sequence of an intent not reclaimed, in the journal or in a staging buffer; else the next sequence. -/
def Dev.lowestKept (d : Dev) : Seq :=
  let staged := recsIntents ((d.journal.bufA.recs ++ d.journal.bufB.recs).map (·.item))
  (minOf (staged ++ d.array.held.flatMap fun e => e.2.intents)).getD d.journal.nextSeq

/-- R156: U, the lowest sequence of an intent whose record lies in a FULL or FILLING segment; else the next sequence. -/
def Dev.lowest (d : Dev) : Seq := (minOf (d.array.held.flatMap fun e => e.2.intents)).getD d.journal.nextSeq

/-- R156: the span headroom H. -/
def Dev.headroom (d : Dev) : Int := 4194304 - ((d.journal.nextSeq : Int) - (d.lowest : Int))

/-! ## Staging buffers -/

def Journal.buf (j : Journal) : BufId → Buffer
  | .a => j.bufA
  | .b => j.bufB

def Journal.putBuf (id : BufId) (b : Buffer) (j : Journal) : Journal :=
  match id with
  | .a => { j with bufA := b }
  | .b => { j with bufB := b }

def Buffer.used (b : Buffer) : Nat := (b.recs.map fun s => s.item.size).sum

def Buffer.items (b : Buffer) : List Rec := b.recs.map (·.item)

/-! ## Where a record stands (R17) -/

/-- The place of an intent's record. `absent`: a hole, a segment that has left the chain, a page that has failed, a sequence
that was passed over. -/
inductive Place where
  | buffer (r : IntentRec)
  | cache (r : IntentRec)
  | array (seg page : Nat)
  | absent
  deriving DecidableEq, Repr

def intentIn (s : Seq) (l : List Rec) : Option IntentRec :=
  l.findSome? fun
    | .intent r => if r.seq = s then some r else none
    | _ => none

/-- R17: a record read finds its page in the staging buffer that holds it, then in the tail cache, else in the array. A page
that has not failed is read, and the read finds whether its CRC is right (log 62). -/
def Dev.locate (d : Dev) (s : Seq) : Place :=
  match intentIn s (d.journal.bufA.items ++ d.journal.bufB.items) with
  | some r => .buffer r
  | none =>
    match d.array.unfailedPages.find? (fun e => (intentIn s e.2.recs).isSome) with
    | none => .absent
    | some (n, p) =>
      if d.journal.tailCache.contains p.pos then
        match intentIn s p.recs with
        | some r => .cache r
        | none => .absent
      else .array n p.num

/-- R17: a read of the page can complete with a correct CRC. -/
def Dev.readsBack (d : Dev) (seg page : Nat) : Bool :=
  match (d.seg seg).pages.find? (fun p => p.num == page) with
  | some p => p.crcOk
  | none => false

/-- The record of an intent in a page that an array read returns. -/
def Dev.recordAt (d : Dev) (seg page : Nat) (s : Seq) : Option IntentRec :=
  match (d.seg seg).pages.find? (fun p => p.num == page) with
  | some p => intentIn s p.recs
  | none => none

/-! ## Status array -/

def Dev.slot? (d : Dev) (s : Seq) : Option Slot := Tbl.get d.status.slots s

/-- A slot that is STAGED or WRITTEN is replaced. -/
def Dev.putSlot (s : Seq) (x : Slot) (d : Dev) : Dev :=
  { d with status := { d.status with slots := Tbl.put d.status.slots s x } }

/-- R110: the slot becomes FREE. -/
def Dev.freeSlot (s : Seq) (d : Dev) : Dev := { d with status := { d.status with slots := Tbl.del d.status.slots s } }

def Mark.isOpen : Mark → Bool
  | .pending | .inFlight => true
  | _ => false

def Slot.mark (x : Slot) (j : SlotId) : Option Mark := (x.marks.find? fun e => e.1 == j).map (·.2)

def Slot.sites (x : Slot) : List SlotId := x.marks.map (·.1)

def Slot.setMark (x : Slot) (j : SlotId) (m : Mark) : Slot :=
  { x with marks := x.marks.map fun e => if e.1 == j then (j, m) else e }

/-- R111: a transition of one slot's mark, from the values that it names. -/
def Slot.move (x : Slot) (j : SlotId) (from_ : Mark → Bool) (new : Mark) : Slot :=
  { x with marks := x.marks.map fun e => if e.1 == j && from_ e.2 then (j, new) else e }

/-- R111: a transition of every mark, from the values that it names. -/
def Slot.moveAll (x : Slot) (from_ : Mark → Bool) (new : Mark) : Slot :=
  { x with marks := x.marks.map fun e => if from_ e.2 then (e.1, new) else e }

def Slot.acked (x : Slot) : Nat := (x.marks.filter fun e => e.2 == .acked).length

def Slot.openMarks (x : Slot) : Nat := (x.marks.filter fun e => e.2.isOpen).length

/-- R113. -/
def Slot.resolved (x : Slot) : Bool := x.written && !x.marks.any (fun e => e.2.isOpen) && !x.held

/-- R143: the intent is resolved and not held; a FREE slot counts so. -/
def Dev.intentSpent (d : Dev) (s : Seq) : Bool :=
  match d.slot? s with
  | none => true
  | some x => x.resolved

/-- R119: the lowest sequence whose mark for the slot is PENDING or IN_FLIGHT, else tail + 1. -/
def Dev.frontierOf (d : Dev) (j : SlotId) : Seq :=
  ((d.status.slots.find? fun e => ((e.2.mark j).map Mark.isOpen).getD false).map (·.1)).getD d.journal.nextSeq

/-! ## Control records -/

/-- R11: a FRONTIER record raised while another waits takes its place; at most one RESUME and one SETTINGS record wait. -/
def Rec.isFrontier : Rec → Bool
  | .frontier _ => true
  | _ => false

def Rec.isSettings : Rec → Bool
  | .settings _ => true
  | _ => false

def Rec.isSiteEvent : Rec → Bool
  | .siteEvent .. => true
  | _ => false

def Rec.isResume : Rec → Bool
  | .resume _ => true
  | _ => false

/-- R11, R17, R189: a control record raised without a command enters the control queue. -/
def Dev.raiseCtrl (r : Rec) (d : Dev) : Dev :=
  let q := d.journal.ctrlQ
  let q' :=
    if r.isFrontier && q.any Rec.isFrontier then q.map fun x => if x.isFrontier then r else x
    else if r.isSettings && q.any Rec.isSettings then q
    else if r.isResume && q.any Rec.isResume then q
    else q ++ [r]
  { d with journal := { d.journal with ctrlQ := q' } }

/-- R8: each slot's state and frontier. -/
def Dev.frontierRec (d : Dev) : Rec := .frontier (d.sites.map fun x => (x.state, x.frontier))

/-- R120: the effects of a raising on the mark, the count and the timer. -/
def Dev.frontierRaised (d : Dev) : Dev :=
  { d with
    status := { d.status with
      frontierChanged := false, resolutions := 0, checkpoint := .running (d.now + 250000), lastFrontier := some d.now } }

/-- R120: a FRONTIER record is raised into the control queue. -/
def Dev.raiseFrontier (d : Dev) : Dev := (d.raiseCtrl d.frontierRec).frontierRaised

end Sys2Proof.Machine
end

