-- ==== Sys2Proof/Machine/Placement.lean ====
section
/-!
DEFINITION. The placement decision (chapter 03, R44 to R47).
-/

namespace Sys2Proof.Machine

/-- R45: the reserved service buckets FFFF0000h to FFFFFFFFh. -/
def reservedBucket (b : Word32) : Bool := decide (0xFFFF0000#32 ≤ b)

/-- R44, R45: a bucket matches an entry. -/
def PlacementEntry.accepts (strict : Bool) (bucket : Word32) (e : PlacementEntry) : Bool :=
  e.enabled && ((bucket ^^^ e.bucket) &&& ~~~e.mask) == 0 && (!(strict && reservedBucket bucket) || e.mask == 0)

/-- R44: the deciding entry is the lowest-numbered enabled entry that the bucket matches. -/
def Settings.deciding (c : Settings) (bucket : Word32) : Option (Fin 48) :=
  (List.finRange 48).find? fun n => c.placement[n].accepts c.mode.strict bucket

/-- R46: a slot that is DETACHED or EVICTED is removed from the set. -/
def Dev.placeable (d : Dev) (j : SlotId) : Bool := d.siteState j != .detached && d.siteState j != .evicted

/-- R44 to R47: the placement of a bucket: the deciding entry (none: none, some none: "mirror"), the site set after
removal, the clamped quorum and the held flag. -/
structure Placement where
  deciding : Option (Option Nat)
  set : SlotSet
  quorum : Nat
  held : Bool
  deriving DecidableEq, Repr

/-- R46, R47: removal of slots and clamping of the quorum. -/
def Dev.placed (d : Dev) (deciding : Option Nat) (slots : List SlotId) (quorum : Nat) (held : Bool) : Placement :=
  let l := slots.filter d.placeable
  ⟨some deciding, setOfSlots l, min quorum l.length, held⟩

def Dev.placement (d : Dev) (bucket : Word32) : Placement :=
  match d.settings.deciding bucket with
  | some n =>
    let e := d.settings.placement[n]
    d.placed (some n.val) (if e.allSites then allSlots else slotsOf e.slots) e.quorum e.hold
  | none =>
    if d.settings.mode.mirrorAll then d.placed none allSlots d.settings.mode.defaultQuorum false
    else ⟨none, 0, 0, false⟩

/-- R46: the APPEND is answered NOT_PLACED. -/
def Placement.notPlaced (p : Placement) : Bool := p.deciding.isNone || p.set == 0

end Sys2Proof.Machine
end

