-- ==== Sys2Proof/Machine/Flags.lean ====
section
/-!
DEFINITION. The fault latches (R78, R176, R182) and the notices that report a change of a slot's or a port's state
(R79, R165).
-/

namespace Sys2Proof.Machine

/-- R176: the seven kinds, in the order of the table. -/
def faultKinds : List FaultKind := [.journalMedia, .retentionLost, .queueOverrun, .stall, .overrun, .digest, .protocol]

/-- The bit of a notice mask, and of a CLEAR FAULTS set, that stands for a kind (R199). -/
def FaultKind.index : FaultKind → Nat
  | .journalMedia => 0
  | .retentionLost => 1
  | .queueOverrun => 2
  | .stall => 3
  | .overrun => 4
  | .digest => 5
  | .protocol => 6

def Dev.latched (k : FaultKind) (sc : FaultScope) (d : Dev) : Bool :=
  match k, sc with
  | .journalMedia, .part => d.journalMedia
  | .retentionLost, .part => d.retentionLost
  | .queueOverrun, .port p => d.ports[p].overrun
  | .stall, .slot j _ => d.sites[j].stall
  | .overrun, .slot j _ => d.sites[j].overrun
  | .digest, .slot j _ => d.sites[j].digest
  | .protocol, .slot j _ => d.sites[j].protocol
  | _, _ => false

def Dev.setLatch (v : Bool) (k : FaultKind) (sc : FaultScope) (d : Dev) : Dev :=
  match k, sc with
  | .journalMedia, .part => { d with journalMedia := v }
  | .retentionLost, .part => { d with retentionLost := v }
  | .queueOverrun, .port p => d.modPort p fun q => { q with overrun := v }
  | .stall, .slot j _ => d.modSite j fun x => { x with stall := v }
  | .overrun, .slot j _ => d.modSite j fun x => { x with overrun := v }
  | .digest, .slot j _ => d.modSite j fun x => { x with digest := v }
  | .protocol, .slot j _ => d.modSite j fun x => { x with protocol := v }
  | _, _ => d

/-- R176: a FAULT notice goes to each ONLINE port whose mask admits the kind. -/
def Dev.faultNotice (k : FaultKind) (sc : FaultScope) (d : Dev) : Dev :=
  d.onlinePorts.foldl
    (fun d p => if d.settings.masks[p].getLsbD k.index then d.notify p false (.fault k sc) else d) d

/-- R78, R176: a latch is set; one that is set already posts no second notice. -/
def Dev.latch (k : FaultKind) (sc : FaultScope) (d : Dev) : Dev :=
  if d.latched k sc then d else (d.setLatch true k sc).faultNotice k sc

def Dev.slotScope (d : Dev) (j : SlotId) : FaultScope := .slot j (d.config j).site

def Dev.latchSlot (k : FaultKind) (j : SlotId) (d : Dev) : Dev := d.latch k (d.slotScope j)

/-- R176, R78: the condition of a latch has ended. -/
def Dev.conditionEnded (k : FaultKind) (sc : FaultScope) (d : Dev) : Bool :=
  match k, sc with
  | .queueOverrun, .port p => decide (d.ports[p].outstanding < 64)
  | .stall, .slot j _ => d.sites[j].state != .stalled && decide (d.sites[j].probeCount < 30)
  | .overrun, .slot j _ => decide (d.sites[j].busyCount < 16)
  | _, _ => true

/-- Every place where a latch of the kind stands. -/
def Dev.scopes (k : FaultKind) (d : Dev) : List FaultScope :=
  match k with
  | .journalMedia | .retentionLost => [.part]
  | .queueOverrun => allPorts.map .port
  | .stall | .overrun | .digest | .protocol => allSlots.map d.slotScope

/-- R178, R181: every latched fault with its scope. -/
def Dev.latchedFaults (d : Dev) : List (FaultKind × FaultScope) :=
  faultKinds.flatMap fun k => ((d.scopes k).filter fun sc => d.latched k sc).map fun sc => (k, sc)

/-- R62, R78: the four flags of a slot, clear. -/
def Site.clearFlags (x : Site) : Site := { x with stall := false, overrun := false, digest := false, protocol := false }

/-- R79: every change of a slot's state posts a SITE_STATE notice to each ONLINE port. -/
def Dev.siteNotice (j : SlotId) (site : Option Nat) (old new : SiteState) (c : SiteCause) (d : Dev) : Dev :=
  d.broadcast (.siteState j site old new c)

def Dev.setSiteState (j : SlotId) (new : SiteState) (c : SiteCause) (d : Dev) : Dev :=
  let old := d.siteState j
  (d.modSite j fun x => { x with state := new }).siteNotice j (d.config j).site old new c

/-- R165: every change of a port's state posts a PORT_STATE notice to each port that is ONLINE after the change. -/
def Dev.portNotice (p : PortId) (old new : PortState) (c : PortCause) (d : Dev) : Dev :=
  d.broadcast (.portState p old new c)

end Sys2Proof.Machine
end

