-- ==== Sys2Proof/Machine/KeyIndex.lean ====
section
/-!
DEFINITION. The key index (chapter 02): its organisation, the key lookup, the supersession decision at staging and the
count of a held intent.
-/

namespace Sys2Proof.Machine

/-! ## Organisation (R24 to R26) -/

/-- R24: the set of a key. -/
def setOfHash (h : Word64) : Nat := h.toNat % 65536

def waysOfSet (set : Nat) : List Nat := (List.range 8).map fun w => set * 8 + w

def KeyEntry.holds (e : KeyEntry) (bucket : Word32) (hash : Word64) (len : Nat) : Bool :=
  e.bucket == bucket && e.keyHash == hash && e.keyLen == len

/-- The way whose entry holds the triple. -/
def KeyIndex.find (k : KeyIndex) (bucket : Word32) (hash : Word64) (len : Nat) : Option Nat :=
  (waysOfSet (setOfHash hash)).find? fun w =>
    match Tbl.get k.ways w with
    | some e => e.holds bucket hash len
    | none => false

/-- R25: the lowest-numbered free way of a set. -/
def KeyIndex.freeWay (k : KeyIndex) (set : Nat) : Option Nat :=
  (waysOfSet set).find? fun w => (Tbl.get k.ways w).isNone

def KeyIndex.put (w : Nat) (e : KeyEntry) (k : KeyIndex) : KeyIndex := { k with ways := Tbl.put k.ways w e }

/-- R24: the intent whose record is the entry's key source. -/
def KeyEntry.source (e : KeyEntry) : Seq :=
  match e.live with
  | some (s, _) => s
  | none => e.creation

/-- R32: the counter of a reason increases, saturating at 65,535. -/
def KeyIndex.countReason (u : Unindexed) (k : KeyIndex) : KeyIndex :=
  match u with
  | .setFull => { k with setFull := sat16 (k.setFull + 1) }
  | .countFull => { k with countFull := sat16 (k.countFull + 1) }
  | .collision => { k with collision := sat16 (k.collision + 1) }
  | .unreadable => { k with unreadable := sat16 (k.unreadable + 1) }
  | .race => { k with race := sat16 (k.race + 1) }

/-- R26: a linked intent becomes resolved; at count 0 the entry is freed. -/
def KeyIndex.release (w : Nat) (k : KeyIndex) : KeyIndex :=
  match Tbl.get k.ways w with
  | none => k
  | some e =>
    if e.count ≤ 1 then { k with ways := Tbl.del k.ways w } else k.put w { e with count := e.count - 1 }

/-! ## The key lookup (R27, R28) -/

/-- The key bytes that a key length names. -/
def keyOf (len : Nat) (key : List Byte) : List Byte := (key ++ List.replicate len 0).take len

/-- What a lookup finds at once, or the page that it must read. -/
inductive Started where
  | known (o : Outcome27)
  | read (seg page : Nat) (source : Seq) (way creation : Nat)
  deriving DecidableEq, Repr

def compareKey (r : IntentRec) (key : List Byte) : LookupResult := if r.key = key then .matched else .collision

/-- R27: a lookup begins. -/
def Dev.lookup (d : Dev) (bucket : Word32) (hash : Word64) (len : Nat) (key : List Byte) : Started :=
  match d.index.find bucket hash len with
  | none => .known .none
  | some w =>
    match Tbl.get d.index.ways w with
    | none => .known .none
    | some e =>
      match d.locate e.source with
      | .buffer r | .cache r => .known (.found w e.creation (compareKey r (keyOf len key)))
      | .absent => .known (.found w e.creation .unreadable)
      | .array seg page => .read seg page e.source w e.creation

/-- R28: the outcome as it stands in the event of the staging. -/
inductive Checked where
  | noEntry
  | entry (way : Nat) (r : LookupResult)
  | race
  deriving DecidableEq, Repr

def KeyIndex.check (k : KeyIndex) (bucket : Word32) (hash : Word64) (len : Nat) (o : Outcome27) : Checked :=
  match k.find bucket hash len with
  | none => .noEntry
  | some w =>
    match o with
    | .none => .race
    | .found w' c r =>
      match Tbl.get k.ways w with
      | some e => if w = w' ∧ e.creation = c then .entry w r else .race
      | none => .race

/-! ## Decisions at staging (R29, R35) -/

/-- What the key index decides for an intent that is staged. -/
structure Decided where
  outcome : StagedOutcome
  link : Option Nat := none
  /-- the live intent that the new one supersedes at its write -/
  supersedes : Option Seq := none
  supersededBy : Option Seq := none
  reason : Option Unindexed := none
  deriving DecidableEq, Repr

def KeyIndex.unindexed (u : Unindexed) (k : KeyIndex) : KeyIndex × Decided :=
  (k.countReason u, { outcome := .unindexed, reason := some u })

/-- R29: supersession is decided for an intent that is not held. -/
def KeyIndex.decide (seq : Seq) (bucket : Word32) (hash : Word64) (len : Nat) (stamp : Word64) (c : Checked)
    (k : KeyIndex) : KeyIndex × Decided :=
  match c with
  | .noEntry =>
    match k.freeWay (setOfHash hash) with
    | some w => (k.put w ⟨bucket, hash, len, seq, some (seq, stamp), 1⟩, { outcome := .live, link := some w })
    | none => k.unindexed .setFull
  | .race => k.unindexed .race
  | .entry _ .collision => k.unindexed .collision
  | .entry _ .unreadable => k.unindexed .unreadable
  | .entry w .matched =>
    match Tbl.get k.ways w with
    | none => k.unindexed .race
    | some e =>
      let newer : Option Seq := match e.live with
        | some (l, t) => if stamp < t then some l else none
        | none => none
      match newer with
      | some l => (k, { outcome := .stale, supersededBy := some l })
      | none =>
        if e.count = 255 then k.unindexed .countFull
        else
          (k.put w { e with live := some (seq, stamp), count := e.count + 1 },
            { outcome := .live, link := some w, supersedes := e.live.map (·.1) })

/-- R35: a held intent is counted; supersession is not decided. -/
def KeyIndex.countHeld (seq : Seq) (bucket : Word32) (hash : Word64) (len : Nat) (c : Checked) (k : KeyIndex) :
    KeyIndex × Decided :=
  let flag (u : Unindexed) : KeyIndex × Decided := (k.countReason u, { outcome := .held, reason := some u })
  match c with
  | .noEntry =>
    match k.freeWay (setOfHash hash) with
    | some w => (k.put w ⟨bucket, hash, len, seq, none, 1⟩, { outcome := .held, link := some w })
    | none => flag .setFull
  | .race => flag .race
  | .entry _ .collision => flag .collision
  | .entry _ .unreadable => flag .unreadable
  | .entry w .matched =>
    match Tbl.get k.ways w with
    | none => flag .race
    | some e =>
      if e.count < 255 then (k.put w { e with count := e.count + 1 }, { outcome := .held, link := some w })
      else flag .countFull

end Sys2Proof.Machine
end

