-- ==== Sys2Proof/Machine/Durability.lean ====
section
/-!
DEFINITION. Durability tracking (chapter 06): the filling and the write of a status array slot, the evaluation of an
intent and its verdicts, supersession (R33, R34), and the effect of a decision on a held intent (R36, R52).
-/

namespace Sys2Proof.Machine

/-! ## Verdicts (R113 to R118) -/

def Slot.noticeRoute (x : Slot) (s : Seq) : NoticeRoute := ⟨s, x.tag, x.origin⟩

/-- R118: the closed marks of a SHORTFALL notice. -/
def Slot.closed (x : Slot) : List (SlotId × Mark) :=
  x.marks.filter fun e =>
    match e.2 with
    | .failed | .skipped _ => true
    | _ => false

/-- R118: the count of a verdict kind increases when the verdict posted field is set. -/
def StatusArray.countVerdict (v : Verdict) (a : StatusArray) : StatusArray :=
  match v with
  | .durable => { a with durable := sat64 (a.durable + 1) }
  | .superseded => { a with superseded := sat64 (a.superseded + 1) }
  | .shortfall => { a with shortfall := sat64 (a.shortfall + 1) }

/-- R116: the verdict posted field is set and counted. -/
def Dev.setVerdict (s : Seq) (x : Slot) (v : Verdict) (d : Dev) : Dev :=
  let d := d.putSlot s { x with verdict := some v }
  { d with status := d.status.countVerdict v }

/-- R114, R115: the verdict tests. -/
def Dev.testVerdict (s : Seq) (d : Dev) : Dev :=
  match d.slot? s with
  | none => d
  | some x =>
    if x.held || x.verdict.isSome then d
    else if x.quorum ≤ x.acked then
      (d.setVerdict s x .durable).route x.origin (.durable (x.noticeRoute s) x.acked x.quorum)
    else if x.acked + x.openMarks < x.quorum then
      (d.setVerdict s x .shortfall).route x.origin (.shortfall (x.noticeRoute s) x.acked x.quorum x.closed)
    else d

/-- R113: an intent that is resolved and was not. -/
def Dev.resolve (s : Seq) (x : Slot) (d : Dev) : Dev :=
  let d := match x.link with
    | some w => { d with index := d.index.release w }
    | none => d
  let d := d.putSlot s { x with link := none }
  { d with status := { d.status with resolutions := d.status.resolutions + 1 } }

/-- R113: the evaluation of a WRITTEN intent, after its marks or its HELD flag have changed. -/
def Dev.evaluate (s : Seq) (was : Bool) (d : Dev) : Dev :=
  match d.slot? s with
  | none => d
  | some x =>
    if !x.written then d
    else (if x.resolved && !was then d.resolve s x else d).testVerdict s

/-- A slot changes, and its intent is evaluated once. -/
def Dev.updateSlot (s : Seq) (f : Slot → Slot) (d : Dev) : Dev :=
  match d.slot? s with
  | none => d
  | some x => (d.putSlot s (f x)).evaluate s x.resolved

/-- R33, R34: N, whose site set is given, supersedes L, whose slot is x: L's PENDING marks that N covers become
SKIPPED(SUPERSEDED), and L receives the SUPERSEDED verdict with its notice when it has none. -/
def Dev.markSuperseded (l n : Seq) (set : List SlotId) (x : Slot) (d : Dev) : Dev :=
  let y : Slot :=
    { x with
      marks := x.marks.map fun e =>
        if set.contains e.1 && e.2 == .pending then (e.1, .skipped .superseded) else e
      supersededBy := some n }
  if y.verdict.isNone then
    (d.setVerdict l y .superseded).route y.origin (.superseded (y.noticeRoute l) y.acked y.quorum n)
  else d.putSlot l y

/-- R33, R34: N supersedes L, and L is evaluated. The SUPERSEDED verdict comes before the evaluation, which then gives no
SHORTFALL (log 89). A release can find L STAGED; its marks, its verdict and its notice then come in the release event like
those of a WRITTEN L (R36, R37), and only its evaluation waits for the write (R108, R113): the ruling of log 53. -/
def Dev.supersede (l n : Seq) (set : List SlotId) (d : Dev) : Dev :=
  match d.slot? l with
  | none => d
  | some x => (d.markSuperseded l n set x).evaluate l x.resolved

/-! ## Filling and writing a slot (R108, R109) -/

/-- R108: the slot of an intent that is staged. -/
def stagedSlot (r : IntentRec) (c : Decided) : Slot where
  written := false
  origin := r.origin
  tag := r.tag
  marks := (slotsOf r.siteSet).map fun j => (j, .pending)
  quorum := r.quorum
  outcome := c.outcome
  pendingSup := c.supersedes
  supersededBy := c.supersededBy
  link := c.link
  stagedReason := c.reason

/-- R107, R108: the slot of sequence s is the slot numbered s modulo 4,194,304. -/
def Dev.fillSlot (r : IntentRec) (c : Decided) (d : Dev) : Dev :=
  let others := d.status.slots.filter fun e => e.1 % 4194304 != r.seq % 4194304
  { d with status := { d.status with slots := Tbl.put others r.seq (stagedSlot r c) } }

/-- R109, step 1: the staged outcome is applied to the marks and flags. -/
def Slot.applyOutcome (recHeld : Bool) (x : Slot) : Slot :=
  let y := { x with written := true, holdOverflow := recHeld && x.outcome != .held }
  match x.outcome with
  | .live => y
  | .unindexed => { y with unindexed := x.stagedReason }
  | .held => { y with held := true, unindexed := x.stagedReason }
  | .stale => (y.moveAll (· == .pending) (.skipped .stale))
  | .overflowDenied => y.moveAll (· == .pending) (.skipped .denied)

/-- R109: the slot of an intent is written. -/
def Dev.writeSlot (r : IntentRec) (d : Dev) : Dev :=
  match d.slot? r.seq with
  | none => d
  | some x =>
    let y := x.applyOutcome r.held
    let d := if x.outcome = .stale then d.setVerdict r.seq y .superseded else d.putSlot r.seq y
    let d := match x.pendingSup with
      | none => d
      | some l =>
        let d := d.supersede l r.seq y.sites
        match d.slot? r.seq with
        | none => d
        | some z => d.putSlot r.seq { z with pendingSup := none }
    d.evaluate r.seq false

/-! ## The cursors (R69) -/

/-- R69: the cursor is lowered to s, and the candidates at or above it are dropped. -/
def Dev.lowerCursor (j : SlotId) (s : Seq) (d : Dev) : Dev :=
  d.modSite j fun x =>
    let c := min x.cursor s
    { x with cursor := c, candidates := x.candidates.filter fun k => decide (k.seq < c) }

/-- R69: marks become dispatchable at s, for every slot whose mark is PENDING. -/
def Dev.offer (s : Seq) (d : Dev) : Dev :=
  match d.slot? s with
  | none => d
  | some x => (x.marks.filter fun e => e.2 == .pending).foldl (fun d e => d.lowerCursor e.1 s) d

/-- R69: "the cursor is set to the frontier". -/
def Dev.cursorToFrontier (j : SlotId) (d : Dev) : Dev :=
  d.modSite j fun x => { x with cursor := d.frontierOf j, candidates := [] }

/-! ## Decisions on held intents (R36, R51 to R53) -/

def HeldEntry.deciding? (e : HeldEntry) : Option DecisionCause :=
  match e.state with
  | .deciding _ c => some c
  | _ => none

def Dev.heldEntry (d : Dev) (s : Seq) : Option HeldEntry := d.held.entries.find? fun e => e.seq == s

def Dev.setHeld (s : Seq) (st : HeldState) (d : Dev) : Dev :=
  { d with held := { d.held with entries := d.held.entries.map fun e => if e.seq == s then { e with state := st } else e } }

/-- R48: an entry leaves the list. -/
def Dev.dropHeld (s : Seq) (d : Dev) : Dev :=
  { d with held := { d.held with entries := d.held.entries.filter fun e => e.seq != s } }

/-- R30, R36: the live intent L wins over the held intent H. -/
def liveWins (l : Seq) (lt : Word64) (h : Seq) (ht : Word64) : Bool := decide (ht < lt) || (lt == ht && decide (h < l))

/-- R36: the release of a held intent takes effect; the stamp is that of its record. R33 and R34 apply to a live intent that it
supersedes in this event, also to one that is still STAGED (R36, R37; log 53). The SUPERSEDED notice of that intent comes before a verdict notice of the released one, whichever has the
lower sequence (log 93). -/
def Dev.releaseHeld (s : Seq) (stamp : Word64) (d : Dev) : Dev × ReleaseOutcome :=
  match d.slot? s with
  | none => (d, .live)
  | some x =>
    let x := { x with held := false }
    if x.unindexed.isSome then (((d.putSlot s x).evaluate s false).offer s, .unindexed)
    else
      let entry := x.link.bind fun w => (Tbl.get d.index.ways w).map fun e => (w, e)
      match entry with
      | none => (((d.putSlot s x).evaluate s false).offer s, .live)
      | some (w, e) =>
        match e.live with
        | some (l, lt) =>
          if liveWins l lt s stamp then
            let y := { x.moveAll (· == .pending) (.skipped .stale) with supersededBy := some l }
            let d :=
              if y.verdict.isNone then
                (d.setVerdict s y .superseded).route y.origin (.superseded (y.noticeRoute s) y.acked y.quorum l)
              else d.putSlot s y
            (d.evaluate s false, .stale)
          else
            let d := { d with index := d.index.put w { e with live := some (s, stamp) } }
            ((((d.putSlot s x).supersede l s x.sites).evaluate s false).offer s, .live)
        | none =>
          let d := { d with index := d.index.put w { e with live := some (s, stamp) } }
          (((d.putSlot s x).evaluate s false).offer s, .live)

/-- The stamp of an intent's record, wherever it stands. -/
def Dev.stampOf (d : Dev) (s : Seq) : Word64 :=
  let staged := intentIn s (d.journal.bufA.items ++ d.journal.bufB.items)
  let r := staged.orElse fun _ => d.array.held.findSome? fun e => e.2.pages.findSome? fun p => intentIn s p.recs
  (r.map (·.stamp)).getD 0

/-- R52: a denial takes effect. -/
def Dev.denyHeld (s : Seq) (d : Dev) : Dev :=
  d.updateSlot s fun x => { x.moveAll (· == .pending) (.skipped .denied) with held := false }

/-- R52: the page holding a DECISION record passes. A record whose intent has no entry that is DECIDING has no effect
(R50, R53). -/
def Dev.applyDecision (s : Seq) (dn : Decision) (d : Dev) : Dev × Option ReleaseOutcome :=
  match (d.heldEntry s).bind HeldEntry.deciding? with
  | none => (d, none)
  | some cause =>
    let d := d.dropHeld s
    let d := match cause, d.slot? s with
      | .expiry, some x => d.route x.origin (.holdExpired (x.noticeRoute s) dn)
      | _, _ => d
    match dn with
    | .released =>
      let (e, o) := d.releaseHeld s (d.stampOf s)
      (e, some o)
    | .denied => (d.denyHeld s, none)

/-! ## A failed intent (R17, R53, R175) -/

/-- R111: the transition "fail" acts from PENDING, IN_FLIGHT and SKIPPED. -/
def Mark.failable : Mark → Bool
  | .pending | .inFlight | .skipped _ => true
  | _ => false

/-- R72, R70: an entry leaves the in-flight list; its deadline, its resends and a send of it go with it. -/
def Site.dropInFlight (s : Seq) (x : Site) : Site :=
  { x with
    inFlight := x.inFlight.filter fun e => e.seq != s
    resends := x.resends.filter fun r => r.seq != s
    send := x.send.filter fun k => k.seq != s }

/-- Every slot's in-flight entry and candidate of an intent are removed. -/
def Dev.forgetIntent (s : Seq) (d : Dev) : Dev :=
  { d with
    sites := d.sites.map fun x =>
      { x.dropInFlight s with candidates := x.candidates.filter fun c => c.seq != s } }

/-- Every mark of the intent that is not ACKED becomes FAILED. -/
def Dev.failIntent (s : Seq) (d : Dev) : Dev :=
  ((d.forgetIntent s).dropHeld s).updateSlot s fun x => { x.moveAll Mark.failable .failed with held := false }

end Sys2Proof.Machine
end

