-- ==== Sys2Proof/Machine/Layouts.lean ====
section
/-!
DEFINITION. The byte layouts of chapter 11 and the CRC-32 (R198, R199). Every multi-byte field is little-endian; the byte
order is decided in `leBytes` and `ofLe` and nowhere else.
-/

namespace Sys2Proof.Machine

/-! ## Encoding -/

def leBytes : Nat → Nat → List Byte
  | 0, _ => []
  | w + 1, n => BitVec.ofNat 8 n :: leBytes w (n / 256)

def ofLe : List Byte → Nat
  | [] => 0
  | b :: t => b.toNat + 256 * ofLe t

def zeros (n : Nat) : List Byte := List.replicate n 0

/-- Fill up to n bytes with zeros. -/
def padTo (n : Nat) (l : List Byte) : List Byte := l ++ zeros (n - l.length)

def slice (off n : Nat) (l : List Byte) : List Byte := (l.drop off).take n

def fieldAt (off n : Nat) (l : List Byte) : Nat := ofLe (slice off n l)

/-! ## CRC-32 (R198) -/

def crcShift (c : Word32) : Word32 := if c.getLsbD 0 then (c >>> 1) ^^^ 0xEDB88320#32 else c >>> 1

def crcByte (c : Word32) (b : Byte) : Word32 :=
  crcShift (crcShift (crcShift (crcShift (crcShift (crcShift (crcShift (crcShift (c ^^^ b.setWidth 32))))))))

def crc32 (l : List Byte) : Word32 := ~~~ (l.foldl crcByte 0xFFFFFFFF#32)

/-! ## The landing header (11.2) -/

/-- 1 LOCAL_NEWER, 2 LOCAL_OLDER, 3 LOCAL_NONE. -/
def compareCode : LocalCompare → Nat
  | .newer => 1
  | .older => 2
  | .none => 3

/-- The landing header, 512 bytes. -/
def landingHeader (a : Arrival) (landing site : Nat) (c : LocalCompare) (live : Nat) : List Byte :=
  padTo 512 (leBytes 4 a.id ++ leBytes 4 a.attempt ++ leBytes 2 landing ++ leBytes 1 site
    ++ leBytes 1 (intentKindCode a.kind) ++ leBytes 1 a.desc.keyLen ++ leBytes 1 (compareCode c) ++ zeros 2
    ++ leBytes 8 a.desc.seq ++ leBytes 4 a.desc.bucket.toNat ++ leBytes 4 a.desc.digest.toNat
    ++ leBytes 8 a.desc.keyHash.toNat ++ leBytes 8 a.desc.stamp.toNat ++ leBytes 8 (if c = .none then 0 else live)
    ++ leBytes 4 a.desc.payloadLen ++ zeros 4 ++ a.desc.key)

/-! ## Journal layouts (11.3) -/

/-- The intent record, which READ JOURNAL writes. -/
def intentBytes (r : IntentRec) : List Byte :=
  padTo (recordSize r.key.length)
    (leBytes 1 1 ++ leBytes 1 (intentKindCode r.kind) ++ leBytes 2 (recordSize r.key.length) ++ leBytes 1 r.origin.val
      ++ leBytes 1 (if r.held then 1 else 0) ++ leBytes 1 (r.entry.getD 255) ++ leBytes 1 r.quorum ++ [r.siteSet]
      ++ leBytes 1 r.key.length ++ zeros 2 ++ leBytes 4 r.tag.toNat ++ leBytes 8 r.seq ++ leBytes 4 r.bucket.toNat
      ++ leBytes 4 r.payloadLen ++ leBytes 8 r.keyHash.toNat ++ leBytes 8 r.stamp.toNat ++ leBytes 8 r.locator
      ++ leBytes 4 r.digest.toNat ++ zeros 52 ++ r.key)

def siteStateCode : SiteState → Nat
  | .detached => 1
  | .probing => 2
  | .active => 3
  | .stalled => 4
  | .fenced => 5
  | .evicted => 6

def eventStateCode : EventState → Nat
  | .state s => siteStateCode s
  | .rewind => 7

def decisionCode : Decision → Nat
  | .released => 1
  | .denied => 2

def recKindCode : Rec → Nat
  | .intent _ => 1
  | .settings _ => 2
  | .frontier _ => 3
  | .decision .. => 4
  | .siteEvent .. => 5
  | .shutdown _ => 6
  | .resume _ => 7

/-- The first four bytes of a control record: its kind and, at offset 2, its size. -/
def recHeader (r : Rec) : List Byte := leBytes 1 (recKindCode r) ++ zeros 1 ++ leBytes 2 r.size

/-- The bytes of a record. The contents of a SETTINGS record are not laid out (log 49). -/
def recBytes (r : Rec) : List Byte :=
  match r with
  | .intent i => intentBytes i
  | .settings c => recHeader r ++ (List.range 1532).map (Config.settingsByte c)
  | .frontier v =>
    padTo 160 (recHeader r ++ zeros 12
      ++ v.toList.flatMap fun e => leBytes 1 (siteStateCode e.1) ++ zeros 7 ++ leBytes 8 (e.2.getD 0))
  | .decision s dn => padTo 32 (recHeader r ++ zeros 4 ++ leBytes 8 s ++ leBytes 1 (decisionCode dn))
  | .siteEvent j st q =>
    padTo 32 (recHeader r ++ leBytes 1 j.val ++ leBytes 1 (eventStateCode st) ++ zeros 2 ++ leBytes 8 q)
  | .shutdown n | .resume n => padTo 32 (recHeader r ++ zeros 4 ++ leBytes 8 n)

/-- R4: the 32-byte page header: position, record count, first record kind, and the CRC at offset 28. -/
def pageHeader (pos : Nat) (recs : List Rec) (crc : Nat) : List Byte :=
  padTo 28 (leBytes 8 pos ++ leBytes 1 recs.length ++ leBytes 1 ((recs.head?.map recKindCode).getD 0)) ++ leBytes 4 crc

/-- R4: the 4 KiB of a page: the header, the packed records, and zeros behind the last one. -/
def pageImage (pos : Nat) (recs : List Rec) (crc : Nat) : List Byte :=
  padTo 4096 (pageHeader pos recs crc ++ recs.flatMap recBytes)

/-- R4, R198: the page CRC covers all 4,096 bytes, with the CRC field zero. -/
def pageCrc (pos : Nat) (recs : List Rec) : Word32 := crc32 (pageImage pos recs 0)

/-- R14: the page image that the array programs. `Page.crcOk` says that the page reads as this image, and so with its CRC. -/
def pageBytes (p : Page) : List Byte := pageImage p.pos p.recs (pageCrc p.pos p.recs).toNat

/-! ## Span frames (11.4) -/

def frameMagic : Nat := 0x5A3C9E17

/-- The OPEN body: the intent record layout with the placement fields, the flags and the locator zero. -/
def descBytes (o : OpenDesc) : List Byte :=
  padTo (recordSize o.keyLen)
    (leBytes 1 1 ++ leBytes 1 o.kind ++ leBytes 2 (recordSize o.keyLen) ++ zeros 5 ++ leBytes 1 o.keyLen ++ zeros 2
      ++ leBytes 4 o.tag.toNat ++ leBytes 8 o.seq ++ leBytes 4 o.bucket.toNat ++ leBytes 4 o.payloadLen
      ++ leBytes 8 o.keyHash.toNat ++ leBytes 8 o.stamp.toNat ++ zeros 8 ++ leBytes 4 o.digest.toNat ++ zeros 52 ++ o.key)

def FrameBody.kindCode : FrameBody → Nat
  | .hello _ => 1
  | .helloAck _ => 2
  | .opening _ => 3
  | .carry .. => 4
  | .receipt _ => 5
  | .gap .. => 6
  | .busy _ => 7

def FrameBody.bytes : FrameBody → List Byte
  | .hello e => padTo 8 (leBytes 1 e)
  | .helloAck n => leBytes 8 n
  | .opening o => descBytes o
  | .carry _ _ data => data
  | .receipt l => l.flatMap fun e => leBytes 8 e.1 ++ leBytes 1 (receiptOutcomeCode e.2) ++ zeros 7
  | .gap s l => leBytes 8 s ++ l.flatMap fun r => leBytes 4 r.1 ++ leBytes 4 r.2
  | .busy s => leBytes 8 s

/-- R63: the length of a frame. -/
def Frame.len (f : Frame) : Nat := 64 + f.body.bytes.length

/-- The span header with the CRC field given. -/
def Frame.header (f : Frame) (crc : Nat) : List Byte :=
  padTo 64 (leBytes 4 frameMagic ++ leBytes 1 1 ++ leBytes 1 f.body.kindCode ++ leBytes 1 f.sender ++ leBytes 1 f.receiver
    ++ leBytes 8 f.start ++ leBytes 4 f.len ++ leBytes 4 crc
    ++ (match f.body with | .carry s k _ => leBytes 8 s ++ leBytes 4 k | _ => zeros 12))

/-- R198: the frame as it travels; the CRC covers the whole frame with the CRC field zero. -/
def Frame.bytes (f : Frame) : List Byte :=
  f.header (crc32 (f.header 0 ++ f.body.bytes)).toNat ++ f.body.bytes

/-- A frame that is received, after check 1 of R64. `malformed` is a frame that check 5 drops for its kind or its length; it
keeps its kind code. -/
inductive InBody where
  | hello (expected : Nat)
  | helloAck (answered : Nat)
  | opening (frameLen : Nat) (o : OpenDesc)
  | carry (seq chunk : Nat) (data : List Byte)
  | receipt (entries : List (Nat × Nat))
  | gap (seq : Nat) (ranges : List (Nat × Nat))
  | busy (seq : Nat)
  | malformed (code : Nat)
  deriving DecidableEq, Repr

/-- Cut a list into pieces of n. -/
def cut (n : Nat) : Nat → List Byte → List (List Byte)
  | 0, _ => []
  | k + 1, l => l.take n :: cut n k (l.drop n)

def parseDesc (l : List Byte) : OpenDesc where
  seq := fieldAt 16 8 l
  kind := fieldAt 1 1 l
  keyLen := fieldAt 9 1 l
  key := slice 112 (fieldAt 9 1 l) l
  tag := BitVec.ofNat 32 (fieldAt 12 4 l)
  bucket := BitVec.ofNat 32 (fieldAt 24 4 l)
  keyHash := BitVec.ofNat 64 (fieldAt 32 8 l)
  stamp := BitVec.ofNat 64 (fieldAt 40 8 l)
  payloadLen := fieldAt 28 4 l
  digest := BitVec.ofNat 32 (fieldAt 56 4 l)

/-- The body of a frame of the given kind code; l is the whole frame. The record header of an OPEN must name an INTENT record;
its record size is not read (log 85). -/
def parseBody (code : Nat) (l : List Byte) : InBody :=
  let body := l.drop 64
  let n := l.length
  match code with
  | 1 => if n = 72 then .hello (fieldAt 0 1 body) else .malformed code
  | 2 => if n = 72 then .helloAck (fieldAt 0 8 body) else .malformed code
  | 3 =>
    if 192 ≤ n ∧ n ≤ 416 ∧ n % 16 = 0 ∧ fieldAt 0 1 body = 1 then .opening n (parseDesc body) else .malformed code
  | 4 => if 65 ≤ n ∧ n ≤ 8256 then .carry (fieldAt 24 8 l) (fieldAt 32 4 l) body else .malformed code
  | 5 =>
    if 80 ≤ n ∧ n ≤ 1088 ∧ n % 16 = 0 then
      .receipt ((cut 16 ((n - 64) / 16) body).map fun e => (fieldAt 0 8 e, fieldAt 8 1 e))
    else .malformed code
  | 6 =>
    if 80 ≤ n ∧ n ≤ 328 ∧ n % 8 = 0 then
      .gap (fieldAt 0 8 body) ((cut 8 ((n - 72) / 8) (body.drop 8)).map fun e => (fieldAt 0 4 e, fieldAt 4 4 e))
    else .malformed code
  | 7 => if n = 72 then .busy (fieldAt 0 8 body) else .malformed code
  | _ => .malformed code

/-- R64, check 1, on the bytes of a frame; then the header and the body. -/
def parseFrame (l : List Byte) : Option (FrameHdr × InBody) :=
  let zeroed := l.take 20 ++ zeros 4 ++ l.drop 24
  if 64 ≤ l.length ∧ fieldAt 0 4 l = frameMagic ∧ fieldAt 4 1 l = 1 ∧ fieldAt 16 4 l = l.length
      ∧ fieldAt 20 4 l = (crc32 zeroed).toNat then
    some (⟨fieldAt 6 1 l, fieldAt 7 1 l, fieldAt 8 8 l⟩, parseBody (fieldAt 5 1 l) l)
  else none

end Sys2Proof.Machine
end

