-- ==== Sys2Proof/Machine/Inbound.lean ====
section
/-!
DEFINITION. Inbound replication (chapter 07): receipts and the done list, the taking of an OPEN, assembly, delivery and the
effects of port and site events.
-/

namespace Sys2Proof.Machine

/-- R125: 1 GiB in blocks of 8,192 bytes. -/
def arenaBlocks : Nat := 131072

def arrivalPlaces : Nat := 2048

def Dev.modInbound (f : Inbound → Inbound) (d : Dev) : Dev := { d with inbound := f d.inbound }

def Dev.countInbound (f : InboundCounts → InboundCounts) (d : Dev) : Dev :=
  d.modInbound fun x => { x with counts := f x.counts }

def Inbound.reserved (x : Inbound) : Nat := (x.arrivals.map (·.blocks)).sum

def Inbound.freeBlocks (x : Inbound) : Nat := arenaBlocks - x.reserved

def Inbound.arrival (x : Inbound) (id : Nat) : Option Arrival := x.arrivals.find? fun a => a.id == id

def Dev.modArrival (id : Nat) (f : Arrival → Arrival) (d : Dev) : Dev :=
  d.modInbound fun x => { x with arrivals := x.arrivals.map fun a => if a.id == id then f a else a }

/-- An entry leaves the arrival list; its blocks are free from then on (R125). -/
def Dev.dropArrival (id : Nat) (d : Dev) : Dev :=
  d.modInbound fun x => { x with arrivals := x.arrivals.filter fun a => a.id != id }

/-! ## Receipts and the done list (R125, R126) -/

/-- R126: a receipt is raised for a slot; for a FENCED slot it is withheld. -/
def Dev.raiseReceipt (j : SlotId) (s : Seq) (o : ReceiptOutcome) (d : Dev) : Dev :=
  let d := d.countInbound fun c => { c with raised := sat64 (c.raised + 1) }
  if d.siteState j = .fenced then d.countInbound fun c => { c with withheld := sat64 (c.withheld + 1) }
  else d.modInbound fun x => { x with raised := x.raised ++ [(j, s, o)] }

/-- R125: a done entry joins; of 4,097 the oldest leaves. -/
def Dev.addDone (j : SlotId) (s : Seq) (o : ReceiptOutcome) (d : Dev) : Dev :=
  d.modInbound fun x => { x with done := (if x.done.length < 4096 then x.done else x.done.drop 1) ++ [⟨j, s, o⟩] }

/-- R126: a receipt for a pair, which joins the done list. -/
def Dev.settlePair (j : SlotId) (s : Seq) (o : ReceiptOutcome) (d : Dev) : Dev := (d.raiseReceipt j s o).addDone j s o

/-- R126: the outcome for a held receipt. -/
def heldOutcome : ReceiptOutcome → ReceiptOutcome
  | .refused => .refused
  | _ => .supersededAtPeer

/-- R126: an arrival entry is finished. -/
def Dev.finish (a : Arrival) (o : ReceiptOutcome) (d : Dev) : Dev :=
  let d := d.settlePair a.slot a.desc.seq o
  let d := match a.heldReceipt with
    | some (j, s) => d.settlePair j s (heldOutcome o)
    | none => d
  d.dropArrival a.id

/-- R126: a RECEIPT frame holds up to 64 entries; any further receipts fill further frames. -/
def receiptFrames : Nat → List (Seq × ReceiptOutcome) → List FrameBody
  | 0, _ => []
  | _, [] => []
  | n + 1, e :: l => .receipt ((e :: l).take 64) :: receiptFrames n ((e :: l).drop 64)

/-- R126: the receipts that the event has raised travel, one slot after another, by the first receipt
that each has raised (log 80). -/
def Dev.flushReceipts (d : Dev) : Dev :=
  let all := d.inbound.raised
  let slots := (all.map (·.1)).eraseDups
  let d := d.modInbound fun x => { x with raised := [] }
  slots.foldl
    (fun d j =>
      let l := (all.filter fun e => e.1 == j).map (·.2)
      (receiptFrames l.length l).foldl (fun d b => d.raiseFrame j b) d)
    d

/-! ## Completion (R133) -/

/-- R124: every chunk is present. -/
def Arrival.complete (a : Arrival) : Bool := a.chunks.length == chunkCount a.desc.payloadLen

def Arrival.payload (a : Arrival) : List Byte := a.chunks.flatMap (·.2)

/-- R133: the comparison with a matched entry. Equal stamps do not arise, because an inbound stamp never carries the local
site number (R127). -/
def compareStamps (live : Option (Seq × Word64)) (stamp : Word64) : LocalCompare :=
  match live with
  | none => .none
  | some (_, t) => if stamp < t then .newer else .older

/-- R133: the result of the local lookup is known, and the entry takes the next completion order (log 83). A matched entry that
was freed meanwhile stays the stored result, with LOCAL_NONE (log 67). -/
def Dev.arrivalKnown (id : Nat) (o : Outcome27) (d : Dev) : Dev :=
  let result : ArrivalLookup × LocalCompare := match o with
    | .found w c .matched =>
      (.found w c, match Tbl.get d.index.ways w with
        | some e => if e.creation = c then compareStamps e.live ((d.inbound.arrival id).map (·.desc.stamp) |>.getD 0) else .none
        | none => .none)
    | _ => (.none, .none)
  let d := d.modArrival id fun a =>
    { a with state := .waitingLanding, lookup := result.1, compare := some result.2, order := d.inbound.nextOrder }
  d.modInbound fun x => { x with nextOrder := x.nextOrder + 1 }

def Dev.enqueueRead (r : ReadReq) (d : Dev) : Dev := { d with array := { d.array with reads := d.array.reads ++ [r] } }

/-- R133: an entry has become complete. -/
def Dev.arrivalComplete (id : Nat) (d : Dev) : Dev :=
  match d.inbound.arrival id with
  | none => d
  | some a =>
    let d := d.modArrival id fun a => { a with silenceDue := none }
    if a.kind != .delete && crc32 a.payload != a.desc.digest then
      (d.finish a .refused).countInbound fun c => { c with digestRefusals := sat64 (c.digestRefusals + 1) }
    else
      match d.lookup a.desc.bucket a.desc.keyHash a.desc.keyLen a.desc.key with
      | .known o => d.arrivalKnown id o
      | .read seg page source w c =>
        (d.modArrival id fun a => { a with lookup := .pending }).enqueueRead ⟨seg, page, source, .arrival id w c⟩

/-- R133: the read that a local lookup started has ended; the record is none when the read failed. The way and the creation
sequence are those of the entry that the lookup named. -/
def Dev.arrivalRead (id way creation : Nat) (r : Option IntentRec) (d : Dev) : Dev :=
  match d.inbound.arrival id with
  | none => d
  | some a =>
    if a.state = .assembling ∧ a.lookup = .pending then
      match r with
      | none => d.arrivalKnown id .none
      | some r => d.arrivalKnown id (.found way creation (compareKey r (keyOf a.desc.keyLen a.desc.key)))
    else d

/-! ## Taking an OPEN (R127 to R130) -/

/-- R127: the contents of an OPEN are well formed; the kind. -/
def openKind (site frameLen : Nat) (o : OpenDesc) : Option IntentKind :=
  match intentKindOf o.kind with
  | none => none
  | some k =>
    if o.seq ≠ 0 ∧ 1 ≤ o.keyLen ∧ o.keyLen ≤ 240 ∧ frameLen = openLen o.keyLen ∧ payloadLenOk k o.payloadLen = true
        ∧ o.stamp.toNat % 16 = site then some k
    else none

/-- R124: the number after n; 0 is passed over when the counter wraps. -/
def arrivalIdAfter (n : Nat) : Nat := if n ≥ 4294967295 then 1 else n + 1

/-- R128, case 4: an entry is created; a DELETE is complete at once. -/
def Dev.createArrival (j : SlotId) (o : OpenDesc) (k : IntentKind) (held : Option (SlotId × Seq)) (d : Dev) : Dev :=
  let id := d.inbound.nextId
  let a : Arrival :=
    { id, slot := j, desc := o, kind := k, blocks := chunkCount o.payloadLen, silenceDue := some (d.now + 20000)
      heldReceipt := held }
  let d := d.modInbound fun x => { x with arrivals := x.arrivals ++ [a], nextId := arrivalIdAfter id }
  if a.complete then d.arrivalComplete id else d

/-- R130: an OPEN is refused. The notice counts once for all the ports, and as posted also when no port is ONLINE; exactly 1 s
after the last one a new one is posted (log 66). -/
def Dev.refuseOpen (j : SlotId) (s : Seq) (listFull arenaFull : Bool) (d : Dev) : Dev :=
  let d := if d.siteState j = .fenced then d else d.raiseFrame j (.busy s)
  let d := d.countInbound fun c =>
    { c with
      listFull := if listFull then sat64 (c.listFull + 1) else c.listFull
      arenaFull := if arenaFull then sat64 (c.arenaFull + 1) else c.arenaFull }
  let n := d.inbound.refusals + 1
  let recent := match d.inbound.lastPressure with
    | some t => decide (d.now < t + 1000000)
    | none => false
  if recent then d.modInbound fun x => { x with refusals := n }
  else
    let b := NoticeBody.inboundPressure listFull arenaFull n (arrivalPlaces - d.inbound.arrivals.length)
      d.inbound.freeBlocks
    let d := d.modInbound fun x => { x with refusals := 0, lastPressure := some d.now }
    (d.broadcast b).countInbound fun c => { c with pressureNotices := sat64 (c.pressureNotices + 1) }

def Arrival.sameKey (a b : Arrival) : Bool :=
  a.desc.bucket == b.desc.bucket && a.desc.keyLen == b.desc.keyLen && a.desc.key == b.desc.key

def Arrival.comparable (a : Arrival) : Bool := a.state == .assembling || a.state == .waitingLanding

/-- R129: the test of newer. -/
def newerThan (j : SlotId) (s : Seq) (t : Word64) (e : Arrival) : Bool :=
  decide (e.desc.stamp < t) || (t == e.desc.stamp && j == e.slot && decide (e.desc.seq < s))

/-- R128: a well-formed OPEN. -/
def Dev.takeOpen (j : SlotId) (o : OpenDesc) (k : IntentKind) (d : Dev) : Dev :=
  let x := d.inbound
  let pair (l : SlotId) (s : Seq) : Bool := l == j && s == o.seq
  match x.done.find? fun e => pair e.slot e.seq with
  | some e =>
    (d.raiseReceipt j o.seq e.outcome).countInbound fun c => { c with doneHits := sat64 (c.doneHits + 1) }
  | none =>
    if x.arrivals.any fun a => pair a.slot a.desc.seq || a.heldReceipt == some (j, o.seq) then
      d.countInbound fun c => { c with repeats := sat64 (c.repeats + 1) }
    else
      let need := chunkCount o.payloadLen
      let places := arrivalPlaces - x.arrivals.length
      match x.arrivals.find? fun a =>
          a.comparable && a.desc.bucket == o.bucket && a.desc.keyLen == o.keyLen && a.desc.key == o.key with
      | none =>
        if places = 0 ∨ x.freeBlocks < need then
          d.refuseOpen j o.seq (decide (places = 0)) (decide (x.freeBlocks < need))
        else d.createArrival j o k none
      | some e =>
        if !newerThan j o.seq o.stamp e then
          (d.settlePair j o.seq .supersededAtPeer).countInbound fun c =>
            { c with answeredAtOnce := sat64 (c.answeredAtOnce + 1) }
        else if x.freeBlocks + e.blocks < need then d.refuseOpen j o.seq (decide (places = 0)) true
        else
          let d := match e.heldReceipt with
            | some (l, s) => d.settlePair l s .supersededAtPeer
            | none => d
          let d := (d.dropArrival e.id).countInbound fun c => { c with displaced := sat64 (c.displaced + 1) }
          d.createArrival j o k (some (e.slot, e.desc.seq))

/-! ## Assembly (R131, R132) -/

/-- R131: what becomes of a CARRY. -/
inductive Chunk where
  | orphan
  | malformed
  | duplicate
  | adds (id : Nat)
  deriving DecidableEq, Repr

def Inbound.chunkFate (x : Inbound) (j : SlotId) (s k len : Nat) : Chunk :=
  match x.arrivals.find? fun a => a.slot == j && a.desc.seq == s with
  | none => .orphan
  | some a =>
    if a.kind = .delete ∨ chunkCount a.desc.payloadLen ≤ k ∨ len ≠ chunkLen a.desc.payloadLen k then .malformed
    else if a.chunks.any fun c => c.1 == k then .duplicate
    else .adds a.id

/-- R131: a CARRY that adds its chunk. -/
def Dev.addChunk (id k : Nat) (data : List Byte) (d : Dev) : Dev :=
  let d := d.modArrival id fun a => { a with chunks := Tbl.put a.chunks k data, silenceDue := some (d.now + 20000) }
  match d.inbound.arrival id with
  | some a => if a.complete then d.arrivalComplete id else d
  | none => d

/-- The chunks of an arrival that are missing, ascending. -/
def Arrival.missing (a : Arrival) : List Nat :=
  (List.range (chunkCount a.desc.payloadLen)).filter fun k => !a.chunks.any fun c => c.1 == k

/-- Consecutive indexes as ranges. -/
def ranges : List Nat → List (Nat × Nat)
  | [] => []
  | k :: t =>
    match ranges t with
    | (a, b) :: r => if k + 1 = a then (k, b) :: r else (k, k) :: (a, b) :: r
    | [] => [(k, k)]

/-- R132: the silence timer of an entry expires. -/
def Dev.silenceExpired (id : Nat) (d : Dev) : Dev :=
  match d.inbound.arrival id with
  | none => d
  | some a =>
    if a.gaps < 4 then
      let d := if d.siteState a.slot = .fenced then d else d.raiseFrame a.slot (.gap a.desc.seq ((ranges a.missing).take 32))
      let d := d.countInbound fun c => { c with gapReports := sat64 (c.gapReports + 1) }
      d.modArrival id fun a => { a with gaps := a.gaps + 1, silenceDue := some (d.now + 20000) }
    else (d.dropArrival id).countInbound fun c => { c with dropped := sat64 (c.dropped + 1) }

/-! ## Delivery (R134 to R136) -/

def Landing.takes (l : Landing) (a : Arrival) : Bool := decide (512 + a.desc.payloadLen ≤ l.capacity)

def Inbound.deliveringTo (x : Inbound) (p : PortId) : Bool :=
  x.arrivals.any fun a => a.state == .delivering && (a.delivery.map (·.1)) == some p

/-- R135: a port qualifies for an entry. -/
def Dev.qualifies (d : Dev) (a : Arrival) (p : PortId) : Bool :=
  d.online p && !d.inbound.deliveringTo p && d.ports[p].landings.any fun l => l.takes a

def insertOrder (a : Arrival) : List Arrival → List Arrival
  | [] => [a]
  | b :: t => if a.order ≤ b.order then a :: b :: t else b :: insertOrder a t

/-- Arrivals in completion order. -/
def inOrder (l : List Arrival) : List Arrival := l.foldr insertOrder []

/-- R135: the next delivery that the arbiter would start. -/
def Dev.nextDelivery (d : Dev) : Option (Arrival × PortId) :=
  (inOrder (d.inbound.arrivals.filter fun a => a.state == .waitingLanding)).findSome? fun a =>
    ((portsAfter d.inbound.lastPort).find? (d.qualifies a)).map fun p => (a, p)

/-- R136: the comparison at a delivery start, and the live stamp that the header carries. -/
def Dev.refreshCompare (d : Dev) (a : Arrival) : LocalCompare × Word64 :=
  match a.lookup with
  | .found w c =>
    match Tbl.get d.index.ways w with
    | some e =>
      if e.creation = c ∧ e.holds a.desc.bucket a.desc.keyHash a.desc.keyLen = true then
        (compareStamps e.live a.desc.stamp, (e.live.map (·.2)).getD 0)
      else (.none, 0)
    | none => (.none, 0)
  | _ => (.none, 0)

/-- R136: a delivery starts. The stored lookup result keeps its way and creation sequence, also when the refresh finds that the
way no longer holds the triple (log 75). The delivery attempt has no largest value (log 18). -/
def Dev.startDelivery (a : Arrival) (p : PortId) (d : Dev) : Dev :=
  match d.ports[p].landings.find? fun l => l.takes a with
  | none => d
  | some l =>
    let (c, live) := d.refreshCompare a
    let b := { a with state := .delivering, delivery := some (p, l), attempt := a.attempt + 1, compare := some c }
    let data := landingHeader b l.id ((d.config a.slot).site.getD 0) c live.toNat ++ a.payload
    let d := d.modArrival a.id fun _ => b
    let d := d.modPort p fun q => { q with landings := q.landings.erase l }
    let d := d.modInbound fun x => { x with lastPort := p }
    let d := d.countInbound fun n => { n with deliveries := sat64 (n.deliveries + 1) }
    { d with dma := d.dma ++ [⟨p, l.addr, data, none⟩] }

def DmaWrite.isLanding (w : DmaWrite) : Bool := w.journal.isNone

/-- R137, R138: the landing write to a port stops. -/
def Dev.stopLanding (p : PortId) (d : Dev) : Dev := { d with dma := d.dma.filter fun w => !(w.port == p && w.isLanding) }

/-- R136: the landing write to a port completes. -/
def Dev.landed (p : PortId) (d : Dev) : Dev :=
  match d.inbound.arrivals.find? fun a => a.state == .delivering && (a.delivery.map (·.1)) == some p with
  | none => d
  | some a =>
    let d := (d.stopLanding p).modArrival a.id fun a => { a with state := .delivered }
    d.notify p false
      (.delivered a.id a.attempt ((a.delivery.map (·.2.id)).getD 0) ((d.config a.slot).site.getD 0) a.desc.seq a.kind
        a.desc.bucket a.desc.payloadLen (a.compare.getD .none))

/-! ## Effects of port and site events (R137, R138) -/

/-- R137: a returned entry is compared with one other entry: the older of the two goes. Nothing happens when an earlier
comparison has taken one of them. -/
def Dev.compareWith (id other : Nat) (d : Dev) : Dev :=
  match d.inbound.arrival id, d.inbound.arrival other with
  | some a, some b => d.finish (if newerThan a.slot a.desc.seq a.desc.stamp b then b else a) .supersededAtPeer
  | _, _ => d

/-- R137: a returned entry is compared with every other entry of its key that is ASSEMBLING or WAITING_LANDING, those created
first coming first (log 76), so that at most one of them remains (R129). -/
def Dev.compareReturned (id : Nat) (d : Dev) : Dev :=
  match d.inbound.arrival id with
  | none => d
  | some a =>
    let others := d.inbound.arrivals.filter fun b => b.id != id && b.comparable && b.sameKey a
    others.foldl (fun d b => d.compareWith id b.id) d

/-- R137: an entry returns to WAITING_LANDING. -/
def Dev.returnArrival (id : Nat) (d : Dev) : Dev :=
  (d.modArrival id fun a => { a with state := .waitingLanding, delivery := none }).countInbound
    fun c => { c with returned := sat64 (c.returned + 1) }

/-- R137: a port leaves ONLINE or has a function reset. Every entry returns, and then each is compared, in completion order. -/
def Dev.returnDeliveries (p : PortId) (d : Dev) : Dev :=
  let back := inOrder (d.inbound.arrivals.filter fun a => (a.delivery.map (·.1)) == some p)
  let d := (d.stopLanding p).modPort p fun q => { q with landings := [] }
  let d := back.foldl (fun d a => d.returnArrival a.id) d
  back.foldl (fun d a => d.compareReturned a.id) d

/-- R138, FENCE SITE. These entries do not raise the dropped-entry count (log 69). -/
def Dev.fenceArrivals (j : SlotId) (d : Dev) : Dev :=
  d.modInbound fun x => { x with arrivals := x.arrivals.filter fun a => !(a.slot == j && a.state == .assembling) }

/-- R138, DETACH SITE: a delivery in progress stops and its descriptor goes back to the front of its port's list, also when
the list is full (log 68). -/
def Dev.stopDelivery (a : Arrival) (d : Dev) : Dev :=
  match a.state, a.delivery with
  | .delivering, some (p, l) => (d.stopLanding p).modPort p fun q => { q with landings := l :: q.landings }
  | _, _ => d

/-- R138, DETACH SITE. -/
def Dev.detachArrivals (j : SlotId) (d : Dev) : Dev :=
  let mine := d.inbound.arrivals.filter fun a => a.slot == j
  let d := mine.foldl (fun d a => d.stopDelivery a) d
  d.modInbound fun x =>
    { x with
      arrivals := (x.arrivals.filter fun a => a.slot != j).map fun a =>
        { a with heldReceipt := a.heldReceipt.filter fun h => h.1 != j }
      done := x.done.filter fun e => e.slot != j
      raised := x.raised.filter fun e => e.1 != j }

/-- R138: a peer restart, or a start count first recorded. -/
def Dev.peerStartArrivals (j : SlotId) (d : Dev) : Dev :=
  d.modInbound fun x =>
    { x with
      arrivals := x.arrivals.map fun a =>
        if a.slot == j && a.state == .assembling then
          { a with gaps := 0, silenceDue := a.silenceDue.map fun _ => d.now + 20000 }
        else a }

/-- R139: every silence timer stops. -/
def Dev.stopSilence (d : Dev) : Dev :=
  d.modInbound fun x => { x with arrivals := x.arrivals.map fun a => { a with silenceDue := none } }

/-- R139: every stopped silence timer restarts at 20 ms: those of the incomplete ASSEMBLING entries. -/
def Dev.restartSilence (d : Dev) : Dev :=
  d.modInbound fun x =>
    { x with
      arrivals := x.arrivals.map fun a =>
        if a.state == .assembling && !a.complete then { a with silenceDue := some (d.now + 20000) } else a }

end Sys2Proof.Machine
end

