-- ==== Sys2Proof/Machine/Pacing.lean ====
section
/-!
DEFINITION. Pacing and windows (chapter 05): generators, grants, shares and adds, caps, lending, round-trip estimates,
retry intervals and windows.
-/

namespace Sys2Proof.Machine

/-! ## Members, adds and caps (R89 to R93) -/

/-- R89: the members of a generator are the slots mapped to it that are ACTIVE and PACED. -/
def Dev.isMember (d : Dev) (g : GenId) (j : SlotId) : Bool :=
  d.siteState j == .active && (d.config j).mode == .paced && (d.config j).gen == g

def Dev.members (d : Dev) (g : GenId) : List SlotId := allSlots.filter (d.isMember g)

/-- R91: the grant of a generator's settings. -/
def GenSettings.grant (s : GenSettings) : Nat := s.rate * s.period * 25 / 2

/-- R92: W, the sum of the members' shares. -/
def Dev.shareSum (d : Dev) (g : GenId) : Nat := ((d.members g).map fun j => (d.config j).share).sum

/-- R92: D. -/
def Dev.divisor (d : Dev) (g : GenId) : Nat := max 1024 (d.shareSum g)

/-- R92: the add of a slot at its generator's current settings and members. -/
def Dev.add (d : Dev) (j : SlotId) : Nat :=
  let g := (d.config j).gen
  d.settings.gens[g].grant * (d.config j).share / d.divisor g

/-- R93: the cap for an add; 8,256 is the length of the largest span frame. -/
def capOf (a : Nat) : Nat := 2 * max a 8256

def Dev.cap (d : Dev) (j : SlotId) : Nat := capOf (d.add j)

/-- R97: each member's credit is set to min(credit, cap). -/
def Dev.clampMembers (g : GenId) (d : Dev) : Dev :=
  (d.members g).foldl (fun d j => d.modSite j fun x => { x with credit := min x.credit (d.cap j) }) d

/-! ## Round-trip estimates (R98 to R101) -/

/-- R98: a sample, clamped. -/
def clampSample (s : Nat) : Int := clamp 100 4000000 s

/-- R99: the estimate after a sample. Both divisions truncate toward zero, and rttvar is computed first. -/
def rttAfter (r : Option (Int × Int)) (s : Int) : Int × Int :=
  match r with
  | none => (s, s / 2)
  | some (srtt, rttvar) =>
    let dev := if s ≤ srtt then srtt - s else s - srtt
    (srtt + (s - srtt).tdiv 8, rttvar + (dev - rttvar).tdiv 4)

/-- R100. -/
def rtoOf (r : Option (Int × Int)) : Int :=
  match r with
  | none => 1000000
  | some (srtt, rttvar) => max 20000 (min 8000000 (srtt + max (4 * rttvar) 2000))

/-- R101: the interval for retry k. -/
def intervalOf (r : Option (Int × Int)) (k : Nat) : Nat := (min (rtoOf r * 2 ^ (k - 1)) 8000000).toNat

/-- R73: the retry number of an entry. -/
def retryNumber (count : Nat) : Nat := if count < 8 then count + 1 else 8

/-- R98: a sample is offered for a slot in the event of a RECEIPT entry. -/
def Site.sample (now lastSend : Time) (x : Site) : Site :=
  { x with rtt := some (rttAfter x.rtt (clampSample (now - lastSend))) }

/-! ## Windows (R102, R103) -/

/-- R102: ceil(A × srtt × 5 / (4 × P)), clamped. -/
def pacedWindow (add period : Nat) (r : Option (Int × Int)) : Nat :=
  let srtt := match r with
    | none => 200000
    | some (s, _) => s.toNat
  clamp 65536 67108864 ((add * srtt * 5 + (4 * period - 1)) / (4 * period))

/-- R102, R103: the window of a slot; for a PACED slot that is not a member the same formula is used (log 19). -/
def Dev.window (d : Dev) (j : SlotId) : Nat :=
  let c := d.config j
  match c.mode with
  | .unpaced => c.maxWindow
  | .paced => pacedWindow (d.add j) d.settings.gens[c.gen].period d.sites[j].rtt

/-- R71: the in-flight bytes. -/
def Site.inFlightBytes (x : Site) : Nat := (x.inFlight.map (·.size)).sum

/-- R71: a first send of an intent of this encoded size may begin. -/
def Dev.windowPermits (d : Dev) (j : SlotId) (size : Nat) : Bool :=
  let x := d.sites[j]
  decide (x.inFlight.length < 4096) && (decide (x.inFlightBytes + size ≤ d.window j) || x.inFlight.isEmpty)

/-- R76: a BUSY pause runs. -/
def Dev.busyPause (d : Dev) (j : SlotId) : Bool :=
  match d.sites[j].busyEnd with
  | some t => decide (d.now < t)
  | none => false

/-! ## Candidates -/

def Dev.cached (d : Dev) (s : Seq) : Bool := d.fetch.cache.any fun e => e.seq == s

/-- R68, R70: the record and the payload of a candidate are ready; a DELETE needs no payload. -/
def Dev.candidateReady (d : Dev) (c : Candidate) : Bool :=
  match c.record with
  | none => false
  | some r => r.kind == .delete || d.cached c.seq

/-- R70, R71: the first send of a candidate may begin. -/
def Dev.sendPermitted (d : Dev) (j : SlotId) (c : Candidate) : Bool :=
  d.candidateReady c && !d.busyPause j &&
    match c.record with
    | none => false
    | some r => d.windowPermits j (encodedSize r.key.length r.payloadLen)

/-- R94: a member wants credit. -/
def Dev.wantsCredit (d : Dev) (j : SlotId) : Bool :=
  let x := d.sites[j]
  x.send.isSome || !x.resends.isEmpty || x.candidates.any (d.sendPermitted j)

/-! ## The pacing grant (R91 to R94) -/

/-- R93: the excess of a credit over a cap. -/
def excessOf (credit : Int) (cap : Nat) : Int := max 0 (credit - cap)

/-- R93: every member's add, limited to its cap. -/
def Dev.addAll (g : GenId) (d : Dev) : Dev :=
  (d.members g).foldl (fun e j => e.modSite j fun x => { x with credit := min (x.credit + d.add j) (d.cap j) }) d

/-- R93: the pool, the excesses of the members with LEND on. -/
def Dev.lentBy (g : GenId) (lend : Bool) (d : Dev) : Int :=
  (((d.members g).filter fun j => (d.config j).lend == lend).map fun j => excessOf (d.sites[j].credit + d.add j) (d.cap j)).sum

/-- R94: the members that want credit and whose credit is below their cap; d is the state after the adds. -/
def Dev.receivers (g : GenId) (d : Dev) : List SlotId :=
  (d.members g).filter fun j => decide (d.sites[j].credit < d.cap j) && d.wantsCredit j

/-- R94: each receiver is given the quantity, limited to its cap. -/
def Dev.giveAll (l : List SlotId) (q : Int) (d : Dev) : Dev :=
  l.foldl (fun e j => e.modSite j fun x => { x with credit := min (x.credit + q) (d.cap j) }) d

/-- R91 to R94: the pacing grant of a generator at its current settings and members. -/
def Dev.pacingGrant (g : GenId) (d : Dev) : Dev :=
  let claimed : Nat := ((d.members g).map d.add).sum
  let pool := d.lentBy g true
  let dropped := d.lentBy g false
  let e := d.addAll g
  let rs := e.receivers g
  let n : Int := rs.length
  let each := if n = 0 then 0 else pool / n
  let surplus : Int := (rs.map fun j => excessOf (e.sites[j].credit + each) (e.cap j)).sum
  let discarded := (d.settings.gens[g].grant : Int) - claimed + dropped + (pool - n * each) + surplus
  let f := e.giveAll rs each
  { f with gens := f.gens.set g { f.gens[g] with lastPool := pool, lastDiscarded := discarded } }

/-! ## Period timers (R90) -/

def Dev.setGenDue (g : GenId) (due : Option Time) (d : Dev) : Dev :=
  { d with gens := d.gens.set g { d.gens[g] with due := due } }

/-- R90: the timer of a generator starts if the generator is enabled; else it is stopped. -/
def Dev.startGen (g : GenId) (d : Dev) : Dev :=
  let s := d.settings.gens[g]
  d.setGenDue g (if s.enable then some (d.now + s.period) else none)

def Dev.startGens (d : Dev) : Dev := allGens.foldl (fun d g => d.startGen g) d

def Dev.stopGens (d : Dev) : Dev := allGens.foldl (fun d g => d.setGenDue g none) d

/-- R104: the report on a generator. -/
def Dev.genReport (g : GenId) (d : Dev) : GenReport where
  settings := d.settings.gens[g]
  grant := d.settings.gens[g].grant
  members := (d.members g).length
  w := d.shareSum g
  d := d.divisor g
  lastPool := d.gens[g].lastPool
  lastDiscarded := d.gens[g].lastDiscarded

/-- R97: a slot enters or leaves ACTIVE, so that its generator's members change; the members are clamped. A slot that is
not ACTIVE has credit 0. -/
def Dev.membershipChanged (j : SlotId) (d : Dev) : Dev := d.clampMembers (d.config j).gen

end Sys2Proof.Machine
end

