-- ==== Sys2Proof/Machine/Staging.lean ====
section
/-!
DEFINITION. Staging (R9, R11 to R13): the placing of a record into a buffer, and the closing of a buffer.
-/

namespace Sys2Proof.Machine

/-- R12: at most one buffer is FILLING. -/
def Journal.fillingBuf (j : Journal) : Option BufId :=
  if j.bufA.state = .filling then some .a else if j.bufB.state = .filling then some .b else none

def Buffer.fits (b : Buffer) (size : Nat) : Bool := decide (b.used + size ≤ pageRoom)

/-- R12, case 3: the EMPTY buffer that takes the record. -/
def Journal.emptyBuf (j : Journal) : Option BufId :=
  match j.bufA.state, j.bufB.state with
  | .empty, .empty => if j.lastProg = some .a then some .b else some .a
  | .empty, _ => some .a
  | _, .empty => some .b
  | _, _ => none

/-- R13, R14: the FILLING buffer goes to PROGRAMMING, and the commit timer stops. -/
def Journal.close (j : Journal) : Journal :=
  match j.fillingBuf with
  | none => j
  | some id =>
    let k := j.putBuf id { j.buf id with state := .programming }
    { k with progQ := k.progQ ++ [id], commitDue := none }

/-- R12, case 2: the FILLING buffer closes when the record does not fit in it. -/
def Journal.makeRoom (size : Nat) (j : Journal) : Journal :=
  match j.fillingBuf with
  | some id => if (j.buf id).fits size then j else j.close
  | none => j

/-- R12: the buffer into which a record of this size would be placed at once. -/
def Journal.target (size : Nat) (j : Journal) : Option BufId :=
  let k := j.makeRoom size
  k.fillingBuf.orElse fun _ => k.emptyBuf

/-- R12: the record is placed, or waits (none). The FILLING buffer closes in either case when the record does not fit. -/
def Journal.place (now : Time) (delay : Nat) (s : Staged) (j : Journal) : Journal × Bool :=
  let k := j.makeRoom s.item.size
  match j.target s.item.size with
  | none => (k, false)
  | some id =>
    let b := k.buf id
    let due := if b.state = .filling then k.commitDue else some (now + delay)
    ({ k.putBuf id { state := .filling, recs := b.recs ++ [s] } with commitDue := due }, true)

/-- R14, R3: the segment that takes the next page: the FILLING one, else the BLANK one that is chosen for it. -/
def ArrayBlk.programTarget (a : ArrayBlk) : Option Nat := a.filling.orElse fun _ => a.chooseBlank

/-- R3: a program waits for a BLANK segment. (A program in progress is in the FILLING segment.) -/
def Dev.programStalled (d : Dev) : Bool := !d.journal.progQ.isEmpty && d.array.programTarget.isNone

/-- R12: place a record; the second part says whether it was placed. While a program waits for a BLANK segment, every record
waits (R3), and a FILLING buffer in which it does not fit stays FILLING (log 87). -/
def Dev.place (s : Staged) (d : Dev) : Dev × Bool :=
  let (j, ok) := if d.programStalled then (d.journal, false) else d.journal.place d.now d.settings.commitDelay s
  ({ d with journal := j }, ok)

def Dev.closeBuffer (d : Dev) : Dev := { d with journal := d.journal.close }

/-- R187: the quiesce is in its steps 1 to 4. The page that it fills is closed by SHUTDOWN, or by a record that does not fit, and
not by the commit timer or a FLUSH (log 86), so that at most three pages are programmed. -/
def Dev.quiescePlaces (d : Dev) : Bool :=
  d.part == .quiescing && (d.power.phase == .placing || d.power.phase == .frontierPlaced)

/-- R21: a FLUSH waits for the FILLING buffer, which a quiesce has kept open (log 86). -/
def Journal.flushOwed (j : Journal) : Bool :=
  match j.fillingBuf with
  | some .a => j.flushes.any fun w => w.a
  | some .b => j.flushes.any fun w => w.b
  | none => false

/-- R189, R21: when the quiesce ends, the closing that such a FLUSH asks for is made up. -/
def Journal.closeOwed (j : Journal) : Journal := if j.flushOwed then j.close else j

/-- R9: the intent receives the next sequence. -/
def Dev.takeSeq (d : Dev) : Dev := { d with journal := { d.journal with nextSeq := d.journal.nextSeq + 1 } }

/-- R8: the SETTINGS record of the settings as they stand. -/
def Dev.settingsRec (d : Dev) : Rec := .settings d.settings

end Sys2Proof.Machine
end

