-- ==== Sys2Proof/Machine/Sites.lean ====
section
/-!
DEFINITION. Peer sites (chapter 04): probing and peer restarts, retransmission, receipts, stalls, and the effects of the
site commands and of an eviction.
-/

namespace Sys2Proof.Machine

/-! ## Marks of one slot -/

/-- R111: a transition of an intent's mark for slot j; the intent is evaluated. -/
def Dev.moveMark (j : SlotId) (s : Seq) (from_ : Mark → Bool) (new : Mark) (d : Dev) : Dev :=
  d.updateSlot s fun x => x.move j from_ new

/-- The sequences of the slots whose mark for j satisfies a test, ascending. -/
def Dev.marked (d : Dev) (j : SlotId) (test : Mark → Bool) : List Seq :=
  d.status.slots.filterMap fun e => if ((e.2.mark j).map test).getD false then some e.1 else none

/-- R81, R82: every open mark of the slot becomes SKIPPED; each intent is evaluated, in ascending sequence. -/
def Dev.skipMarks (j : SlotId) (r : SkipReason) (d : Dev) : Dev :=
  (d.marked j Mark.isOpen).foldl (fun d s => d.moveMark j s Mark.isOpen (.skipped r)) d

/-- R119: the frontier of a slot is set; a change sets the frontier-changed mark (R120). -/
def Dev.setFrontier (j : SlotId) (f : Option Seq) (d : Dev) : Dev :=
  if d.sites[j].frontier = f then d
  else
    let e := d.modSite j fun x => { x with frontier := f }
    { e with status := { e.status with frontierChanged := true } }

/-! ## Leaving ACTIVE (R67, R74, R80) -/

/-- Every in-flight entry is removed, and its mark returns from IN_FLIGHT to PENDING; the send in progress stops and due
resends are discarded. -/
def Dev.returnInFlight (j : SlotId) (d : Dev) : Dev :=
  let seqs := d.sites[j].inFlight.map (·.seq)
  let d := d.modSite j fun x => { x with inFlight := [], resends := [], send := none }
  seqs.foldl (fun d s => d.moveMark j s (· == .inFlight) .pending) d

/-- R74, R80: the in-flight list is emptied, the cursor goes to the frontier and the credit to 0. -/
def Dev.quitActive (j : SlotId) (d : Dev) : Dev :=
  ((d.returnInFlight j).cursorToFrontier j).modSite j fun x => { x with credit := 0 }

/-! ## Probing (R66, R67) -/

/-- R66: a HELLO is sent, the probe count increases, and the period begins. A HELLO that a full control queue drops is counted
too (log 72). -/
def Dev.probe (j : SlotId) (d : Dev) : Dev :=
  let n := sat16 (d.sites[j].probeCount + 1)
  let d := d.raiseFrame j (.hello ((d.config j).site.getD 0))
  let d := d.modSite j fun x => { x with probeCount := n, probeDue := some (d.now + 1000000) }
  if n = 30 then d.latchSlot .stall j else d

/-- R67, R138: the peer start count is recorded; the inbound unit is told when it is new. -/
def Dev.setPeerStart (j : SlotId) (n : Nat) (d : Dev) : Dev :=
  if d.sites[j].peerStart = some n then d
  else (d.modSite j fun x => { x with peerStart := some n }).peerStartArrivals j

/-- R66: a matching HELLO-ACK at a PROBING or STALLED slot. -/
def Dev.probeAnswered (j : SlotId) (start : Nat) (d : Dev) : Dev :=
  let d := d.setPeerStart j start
  let d := d.modSite j fun x => { x with probeCount := 0, busyCount := 0, busyEnd := none, probeDue := none }
  (d.setSiteState j .active .probeAnswered).membershipChanged j

/-- R67: the peer has restarted. -/
def Dev.peerRestart (j : SlotId) (start : Nat) (d : Dev) : Dev :=
  let d := ((d.returnInFlight j).cursorToFrontier j).setPeerStart j start
  d.siteNotice j (d.config j).site (d.siteState j) (d.siteState j) .peerRestart

/-- R67: a HELLO, or a matching HELLO-ACK that R66 has not dropped, gives a start count. -/
def Dev.peerStartSeen (j : SlotId) (start : Nat) (d : Dev) : Dev :=
  if d.siteState j = .active ∧ d.sites[j].peerStart.isSome = true ∧ d.sites[j].peerStart ≠ some start then
    d.peerRestart j start
  else d.setPeerStart j start

/-- R67: a HELLO that has passed R64. -/
def Dev.takeHello (j : SlotId) (start : Nat) (d : Dev) : Dev := (d.raiseFrame j (.helloAck start)).peerStartSeen j start

def Dev.staleFrame (j : SlotId) (d : Dev) : Dev := d.modSite j fun x => { x with stale := sat64 (x.stale + 1) }

/-- R66, R67: a HELLO-ACK that has passed R64. -/
def Dev.takeHelloAck (j : SlotId) (start answered : Nat) (d : Dev) : Dev :=
  if answered ≠ d.power.startCount then d.staleFrame j
  else
    match d.siteState j with
    | .probing | .stalled => d.probeAnswered j start
    | .active => d.peerStartSeen j start
    | _ => d.staleFrame j

/-! ## Retransmission (R73 to R76) -/

def Dev.duplicate (j : SlotId) (d : Dev) : Dev := d.modSite j fun x => { x with duplicates := sat64 (x.duplicates + 1) }

def Site.entry (x : Site) (s : Seq) : Option InFlight := x.inFlight.find? fun e => e.seq == s

def Site.modEntry (s : Seq) (f : InFlight → InFlight) (x : Site) : Site :=
  { x with inFlight := x.inFlight.map fun e => if e.seq == s then f e else e }

/-- R74: the slot stalls. -/
def Dev.stallSlot (j : SlotId) (d : Dev) : Dev :=
  let d := (d.quitActive j).modSite j fun x => { x with state := .stalled }
  let d := d.latchSlot .stall j
  let d := d.siteNotice j (d.config j).site .active .stalled .retriesExhausted
  (d.membershipChanged j).probe j

/-- R73, R74: the retry deadline of an entry expires. -/
def Dev.retryExpired (j : SlotId) (s : Seq) (d : Dev) : Dev :=
  match d.sites[j].entry s with
  | none => d
  | some e =>
    if e.retries < 8 then
      d.modSite j fun x =>
        { x.modEntry s fun e => { e with retries := e.retries + 1, sentOnce := false, deadline := none } with
          resends := (x.resends.filter fun r => r.seq != s) ++ [⟨s, none⟩] }
    else d.stallSlot j

/-- R75: the chunks that the ranges of a GAP name, ascending. -/
def gapChunks (count : Nat) (rs : List (Nat × Nat)) : List Nat :=
  (List.range count).filter fun k => rs.any fun r => decide (r.1 ≤ k) && decide (k ≤ r.2)

/-- R75: a chunk that is already due, or that the send in progress has not yet handed over. -/
def Site.chunkDue (x : Site) (s : Seq) (k : Nat) : Bool :=
  (x.resends.any fun r => r.seq == s && (match r.chunks with | none => true | some l => l.contains k))
    || (match x.send with | some n => n.seq == s && n.pieces.contains (.chunk k) | none => false)

/-- R75. -/
def Dev.takeGap (j : SlotId) (s : Seq) (rs : List (Nat × Nat)) (d : Dev) : Dev :=
  match d.sites[j].entry s with
  | none => d.duplicate j
  | some e =>
    let count := chunkCount e.record.payloadLen
    if count = 0 ∨ rs.any (fun r => decide (count ≤ r.2)) = true then d.latchSlot .protocol j
    else
      d.modSite j fun x =>
        let l := (gapChunks count rs).filter fun k => !x.chunkDue s k
        { x.modEntry s fun e => { e with deadline := none, sentOnce := false } with
          resends := if l.isEmpty then x.resends else x.resends ++ [⟨s, some l⟩] }

/-- R76: the pause that the n-th consecutive BUSY sets. -/
def busyInterval (n : Nat) : Nat := min (10000 * 2 ^ (n - 1)) 1000000

/-- R76. -/
def Dev.takeBusy (j : SlotId) (s : Seq) (d : Dev) : Dev :=
  match d.sites[j].entry s with
  | none => d.duplicate j
  | some _ =>
    let n := sat16 (d.sites[j].busyCount + 1)
    let d := (d.modSite j (Site.dropInFlight s)).moveMark j s (· == .inFlight) .pending
    let d := d.lowerCursor j s
    let d := d.modSite j fun x =>
      { x with busyCount := n, busyEnd := some (max (x.busyEnd.getD 0) (d.now + busyInterval n)) }
    if n = 16 then d.latchSlot .overrun j else d

/-! ## Receipts (R77) -/

def ReceiptOutcome.mark : ReceiptOutcome → Mark
  | .refused => .failed
  | _ => .acked

/-- R77: one entry of a RECEIPT. -/
def Dev.takeReceipt (j : SlotId) (s : Seq) (code : Nat) (d : Dev) : Dev :=
  match receiptOutcomeOf code with
  | none => (d.latchSlot .protocol j).duplicate j
  | some o =>
    match d.sites[j].entry s with
    | none => d.duplicate j
    | some e =>
      let d := d.modSite j fun x =>
        let y := x.dropInFlight s
        let y := match e.sentOnce, e.lastSend with
          | true, some t => y.sample d.now t
          | _, _ => y
        if o = .stored then { y with busyCount := 0, busyEnd := none } else y
      d.moveMark j s (· == .inFlight) o.mark

/-! ## Site commands and eviction (R80 to R87) -/

/-- R79: the records of a change of state by a site command. -/
def Dev.siteRecords (d : Dev) (j : SlotId) : List Rec := [d.settingsRec, .siteEvent j (.state (d.siteState j)) 0]

/-- R83: the configuration is stored and the slot begins to probe. -/
def Dev.attachSlot (j : SlotId) (c : SiteConfig) (d : Dev) : Dev :=
  let d := d.modConfig j fun _ => c
  let d := d.modSite j fun _ => { state := .probing, cursor := d.journal.nextSeq }
  let d := d.setFrontier j (some d.journal.nextSeq)
  (d.probe j).siteNotice j c.site .detached .probing .command

/-- R82, R84: the slot is detached. SITE_STATE comes before the verdict notices of the marks (log 64). -/
def Dev.detachSlot (j : SlotId) (d : Dev) : Dev :=
  let old := d.siteState j
  let c := d.config j
  let d := d.detachArrivals j
  let d := d.modSite j fun _ => {}
  let d := { d with status := { d.status with frontierChanged := true } }
  let d := d.modConfig j fun _ => {}
  let d := d.clampMembers c.gen
  (d.siteNotice j c.site old .detached .command).skipMarks j .detached

/-- R80, R85: the slot goes to FENCED. -/
def Dev.fenceSlot (j : SlotId) (d : Dev) : Dev :=
  let d := d.modConfig j fun c => { c with fenceMark := true }
  let d := (d.quitActive j).modSite j fun x => { x with probeDue := none }
  ((d.setSiteState j .fenced .command).membershipChanged j).fenceArrivals j

/-- R85: a FENCED slot goes to PROBING. -/
def Dev.unfenceSlot (j : SlotId) (d : Dev) : Dev :=
  let d := (d.modConfig j fun c => { c with fenceMark := false }).cursorToFrontier j
  (d.setSiteState j .probing .command).probe j

/-- R86: an EVICTED slot goes to PROBING. A BUSY pause that the eviction left running ends with the busy count
(log 56). A fence mark that the eviction left stays (log 79). -/
def Dev.rejoinSlot (j : SlotId) (d : Dev) : Dev :=
  let d := d.modConfig j fun c => { c with evictMark := false }
  let d := d.modSite j fun x =>
    { x with
      cursor := d.journal.nextSeq, candidates := [], rtt := none, busyCount := 0, busyEnd := none, probeCount := 0
      peerStart := none }
  let d := d.setFrontier j (some d.journal.nextSeq)
  (d.setSiteState j .probing .command).probe j

/-- R81: the reclaim engine evicts a slot; R79 gives the SITE-EVENT record. A FENCED slot keeps its fence mark (log 79). -/
def Dev.evictSlot (j : SlotId) (d : Dev) : Dev :=
  let d := d.modConfig j fun c => { c with evictMark := true }
  let d := d.modSite j fun x =>
    { x with
      inFlight := [], candidates := [], resends := [], send := none, credit := 0, probeDue := none
      cursor := d.journal.nextSeq }
  let d := (d.setSiteState j .evicted .eviction).membershipChanged j
  let d := (d.skipMarks j .evicted).setFrontier j (some d.journal.nextSeq)
  d.raiseCtrl (.siteEvent j (.state .evicted) 0)

/-- R87: a mark that a rewind to q returns to PENDING. -/
def Dev.rewinds (d : Dev) (j : SlotId) (q : Seq) (x : Slot) : Bool :=
  match x.mark j with
  | some .acked => true
  | some (.skipped .superseded) =>
    match x.supersededBy with
    | some n => !(decide (q ≤ n) && ((d.slot? n).map fun y => y.sites.contains j).getD false)
    | none => true
  | _ => false

/-- R87: the intents whose mark for the slot returns. -/
def Dev.rewindSet (d : Dev) (j : SlotId) (q : Seq) : List Seq :=
  d.status.slots.filterMap fun e => if decide (q ≤ e.1) && d.rewinds j q e.2 then some e.1 else none

/-- R87: the rewind; the marks of the set return to PENDING and the cursor is lowered. -/
def Dev.rewindSlot (j : SlotId) (q : Seq) (d : Dev) : Dev :=
  ((d.rewindSet j q).foldl (fun d s => d.updateSlot s fun x => x.setMark j .pending) d).lowerCursor j q

end Sys2Proof.Machine
end

