-- ==== Sys2Proof/Machine/Fetch.lean ====
section
/-!
DEFINITION. The dispatchers (R68), the fetch unit and the payload cache (R171 to R175), and the sends (R70, R71, R95).
-/

namespace Sys2Proof.Machine

/-! ## Dispatchers (R68) -/

/-- R68: a slot's dispatcher may examine the sequence at its cursor. -/
def Dev.canExamine (d : Dev) (j : SlotId) : Bool :=
  let x := d.sites[j]
  x.state == .active && decide (x.cursor < d.journal.nextSeq) && decide (x.candidates.length < 4)
    && match d.slot? x.cursor with
      | some s => s.written
      | none => true

/-- R68: the intent found at the cursor becomes a candidate. -/
def Slot.dispatchable (x : Slot) (j : SlotId) : Bool := x.mark j == some .pending && !x.held && !x.fetchBlocked

/-- R68: the dispatcher examines the sequence at its cursor and advances. -/
def Dev.examineCursor (j : SlotId) (d : Dev) : Dev :=
  let s := d.sites[j].cursor
  let take := match d.slot? s with
    | some x => x.dispatchable j
    | none => false
  d.modSite j fun x =>
    { x with cursor := s + 1, candidates := if take then x.candidates ++ [{ seq := s }] else x.candidates }

/-- R68: a candidate is dropped when its mark leaves PENDING, when it becomes FETCH-BLOCKED, or when the slot leaves
ACTIVE. -/
def Dev.keepsCandidate (d : Dev) (j : SlotId) (c : Candidate) : Bool :=
  d.siteState j == .active &&
    match d.slot? c.seq with
    | some x => x.mark j == some .pending && !x.fetchBlocked
    | none => false

/-- R68: the candidates that are not kept leave the slot. A page read that waits for one of them stays queued, is carried out
and brings nothing (log 57). -/
def Dev.pruneCandidates (j : SlotId) (d : Dev) : Dev :=
  if d.sites[j].candidates.all (d.keepsCandidate j) then d
  else d.modSite j fun x => { x with candidates := x.candidates.filter (d.keepsCandidate j) }

def Site.modCandidate (s : Seq) (f : Candidate → Candidate) (x : Site) : Site :=
  { x with candidates := x.candidates.map fun c => if c.seq == s then f c else c }

/-- R68, R17: the dispatcher asks for a candidate's record. A record that is not in the journal drops the candidate. -/
def Dev.readCandidate (j : SlotId) (s : Seq) (d : Dev) : Dev :=
  match d.locate s with
  | .buffer r | .cache r => d.modSite j (Site.modCandidate s fun c => { c with record := some r, reading := false })
  | .array seg page =>
    (d.modSite j (Site.modCandidate s fun c => { c with reading := true })).enqueueRead ⟨seg, page, s, .dispatch j s⟩
  | .absent => d.modSite j fun x => { x with candidates := x.candidates.filter fun c => c.seq != s }

/-- A candidate whose record has not been asked for. -/
def Site.unread (x : Site) : Option Seq := (x.candidates.find? fun c => c.record.isNone && !c.reading).map (·.seq)

/-! ## The payload cache (R171) -/

/-- R171: 2 GiB. -/
def cacheRoom : Nat := 2147483648

def FetchUnit.cacheUsed (f : FetchUnit) : Nat := (f.cache.map fun e => e.data.length).sum

def FetchUnit.reserved (f : FetchUnit) : Nat := (f.active.map fun a => a.req.len).sum

/-- R171: the payload of a candidate or of an in-flight entry at any slot. -/
def Dev.pinned (d : Dev) (s : Seq) : Bool :=
  allSlots.any fun j => (d.sites[j].candidates.any fun c => c.seq == s) || (d.sites[j].inFlight.any fun e => e.seq == s)

def Dev.cacheRoomLeft (d : Dev) : Nat := cacheRoom - d.fetch.cacheUsed - d.fetch.reserved

/-- R171: the least recently used entry that is not pinned leaves the cache. -/
def Dev.evictPayload (d : Dev) : Option Dev :=
  match d.fetch.cache.find? fun e => !d.pinned e.seq with
  | none => none
  | some e => some { d with fetch := { d.fetch with cache := d.fetch.cache.filter fun x => x.seq != e.seq } }

/-- R171: entries are evicted until the space is large enough, or no unpinned entry is left. -/
def Dev.makeSpace (len : Nat) : Nat → Dev → Dev
  | 0, d => d
  | n + 1, d =>
    if len ≤ d.cacheRoomLeft then d
    else
      match d.evictPayload with
      | none => d
      | some e => Dev.makeSpace len n e

/-- R171: an entry is used: it becomes the most recently used one. -/
def FetchUnit.touch (s : Seq) (f : FetchUnit) : FetchUnit :=
  match f.cache.find? fun e => e.seq == s with
  | none => f
  | some e => { f with cache := (f.cache.filter fun x => x.seq != s) ++ [e] }

/-! ## Fetches (R172 to R175) -/

def Dev.modFetch (f : FetchUnit → FetchUnit) (d : Dev) : Dev := { d with fetch := f d.fetch }

def FetchUnit.knows (f : FetchUnit) (s : Seq) : Bool :=
  (f.queue.any fun r => r.seq == s) || (f.active.any fun a => a.req.seq == s)

/-- R172: a candidate of the slot whose payload must be asked for. -/
def Dev.wantsFetch (d : Dev) (j : SlotId) : Option FetchReq :=
  d.sites[j].candidates.findSome? fun c =>
    match c.record with
    | none => none
    | some r =>
      if r.kind == .delete || d.cached c.seq || d.fetch.knows c.seq then none
      else some ⟨c.seq, r.origin, r.payloadLen, r.locator, r.digest⟩

def Dev.requestFetch (r : FetchReq) (d : Dev) : Dev := d.modFetch fun f => { f with queue := f.queue ++ [r] }

/-- R174: the intent becomes FETCH-BLOCKED; the fetch ends and every candidate holding the intent is dropped. -/
def Dev.blockFetch (s : Seq) (d : Dev) : Dev :=
  let d := d.modFetch fun f => { f with active := f.active.filter fun a => a.req.seq != s }
  let d := match d.slot? s with
    | some x => d.putSlot s { x with fetchBlocked := true }
    | none => d
  { d with sites := d.sites.map fun x => { x with candidates := x.candidates.filter fun c => c.seq != s } }

/-- R171: an entry that may be evicted. -/
def Dev.evictable (d : Dev) : Bool := d.fetch.cache.any fun e => !d.pinned e.seq

/-- R172: the fetch unit tries to start the front fetch of its queue: the cache has room for it, or entries to evict. -/
def Dev.canStartFetch (d : Dev) : Bool :=
  decide (d.fetch.active.length < 32) &&
    match d.fetch.queue with
    | [] => false
    | r :: _ => decide (r.len ≤ d.cacheRoomLeft) || d.evictable

/-- R172: the fetch starts its read at the origin port or its successor; with no ONLINE port, R174. -/
def Dev.beginFetch (r : FetchReq) (d : Dev) : Dev :=
  match d.successor r.origin with
  | none => d.blockFetch r.seq
  | some p =>
    d.modFetch fun f =>
      { f with active := f.active ++ [⟨r, p, d.now, true, none, f.nextRead⟩], nextRead := f.nextRead + 1 }

/-- R171, R172: the cache makes space for the front fetch, and the fetch starts. When the space stays too small with every
unpinned entry evicted, the fetch stays first in the queue. -/
def Dev.startFetch (d : Dev) : Dev :=
  match d.fetch.queue with
  | [] => d
  | r :: rest =>
    let d := d.makeSpace r.len d.fetch.cache.length
    if r.len ≤ d.cacheRoomLeft then (d.modFetch fun f => { f with queue := rest }).beginFetch r else d

def Dev.activeFetch (d : Dev) (s : Seq) : Option Fetch := d.fetch.active.find? fun a => a.req.seq == s

/-- R173: a fetch in progress starts a new read at a port. -/
def FetchUnit.newRead (s : Seq) (q : PortId) (now : Time) (f : FetchUnit) : FetchUnit :=
  { f with
    active := f.active.map fun a =>
      if a.req.seq == s then { a with port := q, started := now, reading := true, read := f.nextRead } else a
    nextRead := f.nextRead + 1 }

/-- R173 to R175: the fetch starts a new read at the next ONLINE port after p; with none, R174. -/
def Dev.moveFetch (s : Seq) (p : PortId) (d : Dev) : Dev :=
  match d.nextOnline p with
  | none => d.blockFetch s
  | some q => d.modFetch (FetchUnit.newRead s q d.now)

/-- R174: a port leaves ONLINE while reads are in progress through it. -/
def Dev.moveReads (p : PortId) (d : Dev) : Dev :=
  let mine := (d.fetch.active.filter fun a => a.port == p && a.reading).map fun a => a.req.seq
  mine.foldl (fun d s => d.moveFetch s p) d

/-- R175, second mismatch: the fetch ends and the intent fails. When its slot is FREE by then, the FETCH_FAILED is counted and
nothing else comes of it (log 78). -/
def Dev.digestFailed (f : Fetch) (first second : PortId) (d : Dev) : Dev :=
  let s := f.req.seq
  let d := d.modFetch fun u =>
    { u with active := u.active.filter fun a => a.req.seq != s, fetchFailed := sat64 (u.fetchFailed + 1) }
  match d.slot? s with
  | none => d
  | some x =>
    let d := d.route x.origin (.fetchFailed (x.noticeRoute s) first second)
    let d := x.sites.foldl (fun d j => d.latchSlot .digest j) d
    d.failIntent s

/-- R175: the digest of a completed read is checked. -/
def Dev.fetched (f : Fetch) (data : List Byte) (d : Dev) : Dev :=
  let s := f.req.seq
  let d := d.modPort f.port fun q => { q with timeouts := 0 }
  if crc32 data = f.req.digest then
    d.modFetch fun u =>
      { u with active := u.active.filter fun a => a.req.seq != s, cache := u.cache ++ [⟨s, data⟩] }
  else
    let d := d.modFetch fun u => { u with mismatches := sat64 (u.mismatches + 1) }
    let retried := (d.slot? s).bind (·.digestRetried)
    match f.mismatch.orElse fun _ => retried with
    | some first => d.digestFailed f first f.port
    | none =>
      let d := match d.slot? s with
        | some x => d.putSlot s { x with digestRetried := some f.port }
        | none => d
      let d := d.modFetch fun u =>
        { u with active := u.active.map fun a => if a.req.seq == s then { a with mismatch := some f.port } else a }
      d.moveFetch s f.port

/-! ## Sends (R70, R71, R95) -/

def pieces (len : Nat) : List Piece := .opening :: (List.range (chunkCount len)).map .chunk

/-- R70: a due resend may begin; a whole-intent resend waits while a BUSY pause runs. -/
def Dev.resendMayBegin (d : Dev) (j : SlotId) (r : Resend) : Bool := r.chunks.isSome || !d.busyPause j

/-- The pieces of a resend. -/
def Resend.pieces (len : Nat) (r : Resend) : List Piece :=
  match r.chunks with
  | none => Sys2Proof.Machine.pieces len
  | some l => l.map .chunk

/-- R70: the send in progress, or the one that the slot begins; and the resends that stay due (log 16). -/
def Dev.nextSend (d : Dev) (j : SlotId) : Option (Send × List Resend) :=
  let x := d.sites[j]
  if x.state ≠ .active then none
  else
    match x.send with
    | some k => some (k, x.resends)
    | none =>
      match x.resends.find? (d.resendMayBegin j) with
      | some r =>
        (x.entry r.seq).map fun e => (⟨r.seq, r.pieces e.record.payloadLen⟩, x.resends.erase r)
      | none =>
        match x.candidates with
        | c :: _ =>
          if d.sendPermitted j c then
            c.record.map fun r => (⟨c.seq, Sys2Proof.Machine.pieces r.payloadLen⟩, x.resends)
          else none
        | [] => none

/-- R95: a frame of a PACED slot is ready when its credit is greater than 0; of an UNPACED one, always. -/
def Dev.frameReady (d : Dev) (j : SlotId) : Bool :=
  ((d.config j).mode == .unpaced || decide (0 < d.sites[j].credit)) &&
    match d.nextSend j with
    | some (k, _) => !k.pieces.isEmpty
    | none => false

/-- The OPEN descriptor of a record (R63). -/
def descOf (r : IntentRec) : OpenDesc where
  seq := r.seq
  kind := intentKindCode r.kind
  keyLen := r.key.length
  key := r.key
  tag := r.tag
  bucket := r.bucket
  keyHash := r.keyHash
  stamp := r.stamp
  payloadLen := r.payloadLen
  digest := r.digest

/-- The record of the intent that a send carries. -/
def Site.sendRecord (x : Site) (s : Seq) : Option IntentRec :=
  ((x.entry s).map (·.record)).orElse fun _ => (x.candidates.find? fun c => c.seq == s).bind (·.record)

def Dev.payloadOf (d : Dev) (s : Seq) : List Byte := ((d.fetch.cache.find? fun e => e.seq == s).map (·.data)).getD []

def Dev.pieceBody (d : Dev) (r : IntentRec) : Piece → FrameBody
  | .opening => .opening (descOf r)
  | .chunk k => .carry r.seq k (slice (8192 * k) (chunkLen r.payloadLen k) (d.payloadOf r.seq))

/-- R63: the length of the frame of a piece. -/
def pieceLen (r : IntentRec) : Piece → Nat
  | .opening => openLen r.key.length
  | .chunk k => 64 + chunkLen r.payloadLen k

/-- R70: the OPEN frame of a first send is handed over. -/
def Dev.firstOpen (j : SlotId) (r : IntentRec) (d : Dev) : Dev :=
  let d := d.moveMark j r.seq (· == .pending) .inFlight
  d.modSite j fun x =>
    { x with
      candidates := x.candidates.filter fun c => c.seq != r.seq
      inFlight := x.inFlight ++
        [{ seq := r.seq, size := encodedSize r.key.length r.payloadLen, firstSend := d.now, record := r }] }

/-- R70, R73: the last frame of a send is handed over. -/
def Dev.lastFrame (j : SlotId) (s : Seq) (d : Dev) : Dev :=
  d.modSite j fun x =>
    x.modEntry s fun e =>
      { e with lastSend := some d.now, deadline := some (d.now + intervalOf x.rtt (retryNumber e.retries)) }

/-- R63: the counters of the receiving site's slot. -/
def Dev.countFrame (j : SlotId) (len : Nat) (d : Dev) : Dev :=
  d.modSite j fun x => { x with framesSent := sat64 (x.framesSent + 1), bytesSent := sat64 (x.bytesSent + len) }

/-- R70, R95: the transmitter takes the next frame of a slot. -/
def Dev.handOver (j : SlotId) (d : Dev) : Dev :=
  match d.nextSend j with
  | none => d
  | some (k, rs) =>
    match k.pieces, d.sites[j].sendRecord k.seq with
    | piece :: rest, some r =>
      let sp := (d.config j).spanPort
      let f : Frame := ⟨d.settings.localSite.getD 0, (d.config j).site.getD 0, d.power.startCount, d.pieceBody r piece⟩
      let len := pieceLen r piece
      let d := d.modSite j fun x => { x with send := if rest.isEmpty then none else some { k with pieces := rest }, resends := rs }
      let d := if piece = .opening ∧ (d.sites[j].entry k.seq).isNone = true then d.firstOpen j r else d
      let d := if rest.isEmpty then d.lastFrame j k.seq else d
      let d := d.countFrame j len
      let d := if (d.config j).mode = .paced then d.modSite j fun x => { x with credit := x.credit - len } else d
      let d := if piece = .opening then d else d.modFetch (FetchUnit.touch k.seq)
      d.modSpan sp fun s => { s with sending := some f, lastServed := j }
    | _, _ => d.modSite j fun x => { x with send := none, resends := rs }

/-- R61: what a slot's state lets the part send to the site. -/
def SiteState.sends (s : SiteState) (b : FrameBody) : Bool :=
  match s, b with
  | .active, _ => true
  | .detached, _ | .fenced, _ | .evicted, .hello _ => false
  | _, .opening _ | _, .carry .. => false
  | _, _ => true

/-- R63: the slot that a control frame is for, when its state lets the frame be sent (R61) and the span port is the slot's
configured one (R64); log 17. -/
def Dev.frameSlot (d : Dev) (sp : SpanId) (f : Frame) : Option SlotId :=
  (d.slotOfSite f.receiver).filter fun j => (d.siteState j).sends f.body && (d.config j).spanPort == sp

/-- R63: the transmitter of a span port takes a frame: of its control queue, else of a slot that has one ready. -/
def Dev.transmit (sp : SpanId) (d : Dev) : Option Dev :=
  let s := d.span[sp]
  if s.sending.isSome then none
  else
    match s.ctrlQ with
    | f :: rest =>
      let e := d.modSpan sp fun s => { s with ctrlQ := rest }
      match d.frameSlot sp f with
      | none => some e
      | some j => some ((e.countFrame j f.len).modSpan sp fun s => { s with sending := some f })
    | [] =>
      ((slotsAfter s.lastServed).find? fun j => (d.config j).spanPort == sp && d.frameReady j).map fun j => d.handOver j

end Sys2Proof.Machine
end

