-- ==== Sys2Proof/Machine/Reclaim.lean ====
section
/-!
DEFINITION. Reclaim, guards and journal pressure (chapter 08): spent records, eligibility, the reclaim engine's choice, the
rewind floor, the pressure level and the examination under CRITICAL pressure.
-/

namespace Sys2Proof.Machine

/-! ## Spent records (R143, R144) -/

/-- The records of valid pages, each with its page position and its place in the page. -/
def pageRecs (p : Page) : List ((Nat × Nat) × Rec) := p.recs.zipIdx.map fun e => ((p.pos, e.2), e.1)

def Dev.validRecs (d : Dev) : List ((Nat × Nat) × Rec) := d.array.validPages.flatMap fun e => pageRecs e.2

/-- R144: a record stands later in the journal. -/
def later (a b : Nat × Nat) : Bool := decide (a.1 < b.1) || (a.1 == b.1 && decide (a.2 < b.2))

/-- A record of this kind exists later in a valid page. -/
def Dev.newerExists (d : Dev) (at_ : Nat × Nat) (kind : Rec → Bool) : Bool :=
  d.validRecs.any fun e => later at_ e.1 && kind e.2

/-- R143, R144. -/
def Dev.spent (d : Dev) (at_ : Nat × Nat) : Rec → Bool
  | .intent r => d.intentSpent r.seq
  | .settings _ => d.newerExists at_ Rec.isSettings
  | .frontier _ | .siteEvent .. => d.newerExists at_ Rec.isFrontier
  | .decision s _ => d.intentSpent s
  | .shutdown _ | .resume _ => d.newerExists at_ fun _ => true

/-- R143: the unspent records of a segment, in its pages that have not failed (log 62). -/
def Dev.unspent (d : Dev) (s : Segment) : List Rec :=
  ((s.pages.filter s.unfailed).flatMap pageRecs).filterMap fun e => if d.spent e.1 e.2 then none else some e.2

/-! ## Guards (R151) -/

def groupOf (n : Nat) : Nat := n / 32

def Dev.guardInForce (d : Dev) : Bool := d.guard.software || d.guard.filtered

/-- R151: a group is guarded. -/
def Dev.groupGuarded (d : Dev) (g : Nat) : Bool := d.settings.guardMap.getLsbD g && d.guardInForce

def Dev.guarded (d : Dev) (n : Nat) : Bool := d.groupGuarded (groupOf n)

/-- The number of MARKED groups. -/
def markedGroups (m : Word64) : Nat := ((List.range 64).filter fun g => m.getLsbD g).length

/-! ## Eligibility and the engine's choice (R145, R146) -/

def Dev.eligible (d : Dev) (n : Nat) (s : Segment) : Bool :=
  match s.state with
  | .full => (d.unspent s).isEmpty && !d.guarded n
  | .damaged => !d.guarded n
  | _ => false

def Segment.lowestPos (s : Segment) : Nat := (minOf (s.pages.map (·.pos))).getD 0

/-- The FULL segment, among those that pass a test, whose lowest page position is the lowest. -/
def ArrayBlk.oldestFull (a : ArrayBlk) (test : Nat → Segment → Bool) : Option Nat :=
  match a.segs.filter fun e => e.2.state == .full && test e.1 e.2 with
  | [] => none
  | h :: t => some (t.foldl (fun best e => if e.2.lowestPos < best.2.lowestPos then e else best) h).1

/-- R146. -/
def Dev.reclaimChoice (d : Dev) : Option Nat :=
  match d.array.segs.find? fun e => e.2.state == .damaged && d.eligible e.1 e.2 with
  | some e => some e.1
  | none => d.array.oldestFull d.eligible

def Dev.modReclaim (f : Reclaim → Reclaim) (d : Dev) : Dev := { d with reclaim := f d.reclaim }

def Dev.setEngine (e : Engine) (d : Dev) : Dev := d.modReclaim fun r => { r with engine := e }

/-- R147: a waiting erase request is withdrawn. -/
def Dev.withdraw (d : Dev) : Dev := d.modReclaim fun r => { r with engine := .idle, withdrawn := sat32 (r.withdrawn + 1) }

/-- R5, R6, R110: a FULL segment leaves the chain, and its pages leave the tail cache. Only its valid pages can be there: the
position of a failed one can be that of a later page of another segment (log 30). -/
def Dev.leaveChain (n : Nat) (d : Dev) : Dev :=
  let s := d.seg n
  let d := s.intents.foldl (fun d q => d.freeSlot q) d
  let gone := (s.pages.filter s.valid).map (·.pos)
  { d with journal := { d.journal with tailCache := d.journal.tailCache.filter fun p => !gone.contains p } }

/-- R147: the erase of the target starts. -/
def Dev.startErase (n : Nat) (d : Dev) : Dev :=
  let d := if (d.seg n).state = .full then d.leaveChain n else d
  let d := (d.modSeg n fun s => { s with state := .reclaiming }).setEngine (.erasing n)
  { d with array := { d.array with op := some (.erase n) } }

/-- R2, R148: the erase count that retires a segment. -/
def retireCount : Nat := 30000

/-- R148: the erase of the reclaim target completes. -/
def Dev.erased (n : Nat) (ok : Bool) (d : Dev) : Dev :=
  let count := (d.seg n).eraseCount + 1
  let retired := !ok || decide (retireCount ≤ count)
  let d := d.modSeg n fun _ => { state := if retired then .retired else .blank, eraseCount := count }
  let d := { d with array := { d.array with op := none } }
  let d := d.modReclaim fun r =>
    { r with
      engine := .idle
      erased := sat16 (r.erased + 1)
      wear := if ok && retired then sat16 (r.wear + 1) else r.wear
      eraseFails := if ok then r.eraseFails else sat16 (r.eraseFails + 1) }
  if ok then d else d.latch .journalMedia .part

/-! ## The rewind floor (R154) -/

/-- The page positions that FULL and FILLING segments hold. -/
def ArrayBlk.heldPositions (a : ArrayBlk) : List Nat := a.held.flatMap fun e => e.2.pages.map (·.pos)

/-- R154: the highest lost position at or below n, else 0; n counts down through the positions. -/
def topGapFrom (l : List Nat) : Nat → Nat
  | 0 => 0
  | n + 1 => if l.contains (n + 1) then topGapFrom l n else n + 1

/-- The position of the newest programmed page; a page whose program is in progress is not programmed yet. -/
def Dev.newestPos (d : Dev) : Nat :=
  match d.array.op with
  | some (.program ..) => d.journal.nextPos - 2
  | _ => d.journal.nextPos - 1

/-- R154: the highest lost position below the newest programmed page, else 0. -/
def Dev.topGap (d : Dev) : Nat := topGapFrom d.array.heldPositions (d.newestPos - 1)

/-- R154: the last sequence that a COLD start has passed over, else 0. -/
def Dev.lastPassed (d : Dev) : Seq := (d.journal.passedOver.map (·.2)).foldl max 0

/-- R154: the rewind floor (against R155 it can fall when a page passes, log 71), with the segment that holds its intent. -/
def Dev.floorAt (d : Dev) : Seq × Option Nat :=
  let gap := d.topGap
  let l := d.array.validPages.flatMap fun e =>
    if gap < e.2.pos then (e.2.intents.filter fun s => decide (d.lastPassed < s)).map fun s => (s, e.1) else []
  match l with
  | [] => (d.journal.nextSeq, none)
  | h :: t =>
    let m := t.foldl (fun best e => if e.1 < best.1 then e else best) h
    (m.1, some m.2)

def Dev.rewindFloor (d : Dev) : Seq := d.floorAt.1

/-! ## Pressure (R156 to R158) -/

/-- R156. -/
def levelOf (free : Nat) (headroom : Int) (c : Settings) : PressureLevel :=
  if free ≤ c.criticalReserve ∨ headroom ≤ 65536 then .critical else if free ≤ c.lowWatermark then .low else .normal

def Dev.level (d : Dev) : PressureLevel := levelOf d.free d.headroom d.settings

/-- R158: the PRESSURE notices raised are counted. -/
def Dev.pressureNotice (b : NoticeBody) (d : Dev) : Dev :=
  (d.broadcast b).modReclaim fun r => { r with pressureNotices := sat32 (r.pressureNotices + 1) }

/-- R156, R158: the low-watermark flag and the last blocked notice follow F and the level. -/
def Dev.watchPressure (d : Dev) : Dev :=
  let c := d.settings
  let d :=
    if d.free ≤ c.lowWatermark then
      if d.reclaim.armed then
        (d.modReclaim fun r => { r with armed := false }).pressureNotice
          (.lowWatermark d.free d.headroom d.level c.lowWatermark c.criticalReserve)
      else d
    else if d.reclaim.armed then d else d.modReclaim fun r => { r with armed := true }
  if d.level ≠ .critical ∧ d.reclaim.lastBlocked.isSome = true then d.modReclaim fun r => { r with lastBlocked := none }
  else d

/-- R157: what the examination finds. -/
inductive Finding where
  | nothing
  | blocked (c : BlockCause) (seg : Option Nat) (heldSeq : Option Seq) (slot : Option SlotId)
  | evict (j : SlotId)
  deriving DecidableEq, Repr

/-- The segment that holds U. -/
def Dev.segmentOfLowest (d : Dev) : Option Nat := (d.array.held.find? fun e => e.2.intents.contains d.lowest).map (·.1)

/-- R157: the segment to be examined. -/
def Dev.examinedSegment (d : Dev) : Option Nat :=
  if d.headroom ≤ 65536 then d.segmentOfLowest else d.array.oldestFull fun n _ => !d.guarded n

/-- R157, case 2: the kinds that await a newer record. -/
def Rec.awaitsNewer : Rec → Bool
  | .frontier _ | .siteEvent .. | .shutdown _ | .resume _ => true
  | _ => false

/-- The intent that an intent record or a DECISION record is about. -/
def Rec.about : Rec → Option Seq
  | .intent r => some r.seq
  | .decision s _ => some s
  | _ => none

def Dev.isHeldIntent (d : Dev) (s : Seq) : Bool := ((d.slot? s).map (·.held)).getD false

/-- The slots with an open mark of one of the intents. -/
def Dev.openSlots (d : Dev) (l : List Seq) : List SlotId :=
  allSlots.filter fun j => l.any fun s => ((d.slot? s).map fun x => ((x.mark j).map Mark.isOpen).getD false).getD false

/-- R157, case 4: the slot with the lowest frontier, and the lowest number among equals. -/
def Dev.lowestFrontier (d : Dev) : List SlotId → Option SlotId
  | [] => none
  | h :: t => some (t.foldl (fun best j => if d.frontierOf j < d.frontierOf best then j else best) h)

/-- R158: the lowest slot with EVICTABLE off that holds an open mark of one of the intents. -/
def Dev.blockingSlot (d : Dev) (l : List Seq) : Option SlotId := (d.openSlots l).find? fun j => !(d.config j).evictable

/-- R157, cases 3 to 5, on the unspent records that remain. An intent that a DECISION record of the segment names counts as in
the segment, wherever its own record lies (log 77). -/
def Dev.findingOf (d : Dev) (n : Nat) (l : List Rec) : Finding :=
  let about := l.filterMap Rec.about
  match minOf (about.filter d.isHeldIntent) with
  | some h => .blocked .held (some n) (some h) none
  | none =>
    let slots := d.openSlots about
    let other := .blocked .notEvictable (some n) none (d.blockingSlot about)
    if (l.all fun r => r.about.isSome) && slots.all fun j => (d.config j).evictable then
      match d.lowestFrontier slots with
      | some j => .evict j
      | none => other
    else other

/-- R157: the examination; the second part says whether a FRONTIER record is raised. -/
def Dev.examination (d : Dev) : Finding × Bool :=
  let full := d.array.segs.any fun e => e.2.state == .full
  match d.examinedSegment with
  | none => (.blocked (if full then .guard else .notEvictable) none none none, false)
  | some n =>
    if (d.seg n).state = .filling then
      (.blocked .notEvictable (some n) none (d.blockingSlot ((d.unspent (d.seg n)).filterMap Rec.about)), false)
    else if d.guarded n then (.blocked .guard (some n) none none, false)
    else
      let l := d.unspent (d.seg n)
      let rest := l.filter fun r => !r.awaitsNewer
      (if rest.isEmpty then .nothing else d.findingOf n rest, l.any Rec.awaitsNewer)

/-- R158: a cause is reported when it is new. -/
def Dev.reportBlocked (c : BlockCause) (seg : Option Nat) (heldSeq : Option Seq) (slot : Option SlotId) (d : Dev) : Dev :=
  if d.reclaim.lastBlocked = some (c, seg) then d
  else
    (d.modReclaim fun r => { r with lastBlocked := some (c, seg) }).pressureNotice
      (.blocked d.free d.headroom d.level d.settings.lowWatermark d.settings.criticalReserve c seg (seg.map groupOf)
        heldSeq slot)

/-- R157: one examination, with its effect. -/
def Dev.examine (d : Dev) : Dev :=
  let (f, raise) := d.examination
  let d := { d with examined := true }
  let d := if raise then d.raiseFrontier else d
  match f with
  | .nothing => d
  | .blocked c seg h slot => d.reportBlocked c seg h slot
  | .evict j => (d.modReclaim fun r => { r with evictions := sat32 (r.evictions + 1) }).evictSlot j

/-- R157: the conditions of an examination, the engine being IDLE and nothing eligible. -/
def Dev.mayExamine (d : Dev) : Bool :=
  d.level == .critical && !d.examined && !d.journal.ctrlQ.any Rec.isSiteEvent

end Sys2Proof.Machine
end

