-- ==== Sys2Proof/Machine/Reads.lean ====
section
/-!
DEFINITION. Page reads (R17) and the array arbiter's choice (R16).
-/

namespace Sys2Proof.Machine

/-! ## The end of a read, for its requester -/

/-- R41: the flags of QUERY KEY. -/
def keyCollisionFlag : Byte := 1
def keyUnreadableFlag : Byte := 2

/-- R41: the answer of a QUERY KEY, as the entry stands when it is posted. An entry that was freed and whose triple was
taken again is UNREADABLE, whatever the read found. One that was freed and not taken again has no stated answer: NOT_FOUND,
with COLLISION when the bytes differed and with no flag after a match (log 52). -/
def Dev.answerKey (tok : Tok) (q : KeyQuery) (way creation : Nat) (r : LookupResult) (d : Dev) : Dev :=
  let entry := (d.index.find q.bucket q.keyHash q.keyLen).bind fun w => (Tbl.get d.index.ways w).map fun e => (w, e)
  match r, entry with
  | .unreadable, _ => d.answer tok .notFound keyUnreadableFlag .none
  | .collision, none => d.answer tok .notFound keyCollisionFlag .none
  | .matched, none => d.refuse tok .notFound
  | r, some (w, e) =>
    if w ≠ way ∨ e.creation ≠ creation then d.answer tok .notFound keyUnreadableFlag .none
    else if r = .collision then d.answer tok .notFound keyCollisionFlag .none
    else d.answer tok .done 0 (.keyEntry (w / 8) (w % 8) e.creation e.live e.count)

/-- R27: the read that a port's head APPEND waits for has ended. -/
def Dev.lookupRead (p : PortId) (id : Nat) (r : Option IntentRec) (d : Dev) : Dev :=
  match d.ports[p].lookup, d.ports[p].cmdQ with
  | some (.reading i w c), ⟨_, .append b⟩ :: _ =>
    if i = id then
      let result := match r with
        | some r => compareKey r (keyOf b.keyLen b.key)
        | none => .unreadable
      d.modPort p fun q => { q with lookup := some (.known (.found w c result)) }
    else d
  | _, _ => d

/-- R23: the record is written to the port's memory. -/
def Dev.writeRecord (tok : Tok) (addr : Nat) (r : IntentRec) (programmed : Bool) (d : Dev) : Dev :=
  { d with dma := d.dma ++ [⟨tok.port, addr, intentBytes r, some (tok, recordSize r.key.length, programmed)⟩] }

/-- R17: a read has ended, with the record or (none) without it. -/
def Dev.readEnded (q : ReadReq) (r : Option IntentRec) (d : Dev) : Dev :=
  match q.who with
  | .lookup p id => d.lookupRead p id r
  | .queryKey tok k way creation =>
    d.answerKey tok k way creation (match r with | some r => compareKey r (keyOf k.keyLen k.key) | none => .unreadable)
  | .readJournal tok _ addr =>
    match r with
    | some r => d.writeRecord tok addr r true
    | none => d.refuse tok .notFound
  | .dispatch j s =>
    match r with
    | some r => d.modSite j (Site.modCandidate s fun c => { c with record := some r, reading := false })
    | none => d.modSite j fun x => { x with candidates := x.candidates.filter fun c => c.seq != s }
  | .arrival id way creation => d.arrivalRead id way creation r

/-! ## A read that fails its CRC (R17) -/

/-- The page holds the newest SETTINGS record of a valid page. -/
def Dev.holdsNewestSettings (d : Dev) (p : Page) : Bool :=
  (pageRecs p).any fun e => e.2.isSettings && !d.newerExists e.1 Rec.isSettings

/-- R17: the page is invalid from now on; its intents fail. -/
def Dev.failPage (seg page : Nat) (d : Dev) : Dev :=
  match (d.seg seg).pages.find? fun p => p.num == page with
  | none => d
  | some p =>
    let lostSettings := d.holdsNewestSettings p
    let d := d.latch .journalMedia .part
    let d := d.modSeg seg fun s => { s with failed := s.failed ++ [page] }
    let d := p.intents.foldl (fun d s => d.failIntent s) d
    if lostSettings then d.raiseCtrl d.settingsRec else d

/-- R17: an array read completes. Other waiting reads of a page that failed end with it (log 12). A page that a start found
unreadable fails its read (log 62). -/
def Dev.readCompleted (r : ReadReq) (ok : Bool) (d : Dev) : Dev :=
  let d := { d with array := { d.array with op := none } }
  if ok && d.readsBack r.seg r.page then d.readEnded r (d.recordAt r.seg r.page r.seq)
  else
    let same := d.array.reads.filter fun q => q.seg == r.seg && q.page == r.page
    let d := d.failPage r.seg r.page
    let d := { d with array := { d.array with reads := d.array.reads.filter fun q => !(q.seg == r.seg && q.page == r.page) } }
    (r :: same).foldl (fun d q => d.readEnded q none) d

/-! ## The array arbiter (R3, R14, R16, R147, R149) -/

/-- R16, R149: a program waits that could start. -/
def Dev.programWaits (d : Dev) : Bool := !d.journal.progQ.isEmpty && d.array.programTarget.isSome

/-- R3, R14: the oldest waiting program starts. -/
def Dev.startProgram (buf : BufId) (n : Nat) (d : Dev) : Dev :=
  let fresh := (d.seg n).state != .filling
  let d := d.modSeg n fun s => { s with state := .filling }
  let pos := d.journal.nextPos
  let page := (d.seg n).pages.length
  { d with
    journal := { d.journal with nextPos := pos + 1, consecFails := if fresh then 0 else d.journal.consecFails }
    array := { d.array with op := some (.program buf n page pos) } }

/-- A page that a waiting read may still read. -/
def Dev.readable (d : Dev) (r : ReadReq) : Bool :=
  d.array.unfailedPages.any fun e => e.1 == r.seg && e.2.num == r.page

/-- R16: the arbiter starts an operation on a free array, or suspends an erase for a program or read. In QUIESCING it
starts programs alone (R186). -/
def Dev.arbitrate (d : Dev) : Option Dev :=
  let ready := d.part == .ready
  match d.array.op with
  | some (.erase n) =>
    if ready && (d.programWaits || !d.array.reads.isEmpty) then
      let d := d.modSeg n fun s => { s with state := .suspended }
      let d := d.modReclaim fun r => { r with suspensions := sat32 (r.suspensions + 1) }
      some { d with array := { d.array with op := some (.suspending n) } }
    else none
  | some _ => none
  | none =>
    match d.journal.progQ, d.array.programTarget with
    | buf :: _, some n => some (d.startProgram buf n)
    | _, _ =>
      if !ready then none
      else
        match d.array.reads with
        | r :: rest =>
          let d := { d with array := { d.array with reads := rest } }
          if d.readable r then some { d with array := { d.array with op := some (.read r) } }
          else some (d.readEnded r none)
        | [] =>
          match d.array.suspended with
          | some n =>
            let d := d.modSeg n fun s => { s with state := .reclaiming }
            some { d with array := { d.array with op := some (.erase n), suspended := none } }
          | none =>
            match d.reclaim.engine with
            | .waiting n => some (if d.eligible n (d.seg n) then d.startErase n else d.withdraw)
            | _ => none

end Sys2Proof.Machine
end

