-- ==== Sys2Proof/Machine/Reports.lean ====
section
/-!
DEFINITION. What the reading commands report (R22, R40, R56, R88, R122, R123, R142, R163, R178, R181).
-/

namespace Sys2Proof.Machine

/-- R2: the seven segment states, in the order of the table. -/
def segStates : List SegState := [.blank, .filling, .full, .reclaiming, .suspended, .damaged, .retired]

/-- R22. A page whose program is in progress is not programmed yet, and is still the FILLING segment's next page (log 50). -/
def Dev.journalSummary (d : Dev) : JournalSummary where
  tail := (d.journal.nextSeq : Int) - 1
  next := d.journal.nextSeq
  lowest := d.lowestKept
  filling := d.array.filling.map fun n => (n, (d.seg n).pages.length)
  segCounts := segStates.map d.array.countState
  bufA := (d.journal.bufA.state, d.journal.bufA.used)
  bufB := (d.journal.bufB.state, d.journal.bufB.used)
  ctrl := d.journal.ctrlQ.length
  progFails := d.journal.progFails
  media := d.journalMedia

/-- R40: the sets with all eight ways in use. -/
def KeyIndex.fullSets (k : KeyIndex) : Nat :=
  let sets := k.ways.map fun e => e.1 / 8
  (sets.eraseDups.filter fun s => sets.count s == 8).length

/-- R40. -/
def Dev.keySummary (d : Dev) : RespBody :=
  .keySummary d.index.ways.length d.index.fullSets d.index.setFull d.index.countFull d.index.collision d.index.unreadable
    d.index.race (d.status.slots.filter fun e => !e.2.written && e.2.link.isSome).length

def HeldState.isStaged : HeldState → Bool
  | .staged => true
  | _ => false

def HeldState.isWaiting : HeldState → Bool
  | .waiting _ => true
  | _ => false

def HeldState.isDeciding : HeldState → Bool
  | .deciding .. => true
  | _ => false

def HeldState.deadline : HeldState → Option Time
  | .waiting t => t
  | _ => none

/-- R56, MODE. -/
def Dev.modeReport (d : Dev) : RespBody :=
  let count (f : HeldState → Bool) : Nat := (d.held.entries.filter fun e => f e.state).length
  .placementMode d.settings.mode (count HeldState.isStaged) (count HeldState.isWaiting) (count HeldState.isDeciding)
    (minOf (d.held.entries.filterMap fun e => e.state.deadline)) d.held.overflow

/-- R88, one slot. -/
def Dev.siteReport (d : Dev) (j : SlotId) : SiteReport :=
  let x := d.sites[j]
  { config := d.config j
    state := x.state
    cursor := x.cursor
    frontier := x.frontier
    candidates := x.candidates.length
    inFlight := x.inFlight.length
    inFlightBytes := x.inFlightBytes
    window := d.window j
    credit := x.credit
    rtt := x.rtt.map fun r => (r.1, r.2, rtoOf (some r))
    busyCount := x.busyCount
    busyEnd := x.busyEnd
    probeCount := x.probeCount
    peerStart := x.peerStart
    stall := x.stall
    overrun := x.overrun
    digest := x.digest
    protocol := x.protocol
    duplicates := x.duplicates
    stale := x.stale
    framesSent := x.framesSent
    bytesSent := x.bytesSent
    oldest := x.inFlight.head?.map fun e => (e.seq, e.retries, e.deadline) }

/-- R88, ALL. -/
def Dev.sitesReport (d : Dev) : RespBody :=
  .sites
    (allSlots.map fun j =>
      let x := d.sites[j]
      ⟨(d.config j).site, x.state, x.frontier, x.stall, x.overrun, x.digest, x.protocol⟩)
    d.span[(0 : SpanId)].badFrames d.span[(1 : SpanId)].badFrames d.foreign

/-- R105: the report on a slot's pacing. -/
def Dev.pacingReport (d : Dev) (j : SlotId) : RespBody :=
  let c := d.config j
  .sitePacing c.generator c.share c.mode c.lend c.maxWindow d.sites[j].credit (d.window j)

/-- R122. The unresolved intents that are HELD and those that are FETCH-BLOCKED are two counts (log 65). -/
def Dev.statusSummary (d : Dev) : StatusSummary :=
  let slots := d.status.slots.map (·.2)
  let unresolved := slots.filter fun x => x.written && !x.resolved
  { lowest := d.lowestKept
    tail := (d.journal.nextSeq : Int) - 1
    next := d.journal.nextSeq
    staged := (slots.filter fun x => !x.written).length
    written := (slots.filter fun x => x.written).length
    unresolved := unresolved.length
    unresolvedHeld := (unresolved.filter fun x => x.held).length
    unresolvedBlocked := (unresolved.filter fun x => x.fetchBlocked).length
    frontiers := allSlots.filterMap fun j => if d.siteState j = .detached then none else some (j, d.frontierOf j)
    verdicts := (d.status.durable, d.status.superseded, d.status.shortfall)
    resolutions := d.status.resolutions
    frontierChanged := d.status.frontierChanged
    sinceFrontier := d.status.lastFrontier.map fun t => d.now - t }

/-- R123, case 4. -/
def Slot.report (x : Slot) : IntentReport where
  written := x.written
  origin := x.origin
  tag := x.tag
  marks := x.marks
  quorum := x.quorum
  acked := x.acked
  openMarks := x.openMarks
  outcome := x.outcome
  held := x.held
  unindexed := x.unindexed
  fetchBlocked := x.fetchBlocked
  digestRetried := x.digestRetried.isSome
  holdOverflow := x.holdOverflow
  resolved := x.resolved
  verdict := x.verdict
  supersededBy := x.supersededBy

/-- R123, case 2: the sequence lies in a segment of the chain or in a staging buffer, in a valid page or not. -/
def Dev.inJournal (d : Dev) (s : Seq) : Bool :=
  (recsIntents (d.journal.bufA.items ++ d.journal.bufB.items)).contains s
    || d.array.held.any fun e => e.2.intents.contains s

/-- R142, the summary. -/
def Dev.inboundSummary (d : Dev) : InboundSummary :=
  let x := d.inbound
  let count (st : ArrivalState) : Nat := (x.arrivals.filter fun a => a.state == st).length
  { assembling := count .assembling
    waiting := count .waitingLanding
    delivering := count .delivering
    delivered := count .delivered
    freePlaces := arrivalPlaces - x.arrivals.length
    freeBlocks := x.freeBlocks
    done := x.done.length
    landings := allPorts.map fun p => d.ports[p].landings.length
    lastPort := x.lastPort
    counts := x.counts }

/-- R142, one entry. The silence timer is given by the time at which it is due (log 81). -/
def Dev.arrivalReport (d : Dev) (a : Arrival) : ArrivalReport where
  id := a.id
  slot := a.slot
  seq := a.desc.seq
  kind := a.kind
  bucket := a.desc.bucket
  keyHash := a.desc.keyHash
  keyLen := a.desc.keyLen
  stamp := a.desc.stamp
  payloadLen := a.desc.payloadLen
  digest := a.desc.digest
  tag := a.desc.tag
  blocks := a.blocks
  chunks := a.chunks.length
  lowestMissing := a.missing.head?
  gaps := a.gaps
  silenceDue := a.silenceDue
  state := a.state
  lookup := a.lookup
  compare := a.compare
  order := a.order
  delivery := a.delivery
  attempt := a.attempt
  heldReceipt := a.heldReceipt.map fun h => ((d.config h.1).site, h.2)

def Engine.target : Engine → Option Nat
  | .idle => none
  | .waiting n | .erasing n => some n

/-- R163, ALL. -/
def Dev.segmentsReport (d : Dev) : SegmentsReport where
  f := d.free
  h := d.headroom
  u := d.lowest
  next := d.journal.nextSeq
  level := d.level
  lowWatermark := d.settings.lowWatermark
  criticalReserve := d.settings.criticalReserve
  armed := d.reclaim.armed
  lastBlocked := d.reclaim.lastBlocked
  engine := d.reclaim.engine
  targetState := d.reclaim.engine.target.map fun n => (d.seg n).state
  floor := d.rewindFloor
  topGap := d.topGap
  floorSegment := d.floorAt.2
  guardMap := d.settings.guardMap
  software := d.guard.software
  raw := d.guard.raw
  filtered := d.guard.filtered
  counts :=
    [d.reclaim.erased, d.reclaim.suspensions, d.reclaim.withdrawn, d.reclaim.eraseFails, d.reclaim.wear,
      d.reclaim.evictions, d.reclaim.pressureNotices]

/-- R163: what holds a FULL segment back. -/
def Dev.heldBack (d : Dev) (n : Nat) (s : Segment) : HeldBack :=
  let l := d.unspent s
  if d.eligible n s then .eligible
  else if d.guarded n then .guard
  else if (l.filterMap Rec.about).any d.isHeldIntent then .held
  else if l.any fun r => r.about.isSome then .unresolved
  else .control

def bounds (l : List Nat) : Option (Nat × Nat) :=
  match minOf l, maxOf l with
  | some a, some b => some (a, b)
  | _, _ => none

/-- R163, one segment. A page that failed or was torn counts among the pages programmed, and among the failed ones too
(log 98). -/
def Dev.segmentReport (d : Dev) (n : Nat) : SegmentReport :=
  let s := d.seg n
  { state := s.state
    eraseCount := s.eraseCount
    group := groupOf n
    guarded := d.guarded n
    programmed := s.pages.length
    failed := s.failed.length
    positions := bounds (s.pages.map (·.pos))
    intents := bounds s.intents
    heldBack := if s.state = .full then some (d.heldBack n s) else none }

/-- R181: one port. -/
def Dev.portReport (d : Dev) (p : PortId) : PortReport :=
  let q := d.ports[p]
  { state := q.state
    fence := d.settings.portFence[p]
    outstanding := q.outstanding
    notices := q.noticeQ.length
    noticeNumber := q.noticeNumber
    lost := q.lost
    timeouts := q.timeouts
    mask := d.settings.masks[p] }

/-- R181. The cache bytes in use, as the pinned ones, count the space that the fetches in progress have reserved (log 95). -/
def Dev.statusReport (d : Dev) : StatusReport :=
  let f := d.fetch
  { part := d.part
    kind := d.power.kind
    count := d.power.startCount
    localSite := d.settings.localSite
    ports := allPorts.map d.portReport
    partLost := d.partLost
    lastGranted := d.intake.last
    fetching := f.active.length
    queued := f.queue.length
    cacheUsed := f.cacheUsed + f.reserved
    cachePinned := ((f.cache.filter fun e => d.pinned e.seq).map fun e => e.data.length).sum + f.reserved
    blocked := (d.status.slots.filter fun e => e.2.fetchBlocked).length
    timeouts := f.timeouts
    mismatches := f.mismatches
    fetchFailed := f.fetchFailed
    faults := d.latchedFaults }

/-- R178, R196: the START notice. It describes the most recent start, whenever the port is attached. -/
def Dev.startNotice (d : Dev) : NoticeBody := .start d.power.kind d.power.startCount d.power.info

end Sys2Proof.Machine
end

