-- ==== Sys2Proof/Machine/PortState.lean ====
section
/-!
DEFINITION. The states of the controller ports (R164, R165, R177 to R180): entering and leaving ONLINE, fencing, function
reset.
-/

namespace Sys2Proof.Machine

/-- R165: FETCH-BLOCKED is cleared from every intent that holds it, and the cursors are lowered to it (R69). -/
def Dev.unblockFetches (d : Dev) : Dev :=
  let l := d.status.slots.filterMap fun e => if e.2.fetchBlocked then some e.1 else none
  l.foldl
    (fun d s =>
      match d.slot? s with
      | some x => (d.putSlot s { x with fetchBlocked := false }).offer s
      | none => d)
    d

/-- R165: a port leaves ONLINE, its state being set already. -/
def Dev.leftOnline (p : PortId) (d : Dev) : Dev := (d.returnDeliveries p).moveReads p

/-- R165: a port that is ONLINE goes to another state. -/
def Dev.closePort (p : PortId) (new : PortState) (c : PortCause) (d : Dev) : Dev :=
  let old := d.ports[p].state
  let d := d.modPort p fun q => { q with state := new }
  (if old = .online then d.leftOnline p else d).portNotice p old new c

/-- R165, R178: the port goes to ONLINE; START comes before FAULT and PORT_STATE. -/
def Dev.openPort (p : PortId) (d : Dev) : Dev :=
  let old := d.ports[p].state
  let d := d.modPort p fun q => { q with state := .online, timeouts := 0 }
  let d := d.unblockFetches.notify p false d.startNotice
  let d :=
    if d.retentionLost && d.settings.masks[p].getLsbD FaultKind.retentionLost.index then
      d.notify p false (.fault .retentionLost .part)
    else d
  d.portNotice p old .online .command

/-- R180, R167: the port goes to FENCED; its queued commands are answered FENCED, and its holds end. -/
def Dev.fencePort (p : PortId) (d : Dev) : Dev :=
  let d := { d with settings := { d.settings with portFence := d.settings.portFence.set p true } }
  let d := d.modPort p fun q =>
    { q with
      taken := q.taken.map fun t => { t with discard := true, holds := false }
      respQ := q.respQ ++ q.cmdQ.map fun r => ⟨kindCode r.body, .fenced, 0, r.cid, .none⟩
      cmdQ := []
      lookup := none }
  d.closePort p .fenced .fence

/-- R180: the mark is cleared and the port goes to OFFLINE. -/
def Dev.unfencePort (p : PortId) (d : Dev) : Dev :=
  let d := { d with settings := { d.settings with portFence := d.settings.portFence.set p false } }
  d.closePort p .offline .fence

/-- R177: a function reset of one port. -/
def Dev.functionReset (p : PortId) (d : Dev) : Dev :=
  let old := d.ports[p].state
  let d := d.modPort p fun q =>
    { q with
      cmdQ := [], respQ := [], noticeQ := [], lookup := none
      taken := q.taken.map fun t => { t with discard := true }
      timeouts := 0, lost := 0, noticeNumber := 1 }
  match old with
  | .online | .lost =>
    let d := d.modPort p fun q => { q with state := .offline }
    (d.leftOnline p).portNotice p old .offline .functionReset
  | _ => d.returnDeliveries p

/-- R173: a read has not completed 50 ms after its start. -/
def Dev.fetchTimedOut (f : Fetch) (d : Dev) : Dev :=
  let p := f.port
  let n := d.ports[p].timeouts + 1
  let d := d.modFetch fun u => { u with timeouts := sat64 (u.timeouts + 1) }
  let d := d.modPort p fun q => { q with timeouts := n }
  let d := d.modFetch fun u =>
    { u with active := u.active.map fun a => if a.req.seq == f.req.seq then { a with reading := false } else a }
  let d := if n = 3 ∧ d.online p = true then d.closePort p .lost .fetchTimeout else d
  d.moveFetch f.req.seq p

end Sys2Proof.Machine
end

