-- ==== Sys2Proof/Machine/PortCommands.lean ====
section
/-!
DEFINITION. What each controller command does when the part takes it, on an ONLINE port of a part that is READY (one
definition for each command of the command summary). `tok` names the taken command.

A command that uses the intake arbiter acts in its grant event. It either answers at once, or it leaves its records as the
grant's work; the staging block places them (R11, R12) and the command is answered when their pages pass (R14).
-/

namespace Sys2Proof.Machine

/-! ## Shared -/

/-- The records of the granted command, which the staging block places. -/
def Dev.grantRecords (tok : Tok) (l : List Staged) (flush : Bool) (d : Dev) : Dev :=
  { d with intake := { d.intake with grant := some ⟨tok, .place l flush⟩ } }

/-- A command's own records, and what its answer is made from. -/
def Dev.raiseOwn (tok : Tok) (c : Cont) (l : List Rec) (d : Dev) : Dev :=
  (d.setCont tok c).grantRecords tok (l.map fun r => ⟨r, some tok⟩) false

/-- A command whose own record is a SETTINGS record. -/
def Dev.raiseSettings (tok : Tok) (c : Cont) (d : Dev) : Dev := d.raiseOwn tok c [d.settingsRec]

def Dev.modSettings (f : Settings → Settings) (d : Dev) : Dev := { d with settings := f d.settings }

/-! ## The journal -/

/-- R19, case 2: the fields of an APPEND are malformed. -/
def appendMalformed (b : AppendBody) : Bool :=
  match intentKindOf b.kind with
  | none => true
  | some k =>
    !(1 ≤ b.keyLen && b.keyLen ≤ 240) || !payloadLenOk k b.payloadLen
      || (if k = .delete then b.locator != 0 || b.digest != 0 else b.locator % 16 != 0)

/-- R19: the first condition that refuses an APPEND. -/
def Dev.appendRefusal (d : Dev) (b : AppendBody) : Option Status :=
  match d.settings.localSite with
  | none => some .wrongState
  | some site =>
    if appendMalformed b then some .badField
    else if b.stamp.toNat % 16 ≠ site then some .badStamp
    else if d.free ≤ 4 ∨ d.headroom ≤ 1024 then some .journalFull
    else if (d.placement b.bucket).notPlaced then some .notPlaced
    else none

/-- The intent record of an APPEND (R7). -/
def appendRecord (seq : Seq) (p : PortId) (b : AppendBody) (pl : Placement) : IntentRec where
  seq := seq
  kind := (intentKindOf b.kind).getD .put
  origin := p
  tag := b.tag
  bucket := b.bucket
  keyHash := b.keyHash
  key := keyOf b.keyLen b.key
  stamp := b.stamp
  payloadLen := b.payloadLen
  locator := b.locator
  digest := b.digest
  entry := pl.deciding.getD none
  siteSet := pl.set
  quorum := pl.quorum
  held := pl.held

/-- R48: the list holds 4,096 entries. -/
def Dev.heldFull (d : Dev) : Bool := decide (4096 ≤ d.held.entries.length)

/-- R29, R35, R50: what the key index decides for an APPEND in the event of its staging. -/
def Dev.decideAppend (d : Dev) (b : AppendBody) (held : Bool) (o : Outcome27) : KeyIndex × Decided :=
  let c := d.index.check b.bucket b.keyHash b.keyLen o
  let decided := d.index.decide d.journal.nextSeq b.bucket b.keyHash b.keyLen b.stamp c
  if !held then decided
  else if !d.heldFull then d.index.countHeld d.journal.nextSeq b.bucket b.keyHash b.keyLen c
  else match d.settings.mode.expiryAction with
    | .released => decided
    | .denied => (d.index, { outcome := .overflowDenied })

/-- R49, R50: the held-intent list in the event of a staging, and the DECISION record that an overflow places. -/
def Dev.holdAppend (seq : Seq) (held : Bool) (d : Dev) : Dev × Option Rec :=
  if !held then (d, none)
  else if !d.heldFull then ({ d with held := { d.held with entries := d.held.entries ++ [⟨seq, .staged⟩] } }, none)
  else ({ d with held := { d.held with overflow := sat16 (d.held.overflow + 1) } },
    some (.decision seq d.settings.mode.expiryAction))

/-- R20: the answer that the page of a staged APPEND brings. -/
def appendAnswer (r : IntentRec) (c : Decided) : AppendAnswer where
  seq := r.seq
  tag := r.tag
  set := r.siteSet
  quorum := r.quorum
  outcome := c.outcome
  unindexed := c.reason.isSome
  overflow := r.held && c.outcome != .held

/-- R19, R108: an APPEND is staged. It no longer holds its port (R167). An overflow keeps the grant for its DECISION record
(R50). -/
def Dev.stageAppend (tok : Tok) (b : AppendBody) (o : Outcome27) (d : Dev) : Dev :=
  let seq := d.journal.nextSeq
  let pl := d.placement b.bucket
  let r := appendRecord seq tok.port b pl
  let (index, c) := d.decideAppend b pl.held o
  let (d, more) := d.holdAppend seq pl.held
  let d := ({ d with index := index }.fillSlot r c).takeSeq
  let d := (d.place ⟨.intent r, some tok⟩).1
  let d := d.modTaken tok fun t => { t with holds := false, cont := .append (appendAnswer r c) }
  { d with intake := { d.intake with grant := more.map fun r => ⟨tok, .second ⟨r, some tok⟩⟩ } }

/-- R19: a granted APPEND is examined. -/
def Dev.examineAppend (tok : Tok) (b : AppendBody) (o : Outcome27) (d : Dev) : Dev :=
  match d.appendRefusal b with
  | some st => { d with intake := { d.intake with grant := none } }.answer tok st 0 (.appendTag b.tag)
  | none => d.stageAppend tok b o

/-- R170: an APPEND is granted; it is examined when a buffer can take its record (R19). -/
def Dev.actAppend (tok : Tok) (b : AppendBody) (o : Outcome27) (d : Dev) : Dev :=
  { d with intake := { d.intake with grant := some ⟨tok, .examine b o⟩ } }

/-- R21: the FILLING buffer closes, and the FLUSH waits for every buffer that holds a record. In a quiesce the buffer closes
with the SHUTDOWN record (R187, log 86). -/
def Dev.flushNow (tok : Tok) (d : Dev) : Dev :=
  let d := if d.quiescePlaces then d else d.closeBuffer
  let a := d.journal.bufA.state != .empty
  let b := d.journal.bufB.state != .empty
  if !a && !b then d.refuse tok .done
  else { d with journal := { d.journal with flushes := d.journal.flushes ++ [⟨tok, a, b⟩] } }

/-- R21: the commit delay that a FLUSH field gives. -/
def flushDelay (stored field : Nat) : Nat := if field = 0 then stored else clamp 50 2000 field

/-- R21. -/
def Dev.actFlush (tok : Tok) (field : Nat) (d : Dev) : Dev :=
  let v := flushDelay d.settings.commitDelay field
  if v = d.settings.commitDelay then d.flushNow tok
  else
    let d := d.modSettings fun c => { c with commitDelay := v }
    d.grantRecords tok [⟨d.settingsRec, none⟩] true

/-- R22, R23. -/
def Dev.actReadJournal (tok : Tok) (seq addr : Nat) (d : Dev) : Dev :=
  if seq = 0 then d.answer tok .done 0 (.journalSummary d.journalSummary)
  else if addr % 16 ≠ 0 then d.refuse tok .badField
  else if d.beyondTail seq || d.passedOver seq then d.refuse tok .notFound
  else
    match d.locate seq with
    | .buffer r => d.writeRecord tok addr r false
    | .cache r => d.writeRecord tok addr r true
    | .array seg page => d.enqueueRead ⟨seg, page, seq, .readJournal tok seq addr⟩
    | .absent => d.refuse tok .notFound

/-! ## The key index -/

/-- R40, R41. -/
def Dev.actQueryKey (tok : Tok) (q : KeyQuery) (d : Dev) : Dev :=
  if q.keyLen = 0 then d.answer tok .done 0 d.keySummary
  else if 240 < q.keyLen then d.refuse tok .badField
  else
    match d.lookup q.bucket q.keyHash q.keyLen q.key with
    | .known .none => d.refuse tok .notFound
    | .known (.found w c r) => d.answerKey tok q w c r
    | .read seg page source w c => d.enqueueRead ⟨seg, page, source, .queryKey tok q w c⟩

/-! ## Placement and held intents -/

/-- R55: the fields that a SET PLACEMENT leaves, its quorum clamped. A list that names no slot leaves the quorum at 1
(log 32). Under ALL-SITES the set's bits are kept and compared as well (log 51). -/
def placementResult (b : SetPlacementBody) : PlacementEntry where
  enabled := b.enabled
  bucket := b.bucket
  mask := b.mask
  allSites := b.allSites
  slots := b.slots
  quorum := if b.allSites then min b.quorum 8 else max 1 (min (min b.quorum 8) (slotsOf b.slots).length)
  hold := b.hold

/-- R55. -/
def Dev.actSetPlacement (tok : Tok) (b : SetPlacementBody) (d : Dev) : Dev :=
  match entryOf b.entry with
  | none => d.refuse tok .badField
  | some n =>
    if b.quorum = 0 ∨ (b.enabled = true ∧ b.allSites = false ∧ b.slots = 0) then d.refuse tok .badField
    else if placementResult b = d.settings.placement[n] then d.answer tok .done 0 (.placementEntry (placementResult b))
    else
      (d.modSettings fun c => { c with placement := c.placement.set n (placementResult b) }).raiseSettings tok (.setPlacement n.val)

/-- R56: the flag NOT_PLACED. "The held flag" is read as a field of the body, so NOT_PLACED is the first flag (log 54). -/
def notPlacedFlag : Byte := 1

/-- R56. -/
def Dev.actReadPlacement (tok : Tok) (b : ReadPlacementBody) (d : Dev) : Dev :=
  match b.selector with
  | 1 =>
    match entryOf b.entry with
    | some n => d.answer tok .done 0 (.placementEntry d.settings.placement[n])
    | none => d.refuse tok .badField
  | 2 => d.answer tok .done 0 d.modeReport
  | 3 =>
    let pl := d.placement b.bucket
    d.answer tok .done (if pl.notPlaced then notPlacedFlag else 0) (.probe pl.deciding pl.set pl.quorum pl.held)
  | _ => d.refuse tok .badField

/-- R57: the settings that a SET PLACEMENT MODE leaves. -/
def modeResult (b : SetModeBody) (action : Decision) (old : PlacementMode) : PlacementMode where
  strict := b.strict
  mirrorAll := b.mirrorAll
  defaultQuorum := if b.defaultQuorum = 0 then old.defaultQuorum else min b.defaultQuorum 8
  holdLimit := if b.holdLimit = 0 then old.holdLimit else min b.holdLimit 600
  expiryAction := action

/-- R57. The DONE that comes at once carries the stored settings too (log 63). -/
def Dev.actSetPlacementMode (tok : Tok) (b : SetModeBody) (d : Dev) : Dev :=
  match expiryActionOf b.expiryAction with
  | none => d.refuse tok .badField
  | some action =>
    let m := modeResult b action d.settings.mode
    if m = d.settings.mode then d.answer tok .done 0 (.modeSettings m)
    else (d.modSettings fun c => { c with mode := m }).raiseSettings tok .setMode

/-- R58, R59: the first three cases. -/
def Dev.decisionRefusal (d : Dev) (seq : Seq) : Option Status :=
  if seq = 0 then some .badField
  else if d.beyondTail seq || d.passedOver seq || !d.inJournal seq then some .notFound
  else
    match d.heldEntry seq with
    | some ⟨_, .waiting _⟩ => none
    | _ => some .wrongState

/-- R51: a command takes a decision. -/
def Dev.decideHeld (tok : Tok) (seq : Seq) (dn : Decision) (c : Cont) (d : Dev) : Dev :=
  match d.decisionRefusal seq with
  | some st => d.refuse tok st
  | none => (d.setHeld seq (.deciding dn .command)).raiseOwn tok c [.decision seq dn]

/-- R58. -/
def Dev.actRelease (tok : Tok) (seq : Seq) (d : Dev) : Dev := d.decideHeld tok seq .released (.release seq none)

/-- R59. -/
def Dev.actDeny (tok : Tok) (seq : Seq) (d : Dev) : Dev := d.decideHeld tok seq .denied .done

/-! ## Peer sites -/

/-- R83: the configuration that an ATTACH SITE gives, when check 1 passes. -/
def attachResult (b : AttachSiteBody) : Option (SlotId × SiteConfig) :=
  match slotOf b.slot, spanOf b.spanPort, genIndexOf b.generator, paceModeOf b.mode with
  | some j, some sp, some g, some m =>
    some (j,
      { site := some b.site, spanPort := sp, generator := g, share := min b.share 1024, mode := m, lend := b.lend
        maxWindow := clamp 65536 67108864 b.maxWindow, evictable := b.evictable })
  | _, _, _, _ => none

/-- R83, check 2. -/
def Dev.siteNumberTaken (d : Dev) (j : SlotId) (site : Nat) : Bool :=
  decide (15 < site) || d.settings.localSite == some site
    || allSlots.any fun k => k != j && d.siteState k != .detached && (d.config k).site == some site

/-- R83. -/
def Dev.actAttachSite (tok : Tok) (b : AttachSiteBody) (d : Dev) : Dev :=
  if d.settings.localSite.isNone then d.refuse tok .wrongState
  else
    match attachResult b with
    | none => d.refuse tok .badField
    | some (j, c) =>
      if d.siteNumberTaken j b.site then d.refuse tok .badField
      else if d.siteState j ≠ .detached then d.refuse tok .wrongState
      else
        let d := d.attachSlot j c
        d.raiseOwn tok .done (d.siteRecords j)

/-- The checks that the site commands with one slot share: the local site number, the slot, its state (R84 to R86). -/
def Dev.siteCommand (tok : Tok) (slot : Nat) (ok : SiteState → Bool) (effect : SlotId → Dev → Dev) (d : Dev) : Dev :=
  if d.settings.localSite.isNone then d.refuse tok .wrongState
  else
    match slotOf slot with
    | none => d.refuse tok .badField
    | some j => if ok (d.siteState j) then effect j d else d.refuse tok .wrongState

/-- R84. -/
def Dev.actDetachSite (tok : Tok) (slot : Nat) (d : Dev) : Dev :=
  d.siteCommand tok slot (fun s => s != .detached) fun j d =>
    let n := (d.marked j Mark.isOpen).length
    let d := d.detachSlot j
    d.raiseOwn tok (.count n) (d.siteRecords j)

/-- R85. -/
def Dev.actFenceSite (tok : Tok) (slot : Nat) (d : Dev) : Dev :=
  d.siteCommand tok slot (fun s => s == .probing || s == .active || s == .stalled) fun j d =>
    let d := d.fenceSlot j
    d.raiseOwn tok .done (d.siteRecords j)

/-- R85. -/
def Dev.actUnfenceSite (tok : Tok) (slot : Nat) (d : Dev) : Dev :=
  d.siteCommand tok slot (fun s => s == .fenced) fun j d =>
    let d := d.unfenceSlot j
    d.raiseOwn tok .done (d.siteRecords j)

/-- R86. -/
def Dev.actRejoinSite (tok : Tok) (slot : Nat) (d : Dev) : Dev :=
  d.siteCommand tok slot (fun s => s == .evicted) fun j d =>
    let d := d.rejoinSlot j
    d.raiseOwn tok .done (d.siteRecords j)

/-- R87. -/
def Dev.actRewindSite (tok : Tok) (slot q : Nat) (d : Dev) : Dev :=
  if d.settings.localSite.isNone then d.refuse tok .wrongState
  else
    match slotOf slot with
    | none => d.refuse tok .badField
    | some j =>
      if d.journal.nextSeq < q then d.refuse tok .badField
      else if d.siteState j = .detached ∨ d.siteState j = .evicted then d.refuse tok .wrongState
      else if q < d.rewindFloor then d.refuse tok .notFound
      else (d.rewindSlot j q).raiseOwn tok (.count (d.rewindSet j q).length) [.siteEvent j .rewind q]

/-- R88. As every site command, it is answered WRONG_STATE while the local site number is unset (R191, log 55). -/
def Dev.actReadSite (tok : Tok) (slot : Option Nat) (d : Dev) : Dev :=
  if d.settings.localSite.isNone then d.refuse tok .wrongState
  else
    match slot with
    | none => d.answer tok .done 0 d.sitesReport
    | some n =>
      match slotOf n with
      | none => d.refuse tok .badField
      | some j => d.answer tok .done 0 (.site (d.siteReport j))

/-! ## Pacing -/

/-- R104: the settings that a SET GENERATOR leaves, when its fields are in range. -/
def generatorResult (b : SetGeneratorBody) : Option (GenId × GenSettings) :=
  match genOf b.generator, onOffOf b.enable with
  | some g, some on =>
    if b.rate ≠ 0 ∧ (b.period = 250 ∨ b.period = 500 ∨ b.period = 1000 ∨ b.period = 2000) then
      some (g, ⟨on, min b.rate 1000, b.period⟩)
    else none
  | _, _ => none

/-- R104. -/
def Dev.actSetGenerator (tok : Tok) (b : SetGeneratorBody) (d : Dev) : Dev :=
  match generatorResult b with
  | none => d.refuse tok .badField
  | some (g, s) =>
    if s = d.settings.gens[g] then d.answer tok .done 0 (.gen (d.genReport g))
    else
      let d := d.modSettings fun c => { c with gens := c.gens.set g s }
      ((d.clampMembers g).startGen g).raiseSettings tok (.setGenerator g)

/-- R105: the configuration that a SET SITE PACING leaves, when check 1 passes. -/
def pacingResult (b : SetSitePacingBody) (d : Dev) : Option (SlotId × SiteConfig) :=
  match slotOf b.slot, genIndexOf b.generator, paceModeOf b.mode, onOffOf b.lend with
  | some j, some g, some m, some l =>
    some (j,
      { d.config j with
        generator := g, share := min b.share 1024, mode := m, lend := l, maxWindow := clamp 65536 67108864 b.maxWindow })
  | _, _, _, _ => none

/-- R106, R97: the effects on credits when the slot is ACTIVE. -/
def Dev.repace (j : SlotId) (old new : SiteConfig) (d : Dev) : Dev :=
  if d.siteState j ≠ .active then d
  else
    let d := if old.mode = new.mode then d else d.modSite j fun x => { x with credit := 0 }
    if old.mode = new.mode ∧ old.generator = new.generator ∧ old.share = new.share then d
    else (d.clampMembers old.gen).clampMembers new.gen

/-- R105. -/
def Dev.actSetSitePacing (tok : Tok) (b : SetSitePacingBody) (d : Dev) : Dev :=
  match pacingResult b d with
  | none => d.refuse tok .badField
  | some (j, c) =>
    let old := d.config j
    if d.siteState j = .detached then d.refuse tok .wrongState
    else if c = old then d.answer tok .done 0 (d.pacingReport j)
    else ((d.modConfig j fun _ => c).repace j old c).raiseSettings tok (.setSitePacing j)

/-! ## Durability -/

/-- R123: the flag RESOLVED_BEFORE_START. -/
def resolvedBeforeFlag : Byte := 1

/-- R122, R123. -/
def Dev.actQueryIntent (tok : Tok) (s : Seq) (d : Dev) : Dev :=
  if s = 0 then d.answer tok .done 0 (.statusSummary d.statusSummary)
  else if d.beyondTail s || d.passedOver s then d.refuse tok .notFound
  else if !d.inJournal s then d.refuse tok .notFound
  else
    match d.slot? s with
    | none => d.answer tok .done resolvedBeforeFlag .none
    | some x => d.answer tok .done 0 (.intent x.report)

/-! ## Inbound -/

/-- R140: a landing ID is in use at a port. -/
def Dev.landingUsed (d : Dev) (p : PortId) (id : Nat) : Bool :=
  (d.ports[p].landings.any fun l => l.id == id)
    || d.inbound.arrivals.any fun a => match a.delivery with
      | some (q, l) => q == p && l.id == id
      | none => false

/-- R140. -/
def Dev.actPostLanding (tok : Tok) (id addr capacity : Nat) (d : Dev) : Dev :=
  let p := tok.port
  if capacity < 4096 ∨ addr % 16 ≠ 0 ∨ d.landingUsed p id = true then d.refuse tok .badField
  else if 256 ≤ d.ports[p].landings.length then d.refuse tok .wrongState
  else
    let d := d.modPort p fun q => { q with landings := q.landings ++ [⟨id, addr, capacity⟩] }
    d.answer tok .done 0 (.landings d.ports[p].landings.length)

/-- R141. -/
def Dev.actStored (tok : Tok) (arrival outcome : Nat) (d : Dev) : Dev :=
  match storedOutcomeOf outcome with
  | none => d.refuse tok .badField
  | some o =>
    match d.inbound.arrival arrival with
    | none => d.refuse tok .notFound
    | some a =>
      if a.state = .delivered ∧ a.delivery.map (·.1) = some tok.port then (d.finish a o).refuse tok .done
      else d.refuse tok .wrongState

/-- R142. -/
def Dev.actReadInbound (tok : Tok) (arrival : Nat) (d : Dev) : Dev :=
  if arrival = 0 then d.answer tok .done 0 (.inboundSummary d.inboundSummary)
  else
    match d.inbound.arrival arrival with
    | none => d.refuse tok .notFound
    | some a => d.answer tok .done 0 (.arrival (d.arrivalReport a))

/-! ## Guards and pressure -/

/-- R160: a waiting erase request whose target is guarded is withdrawn. -/
def Dev.withdrawGuarded (d : Dev) : Dev :=
  match d.reclaim.engine with
  | .waiting n => if d.guarded n then d.withdraw else d
  | _ => d

/-- R160: the software guard turns ON; when it is ON already nothing changes. -/
def Dev.turnGuardOn (d : Dev) : Dev :=
  if d.guard.software then d else { d with guard := { d.guard with software := true } }.withdrawGuarded

/-- R160. -/
def Dev.actGuardOn (tok : Tok) (d : Dev) : Dev :=
  d.turnGuardOn.answer tok .done 0 (.guardOn d.guard.filtered (markedGroups d.settings.guardMap))

/-- R160. -/
def Dev.actGuardOff (tok : Tok) (d : Dev) : Dev :=
  if d.guard.filtered then d.refuse tok .guardLine
  else { d with guard := { d.guard with software := false } }.refuse tok .done

/-- R161. The DONE that comes at once carries the stored map too (log 63). -/
def Dev.actSetGuardMap (tok : Tok) (m : Word64) (d : Dev) : Dev :=
  if d.guard.filtered then d.refuse tok .guardLine
  else if m = d.settings.guardMap then d.answer tok .done 0 (.guardMap m)
  else (d.modSettings fun c => { c with guardMap := m }).raiseSettings tok .guardMap

/-- R162: the limits that a SET PRESSURE LIMITS leaves: the low watermark and the critical reserve. -/
def pressureLimits (c : Settings) (lw cr : Nat) : Nat × Nat :=
  let r := clamp 8 256 (if cr = 0 then c.criticalReserve else cr)
  (clamp (r + 1) 1024 (if lw = 0 then c.lowWatermark else lw), r)

def Dev.pressureReport (d : Dev) : RespBody := .pressure d.settings.lowWatermark d.settings.criticalReserve d.level

/-- R162: the armed flag, the LOW_WATERMARK notice and the last blocked notice follow in the same event. The DONE that comes
at once, when nothing changes, carries the limits and the level too (log 63). -/
def Dev.actSetPressureLimits (tok : Tok) (lw cr : Nat) (d : Dev) : Dev :=
  let (w, r) := pressureLimits d.settings lw cr
  if w = d.settings.lowWatermark ∧ r = d.settings.criticalReserve then d.answer tok .done 0 d.pressureReport
  else ((d.modSettings fun c => { c with lowWatermark := w, criticalReserve := r }).watchPressure).raiseSettings tok .pressure

/-- R163. -/
def Dev.actReadSegments (tok : Tok) (seg : Option Nat) (d : Dev) : Dev :=
  match seg with
  | none => d.answer tok .done 0 (.segments d.segmentsReport)
  | some n =>
    if segmentCount ≤ n then d.refuse tok .badField else d.answer tok .done 0 (.segment (d.segmentReport n))

/-! ## Ports -/

def Dev.attachReport (d : Dev) : RespBody :=
  .attach d.power.kind d.power.startCount d.settings.localSite d.latchedFaults

/-- R178. -/
def Dev.actAttachPort (tok : Tok) (d : Dev) : Dev :=
  if d.online tok.port then d.refuse tok .wrongState
  else
    let d := d.openPort tok.port
    d.answer tok .done 0 d.attachReport

/-- R179. -/
def Dev.actDetachPort (tok : Tok) (d : Dev) : Dev := (d.closePort tok.port .offline .command).refuse tok .done

/-- R180: the checks that FENCE PORT and UNFENCE PORT share. -/
def Dev.portCommand (tok : Tok) (port : Nat) (ok : PortState → Bool) (effect : PortId → Dev → Dev) (d : Dev) : Dev :=
  match portOf port with
  | none => d.refuse tok .badField
  | some q =>
    if q = tok.port then d.refuse tok .badField
    else if ok d.ports[q].state then (effect q d).raiseSettings tok .done
    else d.refuse tok .wrongState

/-- R180. -/
def Dev.actFencePort (tok : Tok) (port : Nat) (d : Dev) : Dev :=
  d.portCommand tok port (fun s => s != .fenced) Dev.fencePort

/-- R180. -/
def Dev.actUnfencePort (tok : Tok) (port : Nat) (d : Dev) : Dev :=
  d.portCommand tok port (fun s => s == .fenced) Dev.unfencePort

/-- R181. -/
def Dev.actReadStatus (tok : Tok) (d : Dev) : Dev := d.answer tok .done 0 (.status d.statusReport)

/-- R182: the latches of the named kinds. -/
def Dev.namedLatches (d : Dev) (kinds : Byte) : List (FaultKind × FaultScope) :=
  d.latchedFaults.filter fun e => kinds.getLsbD e.1.index

/-- R182. -/
def Dev.actClearFaults (tok : Tok) (kinds : Byte) (d : Dev) : Dev :=
  let l := d.namedLatches kinds
  let ended := l.filter fun e => d.conditionEnded e.1 e.2
  let stay := l.filter fun e => !d.conditionEnded e.1 e.2
  (ended.foldl (fun d e => d.setLatch false e.1 e.2) d).answer tok .done 0 (.cleared ended stay)

/-- R183: the mask that a list of seven settings gives. -/
def maskOf (l : List Nat) : Option (BitVec 7) :=
  if l.length = 7 ∧ l.all (fun n => (onOffOf n).isSome) = true then
    some (l.zipIdx.foldl (fun m e => if e.1 = 1 then m ||| (1 <<< e.2 : BitVec 7) else m) 0)
  else none

/-- R183. The DONE that comes at once carries the stored mask too (log 63). -/
def Dev.actSetNoticeMask (tok : Tok) (l : List Nat) (d : Dev) : Dev :=
  match maskOf l with
  | none => d.refuse tok .badField
  | some m =>
    if m = d.settings.masks[tok.port] then d.answer tok .done 0 (.mask m)
    else (d.modSettings fun c => { c with masks := c.masks.set tok.port m }).raiseSettings tok .mask

/-- R197. -/
def Dev.actSetLocalSite (tok : Tok) (site : Nat) (d : Dev) : Dev :=
  if 15 < site then d.refuse tok .badField
  else if d.settings.localSite.isSome then d.refuse tok .wrongState
  else (d.modSettings fun c => { c with localSite := some site }).raiseSettings tok .done

/-- R164, R199: the command kind code names no command. -/
def Dev.actUnknown (tok : Tok) (d : Dev) : Dev := d.refuse tok .badField

/-! ## Answers of commands whose records have passed (R14, R20) -/

/-- R20: the status of a staged APPEND. -/
def StagedOutcome.status : StagedOutcome → Status
  | .live | .unindexed | .overflowDenied => .accepted
  | .stale => .stale
  | .held => .held

/-- R20: the flags of a staged APPEND. -/
def AppendAnswer.flags (a : AppendAnswer) : Byte :=
  (if a.unindexed then 1#8 else 0#8) ||| (if a.overflow then 2#8 else 0#8)

/-- The answer of a command whose records have passed verify. A stored setting is reported as it stands then, also where
another command has changed it since the grant (log 63). -/
def Dev.answerCont (tok : Tok) (c : Cont) (d : Dev) : Dev :=
  match c with
  | .none => d
  | .append a => d.answer tok a.outcome.status a.flags (.append a.seq a.tag a.set a.quorum)
  | .done => d.refuse tok .done
  | .setPlacement n => d.answer tok .done 0 (.placementEntry (((entryOf n).map fun n => d.settings.placement[n]).getD {}))
  | .setMode => d.answer tok .done 0 (.modeSettings d.settings.mode)
  | .release s o =>
    d.answer tok .done 0 (.release (o.orElse fun _ => some (releaseOutcomeOf (Config.voidReleaseOutcome s))))
  | .count n => d.answer tok .done 0 (.count n)
  | .setGenerator g => d.answer tok .done 0 (.gen (d.genReport g))
  | .setSitePacing j => d.answer tok .done 0 (d.pacingReport j)
  | .guardMap => d.answer tok .done 0 (.guardMap d.settings.guardMap)
  | .pressure => d.answer tok .done 0 d.pressureReport
  | .mask => d.answer tok .done 0 (.mask d.settings.masks[tok.port])

end Sys2Proof.Machine
end

