-- ==== Sys2Proof/Machine/Refresh.lean ====
section
/-!
DEFINITION. What follows in the same event from any change of the tables: the frontiers (R119), the cursors' lower bound
and the dropping of candidates (R68), the raising of a FRONTIER record (R120) and the low-watermark notice (R156).
-/

namespace Sys2Proof.Machine

/-- R119, R68: the frontier of a slot is brought up to date, and its cursor is at least the frontier. -/
def Dev.refreshFrontier (j : SlotId) (d : Dev) : Dev :=
  if d.siteState j = .detached then d
  else
    let f := d.frontierOf j
    let e := d.setFrontier j (some f)
    if f ≤ e.sites[j].cursor then e else e.modSite j fun x => { x with cursor := f }

def Dev.refreshFrontiers (d : Dev) : Dev := allSlots.foldl (fun d j => d.refreshFrontier j) d

def Dev.pruneAll (d : Dev) : Dev := allSlots.foldl (fun d j => d.pruneCandidates j) d

/-- R120: both conditions hold. -/
def Dev.frontierDue (d : Dev) : Bool :=
  d.status.frontierChanged && (d.status.checkpoint == .expired || decide (1024 ≤ d.status.resolutions))

/-- R120. Of one effect that resolves several intents, or moves several frontiers, the two conditions are tested once, after
all of them; those that come after the two first hold are part of the one raising (log 96). -/
def Dev.checkpointIfDue (d : Dev) : Dev := if d.frontierDue then d.raiseFrontier else d

/-- What follows from a change of the tables, once for each effect of an event and after all of it (log 96). A start does this
work itself (R192, R195). -/
def Dev.refresh (d : Dev) : Dev :=
  if d.part = .starting then d else (d.refreshFrontiers.pruneAll.checkpointIfDue).watchPressure

end Sys2Proof.Machine
end

