-- ==== Sys2Proof/Machine/Start.lean ====
section
/-!
DEFINITION. Starts (chapter 10, R190 to R196): the choice of the kind, the FIRST and WARM starts, the COLD rebuild with its
replay (R39), and the end of a start. The work of a start is done in the event in which it begins, and START_END ends it.
-/

namespace Sys2Proof.Machine

/-! ## Reading the array -/

def insertRec (e : (Nat × Nat) × Rec) : List ((Nat × Nat) × Rec) → List ((Nat × Nat) × Rec)
  | [] => [e]
  | f :: t => if later f.1 e.1 then f :: insertRec e t else e :: f :: t

/-- The records of valid pages in journal order. -/
def Dev.journalOrder (d : Dev) : List ((Nat × Nat) × Rec) := d.validRecs.foldr insertRec []

def lastMatch {α : Type} (f : Rec → Option α) (l : List ((Nat × Nat) × Rec)) : Option ((Nat × Nat) × α) :=
  (l.filterMap fun e => (f e.2).map fun a => (e.1, a)).getLast?

def Rec.settings? : Rec → Option Settings
  | .settings c => some c
  | _ => none

def Rec.frontier? : Rec → Option (Vector (SiteState × Option Seq) 8)
  | .frontier v => some v
  | _ => none

/-- The newest SETTINGS record of a valid page. -/
def Dev.newestSettings (d : Dev) : Option Settings := (lastMatch Rec.settings? d.journalOrder).map (·.2)

def Segment.highestPos (s : Segment) : Nat := (maxOf (s.pages.map (·.pos))).getD 0

/-- R190: the segment of the newest programmed page: the FILLING one, else the newest FULL one. -/
def ArrayBlk.newestSegment (a : ArrayBlk) : Option Nat :=
  let programmed := a.held.filter fun e => !e.2.pages.isEmpty
  match programmed.find? fun e => e.2.state == .filling with
  | some e => some e.1
  | none =>
    match programmed with
    | [] => none
    | h :: t => some (t.foldl (fun best e => if best.2.highestPos < e.2.highestPos then e else best) h).1

/-- R190: the newest programmed page. -/
def ArrayBlk.newestPage (a : ArrayBlk) : Option (Nat × Page) :=
  a.newestSegment.bind fun n => (a.seg n).pages.getLast?.map fun p => (n, p)

/-- The highest page position in the array. -/
def ArrayBlk.highestPosition (a : ArrayBlk) : Nat := (maxOf a.heldPositions).getD 0

/-- R193: the sequence of the newest intent in a valid page; 0 when no valid page holds an intent (log 91). -/
def Dev.scannedTail (d : Dev) : Seq := (maxOf (d.array.validPages.flatMap fun e => e.2.intents)).getD 0

/-! ## The retained memory (R184, R185) -/

/-- R185: the tables over which the check word is computed. -/
structure Retained where
  status : StatusArray
  index : KeyIndex
  held : HeldList
  sites : Vector Site 8
  ctrlQ : List Rec
  deriving DecidableEq, Repr

/-- The tables as they stand. Frames that come after the retained memory has entered retention are counted (R186), and the
count does not disturb the tables that R192 takes "as they stood": it is left out of the check. The fault flags of a slot are in
it, so that a malformed frame which latches PROTOCOL then (R64) makes the next start COLD (log 45). -/
def Dev.retained (d : Dev) : Retained :=
  ⟨d.status, d.index, d.held, d.sites.map fun x => { x with stale := 0 }, d.journal.ctrlQ⟩

/-- R185: the retained memory enters retention: the check word is computed and the latch is set, provided that the backup
cell is above its threshold. After the cell was seen low its level is a free value (log 22). -/
def Dev.enterRetention (d : Dev) : Dev :=
  let good := !d.power.cellLow || Config.cellRecovered d.power.cellReads
  { d with
    power := { d.power with
      checkWord := Config.checkWord d.retained
      latch := good
      cellReads := d.power.cellReads + 1 } }

/-- R185: a start finds the check word valid. -/
def Dev.checkValid (d : Dev) : Bool := d.power.checkWord == Config.checkWord d.retained

/-! ## The choice of the kind (R190) -/

/-- R190, case 2: the last record of the newest programmed page is a SHUTDOWN record with the stored start count. -/
def Dev.cleanShutdown (d : Dev) : Bool :=
  match d.array.newestPage with
  | some (n, p) => (d.seg n).valid p && p.recs.getLast? == some (.shutdown d.power.startCount)
  | none => false

def Dev.startKind (d : Dev) : StartKind :=
  if d.newestSettings.isNone then .first
  else if d.power.latch && d.checkValid && d.cleanShutdown then .warm
  else .cold

/-- R190: a segment found RECLAIMING or SUSPENDED becomes DAMAGED; it holds nothing readable (R145), and its failed-page list
stands until an erase completes (R148, log 27). -/
def Segment.foundAtStart (s : Segment) : Segment :=
  match s.state with
  | .reclaiming | .suspended => { s with state := .damaged, pages := [] }
  | _ => s

/-- The pages that read with a wrong CRC (log 24). -/
def Segment.unreadable (l : List Nat) (s : Segment) : Segment :=
  { s with pages := s.pages.map fun p => if l.contains p.num then { p with crcOk := false } else p }

/-- R190: the array as the start finds it. -/
def Dev.readArray (d : Dev) : Dev :=
  let bad := d.power.media.unreadable
  let segs := d.array.segs.map fun e =>
    (e.1, e.2.foundAtStart.unreadable (bad.filterMap fun b => if b.1 = e.1 then some b.2 else none))
  { d with array := { d.array with segs := segs, op := none, suspended := none, reads := [] } }

/-! ## What every start resets (R18, R38, R54, R62, R63, R89, R121, R139, R150, R177) -/

def Dev.startPort (d : Dev) (p : PortId) : Port := { state := if d.settings.portFence[p] then .fenced else .offline }

/-- The state that does not survive any start; the settings are those of the start. Counts are cleared when the start begins,
so that a frame which comes during it is counted (log 70), and so are the ports' queues, so that an answer to a command that comes
during it stands (log 90). -/
def Dev.resetVolatile (kind : StartKind) (d : Dev) : Dev :=
  { d with
    part := .starting
    power := { d.power with kind := kind, phase := .idle, causePower := false, causeReset := false, stopped := false, info := {} }
    journal := { d.journal with
      bufA := {}, bufB := {}, progQ := [], lastProg := none, commitDue := none, tailCache := [], progFails := 0
      consecFails := 0, flushes := [] }
    index := { d.index with setFull := 0, countFull := 0, collision := 0, unreadable := 0, race := 0 }
    held := { d.held with overflow := 0 }
    status := { d.status with
      durable := 0, superseded := 0, shortfall := 0, frontierChanged := false, resolutions := 0, checkpoint := .stopped
      lastFrontier := none }
    span := Vector.replicate 2 {}
    foreign := 0
    gens := Vector.replicate 8 {}
    fetch := { nextRead := d.fetch.nextRead }
    inbound := {}
    dma := []
    reclaim := {}
    guard := { software := false, filtered := true, raw := d.guard.raw
               settleDue := if d.guard.raw then none else some (d.now + 10000) }
    ports := #v[d.startPort 0, d.startPort 1, d.startPort 2, d.startPort 3]
    partLost := 0
    intake := {}
    journalMedia := false
    retentionLost := false }

/-! ## FIRST (R191) -/

/-- R191: one segment is erased, and verified. -/
def Segment.eraseAtFirst (failed : Bool) (s : Segment) : Segment :=
  if s.state = .retired then s
  else
    { state := if failed || decide (retireCount ≤ s.eraseCount + 1) then .retired else .blank, eraseCount := s.eraseCount + 1 }

/-- R191: every segment that is not RETIRED is erased. The segments that are not listed are erased together. -/
def ArrayBlk.eraseAll (fails : List Nat) (a : ArrayBlk) : ArrayBlk :=
  let keys :=
    if retireCount ≤ a.baseErase + 1 then List.range segmentCount
    else a.segs.map (·.1) ++ fails.filter fun n => decide (n < segmentCount)
  let b : ArrayBlk := { baseErase := a.baseErase + 1 }
  keys.foldl (fun b n => b.putSeg n ((a.seg n).eraseAtFirst (fails.contains n))) b

def Dev.firstStart (d : Dev) : Dev :=
  let d := { d with settings := {} }.resetVolatile .first
  { d with
    array := d.array.eraseAll d.power.media.eraseFails
    journal := { d.journal with ctrlQ := [], nextPos := 1, nextSeq := 1, passedOver := [] }
    index := {}
    held := {}
    status := { d.status with slots := [] }
    sites := Vector.replicate 8 {} }

/-! ## WARM (R192) -/

/-- R62: the state of a slot after a WARM or COLD start. -/
def SiteState.afterStart : SiteState → SiteState
  | .probing | .active | .stalled => .probing
  | s => s

/-- R62, R119: the running part of a slot whose marks stand, after a start. Its counters are cleared here, when the start begins
(log 70). -/
def Dev.restartSite (d : Dev) (st : SiteState) (j : SlotId) : Site :=
  match st.afterStart with
  | .detached => {}
  | s => { state := s, cursor := d.frontierOf j, frontier := some (d.frontierOf j) }

def Dev.restartSites (states : SlotId → SiteState) (d : Dev) : Dev :=
  { d with
    sites :=
      #v[d.restartSite (states 0) 0, d.restartSite (states 1) 1, d.restartSite (states 2) 2, d.restartSite (states 3) 3,
        d.restartSite (states 4) 4, d.restartSite (states 5) 5, d.restartSite (states 6) 6, d.restartSite (states 7) 7] }

/-- R54: a deadline does not run while the part is STARTING or QUIESCING. -/
def HeldList.stop (h : HeldList) : HeldList :=
  { h with entries := h.entries.map fun e => if (match e.state with | .waiting _ => true | _ => false) then
      { e with state := .waiting none } else e }

/-- R54: every WAITING deadline is set to the full hold limit. -/
def Dev.setHoldDeadlines (d : Dev) : Dev :=
  let due := d.now + d.settings.mode.holdLimit * 1000000
  { d with
    held := { d.held with
      entries := d.held.entries.map fun e => if (match e.state with | .waiting _ => true | _ => false) then
        { e with state := .waiting (some due) } else e } }

/-- R39, R121, R177, R195: what a start does to the tables gives no counts, and the lost counts are 0 when it ends. -/
def Dev.forgetCounts (d : Dev) : Dev :=
  { d with
    status := { d.status with durable := 0, superseded := 0, shortfall := 0, resolutions := 0, frontierChanged := false }
    index := { d.index with setFull := 0, countFull := 0, collision := 0, unreadable := 0, race := 0 }
    partLost := 0 }

/-- R192. The next sequence never falls (R9, log 42). No page is scanned: one that has become unreadable fails when it is read
(log 62). -/
def Dev.warmStart (c : Settings) (d : Dev) : Dev :=
  let d := { d with settings := c }.resetVolatile .warm
  let d :=
    { d with
      status := { d.status with
        slots := d.status.slots.map fun (e : Seq × Slot) => (e.1, e.2.moveAll (· == Mark.inFlight) Mark.pending) }
      held := d.held.stop
      journal := { d.journal with
        nextPos := d.array.highestPosition + 1
        nextSeq := max (d.scannedTail + 1) d.journal.nextSeq } }
  d.restartSites d.siteState

/-! ## COLD: the journal (R193) -/

/-- R193: the newest programmed page is torn: its CRC fails. So is a page that has failed already (log 30). -/
def Dev.tornPage (d : Dev) : Option (Nat × Page) := d.array.newestPage.filter fun e => !e.2.crcOk

/-- The highest position of a valid page. -/
def Dev.highestValid (d : Dev) : Nat := (maxOf (d.array.validPages.map fun e => e.2.pos)).getD 0

/-- R193, R18: the torn page joins the failed-page list, where it stands once, and counts as carrying the position after the
last valid page; filling continues behind it (log 30). -/
def Dev.dropTorn (d : Dev) : Dev :=
  match d.tornPage with
  | none => { d with journal := { d.journal with nextPos := d.array.highestPosition + 1 } }
  | some (n, p) =>
    let v := d.highestValid
    let d := d.modSeg n fun s =>
      { s with
        failed := if s.failed.contains p.num then s.failed else s.failed ++ [p.num]
        pages := s.pages.map fun q => if q.num = p.num then { q with pos := v + 1, recs := [] } else q
        state := if p.num = 63 then .full else s.state }
    { d with journal := { d.journal with nextPos := v + 2 } }

/-- R193, R195: the lowest page position of the scan: that of the page holding the first intent at or above the scan start,
readable or not; when no page holds one, only what lies above the newest valid page has been read (log 58). -/
def Dev.scanFrom (d : Dev) (scan : Seq) : Nat :=
  let l := d.array.held.flatMap fun e => (e.2.pages.filter fun p => p.intents.any fun s => decide (scan ≤ s)).map (·.pos)
  (minOf ((d.highestValid + 1) :: l)).getD 0

/-- R193: the invalid pages that the scan meets and that have not failed before. -/
def Segment.met (from_ : Nat) (s : Segment) : List Page :=
  s.pages.filter fun p => !p.crcOk && !s.failed.contains p.num && decide (from_ ≤ p.pos)

/-- R193, R17: each page that fails its read in the scan joins its segment's failed-page list. -/
def Segment.dropUnreadable (from_ : Nat) (s : Segment) : Segment := { s with failed := s.failed ++ (s.met from_).map (·.num) }

/-- The number of pages of the journal that fail a read in the scan. -/
def ArrayBlk.unreadableCount (from_ : Nat) (a : ArrayBlk) : Nat := (a.held.map fun e => (e.2.met from_).length).sum

/-- R193, R17: the pages that fail a read in the scan; JOURNAL_MEDIA is latched for them, until the start ends (log 43). -/
def Dev.dropUnreadable (from_ : Nat) (d : Dev) : Dev :=
  let n := d.array.unreadableCount from_
  let d := { d with
    array := { d.array with
      segs := d.array.segs.map fun e =>
        (e.1, if e.2.state == .full || e.2.state == .filling then e.2.dropUnreadable from_ else e.2) } }
  if n = 0 then d else d.latch .journalMedia .part

/-- R193: the next sequence passes over what a lost page could have carried. -/
def Dev.passOver (d : Dev) : Dev :=
  let t := d.scannedTail
  let run := (t + 1, t + 62)
  { d with
    journal := { d.journal with
      nextSeq := t + 63
      passedOver := if d.journal.passedOver.contains run then d.journal.passedOver else run :: d.journal.passedOver } }

/-! ## COLD: slot states and frontiers (R194) -/

/-- A slot being rebuilt: its state, its frontier, and the changes that closed its marks, oldest first: where the record
stands, the reason, and the frontier that the slot had before. -/
structure Rebuilt where
  state : SiteState := .detached
  frontier : Option Seq := none
  closings : List ((Nat × Nat) × SkipReason × Option Seq) := []
  /-- a slot that is DETACHED or EVICTED with no SITE-EVENT record that says so -/
  base : Option (SkipReason × Option Seq) := none
  deriving DecidableEq, Repr

def closingReason : SiteState → Option SkipReason
  | .detached => some .detached
  | .evicted => some .evicted
  | _ => none

def Rec.siteEvent? (j : SlotId) : Rec → Option (EventState × Seq)
  | .siteEvent k st q => if k = j then some (st, q) else none
  | _ => none

/-- R195: the reason that a SITE-EVENT record closes the slot's marks with. -/
def Rec.closes? (j : SlotId) (r : Rec) : Option SkipReason :=
  match r.siteEvent? j with
  | some (.state st, _) => closingReason st
  | _ => none

/-- R195: the changes that closed a slot's marks before the FRONTIER record from which it is rebuilt: no frontier from before
them is known (log 31). -/
def closedBefore (l : List ((Nat × Nat) × Rec)) (from_ : Nat × Nat) (j : SlotId) :
    List ((Nat × Nat) × SkipReason × Option Seq) :=
  l.filterMap fun e => if later e.1 from_ then (e.2.closes? j).map fun r => (e.1, r, none) else none

/-- R194: where a slot starts from, with a FRONTIER record. A slot that the records leave DETACHED keeps the configuration that
the newest SETTINGS record gives it (log 73). -/
def rebuildFrom (c : SiteConfig) (e : SiteState × Option Seq) : Rebuilt :=
  if c.site.isNone then { state := .detached, frontier := e.2, base := some (.detached, if e.1 = .detached then none else e.2) }
  else { state := e.1, frontier := e.2, base := (closingReason e.1).map fun r => (r, none) }

/-- R194: where a slot starts from, without one. A slot that only the settings leave unconfigured, or EVICTED, has every mark
SKIPPED (log 31). -/
def rebuildBare (scan : Seq) (c : SiteConfig) : Rebuilt :=
  if c.site.isNone then { base := some (.detached, none) }
  else if c.fenceMark then { state := .fenced, frontier := some scan }
  else if c.evictMark then { state := .evicted, frontier := some scan, base := some (.evicted, none) }
  else { state := .probing, frontier := some scan }

/-- R194: the first intent after a record, or the tail + 1. -/
def firstIntentAfter (l : List ((Nat × Nat) × Rec)) (at_ : Nat × Nat) (next : Seq) : Seq :=
  (l.findSome? fun e => if later at_ e.1 then e.2.intentSeq else none).getD next

/-- R194: a SITE-EVENT record is applied to its slot. -/
def Rebuilt.apply (l : List ((Nat × Nat) × Rec)) (next : Seq) (at_ : Nat × Nat) (st : EventState) (q : Seq)
    (x : Rebuilt) : Rebuilt :=
  match st with
  | .rewind => { x with frontier := x.frontier.map fun f => min f q }
  | .state .probing =>
    if x.state = .detached ∨ x.state = .evicted then
      { x with state := .probing, frontier := some (firstIntentAfter l at_ next), base := none }
    else { x with state := .probing }
  | .state s =>
    match closingReason s with
    | some r => { x with state := s, closings := x.closings ++ [(at_, r, x.frontier)], base := none }
    | none => { x with state := s }

/-- R194: a slot's SITE-EVENT records, in journal order. -/
def Rebuilt.applyAll (l : List ((Nat × Nat) × Rec)) (next : Seq) (from_ : Option (Nat × Nat)) (j : SlotId) (x : Rebuilt) :
    Rebuilt :=
  let counts (at_ : Nat × Nat) : Bool := match from_ with
    | some f => later f at_
    | none => true
  l.foldl
    (fun x e =>
      match e.2.siteEvent? j with
      | some (st, q) => if counts e.1 then x.apply l next e.1 st q else x
      | none => x)
    x

/-- R194, R195: the rebuilt slots. A change before the newest FRONTIER record is no part of the slot's state, and closes the
marks of the intents before it. -/
def Dev.rebuilt (d : Dev) (l : List ((Nat × Nat) × Rec)) (j : SlotId) : Rebuilt :=
  match lastMatch Rec.frontier? l with
  | some (at_, v) =>
    { rebuildFrom (d.config j) v[j] with closings := closedBefore l at_ j }.applyAll l d.journal.nextSeq (some at_) j
  | none => (rebuildBare d.lowest (d.config j)).applyAll l d.journal.nextSeq none j

def Rebuilt.owes (x : Rebuilt) : Bool := (closingReason x.state).isNone

/-- R194: the scan start. -/
def Dev.scanStart (d : Dev) (l : List ((Nat × Nat) × Rec)) : Seq :=
  match lastMatch Rec.frontier? l with
  | none => d.lowest
  | some _ =>
    (minOf (allSlots.filterMap fun j => if (d.rebuilt l j).owes then (d.rebuilt l j).frontier else none)).getD
      d.journal.nextSeq

/-! ## COLD: marks and the replay (R195, R39) -/

/-- R195: the mark of an intent that stands at the given place. Of several changes after it that closed its marks, the first
counts (log 31). -/
def Rebuilt.markOf (x : Rebuilt) (at_ : Nat × Nat) (s : Seq) : Mark :=
  let closed : Option (SkipReason × Option Seq) :=
    match x.closings.find? fun c => later at_ c.1 with
    | some c => some c.2
    | none => x.base
  let skipped (f : Option Seq) : Bool := match f with
    | some f => decide (f ≤ s)
    | none => true
  match closed with
  | some (r, f) => if skipped f then .skipped r else .acked
  | none =>
    match x.frontier with
    | some f => if f ≤ s then .pending else .acked
    | none => .acked

/-- R39: the lookup outcome of a replayed intent, taken from the records already replayed. -/
def Dev.replayCheck (d : Dev) (r : IntentRec) : Checked :=
  match d.index.find r.bucket r.keyHash r.key.length with
  | none => .noEntry
  | some w =>
    match Tbl.get d.index.ways w with
    | none => .noEntry
    | some e =>
      let source := d.array.validPages.findSome? fun p => intentIn e.source p.2.recs
      .entry w (match source with | some k => compareKey k r.key | none => .unreadable)

/-- R39, R195: one intent of the scan. An intent that its marks leave resolved, and that is not held, is only
evaluated; its staged outcome is LIVE (log 31). Each intent is evaluated at its own record, before the later records of the scan
are replayed (log 94). -/
def Dev.replayIntent (marks : List (SlotId × Mark)) (r : IntentRec) (d : Dev) : Dev :=
  let c := d.replayCheck r
  let done := !r.held && !marks.any fun e => e.2.isOpen
  let (index, dec) :=
    if done then (d.index, { outcome := .live })
    else if r.held then d.index.countHeld r.seq r.bucket r.keyHash r.key.length c
    else d.index.decide r.seq r.bucket r.keyHash r.key.length r.stamp c
  let d := { d with index := index }.putSlot r.seq { stagedSlot r dec with marks := marks }
  d.writeSlot r

/-- R39, R52: one DECISION record of the scan. -/
def Dev.replayDecision (s : Seq) (dn : Decision) (d : Dev) : Dev :=
  if d.isHeldIntent s then
    match dn with
    | .released => (d.releaseHeld s (d.stampOf s)).1
    | .denied => d.denyHeld s
  else d

/-- R195: one record of the scan. -/
def Dev.replay (slots : SlotId → Rebuilt) (scan : Seq) (e : (Nat × Nat) × Rec) (d : Dev) : Dev :=
  match e.2 with
  | .intent r =>
    if scan ≤ r.seq then d.replayIntent ((slotsOf r.siteSet).map fun j => (j, (slots j).markOf e.1 r.seq)) r else d
  | .decision s dn => d.replayDecision s dn
  | _ => d

/-- R54: every intent that the replay leaves held waits again, also where that gives more than the 4,096 entries of R48
(log 59). -/
def Dev.holdAgain (d : Dev) : Dev :=
  { d with
    held := { entries := d.status.slots.filterMap fun e => if e.2.held then some ⟨e.1, .waiting none⟩ else none } }

/-- R193 to R195. The number of notices dropped is that of the part's lost count, which stays at 65,535 (log 60). -/
def Dev.coldStart (c : Settings) (d : Dev) : Dev :=
  let d := { d with settings := c }.resetVolatile .cold
  let torn := d.tornPage.isSome
  let d := d.dropTorn
  let tail := d.scannedTail
  let d := d.passOver
  let d :=
    { d with
      journal := { d.journal with ctrlQ := [] }
      index := {}
      held := {}
      status := { d.status with slots := [] }
      sites := Vector.replicate 8 {} }
  let l := d.journalOrder
  let scan := d.scanStart l
  let slots := fun j => d.rebuilt l j
  let from_ := d.scanFrom scan
  let bad := d.array.unreadableCount from_
  let d := d.dropUnreadable from_
  let d := (l.foldl (fun d e => d.replay slots scan e) d).holdAgain
  let dropped := d.partLost
  let d := (d.restartSites fun j => (slots j).state).forgetCounts
  { d with
    retentionLost := true
    power := { d.power with
      info :=
        { scanStart := some scan
          scannedTail := some tail
          passedOver := some (tail + 1, tail + 62)
          badPages := bad + (if torn then 1 else 0)
          heldAgain := d.held.entries.length
          noticesDropped := dropped } } }

/-! ## The start (R190, R196) -/

/-- R191, R192 to R195: the work of a start of the kind. -/
def Dev.startWork (d : Dev) : Dev :=
  let kind := d.startKind
  match d.newestSettings with
  | none => d.firstStart
  | some c => if kind = .warm then d.warmStart c else d.coldStart c

/-- R190: a start begins. What it finds of the array stays with the array; a later reset start finds nothing more (log 24). -/
def Dev.beginStart (d : Dev) : Dev :=
  let d := d.readArray.startWork
  { d with power := { d.power with media := ⟨[], []⟩ } }

/-- R66: each slot in one of the states sends a HELLO. -/
def Dev.probeAll (test : SiteState → Bool) (d : Dev) : Dev :=
  allSlots.foldl (fun d j => if test (d.siteState j) then d.probe j else d) d

/-- R62, R78, R176, R177: a start leaves every latch clear but RETENTION_LOST, also one that was set while the part was
STARTING (log 43). -/
def Dev.clearLatches (d : Dev) : Dev :=
  { d with
    journalMedia := false
    ports := d.ports.map fun q => { q with overrun := false }
    sites := d.sites.map Site.clearFlags }

/-- R184, R196: the start ends, and the part becomes READY. What the START notice carries stands from now on. The latches are
cleared before the first HELLOs. The counts of the frames (log 70) and the answers to the commands (log 90) that came during the
start stand. -/
def Dev.endStart (d : Dev) : Dev :=
  let info : StartInfo :=
    { d.power.info with
      site := d.settings.localSite, damaged := d.array.countState .damaged, retentionLost := d.retentionLost }
  let d :=
    { d with
      part := .ready
      power := { d.power with startCount := sat64 (d.power.startCount + 1), latch := false, info := info }
      status := { d.status with checkpoint := .running (d.now + 250000) } }
  let d := d.modReclaim fun r => { r with armed := decide (d.settings.lowWatermark < d.free) }
  d.clearLatches.startGens.setHoldDeadlines.probeAll (· == .probing)

end Sys2Proof.Machine
end

