-- ==== Sys2Proof/Machine/Power.lean ====
section
/-!
DEFINITION. The quiesce and what follows it (R185 to R189), and the loss and return of main power (R190).
-/

namespace Sys2Proof.Machine

/-! ## Entering QUIESCING (R186) -/

/-- Which line began a quiesce (R184). -/
inductive Line where
  | power | reset
  deriving DecidableEq, Repr

/-- R150: the reclaim engine stops; a waiting request is withdrawn, an erase is abandoned, and the failed-page list
stands (log 27, log 29). -/
def Dev.stopReclaim (d : Dev) : Dev :=
  match d.reclaim.engine with
  | .idle => d
  | .waiting _ => d.withdraw
  | .erasing n =>
    let d := d.modSeg n fun s => { s with state := .damaged, pages := [] }
    let running := match d.array.op with
      | some (.erase _) | some (.suspending _) => true
      | _ => false
    { d with array := { d.array with op := if running then none else d.array.op, suspended := none } }.setEngine .idle

/-- R186: sends stop; the span control queues are emptied; no frame is handed over. Retry deadlines, BUSY pauses and
probe timers stop: they keep their values and do not expire while the part is QUIESCING (log 4). -/
def Dev.stopSpan (d : Dev) : Dev :=
  { d with
    sites := d.sites.map fun x => { x with send := none }
    span := d.span.map fun s => { s with ctrlQ := [] } }

/-- R186: reads in progress are abandoned, and the fetches stay in progress. -/
def Dev.stopFetches (d : Dev) : Dev :=
  d.modFetch fun f => { f with active := f.active.map fun a => { a with reading := false } }

/-- R186: a quiesce begins. -/
def Dev.enterQuiesce (line : Line) (d : Dev) : Dev :=
  let d :=
    { d with
      part := .quiescing
      power := { d.power with
        phase := .placing, causePower := line == Line.power, causeReset := line == Line.reset }
      held := d.held.stop
      status := { d.status with checkpoint := .stopped } }
  (((d.stopGens).stopSilence).stopReclaim).stopSpan.stopFetches

/-! ## The steps of the quiesce (R187) -/

def Dev.setPhase (ph : QuiescePhase) (d : Dev) : Dev := { d with power := { d.power with phase := ph } }

/-- R187: the reset line starts a part whose quiesce cannot progress, as R188 lets a start begin: with RESET in the cause, once
both lines are deasserted. -/
def Dev.startsStalled (d : Dev) : Bool :=
  d.part == .quiescing && d.power.causeReset && !d.power.warn && !d.power.resetLine && d.programStalled

/-- R187, steps 3 and 4, when step 1 is over and no command holds the grant. None: it waits. -/
def Dev.quiesceStep (d : Dev) : Option Dev :=
  if d.startsStalled then some d.beginStart
  else if d.part ≠ .quiescing then none
  else if (d.power.phase = .placing ∨ d.power.phase = .frontierPlaced) ∧ d.journal.ctrlQ.any Rec.isFrontier = true then
    some { d with journal := { d.journal with ctrlQ := d.journal.ctrlQ.filter fun r => !r.isFrontier } }
  else if d.intake.grant.isSome then none
  else
    match d.power.phase with
    | .placing =>
      if d.journal.progQ ≠ [] then none
      else
        let (e, ok) := d.place ⟨d.frontierRec, none⟩
        if ok then some (e.frontierRaised.setPhase .frontierPlaced) else none
    | .frontierPlaced =>
      let (e, ok) := d.place ⟨.shutdown d.power.startCount, none⟩
      if ok then some (e.closeBuffer.setPhase .shutdownPlaced) else none
    | _ => none

/-! ## Leaving QUIESCING (R188, R189) -/

/-- R188: a start begins from a complete quiesce, or again after it was stopped (log 25), when the lines allow it. -/
def Dev.startIfAllowed (d : Dev) : Dev :=
  let lines := !d.power.warn && !d.power.resetLine
  if lines && ((d.part == .quiescing && d.power.phase == .complete && d.power.causeReset)
      || (d.part == .starting && d.power.stopped)) then d.beginStart
  else d

/-- R187, step 5: the page holding the SHUTDOWN record has passed. -/
def Dev.quiesceComplete (d : Dev) : Dev := ((d.refresh.enterRetention).setPhase .complete).startIfAllowed

/-- R189: a stopped retry deadline is set again; so is that of an entry whose send the quiesce stopped, and its sent-once
flag is cleared. -/
def Site.resumeDeadlines (now : Time) (x : Site) : Site :=
  { x with
    busyEnd := none
    inFlight := x.inFlight.map fun e =>
      let due := some (now + intervalOf x.rtt (retryNumber e.retries))
      if e.deadline.isSome then { e with deadline := due }
      else if x.resends.any fun r => r.seq == e.seq then e
      else { e with deadline := due, sentOnce := false } }

/-- R189: each fetch in progress starts a new read. -/
def Dev.resumeFetches (d : Dev) : Dev :=
  d.fetch.active.foldl
    (fun d a =>
      if d.online a.port then d.modFetch (FetchUnit.newRead a.req.seq a.port d.now) else d.moveFetch a.req.seq a.port)
    d

/-- R189: the return to READY. -/
def Dev.returnToReady (d : Dev) : Dev :=
  let d :=
    { d with
      part := .ready
      power := { d.power with phase := .idle, causePower := false, causeReset := false, latch := false }
      status := { d.status with checkpoint := .running (d.now + 250000) }
      sites := d.sites.map (Site.resumeDeadlines d.now) }
  ((d.startGens.setHoldDeadlines).restartSilence.probeAll fun s => s == .probing || s == .stalled).resumeFetches

/-- R189: power-warn deasserts in a quiesce whose cause does not include RESET. A FLUSH whose closing the quiesce has put off
closes its buffer now (log 86). -/
def Dev.endQuiesce (d : Dev) : Dev :=
  let d := { d with journal := d.journal.closeOwed }
  let d := (d.raiseCtrl (.resume d.power.startCount)).setPhase .returning
  if d.programStalled then d.returnToReady else d

/-! ## The lines (R186, R188, R189) -/

/-- R188: a start that is under way stops. A start that is stopped already stops again when the other line asserts (log 25). -/
def Dev.stopStart (d : Dev) : Dev :=
  let d := { d with power := { d.power with stopped := true } }
  match d.power.kind with
  | .warm => d.enterRetention
  | _ => { d with power := { d.power with latch := false } }

/-- R186, R188: a line asserts. -/
def Dev.lineAsserts (line : Line) (d : Dev) : Dev :=
  match d.part with
  | .ready => d.enterQuiesce line
  | .quiescing =>
    if d.power.phase = .returning then d.enterQuiesce line
    else
      match line with
      | .power => { d with power := { d.power with causePower := true } }
      | .reset => { d with power := { d.power with causeReset := true } }
  | .starting => d.stopStart

def Dev.powerWarnAsserts (d : Dev) : Dev :=
  if d.power.warn then d else { d with power := { d.power with warn := true } }.lineAsserts .power

def Dev.resetLineAsserts (d : Dev) : Dev :=
  if d.power.resetLine then d else { d with power := { d.power with resetLine := true } }.lineAsserts .reset

/-- R188, R189: power-warn deasserts. -/
def Dev.powerWarnDeasserts (d : Dev) : Dev :=
  if !d.power.warn then d
  else
    let d := { d with power := { d.power with warn := false } }
    if d.part = .quiescing ∧ d.power.causeReset = false ∧ d.power.phase ≠ .returning then d.endQuiesce
    else d.startIfAllowed

def Dev.resetLineDeasserts (d : Dev) : Dev :=
  if !d.power.resetLine then d else { d with power := { d.power with resetLine := false } }.startIfAllowed

/-- R185: the latch is cleared when the backup cell drops, at any time. -/
def Dev.cellDrops (d : Dev) : Dev := { d with power := { d.power with cellLow := true, latch := false } }

/-! ## Main power (R188, R190) -/

/-- Main power is lost: a page that is being programmed is torn (R4). -/
def Dev.losePower (d : Dev) : Dev :=
  let d := match d.array.op with
    | some (.program _ seg num pos) =>
      d.modSeg seg fun s => { s with pages := s.pages ++ [({ num := num, pos := pos, recs := [], crcOk := false } : Page)] }
    | _ => d
  { d with
    array := { d.array with op := none }
    power := { d.power with powered := false } }

/-- R190: power is applied, and a start begins. -/
def Dev.applyPower (m : StartMedia) (d : Dev) : Dev :=
  { d with power := { d.power with powered := true, warn := false, media := m } }.beginStart

end Sys2Proof.Machine
end

