-- ==== Sys2Proof/Machine/Program.lean ====
section
/-!
DEFINITION. The end of a page program (R14, R15): a passing page writes its slots, lets its decisions take effect and
answers its commands; a failing page is programmed again.
-/

namespace Sys2Proof.Machine

/-! ## A verify that passes (R14) -/

/-- R6: the page enters the tail cache; of 513 the lowest position leaves it. -/
def cachePage (pos : Nat) (l : List Nat) : List Nat :=
  let k := l ++ [pos]
  if k.length ≤ 512 then k else k.drop 1

/-- R14, R2, R6: the page becomes valid. -/
def Dev.pageValid (seg num pos : Nat) (recs : List Rec) (buf : BufId) (d : Dev) : Dev :=
  let d := d.modSeg seg fun s =>
    { s with
      pages := s.pages ++ [{ num := num, pos := pos, recs := recs, crcOk := true }]
      state := if num = 63 then .full else s.state }
  { d with
    array := { d.array with op := none }
    journal := { d.journal with
      tailCache := cachePage pos d.journal.tailCache, consecFails := 0, lastProg := some buf } }

/-- R49: the page of a held intent has passed. While the part is QUIESCING no deadline runs (R54). -/
def Dev.heldWritten (r : IntentRec) (d : Dev) : Dev :=
  match d.slot? r.seq with
  | none => d
  | some x =>
    if x.held then
      let limit := d.settings.mode.holdLimit
      let due := if d.part = .ready then some (d.now + limit * 1000000) else none
      (d.route x.origin (.held (x.noticeRoute r.seq) r.bucket r.entry limit)).setHeld r.seq (.waiting due)
    else d

/-- R14: the effects of one record of the page. -/
def Dev.recordPassed (s : Staged) (d : Dev) : Dev :=
  match s.item with
  | .intent r => (d.writeSlot r).heldWritten r
  | .decision q dn =>
    match s.owner, d.applyDecision q dn with
    | some tok, (e, some o) => e.setCont tok (.release q (some o))
    | _, (e, _) => e
  | _ => d

/-- The record of a command is still to be placed. -/
def Grant.owes (g : Grant) (tok : Tok) : Bool :=
  match g.work with
  | .place recs _ => recs.any fun s => s.owner == some tok
  | .second s => s.owner == some tok
  | .examine .. => false

/-- R14: a command has a record that lies in the other buffer, or that is not yet placed. -/
def Dev.owesRecord (d : Dev) (buf : BufId) (tok : Tok) : Bool :=
  let other := match buf with
    | .a => d.journal.bufB
    | .b => d.journal.bufA
  (other.recs.any fun s => s.owner == some tok)
    || match d.intake.grant with
      | some g => g.owes tok
      | none => false

def Dev.takenOf (d : Dev) (tok : Tok) : Option Taken := d.ports[tok.port].taken.find? fun t => t.id == tok.id

/-- R14, R20: a command all of whose records have passed is answered. -/
def Dev.answerOwner (tok : Tok) (d : Dev) : Dev :=
  match d.takenOf tok with
  | some t => d.answerCont tok t.cont
  | none => d

/-- R14: the commands of a page, in the order of their records. -/
def ownersOf (l : List Staged) : List Tok := (l.filterMap fun s => s.owner).eraseDups

/-- R21: a buffer has passed; the FLUSH commands that wait for nothing more are answered. -/
def Dev.flushPassed (buf : BufId) (d : Dev) : Dev :=
  let l := d.journal.flushes.map fun w =>
    match buf with
    | .a => { w with a := false }
    | .b => { w with b := false }
  let d := { d with journal := { d.journal with flushes := l.filter fun w => w.a || w.b } }
  (l.filter fun w => !w.a && !w.b).foldl (fun d w => d.refuse w.tok .done) d

/-- R14: the buffer becomes EMPTY. -/
def Journal.emptied (buf : BufId) (j : Journal) : Journal :=
  { j.putBuf buf {} with progQ := j.progQ.filter fun x => x != buf }

def Rec.isShutdown : Rec → Bool
  | .shutdown _ => true
  | _ => false

/-- No buffer holds a record of a kind. -/
def Journal.holdsNo (test : Rec → Bool) (j : Journal) : Bool := !(j.bufA.items ++ j.bufB.items).any test

/-- R187, R189: what the page brings for the quiesce. -/
def Dev.quiescePassed (recs : List Rec) (d : Dev) : Dev :=
  if d.part ≠ .quiescing then d
  else if d.power.phase = .shutdownPlaced ∧ recs.any Rec.isShutdown = true ∧ d.journal.holdsNo Rec.isShutdown = true then
    d.quiesceComplete
  else if d.power.phase = .returning ∧ recs.any Rec.isResume = true ∧ d.journal.holdsNo Rec.isResume = true
      ∧ d.journal.ctrlQ.any Rec.isResume = false then
    d.returnToReady
  else d

/-- R14: the verify of a buffer's page passes. The effects of all its records, a DECISION record's too, come in record order
(log 74). -/
def Dev.programPassed (buf : BufId) (seg num pos : Nat) (d : Dev) : Dev :=
  let recs := (d.journal.buf buf).recs
  let items := recs.map (·.item)
  let d := d.pageValid seg num pos items buf
  let d := recs.foldl (fun d s => d.recordPassed s) d
  let owners := (ownersOf recs).filter fun tok => !d.owesRecord buf tok
  let d := owners.foldl (fun d tok => d.answerOwner tok) d
  let d := { d with journal := d.journal.emptied buf }
  (d.flushPassed buf).quiescePassed items

/-! ## A verify that fails (R15) -/

/-- R15: the page is invalid, and its buffer stays at the head of the waiting programs. A failed page holds no records
(log 11). -/
def Dev.programFailed (seg num pos : Nat) (d : Dev) : Dev :=
  let n := d.journal.consecFails + 1
  let closes := decide (3 ≤ n) || num == 63
  let d := d.modSeg seg fun s =>
    { s with
      pages := s.pages ++ [{ num := num, pos := pos, recs := [], crcOk := false }]
      failed := s.failed ++ [num]
      state := if closes then .full else s.state }
  let d :=
    { d with
      array := { d.array with op := none }
      journal := { d.journal with progFails := sat16 (d.journal.progFails + 1), consecFails := n } }
  if 3 ≤ n then d.latch .journalMedia .part else d

/-- R14, R15: the program and its verify complete. -/
def Dev.programCompleted (ok : Bool) (d : Dev) : Dev :=
  match d.array.op with
  | some (.program buf seg num pos) => if ok then d.programPassed buf seg num pos else d.programFailed seg num pos
  | _ => d

end Sys2Proof.Machine
end

