-- ==== Sys2Proof/Machine/Engine.lean ====
section
/-!
DEFINITION. The engines inside the part: the taking and granting of commands (R164, R167, R170), the placing of records
(R11, R12), and the others, each one step at a time; `settle` runs them until none can act (log 6). `event` is the frame
of every event.
-/

namespace Sys2Proof.Machine

/-! ## Taking a command (R164, R166, R167) -/

/-- R27: the outcome that a port's head APPEND has; one whose key length is out of range needs none. -/
def Port.outcome (q : Port) : Outcome27 :=
  match q.lookup with
  | some (.known o) => o
  | _ => .none

/-- The name that the next taken command of a port gets. -/
def Dev.nextTok (p : PortId) (d : Dev) : Tok := ⟨p, d.nextToken⟩

/-- The command at the front of a port's queue is taken. -/
def Dev.take (p : PortId) (r : CmdRec) (rest : List CmdRec) (d : Dev) : Dev :=
  let t : Taken := { id := d.nextToken, cid := r.cid, kind := kindCode r.body }
  { d with nextToken := d.nextToken + 1 }.modPort p fun q =>
    { q with cmdQ := rest, lookup := none, taken := q.taken ++ [t] }

/-- What a command does by the rule of the chapter that specifies it. -/
def Dev.act (tok : Tok) (o : Outcome27) (b : CmdBody) (d : Dev) : Dev :=
  match b with
  | .append b => d.actAppend tok b o
  | .flush n => d.actFlush tok n
  | .readJournal s a => d.actReadJournal tok s a
  | .queryKey q => d.actQueryKey tok q
  | .setPlacement b => d.actSetPlacement tok b
  | .readPlacement b => d.actReadPlacement tok b
  | .setPlacementMode b => d.actSetPlacementMode tok b
  | .release s => d.actRelease tok s
  | .deny s => d.actDeny tok s
  | .attachSite b => d.actAttachSite tok b
  | .detachSite n => d.actDetachSite tok n
  | .fenceSite n => d.actFenceSite tok n
  | .unfenceSite n => d.actUnfenceSite tok n
  | .rejoinSite n => d.actRejoinSite tok n
  | .rewindSite n q => d.actRewindSite tok n q
  | .readSite n => d.actReadSite tok n
  | .setGenerator b => d.actSetGenerator tok b
  | .setSitePacing b => d.actSetSitePacing tok b
  | .queryIntent s => d.actQueryIntent tok s
  | .postLanding i a c => d.actPostLanding tok i a c
  | .stored i o => d.actStored tok i o
  | .readInbound i => d.actReadInbound tok i
  | .guardOn => d.actGuardOn tok
  | .guardOff => d.actGuardOff tok
  | .setGuardMap m => d.actSetGuardMap tok m
  | .setPressureLimits l c => d.actSetPressureLimits tok l c
  | .readSegments n => d.actReadSegments tok n
  | .attachPort => d.actAttachPort tok
  | .detachPort => d.actDetachPort tok
  | .fencePort n => d.actFencePort tok n
  | .unfencePort n => d.actUnfencePort tok n
  | .readStatus => d.actReadStatus tok
  | .clearFaults k => d.actClearFaults tok k
  | .setNoticeMask l => d.actSetNoticeMask tok l
  | .setLocalSite n => d.actSetLocalSite tok n
  | .unknown _ => d.actUnknown tok

/-- R164: how a command that does not wait for the arbiter is answered; none: it waits for the arbiter. -/
inductive Answer where
  | status (st : Status)
  | acts
  | waits
  deriving DecidableEq, Repr

/-- R164. -/
def answerOf (part : PartState) (st : PortState) (b : CmdBody) : Answer :=
  if part = .starting then (if b = .readStatus then .acts else .status .starting)
  else
    match st with
    | .fenced => .status .fenced
    | .offline | .lost => if b = .readStatus ∨ b = .attachPort then .acts else .status .notAttached
    | .online => if usesArbiter b then .waits else .acts

/-- R167: a port that is not held takes the command at the front of its queue, unless it must wait for the arbiter. -/
def Dev.takeStep (p : PortId) (d : Dev) : Option Dev :=
  if d.part = .quiescing ∨ d.ports[p].isHeld = true then none
  else
    match d.ports[p].cmdQ with
    | [] => none
    | r :: rest =>
      match answerOf d.part d.ports[p].state r.body with
      | .status st => some ((d.take p r rest).refuse (d.nextTok p) st)
      | .acts => some ((d.take p r rest).act (d.nextTok p) .none r.body)
      | .waits => none

/-! ## The key lookup of a head APPEND (R27) -/

def lengthOk (n : Nat) : Bool := decide (1 ≤ n) && decide (n ≤ 240)

def Dev.beginLookup (p : PortId) (b : AppendBody) (d : Dev) : Dev :=
  match d.lookup b.bucket b.keyHash b.keyLen b.key with
  | .known o => d.modPort p fun q => { q with lookup := some (.known o) }
  | .read seg page source way creation =>
    let d := d.modPort p fun q => { q with lookup := some (.reading d.nextToken way creation) }
    { d with nextToken := d.nextToken + 1 }.enqueueRead ⟨seg, page, source, .lookup p d.nextToken⟩

/-- R27: an APPEND that has become the head command is looked up. -/
def Dev.lookupStep (p : PortId) (d : Dev) : Option Dev :=
  match d.ports[p].cmdQ, d.ports[p].lookup with
  | ⟨_, .append b⟩ :: _, none => if lengthOk b.keyLen && d.part != .starting then some (d.beginLookup p b) else none
  | _, _ => none

/-! ## The intake arbiter (R170) -/

/-- R167: the head command of a port is ready to be granted. -/
def Dev.readyCommand (d : Dev) (p : PortId) : Bool :=
  !d.ports[p].isHeld && d.ports[p].state == .online &&
    match d.ports[p].cmdQ with
    | [] => false
    | ⟨_, .append b⟩ :: _ =>
      !lengthOk b.keyLen || (match d.ports[p].lookup with | some (.known _) => true | _ => false)
    | r :: _ => usesArbiter r.body

/-- R170, R12: the port that the arbiter grants. A record that waits in the control queue is a stall. -/
def Dev.grantChoice (d : Dev) : Option PortId :=
  if d.part = .ready ∧ d.intake.grant = none ∧ d.journal.ctrlQ = [] then
    (portsAfter d.intake.last).find? d.readyCommand
  else none

/-- R170: the head command of a port is granted; it is taken and acts. -/
def Dev.grantPort (p : PortId) (d : Dev) : Dev :=
  match d.ports[p].cmdQ with
  | [] => d
  | r :: rest =>
    let o := d.ports[p].outcome
    let e := { d with intake := { d.intake with last := p } }.take p r rest
    e.act (d.nextTok p) o r.body

/-! ## Staging (R11, R12, R19) -/

/-- R12: the record is placed, and the effect follows; else it waits, though the FILLING buffer may close. -/
def Dev.tryPlace (s : Staged) (next : Dev → Dev) (d : Dev) : Option Dev :=
  let (e, ok) := d.place s
  if ok then some (next e) else if e.journal.progQ.length = d.journal.progQ.length then none else some e

/-- The control queue is placed: in READY, and while R189 ends a quiesce. -/
def Dev.placesControl (d : Dev) : Bool := d.part == .ready || (d.part == .quiescing && d.power.phase == .returning)

/-- R50: the DECISION record of a granted APPEND comes directly after its intent record, before any control record. -/
def Dev.placesSecond (d : Dev) : Bool :=
  d.part == .ready && match d.intake.grant with
    | some ⟨_, .second _⟩ => true
    | _ => false

/-- R11: the head of the control queue is placed. A SITE-EVENT record that has been placed lets the reclaim engine examine
again (R157). -/
def Dev.controlStep (d : Dev) : Option Dev :=
  match d.journal.ctrlQ with
  | [] => none
  | r :: rest =>
    if d.placesControl && !d.placesSecond then
      d.tryPlace ⟨r, none⟩ fun e =>
        { e with journal := { e.journal with ctrlQ := rest }, examined := if r.isSiteEvent then false else e.examined }
    else none

/-- R11, R187, R189: the granted command's records are placed when the control queue is empty; in a quiesce they do not wait
for it, and while R189 ends a quiesce they are not placed (log 41). -/
def Dev.placesGranted (d : Dev) : Bool :=
  (d.part == .ready && (d.journal.ctrlQ.isEmpty || d.placesSecond)) || (d.part == .quiescing && d.power.phase == .placing)

/-- R19: the size with which an APPEND asks for room. -/
def appendSize (b : AppendBody) : Nat := recordSize (min b.keyLen 255)

def Dev.endGrant (d : Dev) : Dev := { d with intake := { d.intake with grant := none } }

/-- R19, R12, R21: one step of the granted command. An APPEND's examination, as its record, waits with R3's stall. -/
def Dev.grantedStep (d : Dev) : Option Dev :=
  match d.intake.grant with
  | none => none
  | some ⟨tok, work⟩ =>
    if d.placesGranted then
      match work with
      | .examine b o =>
        if d.programStalled then none
        else if (d.journal.target (appendSize b)).isSome then some (d.examineAppend tok b o)
        else
          let j := d.journal.makeRoom (appendSize b)
          if j.progQ.length = d.journal.progQ.length then none else some { d with journal := j }
      | .place (s :: rest) fl =>
        d.tryPlace s fun e => { e with intake := { e.intake with grant := some ⟨tok, .place rest fl⟩ } }
      | .place [] fl => some (if fl then d.endGrant.flushNow tok else d.endGrant)
      | .second s => d.tryPlace s Dev.endGrant
    else none

/-- The steps of the granted command that can be made at once: an examination, at most two records, and the end. -/
def Dev.grantedSteps : Nat → Dev → Dev
  | 0, d => d
  | n + 1, d =>
    match d.grantedStep with
    | some e => Dev.grantedSteps n e
    | none => d

def Dev.grantedNow (d : Dev) : Dev := Dev.grantedSteps 4 d

/-! ## One step of the engines -/

def firstOf {α β : Type} (l : List α) (f : α → Option β) : Option β := l.findSome? f

def Dev.takeAny (d : Dev) : Option Dev := firstOf allPorts fun p => d.takeStep p

def Dev.lookupAny (d : Dev) : Option Dev := firstOf allPorts fun p => d.lookupStep p

def Dev.grantStep (d : Dev) : Option Dev := d.grantChoice.map fun p => d.grantPort p

/-- R146, R157: the reclaim engine makes its choice, or examines. -/
def Dev.reclaimStep (d : Dev) : Option Dev :=
  if d.reclaim.engine ≠ .idle then none
  else
    match d.reclaimChoice with
    | some n => some (d.setEngine (.waiting n))
    | none => if d.mayExamine then some d.examine else none

/-- R68: a dispatcher examines, or asks for the record or the payload of a candidate. -/
def Dev.dispatchStep (d : Dev) : Option Dev :=
  firstOf allSlots fun j =>
    if d.canExamine j then some (d.examineCursor j)
    else
      match d.sites[j].unread with
      | some s => some (d.readCandidate j s)
      | none => (d.wantsFetch j).map fun r => d.requestFetch r

def Dev.fetchStep (d : Dev) : Option Dev := if d.canStartFetch then some d.startFetch else none

def Dev.deliveryStep (d : Dev) : Option Dev := d.nextDelivery.map fun e => d.startDelivery e.1 e.2

def Dev.transmitStep (d : Dev) : Option Dev := (d.transmit 0).orElse fun _ => d.transmit 1

/-- The engines that work only while the part is READY. -/
def Dev.readyStep (d : Dev) : Option Dev :=
  if d.part ≠ .ready then none
  else
    d.reclaimStep.orElse fun _ => d.dispatchStep.orElse fun _ => d.fetchStep.orElse fun _ => d.deliveryStep

/-- R126: the receipts that the event has raised travel. While the part is QUIESCING no frame is raised (R139). -/
def Dev.receiptStep (d : Dev) : Option Dev :=
  if d.inbound.raised.isEmpty then none
  else if d.part = .ready then some d.flushReceipts
  else some (d.modInbound fun x => { x with raised := [] })

def Dev.sendStep (d : Dev) : Option Dev := if d.part = .ready then d.transmitStep else none

/-- One step of the first engine, in the order of log 6, that can act. -/
def Dev.internalStep (d : Dev) : Option Dev :=
  d.controlStep.orElse fun _ => d.grantedStep.orElse fun _ => d.quiesceStep.orElse fun _ =>
    d.takeAny.orElse fun _ => d.lookupAny.orElse fun _ => d.grantStep.orElse fun _ =>
      d.arbitrate.orElse fun _ => d.readyStep.orElse fun _ => d.receiptStep.orElse fun _ => d.sendStep

/-- The engines act until none can; n bounds the number of their steps. -/
def settleN : Nat → Dev → Dev
  | 0, d => d.refresh
  | n + 1, d =>
    match d.refresh.internalStep with
    | some e => settleN n e
    | none => d.refresh

/-- The bound is above the number of steps that one event can cause (log 6). -/
def Dev.settle (d : Dev) : Dev := settleN 1099511627776 d

/-! ## Events -/

/-- An event that comes at a time: its effect, and then the engines. Without main power nothing acts (log 2). -/
def Dev.event (t : Time) (f : Dev → Dev) (d : Dev) : Dev :=
  let e := d.tick t
  if e.power.powered then (f e).settle else e

/-- An expiry, when its timer runs: it comes when the timer is due (log 2). -/
def Dev.expiry (due : Option Time) (gate : Bool) (f : Dev → Dev) (d : Dev) : Dev :=
  match due with
  | some t => if gate && d.power.powered then (f (d.tick t)).settle else d
  | none => d

/-- R167: what a port does at once with a command that has joined its queue. -/
def Dev.serve (p : PortId) (d : Dev) : Dev :=
  match d.takeStep p with
  | some e => e
  | none =>
    let e := (d.lookupStep p).getD d
    if e.grantChoice = some p then (e.grantPort p).grantedNow else e

/-- R166: a controller posts a command record. -/
def Dev.postCommand (p : PortId) (r : CmdRec) (d : Dev) : Dev :=
  if 64 ≤ d.ports[p].outstanding then d.latch .queueOverrun (.port p)
  else (d.modPort p fun q => { q with cmdQ := q.cmdQ ++ [r] }).serve p

/-- The event of a posting. -/
def Dev.posted (t : Time) (p : PortId) (cid : Word32) (b : CmdBody) (d : Dev) : Dev :=
  d.event t (Dev.postCommand p ⟨cid, b⟩)

end Sys2Proof.Machine
end

