-- ==== Sys2Proof/Machine/Span.lean ====
section
/-!
DEFINITION. The reception of span frames: the checks of R64 and R65, and the handing of a frame to the rule for its kind.
-/

namespace Sys2Proof.Machine

/-! ## The checks (R64, R65) -/

def Dev.badFrame (sp : SpanId) (d : Dev) : Dev := d.modSpan sp fun s => { s with badFrames := sat32 (s.badFrames + 1) }

def Dev.foreignFrame (d : Dev) : Dev := { d with foreign := sat32 (d.foreign + 1) }

/-- R64, check 3. -/
def SiteState.hears : SiteState → Bool
  | .probing | .active | .stalled | .evicted => true
  | _ => false

def Dev.senderSlot (d : Dev) (sender : Nat) : Option SlotId :=
  allSlots.find? fun j => (d.siteState j).hears && (d.config j).site == some sender

def InBody.isHello : InBody → Bool
  | .hello _ | .helloAck _ => true
  | .malformed c => c == 1 || c == 2
  | _ => false

/-- R61, R64, check 4: a PROBING slot accepts HELLO and HELLO-ACK alone. -/
def SiteState.admits (s : SiteState) (b : InBody) : Bool := s != .probing || b.isHello

/-- R64, check 5, with the kind code of an OPEN (R199), but for the other checks of an OPEN's and a CARRY's contents, which R127
and R131 make after R65. -/
def InBody.badContents (receiver : Nat) : InBody → Bool
  | .malformed _ => true
  | .hello e => e != receiver
  | .opening n o => decide (n < 192) || decide (416 < n) || n % 16 != 0 || (intentKindOf o.kind).isNone
  | .carry _ _ data => data.isEmpty || decide (8192 < data.length)
  | .receipt l => l.isEmpty || decide (64 < l.length)
  | .gap _ l => l.isEmpty || decide (32 < l.length) || l.any fun r => decide (r.2 < r.1)
  | _ => false

/-! ## Frames that are handed on -/

/-- R127: an OPEN. -/
def Dev.receiveOpen (j : SlotId) (sender frameLen : Nat) (o : OpenDesc) (d : Dev) : Dev :=
  match openKind sender frameLen o with
  | none => d.latchSlot .protocol j
  | some k => d.takeOpen j o k

/-- R131: a CARRY. -/
def Dev.receiveCarry (j : SlotId) (s k : Nat) (data : List Byte) (d : Dev) : Dev :=
  match d.inbound.chunkFate j s k data.length with
  | .orphan => d.countInbound fun c => { c with orphans := sat64 (c.orphans + 1) }
  | .malformed => d.latchSlot .protocol j
  | .duplicate => d.countInbound fun c => { c with duplicates := sat64 (c.duplicates + 1) }
  | .adds id => d.addChunk id k data

/-- The rule for each kind. -/
def Dev.handFrame (j : SlotId) (h : FrameHdr) (b : InBody) (d : Dev) : Dev :=
  match b with
  | .hello _ => d.takeHello j h.start
  | .helloAck n => d.takeHelloAck j h.start n
  | .opening n o => d.receiveOpen j h.sender n o
  | .carry s k data => d.receiveCarry j s k data
  | .receipt l => l.foldl (fun d e => d.takeReceipt j e.1 e.2) d
  | .gap s l => d.takeGap j s l
  | .busy s => d.takeBusy j s
  | .malformed _ => d

/-- R139, R186, R190: a frame that passes R64 while the part is not READY. -/
def Dev.frameNotReady (j : SlotId) (b : InBody) (d : Dev) : Dev :=
  match b with
  | .opening .. | .carry .. => d.countInbound fun c => { c with notReady := sat64 (c.notReady + 1) }
  | _ => d.staleFrame j

/-- R65. -/
def Dev.startKnown (d : Dev) (j : SlotId) (h : FrameHdr) (b : InBody) : Bool :=
  (match b with | .hello _ | .helloAck _ => true | _ => false) || d.sites[j].peerStart == some h.start

/-- R64, checks 2 to 5, and R65. -/
def Dev.receive (sp : SpanId) (h : FrameHdr) (b : InBody) (d : Dev) : Dev :=
  if d.settings.localSite ≠ some h.receiver then d.badFrame sp
  else
    match d.senderSlot h.sender with
    | none => d.foreignFrame
    | some j =>
      if !(d.siteState j).admits b then d.staleFrame j
      else if b.badContents h.receiver then d.latchSlot .protocol j
      else if d.part ≠ .ready then d.frameNotReady j b
      else if d.startKnown j h b then d.handFrame j h b
      else d.staleFrame j

/-- R64, check 1, on the bytes of a frame; a frame that passes it goes on. -/
def Dev.receiveBytes (sp : SpanId) (l : List Byte) (d : Dev) : Dev :=
  match parseFrame l with
  | none => d.badFrame sp
  | some (h, b) => d.receive sp h b

end Sys2Proof.Machine
end

