-- ==== Sys2Proof/Machine/Events.lean ====
section
/-!
DEFINITION. The effects of the events that are not commands of a controller: removals, completions, expiries, lines and
power. An event that cannot occur in the state it finds has no effect (log 4).
-/

namespace Sys2Proof.Machine

/-! ## Ports -/

/-- R166: a controller removes a response. -/
def Dev.removeResponse (p : PortId) (d : Dev) : Dev := d.modPort p fun q => { q with respQ := q.respQ.drop 1 }

/-- R166: a controller removes a notice. -/
def Dev.removeNotice (p : PortId) (d : Dev) : Dev := d.modPort p fun q => { q with noticeQ := q.noticeQ.drop 1 }

/-- R23: the DMA write of a READ JOURNAL completes. -/
def Dev.recordWritten (p : PortId) (d : Dev) : Dev :=
  match d.dma.find? fun w => w.port == p && w.journal.isSome with
  | none => d
  | some w =>
    let d := { d with dma := d.dma.erase w }
    match w.journal with
    | some (tok, size, programmed) => d.answer tok .done 0 (.journalRecord size programmed)
    | none => d

/-! ## The array -/

/-- R17: a page read completes. -/
def Dev.pageRead (ok : Bool) (d : Dev) : Dev :=
  match d.array.op with
  | some (.read r) => d.readCompleted r ok
  | _ => d

/-- R16: the suspension of an erase completes; the array is free. -/
def Dev.suspended (d : Dev) : Dev :=
  match d.array.op with
  | some (.suspending n) => { d with array := { d.array with op := none, suspended := some n } }
  | _ => d

/-- R148: an erase completes. -/
def Dev.eraseDone (ok : Bool) (d : Dev) : Dev :=
  match d.array.op with
  | some (.erase n) => d.erased n ok
  | _ => d

/-! ## Timers -/

def Dev.isReady (d : Dev) : Bool := d.part == .ready

/-- R13: the commit timer. It does not expire while a quiesce fills its last page (R187, log 86). -/
def Dev.commitExpiry (d : Dev) : Dev :=
  d.expiry d.journal.commitDue (d.part != .starting && !d.quiescePlaces) Dev.closeBuffer

/-- R120: the checkpoint timer, when it is due. -/
def Checkpoint.due : Checkpoint → Option Time
  | .running t => some t
  | _ => none

/-- R120. The timer that the quiesce's own FRONTIER record starts does not expire while the part is QUIESCING (log 88). -/
def Dev.checkpointExpiry (d : Dev) : Dev :=
  d.expiry d.status.checkpoint.due d.isReady fun d => { d with status := { d.status with checkpoint := .expired } }

def HeldState.due : HeldState → Option Time
  | .waiting t => t
  | _ => none

/-- R51: the deadline of a WAITING entry expires. -/
def Dev.holdExpired (s : Seq) (d : Dev) : Dev :=
  let a := d.settings.mode.expiryAction
  (d.setHeld s (.deciding a .expiry)).raiseCtrl (.decision s a)

def Dev.holdExpiry (s : Seq) (d : Dev) : Dev :=
  d.expiry ((d.heldEntry s).bind fun e => e.state.due) d.isReady (Dev.holdExpired s)

/-- R66: a period passes at a PROBING or STALLED slot. -/
def Dev.probeExpiry (j : SlotId) (d : Dev) : Dev :=
  d.expiry d.sites[j].probeDue (d.isReady && (d.siteState j == .probing || d.siteState j == .stalled)) (Dev.probe j)

/-- R76: a BUSY pause ends. -/
def Dev.busyExpiry (j : SlotId) (d : Dev) : Dev :=
  d.expiry d.sites[j].busyEnd d.isReady fun d => d.modSite j fun x => { x with busyEnd := none }

/-- R73. -/
def Dev.retryExpiry (j : SlotId) (s : Seq) (d : Dev) : Dev :=
  d.expiry ((d.sites[j].entry s).bind fun e => e.deadline) d.isReady (Dev.retryExpired j s)

/-- R90: the grant of an expiry, and the next period, which starts at once. -/
def Dev.periodEnds (g : GenId) (due : Time) (d : Dev) : Dev :=
  (d.pacingGrant g).setGenDue g (some (due + d.settings.gens[g].period))

def Dev.pacingExpiry (g : GenId) (d : Dev) : Dev :=
  d.expiry d.gens[g].due d.isReady fun e => e.periodEnds g (d.gens[g].due.getD 0)

/-- R132. -/
def Dev.silenceExpiry (id : Nat) (d : Dev) : Dev :=
  d.expiry ((d.inbound.arrival id).bind fun a => a.silenceDue) d.isReady (Dev.silenceExpired id)

/-- R152: the filtered level takes the raw line's level. -/
def Dev.guardSettles (d : Dev) : Dev := { d with guard := { d.guard with filtered := d.guard.raw, settleDue := none } }

def Dev.guardExpiry (d : Dev) : Dev := d.expiry d.guard.settleDue true Dev.guardSettles

/-! ## The guard line (R152) -/

/-- R152: the raw line takes a level. -/
def Guard.line (now : Time) (raw : Bool) (g : Guard) : Guard :=
  { g with
    raw := raw
    settleDue := if raw = g.filtered then none else if raw = g.raw then g.settleDue else some (now + 10000) }

def Dev.guardChange (t : Time) (raw : Bool) (d : Dev) : Dev :=
  if d.power.powered then d.event t fun d => { d with guard := d.guard.line d.now raw }
  else { d.tick t with guard := { d.guard with raw := raw } }

/-! ## Fetches (R173, R175) -/

/-- The time within which a read completes. -/
def fetchLimit : Nat := 50000

/-- R173: data that arrives at a port is that of the read that the fetch has in progress; data of a read that was abandoned,
or that comes more than 50 ms after the read's start, is discarded (log 37). -/
def Fetch.completes (f : Fetch) (r : ReadName) (now : Time) (len : Nat) : Bool :=
  f.reading && f.port == r.port && f.read == r.number && decide (now ≤ f.started + fetchLimit) && len == f.req.len

/-- R175: a payload read completes. -/
def Dev.fetchDone (r : ReadName) (data : List Byte) (d : Dev) : Dev :=
  match d.activeFetch r.seq with
  | none => d
  | some f => if f.completes r d.now data.length then d.fetched f data else d

/-- R173: 50 ms have passed. -/
def Dev.fetchExpiry (s : Seq) (d : Dev) : Dev :=
  match d.activeFetch s with
  | none => d
  | some f => d.expiry (if f.reading then some (f.started + fetchLimit) else none) true (Dev.fetchTimedOut f)

/-! ## Lines and power (R186 to R190) -/

/-- The level of a line while there is no main power is only recorded. -/
def Dev.lineEvent (t : Time) (unpowered powered : Dev → Dev) (d : Dev) : Dev :=
  if d.power.powered then d.event t powered else unpowered (d.tick t)

def Dev.setWarn (v : Bool) (d : Dev) : Dev := { d with power := { d.power with warn := v } }

def Dev.setResetLine (v : Bool) (d : Dev) : Dev := { d with power := { d.power with resetLine := v } }

/-- R185: the backup cell falls, whether or not there is main power. -/
def Dev.cellLow (t : Time) (d : Dev) : Dev := d.lineEvent t Dev.cellDrops Dev.cellDrops

/-- R190: main power is applied. -/
def Dev.powerUp (t : Time) (m : StartMedia) (d : Dev) : Dev :=
  if d.power.powered then d else ((d.tick t).applyPower m).settle

/-- R196: the start's work is done. -/
def Dev.startEnds (d : Dev) : Dev := if d.part = .starting ∧ d.power.stopped = false then d.endStart else d

/-- R190: main power is lost. -/
def Dev.powerLost (t : Time) (d : Dev) : Dev := if d.power.powered then (d.tick t).losePower else d

/-! ## Outcomes -/

/-- An event changes the part, and the machine goes on. -/
def State.goOn (f : Dev → Dev) (s : State) : Host.Outcome State Fault Refusal := .next { s with dev := f s.dev }

end Sys2Proof.Machine
end

