-- ==== Sys2Proof/Machine/DurabilityRows.lean ====
section
/-!
DEFINITION. The meanings of the commands of durability tracking (chapter 06).
-/

namespace Sys2Proof.Machine

/-- R120: the checkpoint timer expires. -/
def execCheckpointTimerExpiry (s : State) : Host.Outcome State Fault Refusal :=
  s.goOn (Dev.checkpointExpiry)

/-- R122, R123: QUERY INTENT. -/
def execQueryIntent (at_ : Time) (p : PortId) (cid : Word32) (seq : Nat)
    (s : State) : Host.Outcome State Fault Refusal :=
  s.goOn (Dev.posted at_ p cid (.queryIntent seq))

end Sys2Proof.Machine
end

