-- ==== Sys2Proof/Machine/InboundRows.lean ====
section
/-!
DEFINITION. The meanings of the commands of inbound replication (chapter 07).
-/

namespace Sys2Proof.Machine

/-- R64, R65, R127 to R130: an OPEN arrives. -/
def execOpenReceived (at_ : Time) (sp : SpanId) (h : FrameHdr) (frameLen : Nat) (desc : OpenDesc)
    (s : State) : Host.Outcome State Fault Refusal :=
  s.goOn (Dev.event at_ (Dev.receive sp h (.opening frameLen desc)))

/-- R64, R65, R131: a CARRY arrives. -/
def execCarryReceived (at_ : Time) (sp : SpanId) (h : FrameHdr) (seq chunk : Nat) (data : List Byte)
    (s : State) : Host.Outcome State Fault Refusal :=
  s.goOn (Dev.event at_ (Dev.receive sp h (.carry seq chunk data)))

/-- R132: a silence timer expires. -/
def execSilenceTimerExpiry (arrival : Nat) (s : State) : Host.Outcome State Fault Refusal :=
  s.goOn (Dev.silenceExpiry arrival)

/-- R140: POST LANDING. -/
def execPostLanding (at_ : Time) (p : PortId) (cid : Word32) (id addr capacity : Nat)
    (s : State) : Host.Outcome State Fault Refusal :=
  s.goOn (Dev.posted at_ p cid (.postLanding id addr capacity))

/-- R136: the landing write to a port completes. -/
def execLandingWriteComplete (at_ : Time) (p : PortId) (s : State) : Host.Outcome State Fault Refusal :=
  s.goOn (Dev.event at_ (Dev.landed p))

/-- R141: STORED. -/
def execStored (at_ : Time) (p : PortId) (cid : Word32) (arrival outcome : Nat)
    (s : State) : Host.Outcome State Fault Refusal :=
  s.goOn (Dev.posted at_ p cid (.stored arrival outcome))

/-- R142: READ INBOUND. -/
def execReadInbound (at_ : Time) (p : PortId) (cid : Word32) (arrival : Nat)
    (s : State) : Host.Outcome State Fault Refusal :=
  s.goOn (Dev.posted at_ p cid (.readInbound arrival))

end Sys2Proof.Machine
end

