-- ==== Sys2Proof/Machine/JournalRows.lean ====
section
/-!
DEFINITION. The meanings of the commands of the intent journal (chapter 01).
-/

namespace Sys2Proof.Machine

/-- R19, R20: APPEND. -/
def execAppend (at_ : Time) (p : PortId) (cid : Word32) (b : AppendBody)
    (s : State) : Host.Outcome State Fault Refusal :=
  s.goOn (Dev.posted at_ p cid (.append b))

/-- R21: FLUSH. -/
def execFlush (at_ : Time) (p : PortId) (cid : Word32) (delay : Nat) (s : State) : Host.Outcome State Fault Refusal :=
  s.goOn (Dev.posted at_ p cid (.flush delay))

/-- R22, R23: READ JOURNAL. -/
def execReadJournal (at_ : Time) (p : PortId) (cid : Word32) (seq addr : Nat)
    (s : State) : Host.Outcome State Fault Refusal :=
  s.goOn (Dev.posted at_ p cid (.readJournal seq addr))

/-- R23: the DMA write of a READ JOURNAL completes. -/
def execJournalRecordWriteDone (at_ : Time) (p : PortId) (s : State) : Host.Outcome State Fault Refusal :=
  s.goOn (Dev.event at_ (Dev.recordWritten p))

/-- R13: the commit timer expires. -/
def execCommitTimerExpiry (s : State) : Host.Outcome State Fault Refusal :=
  s.goOn (Dev.commitExpiry)

/-- R14, R15: a page program and its verify complete. -/
def execPageProgramComplete (at_ : Time) (ok : Bool) (s : State) : Host.Outcome State Fault Refusal :=
  s.goOn (Dev.event at_ (Dev.programCompleted ok))

/-- R17: a page read completes, with a correct CRC or not. -/
def execPageReadComplete (at_ : Time) (ok : Bool) (s : State) : Host.Outcome State Fault Refusal :=
  s.goOn (Dev.event at_ (Dev.pageRead ok))

/-- R16: the suspension of an erase completes. -/
def execEraseSuspendComplete (at_ : Time) (s : State) : Host.Outcome State Fault Refusal :=
  s.goOn (Dev.event at_ Dev.suspended)

end Sys2Proof.Machine
end

