-- ==== Sys2Proof/Machine/KeyRows.lean ====
section
/-!
DEFINITION. The meanings of the commands of the key index (chapter 02).
-/

namespace Sys2Proof.Machine

/-- R40, R41: QUERY KEY. -/
def execQueryKey (at_ : Time) (p : PortId) (cid : Word32) (q : KeyQuery)
    (s : State) : Host.Outcome State Fault Refusal :=
  s.goOn (Dev.posted at_ p cid (.queryKey q))

end Sys2Proof.Machine
end

