-- ==== Sys2Proof/Machine/PacingRows.lean ====
section
/-!
DEFINITION. The meanings of the commands of pacing (chapter 05).
-/

namespace Sys2Proof.Machine

/-- R90 to R94: a period timer expires. -/
def execPacingGrant (g : GenId) (s : State) : Host.Outcome State Fault Refusal :=
  s.goOn (Dev.pacingExpiry g)

/-- R104: SET GENERATOR. -/
def execSetGenerator (at_ : Time) (p : PortId) (cid : Word32) (b : SetGeneratorBody)
    (s : State) : Host.Outcome State Fault Refusal :=
  s.goOn (Dev.posted at_ p cid (.setGenerator b))

/-- R105: SET SITE PACING. -/
def execSetSitePacing (at_ : Time) (p : PortId) (cid : Word32) (b : SetSitePacingBody)
    (s : State) : Host.Outcome State Fault Refusal :=
  s.goOn (Dev.posted at_ p cid (.setSitePacing b))

end Sys2Proof.Machine
end

