-- ==== Sys2Proof/Machine/PlacementRows.lean ====
section
/-!
DEFINITION. The meanings of the commands of placement and held intents (chapter 03).
-/

namespace Sys2Proof.Machine

/-- R55: SET PLACEMENT. -/
def execSetPlacement (at_ : Time) (p : PortId) (cid : Word32) (b : SetPlacementBody)
    (s : State) : Host.Outcome State Fault Refusal :=
  s.goOn (Dev.posted at_ p cid (.setPlacement b))

/-- R56: READ PLACEMENT. -/
def execReadPlacement (at_ : Time) (p : PortId) (cid : Word32) (b : ReadPlacementBody)
    (s : State) : Host.Outcome State Fault Refusal :=
  s.goOn (Dev.posted at_ p cid (.readPlacement b))

/-- R57: SET PLACEMENT MODE. -/
def execSetPlacementMode (at_ : Time) (p : PortId) (cid : Word32) (b : SetModeBody)
    (s : State) : Host.Outcome State Fault Refusal :=
  s.goOn (Dev.posted at_ p cid (.setPlacementMode b))

/-- R58: RELEASE. -/
def execRelease (at_ : Time) (p : PortId) (cid : Word32) (seq : Nat) (s : State) : Host.Outcome State Fault Refusal :=
  s.goOn (Dev.posted at_ p cid (.release seq))

/-- R59: DENY. -/
def execDeny (at_ : Time) (p : PortId) (cid : Word32) (seq : Nat) (s : State) : Host.Outcome State Fault Refusal :=
  s.goOn (Dev.posted at_ p cid (.deny seq))

/-- R51: the deadline of a WAITING held intent expires. -/
def execHoldDeadlineExpiry (seq : Nat) (s : State) : Host.Outcome State Fault Refusal :=
  s.goOn (Dev.holdExpiry seq)

end Sys2Proof.Machine
end

