-- ==== Sys2Proof/Machine/PortRows.lean ====
section
/-!
DEFINITION. The meanings of the commands of controller ports (chapter 09).
-/

namespace Sys2Proof.Machine

/-- R166: a controller posts a command record. -/
def execCommandPosted (at_ : Time) (p : PortId) (r : CmdRec) (s : State) : Host.Outcome State Fault Refusal :=
  s.goOn (Dev.event at_ (Dev.postCommand p r))

/-- R166: a controller removes a response. -/
def execResponseRemoved (at_ : Time) (p : PortId) (s : State) : Host.Outcome State Fault Refusal :=
  s.goOn (Dev.event at_ (Dev.removeResponse p))

/-- R166: a controller removes a notice. -/
def execNoticeRemoved (at_ : Time) (p : PortId) (s : State) : Host.Outcome State Fault Refusal :=
  s.goOn (Dev.event at_ (Dev.removeNotice p))

/-- R164, R199: a record whose kind code names no command. -/
def execUnknownCommandKind (at_ : Time) (p : PortId) (cid : Word32) (code : Nat)
    (s : State) : Host.Outcome State Fault Refusal :=
  s.goOn (Dev.posted at_ p cid (.unknown code))

/-- R178: ATTACH PORT. -/
def execAttachPort (at_ : Time) (p : PortId) (cid : Word32) (s : State) : Host.Outcome State Fault Refusal :=
  s.goOn (Dev.posted at_ p cid (.attachPort))

/-- R179: DETACH PORT. -/
def execDetachPort (at_ : Time) (p : PortId) (cid : Word32) (s : State) : Host.Outcome State Fault Refusal :=
  s.goOn (Dev.posted at_ p cid (.detachPort))

/-- R180: FENCE PORT. -/
def execFencePort (at_ : Time) (p : PortId) (cid : Word32) (port : Nat)
    (s : State) : Host.Outcome State Fault Refusal :=
  s.goOn (Dev.posted at_ p cid (.fencePort port))

/-- R180: UNFENCE PORT. -/
def execUnfencePort (at_ : Time) (p : PortId) (cid : Word32) (port : Nat)
    (s : State) : Host.Outcome State Fault Refusal :=
  s.goOn (Dev.posted at_ p cid (.unfencePort port))

/-- R181: READ STATUS. -/
def execReadStatus (at_ : Time) (p : PortId) (cid : Word32) (s : State) : Host.Outcome State Fault Refusal :=
  s.goOn (Dev.posted at_ p cid (.readStatus))

/-- R182: CLEAR FAULTS. -/
def execClearFaults (at_ : Time) (p : PortId) (cid : Word32) (kinds : Byte)
    (s : State) : Host.Outcome State Fault Refusal :=
  s.goOn (Dev.posted at_ p cid (.clearFaults kinds))

/-- R183: SET NOTICE MASK. -/
def execSetNoticeMask (at_ : Time) (p : PortId) (cid : Word32) (settings : List Nat)
    (s : State) : Host.Outcome State Fault Refusal :=
  s.goOn (Dev.posted at_ p cid (.setNoticeMask settings))

/-- R177: a function reset of one port. -/
def execFunctionReset (at_ : Time) (p : PortId) (s : State) : Host.Outcome State Fault Refusal :=
  s.goOn (Dev.event at_ (Dev.functionReset p))

/-- R173, R175: a payload read completes at a port. -/
def execFetchReadComplete (at_ : Time) (read : ReadName) (data : List Byte) (s : State)
    : Host.Outcome State Fault Refusal :=
  s.goOn (Dev.event at_ (Dev.fetchDone read data))

/-- R173: a payload read has run for 50 ms. -/
def execFetchTimeout (seq : Nat) (s : State) : Host.Outcome State Fault Refusal :=
  s.goOn (Dev.fetchExpiry seq)

end Sys2Proof.Machine
end

