-- ==== Sys2Proof/Machine/PowerRows.lean ====
section
/-!
DEFINITION. The meanings of the commands of power loss and recovery (chapter 10).
-/

namespace Sys2Proof.Machine

/-- R197: SET LOCAL SITE. -/
def execSetLocalSite (at_ : Time) (p : PortId) (cid : Word32) (site : Nat)
    (s : State) : Host.Outcome State Fault Refusal :=
  s.goOn (Dev.posted at_ p cid (.setLocalSite site))

/-- R186, R188: the power-warn line asserts. -/
def execPowerWarnAssert (at_ : Time) (s : State) : Host.Outcome State Fault Refusal :=
  s.goOn (Dev.lineEvent at_ (Dev.setWarn true) Dev.powerWarnAsserts)

/-- R186, R188: the reset line asserts. -/
def execResetLineAssert (at_ : Time) (s : State) : Host.Outcome State Fault Refusal :=
  s.goOn (Dev.lineEvent at_ (Dev.setResetLine true) Dev.resetLineAsserts)

/-- R188, R189: the power-warn line deasserts. -/
def execPowerWarnDeassert (at_ : Time) (s : State) : Host.Outcome State Fault Refusal :=
  s.goOn (Dev.lineEvent at_ (Dev.setWarn false) Dev.powerWarnDeasserts)

/-- R188: the reset line deasserts. -/
def execResetLineDeassert (at_ : Time) (s : State) : Host.Outcome State Fault Refusal :=
  s.goOn (Dev.lineEvent at_ (Dev.setResetLine false) Dev.resetLineDeasserts)

/-- R185: the backup cell falls. -/
def execBackupCellLow (at_ : Time) (s : State) : Host.Outcome State Fault Refusal :=
  s.goOn (Dev.cellLow at_)

/-- R190 to R195: main power is applied. -/
def execPowerUp (at_ : Time) (media : StartMedia) (s : State) : Host.Outcome State Fault Refusal :=
  s.goOn (Dev.powerUp at_ media)

/-- R184, R196: the start ends. -/
def execStartEnd (at_ : Time) (s : State) : Host.Outcome State Fault Refusal :=
  s.goOn (Dev.event at_ Dev.startEnds)

/-- R190: main power is lost. -/
def execPowerLoss (at_ : Time) (s : State) : Host.Outcome State Fault Refusal :=
  s.goOn (Dev.powerLost at_)

end Sys2Proof.Machine
end

