-- ==== Sys2Proof/Machine/ReclaimRows.lean ====
section
/-!
DEFINITION. The meanings of the commands of reclaim, guards and journal pressure (chapter 08).
-/

namespace Sys2Proof.Machine

/-- R148: an erase completes and is verified. -/
def execEraseComplete (at_ : Time) (ok : Bool) (s : State) : Host.Outcome State Fault Refusal :=
  s.goOn (Dev.event at_ (Dev.eraseDone ok))

/-- R152: the raw guard line takes a level. -/
def execGuardLineChange (at_ : Time) (asserted : Bool) (s : State) : Host.Outcome State Fault Refusal :=
  s.goOn (Dev.guardChange at_ asserted)

/-- R152: the settling timer expires. -/
def execGuardSettlingExpiry (s : State) : Host.Outcome State Fault Refusal :=
  s.goOn (Dev.guardExpiry)

/-- R160: GUARD ON. -/
def execGuardOn (at_ : Time) (p : PortId) (cid : Word32) (s : State) : Host.Outcome State Fault Refusal :=
  s.goOn (Dev.posted at_ p cid (.guardOn))

/-- R160: GUARD OFF. -/
def execGuardOff (at_ : Time) (p : PortId) (cid : Word32) (s : State) : Host.Outcome State Fault Refusal :=
  s.goOn (Dev.posted at_ p cid (.guardOff))

/-- R161: SET GUARD MAP. -/
def execSetGuardMap (at_ : Time) (p : PortId) (cid : Word32) (map : Word64)
    (s : State) : Host.Outcome State Fault Refusal :=
  s.goOn (Dev.posted at_ p cid (.setGuardMap map))

/-- R162: SET PRESSURE LIMITS. -/
def execSetPressureLimits (at_ : Time) (p : PortId) (cid : Word32) (lowWatermark criticalReserve : Nat)
    (s : State) : Host.Outcome State Fault Refusal :=
  s.goOn (Dev.posted at_ p cid (.setPressureLimits lowWatermark criticalReserve))

/-- R163: READ SEGMENTS. -/
def execReadSegments (at_ : Time) (p : PortId) (cid : Word32) (segment : Option Nat)
    (s : State) : Host.Outcome State Fault Refusal :=
  s.goOn (Dev.posted at_ p cid (.readSegments segment))

end Sys2Proof.Machine
end

