-- ==== Sys2Proof/Machine/SiteRows.lean ====
section
/-!
DEFINITION. The meanings of the commands of peer sites and the span protocol (chapter 04).
-/

namespace Sys2Proof.Machine

/-- R83: ATTACH SITE. -/
def execAttachSite (at_ : Time) (p : PortId) (cid : Word32) (b : AttachSiteBody)
    (s : State) : Host.Outcome State Fault Refusal :=
  s.goOn (Dev.posted at_ p cid (.attachSite b))

/-- R84: DETACH SITE. -/
def execDetachSite (at_ : Time) (p : PortId) (cid : Word32) (slot : Nat)
    (s : State) : Host.Outcome State Fault Refusal :=
  s.goOn (Dev.posted at_ p cid (.detachSite slot))

/-- R85: FENCE SITE. -/
def execFenceSite (at_ : Time) (p : PortId) (cid : Word32) (slot : Nat)
    (s : State) : Host.Outcome State Fault Refusal :=
  s.goOn (Dev.posted at_ p cid (.fenceSite slot))

/-- R85: UNFENCE SITE. -/
def execUnfenceSite (at_ : Time) (p : PortId) (cid : Word32) (slot : Nat)
    (s : State) : Host.Outcome State Fault Refusal :=
  s.goOn (Dev.posted at_ p cid (.unfenceSite slot))

/-- R86: REJOIN SITE. -/
def execRejoinSite (at_ : Time) (p : PortId) (cid : Word32) (slot : Nat)
    (s : State) : Host.Outcome State Fault Refusal :=
  s.goOn (Dev.posted at_ p cid (.rejoinSite slot))

/-- R87: REWIND SITE. -/
def execRewindSite (at_ : Time) (p : PortId) (cid : Word32) (slot target : Nat)
    (s : State) : Host.Outcome State Fault Refusal :=
  s.goOn (Dev.posted at_ p cid (.rewindSite slot target))

/-- R88: READ SITE. -/
def execReadSite (at_ : Time) (p : PortId) (cid : Word32) (slot : Option Nat)
    (s : State) : Host.Outcome State Fault Refusal :=
  s.goOn (Dev.posted at_ p cid (.readSite slot))

/-- R64, R67: a HELLO arrives. -/
def execHelloReceived (at_ : Time) (sp : SpanId) (h : FrameHdr) (expected : Nat)
    (s : State) : Host.Outcome State Fault Refusal :=
  s.goOn (Dev.event at_ (Dev.receive sp h (.hello expected)))

/-- R64, R66, R67: a HELLO-ACK arrives. -/
def execHelloAckReceived (at_ : Time) (sp : SpanId) (h : FrameHdr) (answered : Nat)
    (s : State) : Host.Outcome State Fault Refusal :=
  s.goOn (Dev.event at_ (Dev.receive sp h (.helloAck answered)))

/-- R66: 1 s passes without a matching HELLO-ACK. -/
def execProbeTimerExpiry (j : SlotId) (s : State) : Host.Outcome State Fault Refusal :=
  s.goOn (Dev.probeExpiry j)

/-- R64, R65, R77: a RECEIPT arrives. -/
def execReceiptReceived (at_ : Time) (sp : SpanId) (h : FrameHdr) (entries : List (Nat × Nat))
    (s : State) : Host.Outcome State Fault Refusal :=
  s.goOn (Dev.event at_ (Dev.receive sp h (.receipt entries)))

/-- R64, R65, R75: a GAP arrives. -/
def execGapReceived (at_ : Time) (sp : SpanId) (h : FrameHdr) (seq : Nat) (ranges : List (Nat × Nat))
    (s : State) : Host.Outcome State Fault Refusal :=
  s.goOn (Dev.event at_ (Dev.receive sp h (.gap seq ranges)))

/-- R64, R65, R76: a BUSY arrives. -/
def execBusyReceived (at_ : Time) (sp : SpanId) (h : FrameHdr) (seq : Nat)
    (s : State) : Host.Outcome State Fault Refusal :=
  s.goOn (Dev.event at_ (Dev.receive sp h (.busy seq)))

/-- R76: a BUSY pause ends. -/
def execBusyPauseExpiry (j : SlotId) (s : State) : Host.Outcome State Fault Refusal :=
  s.goOn (Dev.busyExpiry j)

/-- R73, R74: a retry deadline expires. -/
def execRetryDeadlineExpiry (j : SlotId) (seq : Nat) (s : State) : Host.Outcome State Fault Refusal :=
  s.goOn (Dev.retryExpiry j seq)

/-- R63: a transmitter finishes a frame, and the engines give it the next one. -/
def execFrameTransmitted (at_ : Time) (sp : SpanId) (s : State) : Host.Outcome State Fault Refusal :=
  s.goOn (Dev.event at_ (Dev.modSpan sp fun x => { x with sending := none }))

/-- R64: a frame arrives as bytes. -/
def execBadFrame (at_ : Time) (sp : SpanId) (bytes : List Byte) (s : State) : Host.Outcome State Fault Refusal :=
  s.goOn (Dev.event at_ (Dev.receiveBytes sp bytes))

end Sys2Proof.Machine
end

