-- ==== Sys2Proof/Machine/Dispatch.lean ====
section
/-!
DEFINITION. The meaning of each command: one arm per constructor of Instr.
-/

namespace Sys2Proof.Machine

/-- The effect of a command on everything but the queue. -/
def exec (i : Instr) (s : State) : Host.Outcome State Fault Refusal :=
  match i with
  | .commandPosted at_ p r => Sys2Proof.Machine.execCommandPosted at_ p r s
  | .responseRemoved at_ p => Sys2Proof.Machine.execResponseRemoved at_ p s
  | .unknownCommandKind at_ p cid code => Sys2Proof.Machine.execUnknownCommandKind at_ p cid code s
  | .append at_ p cid b => Sys2Proof.Machine.execAppend at_ p cid b s
  | .flush at_ p cid delay => Sys2Proof.Machine.execFlush at_ p cid delay s
  | .readJournal at_ p cid seq addr => Sys2Proof.Machine.execReadJournal at_ p cid seq addr s
  | .journalRecordWriteDone at_ p => Sys2Proof.Machine.execJournalRecordWriteDone at_ p s
  | .commitTimerExpiry => Sys2Proof.Machine.execCommitTimerExpiry s
  | .pageProgramComplete at_ ok => Sys2Proof.Machine.execPageProgramComplete at_ ok s
  | .checkpointTimerExpiry => Sys2Proof.Machine.execCheckpointTimerExpiry s
  | .pageReadComplete at_ ok => Sys2Proof.Machine.execPageReadComplete at_ ok s
  | .eraseSuspendComplete at_ => Sys2Proof.Machine.execEraseSuspendComplete at_ s
  | .eraseComplete at_ ok => Sys2Proof.Machine.execEraseComplete at_ ok s
  | .holdDeadlineExpiry seq => Sys2Proof.Machine.execHoldDeadlineExpiry seq s
  | .setPlacement at_ p cid b => Sys2Proof.Machine.execSetPlacement at_ p cid b s
  | .readPlacement at_ p cid b => Sys2Proof.Machine.execReadPlacement at_ p cid b s
  | .setPlacementMode at_ p cid b => Sys2Proof.Machine.execSetPlacementMode at_ p cid b s
  | .release at_ p cid seq => Sys2Proof.Machine.execRelease at_ p cid seq s
  | .deny at_ p cid seq => Sys2Proof.Machine.execDeny at_ p cid seq s
  | .queryKey at_ p cid q => Sys2Proof.Machine.execQueryKey at_ p cid q s
  | .attachSite at_ p cid b => Sys2Proof.Machine.execAttachSite at_ p cid b s
  | .detachSite at_ p cid slot => Sys2Proof.Machine.execDetachSite at_ p cid slot s
  | .fenceSite at_ p cid slot => Sys2Proof.Machine.execFenceSite at_ p cid slot s
  | .unfenceSite at_ p cid slot => Sys2Proof.Machine.execUnfenceSite at_ p cid slot s
  | .rejoinSite at_ p cid slot => Sys2Proof.Machine.execRejoinSite at_ p cid slot s
  | .rewindSite at_ p cid slot target => Sys2Proof.Machine.execRewindSite at_ p cid slot target s
  | .readSite at_ p cid slot => Sys2Proof.Machine.execReadSite at_ p cid slot s
  | .helloReceived at_ sp h expected => Sys2Proof.Machine.execHelloReceived at_ sp h expected s
  | .helloAckReceived at_ sp h answered => Sys2Proof.Machine.execHelloAckReceived at_ sp h answered s
  | .probeTimerExpiry j => Sys2Proof.Machine.execProbeTimerExpiry j s
  | .openReceived at_ sp h frameLen desc => Sys2Proof.Machine.execOpenReceived at_ sp h frameLen desc s
  | .carryReceived at_ sp h seq chunk data => Sys2Proof.Machine.execCarryReceived at_ sp h seq chunk data s
  | .receiptReceived at_ sp h entries => Sys2Proof.Machine.execReceiptReceived at_ sp h entries s
  | .gapReceived at_ sp h seq ranges => Sys2Proof.Machine.execGapReceived at_ sp h seq ranges s
  | .busyReceived at_ sp h seq => Sys2Proof.Machine.execBusyReceived at_ sp h seq s
  | .busyPauseExpiry j => Sys2Proof.Machine.execBusyPauseExpiry j s
  | .retryDeadlineExpiry j seq => Sys2Proof.Machine.execRetryDeadlineExpiry j seq s
  | .frameTransmitted at_ sp => Sys2Proof.Machine.execFrameTransmitted at_ sp s
  | .pacingGrant g => Sys2Proof.Machine.execPacingGrant g s
  | .setGenerator at_ p cid b => Sys2Proof.Machine.execSetGenerator at_ p cid b s
  | .setSitePacing at_ p cid b => Sys2Proof.Machine.execSetSitePacing at_ p cid b s
  | .queryIntent at_ p cid seq => Sys2Proof.Machine.execQueryIntent at_ p cid seq s
  | .silenceTimerExpiry arrival => Sys2Proof.Machine.execSilenceTimerExpiry arrival s
  | .postLanding at_ p cid id addr capacity => Sys2Proof.Machine.execPostLanding at_ p cid id addr capacity s
  | .landingWriteComplete at_ p => Sys2Proof.Machine.execLandingWriteComplete at_ p s
  | .stored at_ p cid arrival outcome => Sys2Proof.Machine.execStored at_ p cid arrival outcome s
  | .readInbound at_ p cid arrival => Sys2Proof.Machine.execReadInbound at_ p cid arrival s
  | .guardLineChange at_ asserted => Sys2Proof.Machine.execGuardLineChange at_ asserted s
  | .guardSettlingExpiry => Sys2Proof.Machine.execGuardSettlingExpiry s
  | .guardOn at_ p cid => Sys2Proof.Machine.execGuardOn at_ p cid s
  | .guardOff at_ p cid => Sys2Proof.Machine.execGuardOff at_ p cid s
  | .setGuardMap at_ p cid map => Sys2Proof.Machine.execSetGuardMap at_ p cid map s
  | .setPressureLimits at_ p cid lowWatermark criticalReserve => Sys2Proof.Machine.execSetPressureLimits at_ p cid lowWatermark criticalReserve s
  | .readSegments at_ p cid segment => Sys2Proof.Machine.execReadSegments at_ p cid segment s
  | .attachPort at_ p cid => Sys2Proof.Machine.execAttachPort at_ p cid s
  | .detachPort at_ p cid => Sys2Proof.Machine.execDetachPort at_ p cid s
  | .fencePort at_ p cid port => Sys2Proof.Machine.execFencePort at_ p cid port s
  | .unfencePort at_ p cid port => Sys2Proof.Machine.execUnfencePort at_ p cid port s
  | .readStatus at_ p cid => Sys2Proof.Machine.execReadStatus at_ p cid s
  | .clearFaults at_ p cid kinds => Sys2Proof.Machine.execClearFaults at_ p cid kinds s
  | .setNoticeMask at_ p cid settings => Sys2Proof.Machine.execSetNoticeMask at_ p cid settings s
  | .functionReset at_ p => Sys2Proof.Machine.execFunctionReset at_ p s
  | .fetchReadComplete at_ read data => Sys2Proof.Machine.execFetchReadComplete at_ read data s
  | .fetchTimeout seq => Sys2Proof.Machine.execFetchTimeout seq s
  | .setLocalSite at_ p cid site => Sys2Proof.Machine.execSetLocalSite at_ p cid site s
  | .powerWarnAssert at_ => Sys2Proof.Machine.execPowerWarnAssert at_ s
  | .resetLineAssert at_ => Sys2Proof.Machine.execResetLineAssert at_ s
  | .powerWarnDeassert at_ => Sys2Proof.Machine.execPowerWarnDeassert at_ s
  | .resetLineDeassert at_ => Sys2Proof.Machine.execResetLineDeassert at_ s
  | .backupCellLow at_ => Sys2Proof.Machine.execBackupCellLow at_ s
  | .powerUp at_ media => Sys2Proof.Machine.execPowerUp at_ media s
  | .startEnd at_ => Sys2Proof.Machine.execStartEnd at_ s
  | .noticeRemoved at_ p => Sys2Proof.Machine.execNoticeRemoved at_ p s
  | .powerLoss at_ => Sys2Proof.Machine.execPowerLoss at_ s
  | .badFrame at_ sp bytes => Sys2Proof.Machine.execBadFrame at_ sp bytes s

end Sys2Proof.Machine
end

