-- ==== Sys2Proof/Safety.lean ====
section
/-!
DEFINITION. What counts as a safe run, and the terms in which claims are made: the invariants of the part, and the
situations in which a command is taken at once.
-/

namespace Sys2Proof.Machine

/-- The machine goes on from a state. -/
def State.runs (s : State) : Prop := ∃ t, step s = .next t

/-! ## Invariants -/

/-- R166, R169: a notice queue holds at most 256 notices, a notice number is never 0 and fits 32 bits, and the lost count
saturates. -/
def Port.noticesOk (q : Port) : Bool :=
  decide (q.noticeQ.length ≤ 256) && decide (1 ≤ q.noticeNumber) && decide (q.noticeNumber ≤ 4294967295)
    && decide (q.lost ≤ 65535)

def Dev.noticesOk (d : Dev) : Bool := allPorts.all fun p => d.ports[p].noticesOk

/-- R61, R97: a slot that is not ACTIVE has no credit and nothing in flight, due or being sent. -/
def Site.restOk (x : Site) : Bool :=
  x.state == .active || (x.credit == 0 && x.inFlight.isEmpty && x.resends.isEmpty && x.send.isNone)

def Dev.restOk (d : Dev) : Bool := allSlots.all fun j => d.sites[j].restOk

/-- R12: at most one buffer is FILLING, an EMPTY buffer holds no record, and the buffers in PROGRAMMING are those that wait
to be programmed. -/
def Journal.buffersOk (j : Journal) : Bool :=
  !(j.bufA.state == .filling && j.bufB.state == .filling)
    && (j.bufA.state != .empty || j.bufA.recs.isEmpty) && (j.bufB.state != .empty || j.bufB.recs.isEmpty)
    && j.progQ.contains .a == (j.bufA.state == .programming) && j.progQ.contains .b == (j.bufB.state == .programming)

/-- The sparse tables are in their one form: their keys rise strictly. -/
def Dev.tablesOk (d : Dev) : Bool :=
  Tbl.ascending d.status.slots && Tbl.ascending d.index.ways && Tbl.ascending d.array.segs

/-! ## Situations -/

/-- The part is READY and powered. -/
def Dev.up (d : Dev) : Prop := d.power.powered = true ∧ d.part = .ready

/-- A port with nothing outstanding but responses, of which it holds fewer than 64. -/
def Dev.portIdle (d : Dev) (p : PortId) : Prop :=
  d.ports[p].cmdQ = [] ∧ d.ports[p].taken = [] ∧ d.ports[p].lookup = none ∧ d.ports[p].respQ.length < 64

/-- A port that is ONLINE and idle. -/
def Dev.portFree (d : Dev) (p : PortId) : Prop := d.ports[p].state = .online ∧ d.portIdle p

/-- Nothing competes for the intake arbiter (R11, R12, R170): no command is queued or holds the grant, and no control record
waits. -/
def Dev.intakeFree (d : Dev) : Prop :=
  d.intake.grant = none ∧ d.journal.ctrlQ = [] ∧ ∀ q : PortId, d.ports[q].cmdQ = []

/-- R12, R3: the staging block would place a record of this size at once: it finds room, and no program waits for a BLANK
segment. -/
def Dev.canPlace (d : Dev) (size : Nat) : Prop := d.programStalled = false ∧ (d.journal.target size).isSome = true

/-- R12, R3: a SETTINGS record and then a SITE-EVENT record (1,536 and 32 bytes) would be placed at once: the first, when it
closes a buffer, leaves no program that waits for a BLANK segment. -/
def Dev.canPlaceBoth (d : Dev) : Prop :=
  d.canPlace 1568 ∧ (d.array.programTarget.isSome = true ∨ (d.journal.makeRoom 1536).progQ = [])

/-- The command ID, the kind code and the body of an answer that the part posts at once to a free port. -/
def Dev.replied (p : PortId) (cid : Word32) (kind : Nat) (st : Status) (fl : Byte) (b : RespBody) (d : Dev) : Dev :=
  { d with
    nextToken := d.nextToken + 1
    ports := d.ports.set p { d.ports[p] with respQ := d.ports[p].respQ ++ [⟨kind, st, fl, cid, b⟩] } }

/-- The same for a command that the arbiter has granted: its port is the one granted last (R170). -/
def Dev.grantedReply (p : PortId) (cid : Word32) (kind : Nat) (st : Status) (fl : Byte) (b : RespBody) (d : Dev) : Dev :=
  { d with intake := { d.intake with last := p } }.replied p cid kind st fl b

/-- A command of a free port has been granted and taken, and its answer is still owed; `c` is what it will be made from. -/
def Dev.granted (p : PortId) (cid : Word32) (kind : Nat) (c : Cont) (d : Dev) : Dev :=
  { d with
    nextToken := d.nextToken + 1
    intake := { d.intake with last := p }
    ports := d.ports.set p
      { d.ports[p] with taken := [{ id := d.nextToken, cid := cid, kind := kind, holds := true, discard := false, cont := c }] } }

/-- The record of a granted command has been placed (R12). -/
def Dev.recorded (p : PortId) (r : Rec) (d : Dev) : Dev := (d.place ⟨r, some ⟨p, d.nextToken⟩⟩).1

/-- The span frame that a row of the table brings, after check 1 of R64: the time, the span port, the header, the body. -/
def arrives : Instr → Option (Time × SpanId × FrameHdr × InBody)
  | .helloReceived t sp h e => some (t, sp, h, .hello e)
  | .helloAckReceived t sp h n => some (t, sp, h, .helloAck n)
  | .openReceived t sp h n o => some (t, sp, h, .opening n o)
  | .carryReceived t sp h s k data => some (t, sp, h, .carry s k data)
  | .receiptReceived t sp h l => some (t, sp, h, .receipt l)
  | .gapReceived t sp h s l => some (t, sp, h, .gap s l)
  | .busyReceived t sp h s => some (t, sp, h, .busy s)
  | _ => none

/-- R64, check 3: the one slot that holds a site number and is in a state that hears frames. -/
def Dev.hearsAt (d : Dev) (j : SlotId) (site : Nat) : Prop :=
  (d.siteState j).hears = true ∧ (d.config j).site = some site ∧
    ∀ k, k ≠ j → ¬ ((d.siteState k).hears = true ∧ (d.config k).site = some site)

end Sys2Proof.Machine
end

