-- ==== Sys2Proof/WellFormed.lean ====
section
/-!
DEFINITION. Which terms of Instr are commands that the formats of chapter 11 can spell: each field fits its size (R199, log
46), and a list has as many items as its format holds. The meanings do not depend on it.
-/

namespace Sys2Proof

/-- A field of n bytes. -/
def fits (n v : Nat) : Bool := decide (v < 256 ^ n)

def AppendBody.wf (b : AppendBody) : Bool :=
  fits 1 b.kind && fits 1 b.keyLen && fits 4 b.payloadLen && fits 8 b.locator && decide (b.key.length ≤ 240)

def KeyQuery.wf (q : KeyQuery) : Bool := fits 1 q.keyLen && decide (q.key.length ≤ 240)

def SetPlacementBody.wf (b : SetPlacementBody) : Bool := fits 1 b.entry && fits 1 b.quorum

def ReadPlacementBody.wf (b : ReadPlacementBody) : Bool := fits 1 b.selector && fits 1 b.entry

def SetModeBody.wf (b : SetModeBody) : Bool := fits 1 b.defaultQuorum && fits 2 b.holdLimit && fits 1 b.expiryAction

def AttachSiteBody.wf (b : AttachSiteBody) : Bool :=
  fits 1 b.slot && fits 1 b.site && fits 1 b.spanPort && fits 1 b.generator && fits 2 b.share && fits 1 b.mode
    && fits 4 b.maxWindow

def SetGeneratorBody.wf (b : SetGeneratorBody) : Bool :=
  fits 1 b.generator && fits 1 b.enable && fits 2 b.rate && fits 2 b.period

def SetSitePacingBody.wf (b : SetSitePacingBody) : Bool :=
  fits 1 b.slot && fits 1 b.generator && fits 2 b.share && fits 1 b.mode && fits 1 b.lend && fits 4 b.maxWindow

/-- A field that holds a number or ALL, whose code is the largest value (log 61). -/
def optFits (n : Nat) (v : Option Nat) : Bool := v.all fun k => fits n (k + 1)

/-- R199: the kind codes that name commands are 1 to 35; a kind code has 2 bytes. -/
def unknownCode (c : Nat) : Bool := fits 2 c && (c == 0 || decide (35 < c))

def CmdBody.wf : CmdBody → Bool
  | .append b => b.wf
  | .flush n => fits 2 n
  | .readJournal s a => fits 8 s && fits 4 a
  | .queryKey q => q.wf
  | .setPlacement b => b.wf
  | .readPlacement b => b.wf
  | .setPlacementMode b => b.wf
  | .release s | .deny s | .queryIntent s => fits 8 s
  | .attachSite b => b.wf
  | .detachSite n | .fenceSite n | .unfenceSite n | .rejoinSite n => fits 1 n
  | .rewindSite n q => fits 1 n && fits 8 q
  | .readSite n => optFits 1 n
  | .setGenerator b => b.wf
  | .setSitePacing b => b.wf
  | .postLanding i a c => fits 2 i && fits 4 a && fits 4 c
  | .stored i o => fits 4 i && fits 1 o
  | .readInbound i => fits 4 i
  | .setPressureLimits l c => fits 2 l && fits 2 c
  | .readSegments n => optFits 2 n
  | .fencePort n | .unfencePort n => fits 1 n
  | .clearFaults k => !k.getLsbD 7
  | .setNoticeMask l => l.length == 7 && l.all (fits 1)
  | .setLocalSite n => fits 1 n
  | .unknown c => unknownCode c
  | .guardOn | .guardOff | .setGuardMap _ | .attachPort | .detachPort | .readStatus => true

def FrameHdr.wf (h : FrameHdr) : Bool := fits 1 h.sender && fits 1 h.receiver && fits 8 h.start

def OpenDesc.wf (o : OpenDesc) : Bool :=
  fits 8 o.seq && fits 1 o.kind && fits 1 o.keyLen && o.key.length == o.keyLen && fits 4 o.payloadLen

/-- The longest Ethernet payload that a span frame makes: a CARRY of 8,192 bytes (R63). -/
def frameRoom : Nat := 8256

def StartMedia.wf (m : StartMedia) : Bool :=
  (m.unreadable.all fun e => decide (e.1 < 2048) && decide (e.2 < 64)) && m.eraseFails.all fun n => decide (n < 2048)

def Instr.wf : Instr → Bool
  | .commandPosted _ _ r => r.body.wf
  | .unknownCommandKind _ _ _ c => unknownCode c
  | .append _ _ _ b => b.wf
  | .flush _ _ _ n => fits 2 n
  | .readJournal _ _ _ s a => fits 8 s && fits 4 a
  | .queryKey _ _ _ q => q.wf
  | .setPlacement _ _ _ b => b.wf
  | .readPlacement _ _ _ b => b.wf
  | .setPlacementMode _ _ _ b => b.wf
  | .release _ _ _ s | .deny _ _ _ s | .queryIntent _ _ _ s => fits 8 s
  | .attachSite _ _ _ b => b.wf
  | .detachSite _ _ _ n | .fenceSite _ _ _ n | .unfenceSite _ _ _ n | .rejoinSite _ _ _ n => fits 1 n
  | .rewindSite _ _ _ n q => fits 1 n && fits 8 q
  | .readSite _ _ _ n => optFits 1 n
  | .setGenerator _ _ _ b => b.wf
  | .setSitePacing _ _ _ b => b.wf
  | .postLanding _ _ _ i a c => fits 2 i && fits 4 a && fits 4 c
  | .stored _ _ _ i o => fits 4 i && fits 1 o
  | .readInbound _ _ _ i => fits 4 i
  | .setPressureLimits _ _ _ l c => fits 2 l && fits 2 c
  | .readSegments _ _ _ n => optFits 2 n
  | .fencePort _ _ _ n | .unfencePort _ _ _ n => fits 1 n
  | .clearFaults _ _ _ k => !k.getLsbD 7
  | .setNoticeMask _ _ _ l => l.length == 7 && l.all (fits 1)
  | .setLocalSite _ _ _ n => fits 1 n
  | .helloReceived _ _ h e => h.wf && fits 1 e
  | .helloAckReceived _ _ h n => h.wf && fits 8 n
  | .openReceived _ _ h n o => h.wf && o.wf && decide (n ≤ frameRoom)
  | .carryReceived _ _ h s k data => h.wf && fits 8 s && fits 4 k && decide (64 + data.length ≤ frameRoom)
  | .receiptReceived _ _ h l => h.wf && l.all fun e => fits 8 e.1 && fits 1 e.2
  | .gapReceived _ _ h s l => h.wf && fits 8 s && l.all fun e => fits 4 e.1 && fits 4 e.2
  | .busyReceived _ _ h s => h.wf && fits 8 s
  | .powerUp _ m => m.wf
  | _ => true

/-- The command record that a row of the command summary posts (log 1), with its time and port. -/
def Instr.posts : Instr → Option (Time × PortId × CmdRec)
  | .commandPosted t p r => some (t, p, r)
  | .unknownCommandKind t p cid c => some (t, p, ⟨cid, .unknown c⟩)
  | .append t p cid b => some (t, p, ⟨cid, .append b⟩)
  | .flush t p cid n => some (t, p, ⟨cid, .flush n⟩)
  | .readJournal t p cid s a => some (t, p, ⟨cid, .readJournal s a⟩)
  | .queryKey t p cid q => some (t, p, ⟨cid, .queryKey q⟩)
  | .setPlacement t p cid b => some (t, p, ⟨cid, .setPlacement b⟩)
  | .readPlacement t p cid b => some (t, p, ⟨cid, .readPlacement b⟩)
  | .setPlacementMode t p cid b => some (t, p, ⟨cid, .setPlacementMode b⟩)
  | .release t p cid s => some (t, p, ⟨cid, .release s⟩)
  | .deny t p cid s => some (t, p, ⟨cid, .deny s⟩)
  | .attachSite t p cid b => some (t, p, ⟨cid, .attachSite b⟩)
  | .detachSite t p cid n => some (t, p, ⟨cid, .detachSite n⟩)
  | .fenceSite t p cid n => some (t, p, ⟨cid, .fenceSite n⟩)
  | .unfenceSite t p cid n => some (t, p, ⟨cid, .unfenceSite n⟩)
  | .rejoinSite t p cid n => some (t, p, ⟨cid, .rejoinSite n⟩)
  | .rewindSite t p cid n q => some (t, p, ⟨cid, .rewindSite n q⟩)
  | .readSite t p cid n => some (t, p, ⟨cid, .readSite n⟩)
  | .setGenerator t p cid b => some (t, p, ⟨cid, .setGenerator b⟩)
  | .setSitePacing t p cid b => some (t, p, ⟨cid, .setSitePacing b⟩)
  | .queryIntent t p cid s => some (t, p, ⟨cid, .queryIntent s⟩)
  | .postLanding t p cid i a c => some (t, p, ⟨cid, .postLanding i a c⟩)
  | .stored t p cid i o => some (t, p, ⟨cid, .stored i o⟩)
  | .readInbound t p cid i => some (t, p, ⟨cid, .readInbound i⟩)
  | .guardOn t p cid => some (t, p, ⟨cid, .guardOn⟩)
  | .guardOff t p cid => some (t, p, ⟨cid, .guardOff⟩)
  | .setGuardMap t p cid m => some (t, p, ⟨cid, .setGuardMap m⟩)
  | .setPressureLimits t p cid l c => some (t, p, ⟨cid, .setPressureLimits l c⟩)
  | .readSegments t p cid n => some (t, p, ⟨cid, .readSegments n⟩)
  | .attachPort t p cid => some (t, p, ⟨cid, .attachPort⟩)
  | .detachPort t p cid => some (t, p, ⟨cid, .detachPort⟩)
  | .fencePort t p cid n => some (t, p, ⟨cid, .fencePort n⟩)
  | .unfencePort t p cid n => some (t, p, ⟨cid, .unfencePort n⟩)
  | .readStatus t p cid => some (t, p, ⟨cid, .readStatus⟩)
  | .clearFaults t p cid k => some (t, p, ⟨cid, .clearFaults k⟩)
  | .setNoticeMask t p cid l => some (t, p, ⟨cid, .setNoticeMask l⟩)
  | .setLocalSite t p cid n => some (t, p, ⟨cid, .setLocalSite n⟩)
  | _ => none

end Sys2Proof
end

