-- ==== Sys2Proof/Certificates/Slice0/Obligations.lean ====
section
/-!
DEFINITION. The statements for the provers.

Where a command acts in one event, its next state is written { s with dev := u.settle }: u is the part after the command's own
effect, and `settle` runs the engines of the part that the effect lets go on in the same event (log 6). `s.dev.tick t` is the
part with the clock at the event's time.
-/

open Sys2Proof Sys2Proof.Machine

/-! ## The block -/

/-- A step takes the command at the front of the queue, and runs it with the queue's rest. -/
def Obligations.StepRunsFront : Prop :=
  ∀ (c : Instr) (rest : List Instr) (d : Dev), step ⟨c :: rest, d⟩ = exec c ⟨rest, d⟩

/-- Every command of the table goes on, in every state, and leaves the queue as it is: none faults and none is refused. On
an empty queue the part idles. The model's choice (log 3). -/
def Obligations.EveryStepGoesOn : Prop :=
  (∀ (c : Instr) (s : State), ∃ d, exec c s = .next { s with dev := d }) ∧
  (∀ d : Dev, step ⟨[], d⟩ = .next ⟨[], d⟩)

/-- A row that stands for a command of the command summary posts that command's record at its port. The model's reading of
those rows (log 1). -/
def Obligations.CommandRowsPostTheirRecord : Prop :=
  ∀ (c : Instr) (s : State) (t : Time) (p : PortId) (r : CmdRec), c.posts = some (t, p, r) →
    exec c s = exec (.commandPosted t p r) s

/-! ## Ports: queues and refusals (R164 to R168) -/

/-- R164, R166, R167: a command joins the queue and waits there while its port is held or the part is QUIESCING. (An APPEND
that becomes the head command has its key looked up meanwhile, and is left out here.) R166: an overrun. The command is
dropped; the latch is set, and when it was clear each ONLINE port whose mask admits the kind is addressed a FAULT notice. -/
def Obligations.PostedCommandWaitsOrOverruns : Prop :=
  (∀ (s : State) (t : Time) (p : PortId) (r : CmdRec), s.dev.power.powered = true → s.dev.ports[p].outstanding < 64 →
     s.dev.ports[p].isHeld = true ∨ s.dev.part = .quiescing → s.dev.ports[p].cmdQ = [] → (∀ b, r.body ≠ .append b) →
       exec (.commandPosted t p r) s =
         .next { s with dev := ((s.dev.tick t).modPort p fun q => { q with cmdQ := q.cmdQ ++ [r] }).settle }) ∧
  (∀ (s : State) (t : Time) (p : PortId) (r : CmdRec), s.dev.power.powered = true → 64 ≤ s.dev.ports[p].outstanding →
     ∃ u : Dev, exec (.commandPosted t p r) s = .next { s with dev := u.settle } ∧
       { u with ports := s.dev.ports } = s.dev.tick t ∧
       ∀ q : PortId,
         let old : Port := { s.dev.ports[q] with overrun := if q = p then true else s.dev.ports[q].overrun }
         u.ports[q] =
           if s.dev.ports[p].overrun = false ∧ s.dev.ports[q].state = .online ∧ s.dev.settings.masks[q].getLsbD 2 = true then
             old.addNotice false (.fault .queueOverrun (.port p))
           else old)

/-- R164, cases 1 to 3: what the part's state and the port's state answer, at a port that has nothing outstanding but
responses. R164, case 4, and R199: a kind code that names no command is answered BAD_FIELD on an ONLINE port. -/
def Obligations.AnswersBeforeTheCommandsRule : Prop :=
  (∀ (s : State) (t : Time) (p : PortId) (r : CmdRec), s.dev.power.powered = true → s.dev.portIdle p →
     (s.dev.part = .starting → r.body ≠ .readStatus →
       exec (.commandPosted t p r) s =
         .next { s with dev := ((s.dev.tick t).replied p r.cid (kindCode r.body) .starting 0 .none).settle }) ∧
     (s.dev.part = .ready → s.dev.ports[p].state = .fenced →
       exec (.commandPosted t p r) s =
         .next { s with dev := ((s.dev.tick t).replied p r.cid (kindCode r.body) .fenced 0 .none).settle }) ∧
     (s.dev.part = .ready → s.dev.ports[p].state = .offline ∨ s.dev.ports[p].state = .lost → r.body ≠ .attachPort →
       r.body ≠ .readStatus →
       exec (.commandPosted t p r) s =
         .next { s with dev := ((s.dev.tick t).replied p r.cid (kindCode r.body) .notAttached 0 .none).settle })) ∧
  (∀ (s : State) (t : Time) (p : PortId) (cid : Word32) (code : Nat), s.dev.up → s.dev.portFree p →
     exec (.unknownCommandKind t p cid code) s =
       .next { s with dev := ((s.dev.tick t).replied p cid code .badField 0 .none).settle })

/-- R166: a controller removes records from the front of the response queue and of the notice queue; nothing else of the port
changes by it. R166, R168: the engines add records to the end of the response and notice queues; they take none away, but for a
start, which empties every queue: a quiesce that waits for a BLANK segment lets one begin (R187). -/
def Obligations.RecordsLeaveTheQueuesInOrder : Prop :=
  (∀ (s : State) (t : Time) (p : PortId), s.dev.power.powered = true →
     exec (.responseRemoved t p) s =
         .next { s with dev := ((s.dev.tick t).modPort p fun q => { q with respQ := q.respQ.tail }).settle } ∧
       exec (.noticeRemoved t p) s =
         .next { s with dev := ((s.dev.tick t).modPort p fun q => { q with noticeQ := q.noticeQ.tail }).settle }) ∧
  (∀ (d : Dev) (p : PortId),
     (d.part = .quiescing → d.power.causeReset = true → d.power.warn = true ∨ d.power.resetLine = true) →
     d.ports[p].respQ <+: d.settle.ports[p].respQ ∧ d.ports[p].noticeQ <+: d.settle.ports[p].noticeQ)

/-! ## Ports: commands -/

/-- R164, R181: READ STATUS is answered DONE at once on a port that is OFFLINE, ONLINE or LOST, and on a port in any state
while the part is STARTING. The command itself counts as outstanding while it is answered. -/
def Obligations.ReadStatusReports : Prop :=
  ∀ (s : State) (t : Time) (p : PortId) (cid : Word32), s.dev.power.powered = true → s.dev.portIdle p →
    s.dev.part = .starting ∨ (s.dev.part = .ready ∧ s.dev.ports[p].state ≠ .fenced) →
    ∃ r : StatusReport,
      exec (.readStatus t p cid) s = .next { s with dev := ((s.dev.tick t).replied p cid 32 .done 0 (.status r)).settle } ∧
      r.part = s.dev.part ∧ r.kind = s.dev.power.kind ∧ r.count = s.dev.power.startCount ∧
      r.localSite = s.dev.settings.localSite ∧ r.partLost = s.dev.partLost ∧ r.lastGranted = s.dev.intake.last ∧
      r.fetching = s.dev.fetch.active.length ∧ r.queued = s.dev.fetch.queue.length ∧
      r.timeouts = s.dev.fetch.timeouts ∧ r.mismatches = s.dev.fetch.mismatches ∧
      r.fetchFailed = s.dev.fetch.fetchFailed ∧ r.faults = s.dev.latchedFaults ∧
      r.blocked = (s.dev.status.slots.filter fun e => e.2.fetchBlocked).length ∧
      r.ports.length = 4 ∧
      ∀ q : PortId, ∃ e, r.ports[q.val]? = some e ∧ e.state = s.dev.ports[q].state ∧ e.fence = s.dev.settings.portFence[q] ∧
        e.outstanding = s.dev.ports[q].outstanding + (if q = p then 1 else 0) ∧
        e.notices = s.dev.ports[q].noticeQ.length ∧ e.noticeNumber = s.dev.ports[q].noticeNumber ∧
        e.lost = s.dev.ports[q].lost ∧ e.timeouts = s.dev.ports[q].timeouts ∧ e.mask = s.dev.settings.masks[q]

/-- R176, R78, R182: CLEAR FAULTS clears every latch of the named kinds whose condition has ended, and answers with the
latches that it cleared and the named ones that remain. Its own port's outstanding count includes the command itself.
Nothing but the latches and the response changes. -/
def Obligations.ClearFaultsClears : Prop :=
  ∀ (s : State) (t : Time) (p : PortId) (cid : Word32) (kinds : Byte), s.dev.up → s.dev.portFree p →
    let ended (e : FaultKind × FaultScope) : Bool :=
      match e with
      | (.queueOverrun, .port q) => decide (s.dev.ports[q].outstanding + (if q = p then 1 else 0) < 64)
      | (.stall, .slot j _) => s.dev.sites[j].state != .stalled && decide (s.dev.sites[j].probeCount < 30)
      | (.overrun, .slot j _) => decide (s.dev.sites[j].busyCount < 16)
      | _ => true
    let named := s.dev.latchedFaults.filter fun e => kinds.getLsbD e.1.index
    ∃ u : Dev, exec (.clearFaults t p cid kinds) s = .next { s with dev := u.settle } ∧
      u.ports[p].respQ =
        s.dev.ports[p].respQ ++ [⟨33, .done, 0, cid, .cleared (named.filter ended) (named.filter fun e => !ended e)⟩] ∧
      u.latchedFaults = s.dev.latchedFaults.filter (fun e => !(kinds.getLsbD e.1.index && ended e)) ∧
      { u with
        nextToken := s.dev.nextToken, ports := s.dev.ports, sites := s.dev.sites, journalMedia := s.dev.journalMedia
        retentionLost := s.dev.retentionLost } = s.dev.tick t ∧
      (∀ q : PortId,
        { u.ports[q] with overrun := s.dev.ports[q].overrun, respQ := s.dev.ports[q].respQ } = s.dev.ports[q]) ∧
      (∀ q : PortId, q ≠ p → u.ports[q].respQ = s.dev.ports[q].respQ) ∧
      ∀ j : SlotId,
        { u.sites[j] with
          stall := s.dev.sites[j].stall, overrun := s.dev.sites[j].overrun, digest := s.dev.sites[j].digest
          protocol := s.dev.sites[j].protocol } = s.dev.sites[j]

/-- R165, R178: ATTACH PORT on an ONLINE port changes nothing; on an OFFLINE or LOST port it brings the port ONLINE, clears
its timeout count and every FETCH-BLOCKED flag, lowers each cursor to the lowest intent that held the flag and has a PENDING mark
for the slot (R69), and the port receives START, then the FAULT notice of a latched
RETENTION_LOST, then PORT_STATE, which goes to the other ONLINE ports as well. R165, R174, R179: DETACH PORT takes an
ONLINE port OFFLINE: its landing list is discarded, no arrival stays delivered or being delivered to it, and PORT_STATE goes to
the ports still ONLINE. A payload read through it starts anew at the next ONLINE port after it in number order; with none, the
fetch ends, the intent is FETCH-BLOCKED, and every candidate that holds it is dropped. Of the other ports nothing else
changes. -/
def Obligations.PortsAttachAndDetach : Prop :=
  (∀ (s : State) (t : Time) (p : PortId) (cid : Word32), s.dev.up → s.dev.portIdle p →
     (s.dev.ports[p].state = .online →
       exec (.attachPort t p cid) s =
         .next { s with dev := ((s.dev.tick t).replied p cid 28 .wrongState 0 .none).settle }) ∧
     (s.dev.ports[p].state = .offline ∨ s.dev.ports[p].state = .lost →
       let change : NoticeBody := .portState p s.dev.ports[p].state .online .command
       let start : NoticeBody := .start s.dev.power.kind s.dev.power.startCount s.dev.power.info
       let own : List NoticeBody :=
         if s.dev.retentionLost = true ∧ s.dev.settings.masks[p].getLsbD 1 = true then
           [start, .fault .retentionLost .part, change]
         else [start, change]
       ∃ u : Dev, exec (.attachPort t p cid) s = .next { s with dev := u.settle } ∧
         u.ports[p] =
           { own.foldl (fun q b => q.addNotice false b) { s.dev.ports[p] with state := .online, timeouts := 0 } with
             respQ := s.dev.ports[p].respQ ++
               [⟨28, .done, 0, cid, .attach s.dev.power.kind s.dev.power.startCount s.dev.settings.localSite
                 s.dev.latchedFaults⟩] } ∧
         (∀ q, q ≠ p →
           u.ports[q] = if s.dev.ports[q].state = .online then s.dev.ports[q].addNotice false change else s.dev.ports[q]) ∧
         (∀ q x, u.slot? q = some x → x.fetchBlocked = false) ∧
         (∀ q, (u.slot? q).map (fun x => { x with fetchBlocked := false }) =
           (s.dev.slot? q).map fun x => { x with fetchBlocked := false }) ∧
         (s.dev.tablesOk = true → ∀ j : SlotId,
           let freed (q : Seq) : Prop := ∃ x, s.dev.slot? q = some x ∧ x.fetchBlocked = true ∧ (j, .pending) ∈ x.marks
           ((¬ ∃ q, freed q) → u.sites[j] = s.dev.sites[j]) ∧
           ((∃ q, freed q) →
             ∃ c, (c = s.dev.sites[j].cursor ∨ freed c) ∧ c ≤ s.dev.sites[j].cursor ∧ (∀ q, freed q → c ≤ q) ∧
               u.sites[j] =
                 { s.dev.sites[j] with
                   cursor := c, candidates := s.dev.sites[j].candidates.filter fun k => decide (k.seq < c) })) ∧
         { u with nextToken := s.dev.nextToken, ports := s.dev.ports, status := s.dev.status, sites := s.dev.sites } =
           s.dev.tick t)) ∧
  (∀ (s : State) (t : Time) (p : PortId) (cid : Word32), s.dev.up → s.dev.portFree p →
     ∃ u : Dev, exec (.detachPort t p cid) s = .next { s with dev := u.settle } ∧
       u.ports[p].state = .offline ∧ u.ports[p].landings = [] ∧
       u.ports[p].respQ = s.dev.ports[p].respQ ++ [⟨29, .done, 0, cid, .none⟩] ∧
       (∀ a ∈ u.inbound.arrivals, a.delivery.map (·.1) ≠ some p) ∧
       (∀ f ∈ u.fetch.active, f.reading = true → f.port ≠ p) ∧
       (∀ q, q ≠ p →
         u.ports[q] =
           if s.dev.ports[q].state = .online then
             s.dev.ports[q].addNotice false (.portState p .online .offline .command)
           else s.dev.ports[q]) ∧
       u.settings = s.dev.settings ∧ u.journal = s.dev.journal ∧ u.array = s.dev.array ∧ u.index = s.dev.index ∧
       ((s.dev.fetch.active.map fun f => f.req.seq).Nodup →
         let read (f : Fetch) : Prop := f.port = p ∧ f.reading = true
         let up (q : PortId) : Prop := q ≠ p ∧ s.dev.ports[q].state = .online
         let far (q : PortId) : Nat := (q.val + 3 - p.val) % 4
         (∀ q, up q → (∀ k, up k → far q ≤ far k) →
           List.Forall₂
             (fun f g =>
               (¬ read f → g = f) ∧
               (read f → ∃ n, s.dev.fetch.nextRead ≤ n ∧ n < u.fetch.nextRead ∧
                 g = { f with port := q, started := (s.dev.tick t).now, reading := true, read := n }))
             s.dev.fetch.active u.fetch.active ∧
           u.sites = s.dev.sites ∧ u.status = s.dev.status) ∧
         ((∀ q, ¬ up q) →
           u.fetch.active = (s.dev.fetch.active.filter fun f => !(f.port == p && f.reading)) ∧
           (∀ (i : Seq) (x : Slot), s.dev.slot? i = some x →
             let blocked := ∃ f ∈ s.dev.fetch.active, read f ∧ f.req.seq = i
             (blocked → u.slot? i = some { x with fetchBlocked := true }) ∧ (¬ blocked → u.slot? i = some x)) ∧
           ∀ j : SlotId, u.sites[j] =
             { s.dev.sites[j] with
               candidates := s.dev.sites[j].candidates.filter fun c =>
                 !s.dev.fetch.active.any fun f => f.port == p && f.reading && f.req.seq == c.seq })))

/-- R14, R165, R177: a function reset of one port, in every state of a powered part. When the port was ONLINE or LOST, PORT_STATE
with cause FUNCTION_RESET goes to the other ports that are ONLINE; of the other ports nothing else changes. A command that the
port has taken keeps its hold, and its response is discarded: the model's choice (log 15). -/
def Obligations.FunctionResetClearsThePort : Prop :=
  ∀ (s : State) (t : Time) (p : PortId), s.dev.power.powered = true →
    ∃ u : Dev, exec (.functionReset t p) s = .next { s with dev := u.settle } ∧
      u.ports[p].state =
        (if s.dev.ports[p].state = .online ∨ s.dev.ports[p].state = .lost then .offline else s.dev.ports[p].state) ∧
      u.ports[p].cmdQ = [] ∧ u.ports[p].respQ = [] ∧ u.ports[p].noticeQ = [] ∧ u.ports[p].lookup = none ∧
      u.ports[p].outstanding = 0 ∧ u.ports[p].landings = [] ∧ u.ports[p].timeouts = 0 ∧ u.ports[p].lost = 0 ∧
      u.ports[p].noticeNumber = 1 ∧ u.ports[p].overrun = s.dev.ports[p].overrun ∧
      u.ports[p].taken = s.dev.ports[p].taken.map (fun x => { x with discard := true }) ∧
      (∀ a ∈ u.inbound.arrivals, a.delivery.map (·.1) ≠ some p) ∧
      (∀ q, q ≠ p →
        let old := s.dev.ports[p].state
        u.ports[q] =
          if (old = .online ∨ old = .lost) ∧ s.dev.ports[q].state = .online then
            s.dev.ports[q].addNotice false (.portState p old .offline .functionReset)
          else s.dev.ports[q]) ∧
      u.settings = s.dev.settings ∧ u.journal = s.dev.journal ∧ u.part = s.dev.part ∧ u.intake = s.dev.intake

/-- R180: FENCE PORT and UNFENCE PORT, granted on another port: the named port's fence mark and state change, the holds of
a fenced port end and the responses it is owed are discarded, and the SETTINGS record of the new settings is placed. R180:
what FENCE PORT and UNFENCE PORT are refused for: a port above 3 or the commanding port, and a port in the wrong state. -/
def Obligations.FencePortAndUnfencePort : Prop :=
  (∀ (s : State) (t : Time) (p q : PortId) (cid : Word32) (fence : Bool), s.dev.up → s.dev.portFree p → s.dev.intakeFree →
     s.dev.canPlace 1536 → q ≠ p →
     (if fence then s.dev.ports[q].state ≠ .fenced else s.dev.ports[q].state = .fenced) →
     let c : Settings := { s.dev.settings with portFence := s.dev.settings.portFence.set q fence }
     ∃ u : Dev, exec (if fence then .fencePort t p cid q.val else .unfencePort t p cid q.val) s = .next { s with dev := u.settle } ∧
       u.settings = c ∧
       u.ports[q].state = (if fence then .fenced else .offline) ∧
       (fence = true → ∀ x ∈ u.ports[q].taken, x.discard = true ∧ x.holds = false) ∧
       u.ports[p].taken =
         [{ id := s.dev.nextToken, cid := cid, kind := if fence then 30 else 31, holds := true, discard := false, cont := .done }] ∧
       u.journal = ((s.dev.tick t).place ⟨.settings c, some ⟨p, s.dev.nextToken⟩⟩).1.journal ∧
       u.intake = { s.dev.intake with last := p, grant := none } ∧
       u.ports[p].noticeQ =
         (s.dev.ports[p].addNotice false
           (.portState q s.dev.ports[q].state (if fence then .fenced else .offline) .fence)).noticeQ ∧
       (∀ k : PortId, u.ports[k].respQ = s.dev.ports[k].respQ)) ∧
  (∀ (s : State) (t : Time) (p : PortId) (cid : Word32) (n : Nat) (fence : Bool), s.dev.up → s.dev.portFree p →
     s.dev.intakeFree →
     let answer (st : Status) : Host.Outcome State Fault Refusal :=
       .next { s with dev := ((s.dev.tick t).grantedReply p cid (if fence then 30 else 31) st 0 .none).settle }
     (3 < n ∨ n = p.val → exec (if fence then .fencePort t p cid n else .unfencePort t p cid n) s = answer .badField) ∧
     (∀ q : PortId, n = q.val → q ≠ p → (if fence then s.dev.ports[q].state = .fenced else s.dev.ports[q].state ≠ .fenced) →
       exec (if fence then .fencePort t p cid n else .unfencePort t p cid n) s = answer .wrongState))

/-- R183, R197: SET NOTICE MASK and SET LOCAL SITE: their refusals, the answer at once for a mask that is stored already,
and else the setting stored with its SETTINGS record placed. Setting k of a mask is 1 for on and 2 for off (log 7), and the
answer at once carries the mask (log 63): the model's choices. -/
def Obligations.SetNoticeMaskAndSetLocalSite : Prop :=
  ∀ (s : State) (t : Time) (p : PortId) (cid : Word32), s.dev.up → s.dev.portFree p → s.dev.intakeFree →
    let d := s.dev.tick t
    (∀ l : List Nat, l.length = 7 → (∃ k ∈ l, k ≠ 1 ∧ k ≠ 2) →
      exec (.setNoticeMask t p cid l) s = .next { s with dev := (d.grantedReply p cid 34 .badField 0 .none).settle }) ∧
    (∀ m : BitVec 7,
      let l := (List.range 7).map fun k => if m.getLsbD k then 1 else 2
      let c : Settings := { s.dev.settings with masks := s.dev.settings.masks.set p m }
      (m = s.dev.settings.masks[p] →
        exec (.setNoticeMask t p cid l) s = .next { s with dev := (d.grantedReply p cid 34 .done 0 (.mask m)).settle }) ∧
      (m ≠ s.dev.settings.masks[p] → s.dev.canPlace 1536 →
        exec (.setNoticeMask t p cid l) s =
          .next { s with dev := (({ d with settings := c }.recorded p (.settings c)).granted p cid 34 .mask).settle })) ∧
    (∀ n : Nat,
      let c : Settings := { s.dev.settings with localSite := some n }
      (15 < n → exec (.setLocalSite t p cid n) s = .next { s with dev := (d.grantedReply p cid 35 .badField 0 .none).settle }) ∧
      (n ≤ 15 → s.dev.settings.localSite ≠ none →
        exec (.setLocalSite t p cid n) s = .next { s with dev := (d.grantedReply p cid 35 .wrongState 0 .none).settle }) ∧
      (n ≤ 15 → s.dev.settings.localSite = none → s.dev.canPlace 1536 →
        exec (.setLocalSite t p cid n) s =
          .next { s with dev := (({ d with settings := c }.recorded p (.settings c)).granted p cid 35 .done).settle }))

/-! ## Guards and pressure -/

/-- R147, R151, R160: GUARD ON turns the software guard on and withdraws a waiting erase request whose target lies in a MARKED
group; while the guard is ON already it changes nothing. GUARD OFF turns it off unless the filtered line is ASSERTED. Nothing
else changes. The withdrawn count stays at 4,294,967,295: the model's choice (log 18). R152: the raw guard line takes a level. A
level that differs from the filtered one starts the 10 ms settling timer; one equal to it stops the timer; a level that does not
change lets the timer run. When the timer expires, the filtered level takes the raw level, and nothing else changes by it: the
expiry comes when the timer is due (log 2). R150, R153: a start begins with the software guard OFF and the filtered level
ASSERTED; the raw level is kept through POWER_UP: the model's choice (log 26). R151: a MARKED group is guarded while the
software guard or the filtered level holds. -/
def Obligations.GuardsAndGuardLine : Prop :=
  (∀ (s : State) (t : Time) (p : PortId) (cid : Word32), s.dev.up → s.dev.portFree p →
     let d := s.dev.tick t
     let marked : Nat := ((List.range 64).filter fun g => s.dev.settings.guardMap.getLsbD g).length
     let on : Dev := { d with guard := { d.guard with software := true } }
     let r : RespBody := .guardOn s.dev.guard.filtered marked
     (s.dev.guard.software = true →
       exec (.guardOn t p cid) s = .next { s with dev := (d.replied p cid 23 .done 0 r).settle }) ∧
     ((∀ n, s.dev.reclaim.engine = .waiting n → s.dev.settings.guardMap.getLsbD (n / 32) = false) →
       exec (.guardOn t p cid) s = .next { s with dev := (on.replied p cid 23 .done 0 r).settle }) ∧
     (∀ n, s.dev.guard.software = false → s.dev.reclaim.engine = .waiting n →
       s.dev.settings.guardMap.getLsbD (n / 32) = true →
       exec (.guardOn t p cid) s =
         .next { s with dev :=
           ({ on with reclaim := { d.reclaim with engine := .idle, withdrawn := min (d.reclaim.withdrawn + 1) 4294967295 } }.replied
             p cid 23 .done 0 r).settle }) ∧
     (s.dev.guard.filtered = true →
       exec (.guardOff t p cid) s = .next { s with dev := (d.replied p cid 24 .guardLine 0 .none).settle }) ∧
     (s.dev.guard.filtered = false →
       exec (.guardOff t p cid) s =
         .next { s with dev :=
           ({ d with guard := { d.guard with software := false } }.replied p cid 24 .done 0 .none).settle }) ∧
     (∀ (e : Dev) (g : Nat), e.groupGuarded g = (e.settings.guardMap.getLsbD g && (e.guard.software || e.guard.filtered)))) ∧
  (∀ (s : State) (t : Time) (raw : Bool),
     let d := s.dev.tick t
     let g := s.dev.guard
     (s.dev.power.powered = true → raw = g.filtered →
       exec (.guardLineChange t raw) s =
         .next { s with dev := Dev.settle { d with guard := { g with raw := raw, settleDue := none } } }) ∧
     (s.dev.power.powered = true → raw ≠ g.filtered → raw ≠ g.raw →
       exec (.guardLineChange t raw) s =
         .next { s with dev := Dev.settle { d with guard := { g with raw := raw, settleDue := some (d.now + 10000) } } }) ∧
     (s.dev.power.powered = true → raw ≠ g.filtered → raw = g.raw →
       exec (.guardLineChange t raw) s = .next { s with dev := d.settle }) ∧
     (s.dev.power.powered = true → ∀ due, g.settleDue = some due →
       exec .guardSettlingExpiry s =
         .next { s with dev := Dev.settle { s.dev.tick due with
           guard := { g with filtered := g.raw, settleDue := none } } }) ∧
     (s.dev.power.powered = false → ∀ m : StartMedia,
       ∃ u : Dev, exec (.powerUp t m) s = .next { s with dev := u.settle } ∧
         u.guard = ⟨false, true, g.raw, if g.raw then none else some (d.now + 10000)⟩) ∧
     (∀ (e : Dev) (k : Nat), e.groupGuarded k = (e.settings.guardMap.getLsbD k && (e.guard.software || e.guard.filtered))))

/-- R161: SET GUARD MAP. R156, R162: SET PRESSURE LIMITS clamps the reserve to 8 to 256 and the watermark to the reserve +
1 to 1,024; a field of 0 is left unchanged. What it stores decides the armed flag and the LOW_WATERMARK notice in the same
event. That an answer at once carries the map, or the limits and the level, is the model's choice (log 63). -/
def Obligations.GuardMapAndPressureLimitsStore : Prop :=
  (∀ (s : State) (t : Time) (p : PortId) (cid : Word32) (m : Word64), s.dev.up → s.dev.portFree p → s.dev.intakeFree →
     let d := s.dev.tick t
     let c : Settings := { s.dev.settings with guardMap := m }
     (s.dev.guard.filtered = true →
       exec (.setGuardMap t p cid m) s = .next { s with dev := (d.grantedReply p cid 25 .guardLine 0 .none).settle }) ∧
     (s.dev.guard.filtered = false → m = s.dev.settings.guardMap →
       exec (.setGuardMap t p cid m) s = .next { s with dev := (d.grantedReply p cid 25 .done 0 (.guardMap m)).settle }) ∧
     (s.dev.guard.filtered = false → m ≠ s.dev.settings.guardMap → s.dev.canPlace 1536 →
       exec (.setGuardMap t p cid m) s =
         .next { s with dev := (({ d with settings := c }.recorded p (.settings c)).granted p cid 25 .guardMap).settle })) ∧
  (∀ (s : State) (t : Time) (p : PortId) (cid : Word32) (lw cr : Nat), s.dev.up → s.dev.portFree p → s.dev.intakeFree →
     let d := s.dev.tick t
     let r := max 8 (min 256 (if cr = 0 then s.dev.settings.criticalReserve else cr))
     let w := max (r + 1) (min 1024 (if lw = 0 then s.dev.settings.lowWatermark else lw))
     let level : PressureLevel :=
       if s.dev.free ≤ r ∨ s.dev.headroom ≤ 65536 then .critical else if s.dev.free ≤ w then .low else .normal
     (w = s.dev.settings.lowWatermark → r = s.dev.settings.criticalReserve →
       exec (.setPressureLimits t p cid lw cr) s =
         .next { s with dev := (d.grantedReply p cid 26 .done 0 (.pressure w r level)).settle }) ∧
     (w ≠ s.dev.settings.lowWatermark ∨ r ≠ s.dev.settings.criticalReserve → s.dev.canPlace 1536 →
       let c : Settings := { s.dev.settings with lowWatermark := w, criticalReserve := r }
       ∃ u : Dev, exec (.setPressureLimits t p cid lw cr) s = .next { s with dev := u.settle } ∧
         u.settings = c ∧ u.level = level ∧
         u.reclaim.armed = decide (w < s.dev.free) ∧
         u.reclaim.lastBlocked = (if level = .critical then s.dev.reclaim.lastBlocked else none) ∧
         (∀ q : PortId, u.ports[q].noticeQ =
           if s.dev.free ≤ w ∧ s.dev.reclaim.armed = true ∧ s.dev.ports[q].state = .online then
             (s.dev.ports[q].addNotice false (.lowWatermark s.dev.free s.dev.headroom level w r)).noticeQ
           else s.dev.ports[q].noticeQ) ∧
         u.journal = (d.place ⟨.settings c, some ⟨p, s.dev.nextToken⟩⟩).1.journal ∧
         u.ports[p].taken =
           [{ id := s.dev.nextToken, cid := cid, kind := 26, holds := true, discard := false, cont := .pressure }] ∧
         u.sites = s.dev.sites ∧ u.array = s.dev.array ∧ u.status = s.dev.status))

/-! ## Placement -/

/-- R55: SET PLACEMENT. An entry that is left disabled with a list of no slot keeps quorum 1: the model's choice (log 32); so
is it that an entry with ALL-SITES is compared with its slots too (log 51). R57: SET PLACEMENT MODE. A default quorum or hold
limit of 0 leaves the stored value (the description of the command). The expiry action is 1 for RELEASE and 2 for DENY (log 7),
and an answer at once to SET PLACEMENT MODE carries the stored values (log 63): the model's choices. -/
def Obligations.PlacementSettingsAreStored : Prop :=
  (∀ (s : State) (t : Time) (p : PortId) (cid : Word32) (b : SetPlacementBody), s.dev.up → s.dev.portFree p →
     s.dev.intakeFree →
     let d := s.dev.tick t
     let bad := 47 < b.entry ∨ b.quorum = 0 ∨ (b.enabled = true ∧ b.slots = 0 ∧ b.allSites = false)
     let e : PlacementEntry :=
       { enabled := b.enabled, bucket := b.bucket, mask := b.mask, allSites := b.allSites, slots := b.slots
         quorum :=
           if b.allSites = true then min b.quorum 8
           else if b.slots = 0 then 1 else min (min b.quorum 8) (slotsOf b.slots).length
         hold := b.hold }
     (bad → exec (.setPlacement t p cid b) s = .next { s with dev := (d.grantedReply p cid 5 .badField 0 .none).settle }) ∧
     (∀ n : Fin 48, b.entry = n.val → ¬ bad →
       (e = s.dev.settings.placement[n] →
         exec (.setPlacement t p cid b) s =
           .next { s with dev := (d.grantedReply p cid 5 .done 0 (.placementEntry e)).settle }) ∧
       (e ≠ s.dev.settings.placement[n] → s.dev.canPlace 1536 →
         let c : Settings := { s.dev.settings with placement := s.dev.settings.placement.set n e }
         exec (.setPlacement t p cid b) s =
           .next { s with dev :=
             (({ d with settings := c }.recorded p (.settings c)).granted p cid 5 (.setPlacement n.val)).settle }))) ∧
  (∀ (s : State) (t : Time) (p : PortId) (cid : Word32) (b : SetModeBody), s.dev.up → s.dev.portFree p → s.dev.intakeFree →
     let d := s.dev.tick t
     (b.expiryAction ≠ 1 ∧ b.expiryAction ≠ 2 →
       exec (.setPlacementMode t p cid b) s = .next { s with dev := (d.grantedReply p cid 7 .badField 0 .none).settle }) ∧
     (b.expiryAction = 1 ∨ b.expiryAction = 2 →
       let m : PlacementMode :=
         { strict := b.strict, mirrorAll := b.mirrorAll
           defaultQuorum := if b.defaultQuorum = 0 then s.dev.settings.mode.defaultQuorum else min b.defaultQuorum 8
           holdLimit := if b.holdLimit = 0 then s.dev.settings.mode.holdLimit else min b.holdLimit 600
           expiryAction := if b.expiryAction = 1 then .released else .denied }
       let c : Settings := { s.dev.settings with mode := m }
       (m = s.dev.settings.mode →
         exec (.setPlacementMode t p cid b) s =
           .next { s with dev := (d.grantedReply p cid 7 .done 0 (.modeSettings m)).settle }) ∧
       (m ≠ s.dev.settings.mode → s.dev.canPlace 1536 →
         exec (.setPlacementMode t p cid b) s =
           .next { s with dev := (({ d with settings := c }.recorded p (.settings c)).granted p cid 7 .setMode).settle })))

/-- R46, R47: the placement of a bucket: the set of the deciding entry, or every slot under MIRROR-ALL, less the slots that
are DETACHED or EVICTED; the quorum clamped to the size of that set; held when the deciding entry has HOLD on. R56: READ
PLACEMENT. Selector 1 is ENTRY, 2 MODE, 3 PROBE (log 7); another selector is answered BAD_FIELD (log 32); the flag NOT_PLACED of
a PROBE is bit 0, and the held flag a field of the body (log 54): the model's choices. -/
def Obligations.PlacementIsDecidedAndReported : Prop :=
  (∀ (d : Dev) (bucket : Word32),
     let pl := d.placement bucket
     let out (j : SlotId) : Prop := d.sites[j].state = .detached ∨ d.sites[j].state = .evicted
     (∀ n, d.settings.deciding bucket = some n →
       pl.deciding = some (some n.val) ∧ pl.held = d.settings.placement[n].hold ∧
       pl.quorum = min d.settings.placement[n].quorum (slotsOf pl.set).length ∧
       ∀ j : SlotId, pl.set.getLsbD j.val = true ↔
         (d.settings.placement[n].allSites = true ∨ d.settings.placement[n].slots.getLsbD j.val = true) ∧ ¬ out j) ∧
     (d.settings.deciding bucket = none → d.settings.mode.mirrorAll = true →
       pl.deciding = some none ∧ pl.held = false ∧
       pl.quorum = min d.settings.mode.defaultQuorum (slotsOf pl.set).length ∧
       ∀ j : SlotId, pl.set.getLsbD j.val = true ↔ ¬ out j) ∧
     (d.settings.deciding bucket = none → d.settings.mode.mirrorAll = false → pl.deciding = none ∧ pl.set = 0)) ∧
  (∀ (s : State) (t : Time) (p : PortId) (cid : Word32) (b : ReadPlacementBody), s.dev.up → s.dev.portFree p →
     let d := s.dev.tick t
     let count (f : HeldState → Bool) : Nat := (s.dev.held.entries.filter fun e => f e.state).length
     let pl := s.dev.placement b.bucket
     (∀ n : Fin 48, b.selector = 1 → b.entry = n.val →
       exec (.readPlacement t p cid b) s =
         .next { s with dev := (d.replied p cid 6 .done 0 (.placementEntry s.dev.settings.placement[n])).settle }) ∧
     ((b.selector = 1 ∧ 47 < b.entry) ∨ b.selector = 0 ∨ 3 < b.selector →
       exec (.readPlacement t p cid b) s = .next { s with dev := (d.replied p cid 6 .badField 0 .none).settle }) ∧
     (b.selector = 2 →
       exec (.readPlacement t p cid b) s =
         .next { s with dev :=
           (d.replied p cid 6 .done 0
             (.placementMode s.dev.settings.mode (count fun x => x == .staged)
               (count fun x => match x with | .waiting _ => true | _ => false)
               (count fun x => match x with | .deciding .. => true | _ => false)
               (minOf (s.dev.held.entries.filterMap fun e => match e.state with | .waiting t => t | _ => none))
               s.dev.held.overflow)).settle }) ∧
     (b.selector = 3 →
       exec (.readPlacement t p cid b) s =
         .next { s with dev :=
           (d.replied p cid 6 .done (if pl.deciding = none ∨ pl.set = 0 then 1 else 0)
             (.probe pl.deciding pl.set pl.quorum pl.held)).settle }))

/-- R44, R45: a bucket is decided by the lowest-numbered enabled entry that it matches; with STRICT on, a reserved bucket
matches an entry only when the entry's mask is 0. An entry with mask 0 matches one bucket, and one whose mask marks every
bit matches every bucket. No later entry is consulted, whatever set the deciding entry gives; a bucket that matches none is
left to MIRROR-ALL. -/
def Obligations.DecidingEntryIsTheFirstMatch : Prop :=
  ∀ (c : Settings) (bucket : Word32) (n : Fin 48),
    let hit (k : Fin 48) : Prop :=
      c.placement[k].enabled = true ∧
        (∀ i, i < 32 → c.placement[k].mask.getLsbD i = false → bucket.getLsbD i = c.placement[k].bucket.getLsbD i) ∧
        (c.mode.strict = true → 0xFFFF0000#32 ≤ bucket → c.placement[k].mask = 0)
    (c.deciding bucket = some n ↔ hit n ∧ ∀ k, k < n → ¬ hit k) ∧
    (∀ e : PlacementEntry, e.enabled = true → e.mask = 0 →
      ∀ strict : Bool, e.accepts strict bucket = true ↔ bucket = e.bucket) ∧
    (∀ e : PlacementEntry, e.enabled = true → e.mask = 0xFFFFFFFF → e.accepts false bucket = true) ∧
    (∀ d : Dev, d.settings.deciding bucket = some n → (d.placement bucket).deciding = some (some n.val)) ∧
    (∀ d : Dev, d.settings.deciding bucket = none → d.settings.mode.mirrorAll = true →
      (d.placement bucket).deciding = some none)

/-! ## Pacing -/

/-- R97, R104: SET GENERATOR: refused for a field out of range; answered at once when it changes nothing; else the settings
are stored, every member's credit is limited to its new cap, the period timer starts anew or stops, and the SETTINGS record
is placed. R97, R105, R106: SET SITE PACING. A change of mode at an ACTIVE slot sets its credit to 0; a change of mode, generator or
share there limits the credit of every member of the slot's old generator and of its new one to its new cap; every other credit
stays. That enable and LEND are 1 for on and 2 for off, and the mode 1 for PACED and 2 for
UNPACED, is the model's choice (log 7). -/
def Obligations.PacingSettingsAreStored : Prop :=
  (∀ (s : State) (t : Time) (p : PortId) (cid : Word32) (b : SetGeneratorBody), s.dev.up → s.dev.portFree p → s.dev.intakeFree →
     let d := s.dev.tick t
     let bad := 7 < b.generator ∨ b.rate = 0 ∨ (b.period ≠ 250 ∧ b.period ≠ 500 ∧ b.period ≠ 1000 ∧ b.period ≠ 2000) ∨
       (b.enable ≠ 1 ∧ b.enable ≠ 2)
     (bad → exec (.setGenerator t p cid b) s = .next { s with dev := (d.grantedReply p cid 17 .badField 0 .none).settle }) ∧
     (∀ g : GenId, b.generator = g.val → ¬ bad →
       let x : GenSettings := ⟨decide (b.enable = 1), min b.rate 1000, b.period⟩
       let c : Settings := { s.dev.settings with gens := s.dev.settings.gens.set g x }
       (x = s.dev.settings.gens[g] →
         exec (.setGenerator t p cid b) s =
           .next { s with dev := (d.grantedReply p cid 17 .done 0 (.gen (s.dev.genReport g))).settle }) ∧
       (x ≠ s.dev.settings.gens[g] → s.dev.canPlace 1536 →
         ∃ u : Dev, exec (.setGenerator t p cid b) s = .next { s with dev := u.settle } ∧
           u.settings = c ∧
           u.gens = s.dev.gens.set g { s.dev.gens[g] with due := if b.enable = 1 then some (d.now + b.period) else none } ∧
           (∀ j : SlotId, u.sites[j] =
             if s.dev.isMember g j = true then
               { s.dev.sites[j] with credit := min s.dev.sites[j].credit ({ d with settings := c }.cap j : Nat) }
             else s.dev.sites[j]) ∧
           u.journal = (d.place ⟨.settings c, some ⟨p, s.dev.nextToken⟩⟩).1.journal ∧
           u.ports[p].taken =
             [{ id := s.dev.nextToken, cid := cid, kind := 17, holds := true, discard := false, cont := .setGenerator g }] ∧
           (∀ q : PortId, { u.ports[q] with taken := s.dev.ports[q].taken } = s.dev.ports[q]) ∧
           { u with
             nextToken := s.dev.nextToken, settings := s.dev.settings, gens := s.dev.gens, sites := s.dev.sites
             journal := s.dev.journal, ports := s.dev.ports, intake := s.dev.intake } = d))) ∧
  (∀ (s : State) (t : Time) (p : PortId) (cid : Word32) (b : SetSitePacingBody), s.dev.up → s.dev.portFree p →
     s.dev.intakeFree →
     let d := s.dev.tick t
     let bad := 7 < b.slot ∨ 3 < b.generator ∨ (b.mode ≠ 1 ∧ b.mode ≠ 2) ∨ (b.lend ≠ 1 ∧ b.lend ≠ 2)
     (bad → exec (.setSitePacing t p cid b) s = .next { s with dev := (d.grantedReply p cid 18 .badField 0 .none).settle }) ∧
     (∀ (j : SlotId) (g : Fin 4), b.slot = j.val → b.generator = g.val → ¬ bad →
       let old := s.dev.settings.sites[j]
       let x : SiteConfig :=
         { old with
           generator := g, share := min b.share 1024, mode := if b.mode = 1 then .paced else .unpaced
           lend := decide (b.lend = 1), maxWindow := max 65536 (min 67108864 b.maxWindow) }
       let c : Settings := { s.dev.settings with sites := s.dev.settings.sites.set j x }
       (s.dev.sites[j].state = .detached →
         exec (.setSitePacing t p cid b) s = .next { s with dev := (d.grantedReply p cid 18 .wrongState 0 .none).settle }) ∧
       (s.dev.sites[j].state ≠ .detached → x = old →
         exec (.setSitePacing t p cid b) s =
           .next { s with dev :=
             (d.grantedReply p cid 18 .done 0
               (.sitePacing g (min b.share 1024) x.mode x.lend x.maxWindow s.dev.sites[j].credit (s.dev.window j))).settle }) ∧
       (s.dev.sites[j].state ≠ .detached → x ≠ old → s.dev.canPlace 1536 →
         ∃ u : Dev, exec (.setSitePacing t p cid b) s = .next { s with dev := u.settle } ∧
           u.settings = c ∧
           (s.dev.sites[j].state ≠ .active → u.sites = s.dev.sites) ∧
           (∀ k : SlotId, { u.sites[k] with credit := s.dev.sites[k].credit } = s.dev.sites[k]) ∧
           (s.dev.sites[j].state = .active →
             let moved := x.mode ≠ old.mode ∨ x.generator ≠ old.generator ∨ x.share ≠ old.share
             ∀ k : SlotId,
               let base : Int := if k = j ∧ x.mode ≠ old.mode then 0 else s.dev.sites[k].credit
               u.sites[k].credit =
                 if moved ∧ (u.isMember x.gen k = true ∨ u.isMember old.gen k = true) then min base (u.cap k : Nat)
                 else base) ∧
           u.journal = (d.place ⟨.settings c, some ⟨p, s.dev.nextToken⟩⟩).1.journal ∧
           u.ports[p].taken =
             [{ id := s.dev.nextToken, cid := cid, kind := 18, holds := true, discard := false, cont := .setSitePacing j }] ∧
           { u with
             nextToken := s.dev.nextToken, settings := s.dev.settings, sites := s.dev.sites
             journal := s.dev.journal, ports := s.dev.ports, intake := s.dev.intake } = d)))

/-- R90, R92 to R94: the pacing grant of a generator, at the expiry of its period timer, which starts again at once. Each member
receives its add and keeps credit up to its cap; the excess of the members with LEND on is divided among the receivers; what
nobody receives is discarded. -/
def Obligations.PacingGrantDividesTheGrant : Prop :=
  ∀ (s : State) (g : GenId) (due : Time), s.dev.up → s.dev.gens[g].due = some due →
    let d := s.dev.tick due
    let c := s.dev.settings.gens[g]
    let grant : Nat := c.rate * c.period * 25 / 2
    let conf (j : SlotId) : SiteConfig := s.dev.settings.sites[j]
    let members : List SlotId :=
      allSlots.filter fun j => s.dev.sites[j].state = .active ∧ (conf j).mode = .paced ∧ (conf j).gen = g
    let w : Nat := (members.map fun j => (conf j).share).sum
    let add (j : SlotId) : Nat := grant * (conf j).share / max 1024 w
    let cap (j : SlotId) : Nat := 2 * max (add j) 8256
    let after (j : SlotId) : Int := s.dev.sites[j].credit + add j
    let excess (j : SlotId) : Int := max 0 (after j - cap j)
    let kept (j : SlotId) : Int := min (after j) (cap j)
    let pool : Int := ((members.filter fun j => (conf j).lend = true).map excess).sum
    let dropped : Int := ((members.filter fun j => (conf j).lend = false).map excess).sum
    let receivers : List SlotId := members.filter fun j => kept j < cap j ∧ d.wantsCredit j = true
    let each : Int := if receivers = [] then 0 else pool / (receivers.length : Int)
    let surplus : Int := (receivers.map fun j => max 0 (kept j + each - cap j)).sum
    ∃ u : Dev, exec (.pacingGrant g) s = .next { s with dev := u.settle } ∧
      (∀ j : SlotId, u.sites[j] =
        { s.dev.sites[j] with
          credit :=
            if j ∈ receivers then min (kept j + each) (cap j)
            else if j ∈ members then kept j else s.dev.sites[j].credit }) ∧
      u.gens =
        s.dev.gens.set g
          { due := some (due + c.period)
            lastPool := pool
            lastDiscarded :=
              (grant : Int) - ((members.map add).sum : Nat) + dropped + (pool - receivers.length * each) + surplus } ∧
      { u with sites := s.dev.sites, gens := s.dev.gens } = d

/-- R91: the grant of a generator, for every rate and period that a generator can have, the values of the table, and the grant
that is divided among the members or, without a member, discarded. -/
def Obligations.GrantOfAGenerator : Prop :=
  (∀ c : GenSettings, 1 ≤ c.rate → c.rate ≤ 1000 → c.period = 250 ∨ c.period = 500 ∨ c.period = 1000 ∨ c.period = 2000 →
    2 * c.grant = c.rate * c.period * 25 ∧ 3125 ≤ c.grant ∧ c.grant ≤ 25000000) ∧
  (∀ e : Bool,
    GenSettings.grant ⟨e, 1, 250⟩ = 3125 ∧ GenSettings.grant ⟨e, 1000, 2000⟩ = 25000000 ∧
    GenSettings.grant ⟨e, 1, 1000⟩ = 12500 ∧ GenSettings.grant ⟨e, 40, 1000⟩ = 500000 ∧
    GenSettings.grant ⟨e, 80, 500⟩ = 500000 ∧ GenSettings.grant ⟨e, 250, 2000⟩ = 6250000 ∧
    GenSettings.grant ⟨e, 1000, 250⟩ = 3125000) ∧
  (∀ (d : Dev) (g : GenId), ((d.members g).map d.add).sum ≤ d.settings.gens[g].grant) ∧
  (∀ (s : State) (g : GenId) (due : Time), s.dev.up → s.dev.gens[g].due = some due →
    (∀ j : SlotId, s.dev.sites[j].state = .active → (s.dev.config j).mode = .paced → (s.dev.config j).gen ≠ g) →
    exec (.pacingGrant g) s =
      .next { s with dev := Dev.settle { s.dev.tick due with
        gens := s.dev.gens.set g
          { due := some (due + s.dev.settings.gens[g].period), lastPool := 0
            lastDiscarded := (s.dev.settings.gens[g].grant : Int) } } })

/-- R98 to R102: a sample is clamped; the first sample and the later ones give the round-trip estimate, which stays within its
range; the RTO and the retry interval follow from it, and so does the window of a PACED slot;
that of an UNPACED slot is its maximum window. A slot that is not ACTIVE has the window of its configuration: the model's
choice (log 19). -/
def Obligations.RoundTripEstimateAndIntervals : Prop :=
  (∀ n : Nat, clampSample n = max 100 (min 4000000 (n : Int))) ∧
  (∀ S : Int, rttAfter none S = (S, S / 2)) ∧
  (∀ srtt rttvar S : Int,
    let dev : Int := |S - srtt|
    rttAfter (some (srtt, rttvar)) S = (srtt + (S - srtt).tdiv 8, rttvar + (dev - rttvar).tdiv 4) ∧
    (0 ≤ srtt → srtt ≤ 4000000 → 0 ≤ rttvar → rttvar ≤ 4000000 → 100 ≤ S → S ≤ 4000000 →
      let r := rttAfter (some (srtt, rttvar)) S
      0 ≤ r.1 ∧ r.1 ≤ 4000000 ∧ 0 ≤ r.2 ∧ r.2 ≤ 4000000)) ∧
  rtoOf none = 1000000 ∧
  (∀ srtt rttvar : Int,
    rtoOf (some (srtt, rttvar)) = max 20000 (min 8000000 (srtt + max (4 * rttvar) 2000))) ∧
  (∀ (r : Option (Int × Int)) (k : Nat), 1 ≤ k → k ≤ 8 →
    (intervalOf r k : Int) = min (rtoOf r * 2 ^ (k - 1)) 8000000) ∧
  (∀ (d : Dev) (j : SlotId) (srtt : Nat), (d.config j).mode = .paced →
    (d.sites[j].rtt = none ∧ srtt = 200000 ∨ ∃ v, d.sites[j].rtt = some ((srtt : Int), v)) →
    0 < d.settings.gens[(d.config j).gen].period →
    let p := d.settings.gens[(d.config j).gen].period
    let q := d.add j * srtt * 5
    let up : Nat := if q % (4 * p) = 0 then q / (4 * p) else q / (4 * p) + 1
    d.window j = max 65536 (min 67108864 up)) ∧
  (∀ (d : Dev) (j : SlotId), (d.config j).mode = .unpaced → d.window j = (d.config j).maxWindow)

/-! ## The journal and the key index: commands -/

/-- R22, R40: READ JOURNAL with sequence 0 and QUERY KEY with key length 0 are answered DONE at once with their summaries;
a key length above 240 is answered BAD_FIELD. A page that is being programmed is still the FILLING segment's next page: the
model's choice (log 50). -/
def Obligations.JournalAndKeySummaries : Prop :=
  ∀ (s : State) (t : Time) (p : PortId) (cid : Word32), s.dev.up → s.dev.portFree p →
    let d := s.dev.tick t
    let j := s.dev.journal
    let inState (st : SegState) : Nat := s.dev.array.countState st
    let k := s.dev.index
    let kept : List Seq :=
      recsIntents ((j.bufA.recs ++ j.bufB.recs).map (·.item)) ++ s.dev.array.held.flatMap fun e => e.2.intents
    (∀ addr, exec (.readJournal t p cid 0 addr) s =
      .next { s with dev :=
        (d.replied p cid 3 .done 0
          (.journalSummary
            { tail := (j.nextSeq : Int) - 1
              next := j.nextSeq
              lowest := (minOf kept).getD j.nextSeq
              filling := s.dev.array.filling.map fun n => (n, (s.dev.seg n).pages.length)
              segCounts := [inState .blank, inState .filling, inState .full, inState .reclaiming, inState .suspended,
                inState .damaged, inState .retired]
              bufA := (j.bufA.state, (j.bufA.recs.map fun x => x.item.size).sum)
              bufB := (j.bufB.state, (j.bufB.recs.map fun x => x.item.size).sum)
              ctrl := j.ctrlQ.length
              progFails := j.progFails
              media := s.dev.journalMedia })).settle }) ∧
    (∀ q : KeyQuery, q.keyLen = 0 →
      exec (.queryKey t p cid q) s =
        .next { s with dev :=
          (d.replied p cid 4 .done 0
            (.keySummary k.ways.length k.fullSets k.setFull k.countFull k.collision k.unreadable k.race
              (s.dev.status.slots.filter fun e => e.2.written = false ∧ e.2.link ≠ none).length)).settle }) ∧
    (∀ q : KeyQuery, 240 < q.keyLen →
      exec (.queryKey t p cid q) s = .next { s with dev := (d.replied p cid 4 .badField 0 .none).settle })

/-- R23: READ JOURNAL of one record. A record in a staging buffer or in a cached page is written to the port's memory at once, and
the command stays in progress until the write is done; a record elsewhere in a page that has not failed is read from the array,
where its CRC may prove wrong (log 62). R23: the DMA write of a READ JOURNAL completes; the command is answered DONE with the
record size. R27, R41: QUERY KEY with a key length of 1 to 240. -/
def Obligations.ReadJournalAndQueryKeyAnswer : Prop :=
  ((∀ (s : State) (t : Time) (p : PortId) (cid : Word32) (q addr : Nat), s.dev.up → s.dev.portFree p → q ≠ 0 →
      let d := s.dev.tick t
      let tok : Tok := ⟨p, s.dev.nextToken⟩
      let gone := s.dev.journal.nextSeq ≤ q ∨ (∃ r ∈ s.dev.journal.passedOver, r.1 ≤ q ∧ q ≤ r.2) ∨ s.dev.locate q = .absent
      let taken : Dev := d.take p ⟨cid, .readJournal q addr⟩ []
      (addr % 16 ≠ 0 →
        exec (.readJournal t p cid q addr) s = .next { s with dev := (d.replied p cid 3 .badField 0 .none).settle }) ∧
      (addr % 16 = 0 → gone →
        exec (.readJournal t p cid q addr) s = .next { s with dev := (d.replied p cid 3 .notFound 0 .none).settle }) ∧
      (addr % 16 = 0 → ¬ gone → ∀ r : IntentRec, s.dev.locate q = .buffer r →
        exec (.readJournal t p cid q addr) s =
          .next { s with dev :=
            (Dev.settle { taken with
              dma := s.dev.dma ++ [⟨p, addr, intentBytes r, some (tok, recordSize r.key.length, false)⟩] }) }) ∧
      (addr % 16 = 0 → ¬ gone → ∀ r : IntentRec, s.dev.locate q = .cache r →
        exec (.readJournal t p cid q addr) s =
          .next { s with dev :=
            (Dev.settle { taken with
              dma := s.dev.dma ++ [⟨p, addr, intentBytes r, some (tok, recordSize r.key.length, true)⟩] }) }) ∧
      (addr % 16 = 0 → ¬ gone → ∀ seg page : Nat, s.dev.locate q = .array seg page →
        exec (.readJournal t p cid q addr) s =
          .next { s with dev :=
            (Dev.settle { taken with
              array := { s.dev.array with
                reads := s.dev.array.reads ++ [⟨seg, page, q, .readJournal tok q addr⟩] } }) })) ∧
   (∀ (s : State) (t : Time) (p : PortId) (w : DmaWrite) (tok : Tok) (size : Nat) (programmed : Bool) (x : Taken),
      s.dev.power.powered = true → (s.dev.dma.find? fun e => e.port = p ∧ e.journal ≠ none) = some w →
      w.journal = some (tok, size, programmed) → s.dev.ports[tok.port].taken = [x] → x.id = tok.id →
      exec (.journalRecordWriteDone t p) s =
        .next { s with dev :=
          (Dev.settle (Dev.modPort tok.port (fun y : Port =>
            { y with
              taken := []
              respQ := if x.discard then y.respQ
                else y.respQ ++ [⟨x.kind, .done, 0, x.cid, .journalRecord size programmed⟩] })
            { s.dev.tick t with dma := s.dev.dma.erase w })) })) ∧
  (∀ (s : State) (t : Time) (p : PortId) (cid : Word32) (q : KeyQuery), s.dev.up → s.dev.portFree p → 1 ≤ q.keyLen →
     q.keyLen ≤ 240 → q.key.length = q.keyLen →
     let d := s.dev.tick t
     (s.dev.index.find q.bucket q.keyHash q.keyLen = none →
       exec (.queryKey t p cid q) s = .next { s with dev := (d.replied p cid 4 .notFound 0 .none).settle }) ∧
     (∀ (w : Nat) (e : KeyEntry), s.dev.index.find q.bucket q.keyHash q.keyLen = some w →
       Tbl.get s.dev.index.ways w = some e →
       let source := match e.live with | some (l, _) => l | none => e.creation
       (∀ r : IntentRec, s.dev.locate source = .buffer r ∨ s.dev.locate source = .cache r →
         exec (.queryKey t p cid q) s =
           .next { s with dev :=
             (if r.key = q.key then
               d.replied p cid 4 .done 0 (.keyEntry (w / 8) (w % 8) e.creation e.live e.count)
             else d.replied p cid 4 .notFound 1 .none).settle }) ∧
       (s.dev.locate source = .absent →
         exec (.queryKey t p cid q) s = .next { s with dev := (d.replied p cid 4 .notFound 2 .none).settle }) ∧
       (∀ seg page : Nat, s.dev.locate source = .array seg page →
         exec (.queryKey t p cid q) s =
           .next { s with dev :=
             (Dev.settle { d.take p ⟨cid, .queryKey q⟩ [] with
               array := { s.dev.array with
                 reads := s.dev.array.reads ++
                   [⟨seg, page, source, .queryKey ⟨p, s.dev.nextToken⟩ q w e.creation⟩] } }) })))

/-- R12, R19: the first condition that holds refuses an APPEND, which is answered at once with its tag and stages nothing.
The record finds room, and the key lookup ends at once. -/
def Obligations.AppendRefusals : Prop :=
  ∀ (s : State) (t : Time) (p : PortId) (cid : Word32) (b : AppendBody) (st : Status), s.dev.up → s.dev.portFree p →
    s.dev.intakeFree → s.dev.canPlace (recordSize (min b.keyLen 255)) →
    (1 ≤ b.keyLen → b.keyLen ≤ 240 → ∃ o, s.dev.lookup b.bucket b.keyHash b.keyLen b.key = .known o) →
    let kindBad := b.kind ≠ 1 ∧ b.kind ≠ 2 ∧ b.kind ≠ 3
    let lenBad := b.keyLen < 1 ∨ 240 < b.keyLen
    let payBad := (b.kind = 1 ∧ (b.payloadLen < 1 ∨ 67108864 < b.payloadLen)) ∨ (b.kind = 2 ∧ b.payloadLen ≠ 0) ∨
      (b.kind = 3 ∧ (b.payloadLen < 1 ∨ 65536 < b.payloadLen))
    let locBad := (b.kind = 2 ∧ (b.locator ≠ 0 ∨ b.digest ≠ 0)) ∨ (b.kind ≠ 2 ∧ b.locator % 16 ≠ 0)
    let pl := s.dev.placement b.bucket
    let refusal : Option Status :=
      match s.dev.settings.localSite with
      | none => some .wrongState
      | some site =>
        if kindBad ∨ lenBad ∨ payBad ∨ locBad then some .badField
        else if b.stamp.toNat % 16 ≠ site then some .badStamp
        else if s.dev.free ≤ 4 ∨ s.dev.headroom ≤ 1024 then some .journalFull
        else if pl.deciding = none ∨ pl.set = 0 then some .notPlaced
        else none
    refusal = some st →
      ∃ u : Dev, exec (.append t p cid b) s = .next { s with dev := u.settle } ∧
        u.ports[p].respQ = s.dev.ports[p].respQ ++ [⟨1, st, 0, cid, .appendTag b.tag⟩] ∧ u.ports[p].taken = [] ∧
        u.intake = { s.dev.intake with last := p } ∧ (∀ q, q ≠ p → u.ports[q] = s.dev.ports[q]) ∧
        { u with nextToken := s.dev.nextToken, ports := s.dev.ports, intake := s.dev.intake } = s.dev.tick t

/-- R7, R9, R19, R25, R29, R108: an APPEND that no condition refuses, that is not held and whose key has no entry, is staged: it
takes the next sequence, a way of the key index makes it live, its slot is STAGED with every mark PENDING, and its record is
placed. It no longer holds its port (R167). R19, R27, R50: an APPEND whose key lookup ends at once is granted and examined in
its event, with that outcome; the DECISION record that an overflow of the held list adds is placed directly after its intent
record, or waits with the grant; one whose key source must be read from the array waits for that page. R28, R29, R32, R35, R48
to R50: what the examination decides, for every outcome of the lookup, on the entry as it stands: without an entry, a new one,
or UNINDEXED (SET_FULL); with one that the outcome does not name, UNINDEXED (RACE); with other key bytes COLLISION; unreadable
UNREADABLE; matched, STALE under a newer live stamp, else COUNT_FULL at 255, else LIVE over the live intent before. A held
intent is counted in its entry without a comparison; when 4,096 are held, the expiry action decides it: RELEASE as one that is
not held, DENY as OVERFLOW-DENIED. -/
def Obligations.AppendStagesANewKey : Prop :=
  (∀ (s : State) (t : Time) (p : PortId) (cid : Word32) (b : AppendBody) (k : IntentKind), s.dev.up → s.dev.portFree p →
     s.dev.intakeFree → s.dev.canPlace (recordSize b.keyLen) → s.dev.appendRefusal b = none → intentKindOf b.kind = some k →
     b.key.length = b.keyLen → (s.dev.placement b.bucket).held = false →
     s.dev.index.find b.bucket b.keyHash b.keyLen = none →
     let d := s.dev.tick t
     let pl := s.dev.placement b.bucket
     let n := s.dev.journal.nextSeq
     let r : IntentRec :=
       { seq := n, kind := k, origin := p, tag := b.tag, bucket := b.bucket, keyHash := b.keyHash, key := b.key
         stamp := b.stamp, payloadLen := b.payloadLen, locator := b.locator, digest := b.digest
         entry := pl.deciding.getD none, siteSet := pl.set, quorum := pl.quorum, held := false }
     let way := s.dev.index.freeWay (b.keyHash.toNat % 65536)
     ∃ u : Dev, exec (.append t p cid b) s = .next { s with dev := u.settle } ∧
       u.journal =
         (({ d with journal := { d.journal with nextSeq := n + 1 } }).place ⟨.intent r, some ⟨p, s.dev.nextToken⟩⟩).1.journal ∧
       u.slot? n =
         some
           { written := false, origin := p, tag := b.tag, marks := (slotsOf pl.set).map fun j => (j, .pending)
             quorum := pl.quorum, outcome := if way = none then .unindexed else .live, link := way
             stagedReason := if way = none then some .setFull else none } ∧
       (∀ q, q % 4194304 ≠ n % 4194304 → u.slot? q = s.dev.slot? q) ∧
       (∀ w, way = some w →
         Tbl.get u.index.ways w = some ⟨b.bucket, b.keyHash, b.keyLen, n, some (n, b.stamp), 1⟩ ∧
           ∀ x, x ≠ w → Tbl.get u.index.ways x = Tbl.get s.dev.index.ways x) ∧
       (way = none → u.index = { s.dev.index with setFull := min (s.dev.index.setFull + 1) 65535 }) ∧
       u.ports[p].taken =
         [{ id := s.dev.nextToken, cid := cid, kind := 1, holds := false, discard := false, cont :=
             .append
               { seq := n, tag := b.tag, set := pl.set, quorum := pl.quorum
                 outcome := if way = none then .unindexed else .live, unindexed := decide (way = none), overflow := false } }] ∧
       u.intake = { s.dev.intake with last := p, grant := none } ∧
       (∀ q : PortId, { u.ports[q] with taken := s.dev.ports[q].taken } = s.dev.ports[q]) ∧
       { u with
         nextToken := s.dev.nextToken, ports := s.dev.ports, intake := s.dev.intake, journal := s.dev.journal
         index := s.dev.index, status := s.dev.status } = d) ∧
  (∀ (s : State) (t : Time) (p : PortId) (cid : Word32) (b : AppendBody) (o : Outcome27), s.dev.up → s.dev.portFree p →
     s.dev.intakeFree → s.dev.canPlace (recordSize b.keyLen) → s.dev.appendRefusal b = none →
     s.dev.lookup b.bucket b.keyHash b.keyLen b.key = .known o →
     let tok : Tok := ⟨p, s.dev.nextToken⟩
     let g : Dev := { (s.dev.tick t).granted p cid 1 .none with intake := ⟨p, some ⟨tok, .examine b o⟩⟩ }
     let v := g.examineAppend tok b o
     (v.intake.grant = none → exec (.append t p cid b) s = .next { s with dev := v.settle }) ∧
     (∀ r : Staged, v.intake.grant = some ⟨tok, .second r⟩ →
       exec (.append t p cid b) s =
         .next { s with dev := Dev.settle { (v.place r).1 with
           intake := { v.intake with grant := if (v.place r).2 then none else v.intake.grant } } })) ∧
  (∀ (s : State) (t : Time) (p : PortId) (cid : Word32) (b : AppendBody) (seg page way creation : Nat) (q : Seq), s.dev.up →
     s.dev.portFree p → s.dev.intakeFree → 1 ≤ b.keyLen → b.keyLen ≤ 240 →
     s.dev.lookup b.bucket b.keyHash b.keyLen b.key = .read seg page q way creation →
     let d := s.dev.tick t
     exec (.append t p cid b) s =
       .next { s with dev := Dev.settle { d with
         nextToken := d.nextToken + 1
         array := { d.array with reads := d.array.reads ++ [⟨seg, page, q, .lookup p d.nextToken⟩] }
         ports := d.ports.set p
           { d.ports[p] with cmdQ := [⟨cid, .append b⟩], lookup := some (.reading d.nextToken way creation) } } }) ∧
  (∀ (d : Dev) (tok : Tok) (b : AppendBody) (o : Outcome27) (k : IntentKind), d.appendRefusal b = none →
     intentKindOf b.kind = some k → b.key.length = b.keyLen →
     let n := d.journal.nextSeq
     let pl := d.placement b.bucket
     let r : IntentRec :=
       { seq := n, kind := k, origin := tok.port, tag := b.tag, bucket := b.bucket, keyHash := b.keyHash, key := b.key
         stamp := b.stamp, payloadLen := b.payloadLen, locator := b.locator, digest := b.digest
         entry := pl.deciding.getD none, siteSet := pl.set, quorum := pl.quorum, held := pl.held }
     let u := d.examineAppend tok b o
     let full : Bool := decide (4096 ≤ d.held.entries.length)
     let action := d.settings.mode.expiryAction
     let free : Prop := pl.held = false ∨ (full = true ∧ action = .released)
     let waits : Prop := pl.held = true ∧ full = false
     let entry := d.index.find b.bucket b.keyHash b.keyLen
     let room := d.index.freeWay (b.keyHash.toNat % 65536)
     let counted (why : Unindexed) : KeyIndex :=
       match why with
       | .setFull => { d.index with setFull := min (d.index.setFull + 1) 65535 }
       | .countFull => { d.index with countFull := min (d.index.countFull + 1) 65535 }
       | .collision => { d.index with collision := min (d.index.collision + 1) 65535 }
       | .unreadable => { d.index with unreadable := min (d.index.unreadable + 1) 65535 }
       | .race => { d.index with race := min (d.index.race + 1) 65535 }
     let gives (i : KeyIndex) (c : Decided) : Prop :=
       u.index = i ∧
         u.slot? n =
           some
             { written := false, origin := tok.port, tag := b.tag, marks := (slotsOf pl.set).map fun j => (j, .pending)
               quorum := pl.quorum, outcome := c.outcome, pendingSup := c.supersedes, supersededBy := c.supersededBy
               link := c.link, stagedReason := c.reason } ∧
         u.ports =
           d.ports.set tok.port
             { d.ports[tok.port] with
               taken := d.ports[tok.port].taken.map fun (y : Taken) =>
                 if y.id = tok.id then
                   { y with
                     holds := false
                     cont :=
                       .append
                         { seq := n, tag := b.tag, set := pl.set, quorum := pl.quorum, outcome := c.outcome
                           unindexed := c.reason.isSome, overflow := pl.held && full } }
                 else y }
     let gone (why : Unindexed) : Prop :=
       (free → gives (counted why) { outcome := .unindexed, reason := some why }) ∧
         (waits → gives (counted why) { outcome := .held, reason := some why })
     u.journal = (({ d with journal := { d.journal with nextSeq := n + 1 } }).place ⟨.intent r, some tok⟩).1.journal ∧
       (∀ q, q % 4194304 ≠ n % 4194304 → u.slot? q = d.slot? q) ∧
       u.held =
         (if pl.held = false then d.held
         else if full then { d.held with overflow := min (d.held.overflow + 1) 65535 }
         else { d.held with entries := d.held.entries ++ [⟨n, .staged⟩] }) ∧
       u.intake =
         { d.intake with
           grant := if pl.held && full then some ⟨tok, .second ⟨.decision n action, some tok⟩⟩ else none } ∧
       { u with
         ports := d.ports, intake := d.intake, journal := d.journal, index := d.index, held := d.held
         status := { u.status with slots := d.status.slots } } = d ∧
       (pl.held = true → full = true → action = .denied → gives d.index { outcome := .overflowDenied }) ∧
       (entry = none → room = none → gone .setFull) ∧
       (∀ w, entry = none → room = some w →
         let e (live : Option (Seq × Word64)) : KeyEntry := ⟨b.bucket, b.keyHash, b.keyLen, n, live, 1⟩
         (free →
           gives { d.index with ways := Tbl.put d.index.ways w (e (some (n, b.stamp))) } { outcome := .live, link := some w }) ∧
         (waits → gives { d.index with ways := Tbl.put d.index.ways w (e none) } { outcome := .held, link := some w })) ∧
       (∀ (w : Nat) (e : KeyEntry), entry = some w → Tbl.get d.index.ways w = some e →
         ((∀ c : LookupResult, o ≠ .found w e.creation c) → gone .race) ∧
         (o = .found w e.creation .collision → gone .collision) ∧
         (o = .found w e.creation .unreadable → gone .unreadable) ∧
         (o = .found w e.creation .matched →
           let newer : Prop := ∃ l x, e.live = some (l, x) ∧ b.stamp < x
           (free → ∀ l x, e.live = some (l, x) → b.stamp < x →
             gives d.index { outcome := .stale, supersededBy := some l }) ∧
           (free → ¬ newer → e.count = 255 →
             gives (counted .countFull) { outcome := .unindexed, reason := some .countFull }) ∧
           (free → ¬ newer → e.count ≠ 255 →
             gives
               { d.index with
                 ways := Tbl.put d.index.ways w { e with live := some (n, b.stamp), count := e.count + 1 } }
               { outcome := .live, link := some w, supersedes := e.live.map fun l => l.1 }) ∧
           (waits → e.count < 255 →
             gives { d.index with ways := Tbl.put d.index.ways w { e with count := e.count + 1 } }
               { outcome := .held, link := some w }) ∧
           (waits → 255 ≤ e.count →
             gives (counted .countFull) { outcome := .held, reason := some .countFull }))))

/-- R13, R14, R21: FLUSH. A new commit delay, clamped to 50 to 2,000, is stored with a SETTINGS record of its own; the
FILLING buffer closes; the command waits for the buffers that hold a record, and is answered at once when none does. -/
def Obligations.FlushClosesTheFillingBuffer : Prop :=
  ∀ (s : State) (t : Time) (p : PortId) (cid : Word32) (delay : Nat), s.dev.up → s.dev.portFree p → s.dev.intakeFree →
    s.dev.journal.buffersOk = true →
    let d := s.dev.tick t
    let v := if delay = 0 then s.dev.settings.commitDelay else max 50 (min 2000 delay)
    (v = s.dev.settings.commitDelay → s.dev.journal.bufA.state = .empty → s.dev.journal.bufB.state = .empty →
      exec (.flush t p cid delay) s = .next { s with dev := (d.grantedReply p cid 2 .done 0 .none).settle }) ∧
    (v = s.dev.settings.commitDelay → ¬ (s.dev.journal.bufA.state = .empty ∧ s.dev.journal.bufB.state = .empty) →
      ∃ u : Dev, exec (.flush t p cid delay) s = .next { s with dev := u.settle } ∧
        u.journal.bufA.recs = s.dev.journal.bufA.recs ∧ u.journal.bufB.recs = s.dev.journal.bufB.recs ∧
        u.journal.bufA.state = (if s.dev.journal.bufA.state = .filling then .programming else s.dev.journal.bufA.state) ∧
        u.journal.bufB.state = (if s.dev.journal.bufB.state = .filling then .programming else s.dev.journal.bufB.state) ∧
        (s.dev.journal.fillingBuf ≠ none → u.journal.commitDue = none) ∧
        u.journal.flushes = s.dev.journal.flushes ++
          [⟨⟨p, s.dev.nextToken⟩, s.dev.journal.bufA.state != .empty, s.dev.journal.bufB.state != .empty⟩] ∧
        u.settings = s.dev.settings ∧ u.ports[p].respQ = s.dev.ports[p].respQ ∧
        u.ports[p].taken = [{ id := s.dev.nextToken, cid := cid, kind := 2 }]) ∧
    (v ≠ s.dev.settings.commitDelay → s.dev.canPlace 1536 →
      let c : Settings := { s.dev.settings with commitDelay := v }
      let e : Dev := ({ d with settings := c }.place ⟨.settings c, none⟩).1
      ∃ u : Dev, exec (.flush t p cid delay) s = .next { s with dev := u.settle } ∧
        u.settings = c ∧
        u.journal.bufA.recs = e.journal.bufA.recs ∧ u.journal.bufB.recs = e.journal.bufB.recs ∧
        u.journal.bufA.state ≠ .filling ∧ u.journal.bufB.state ≠ .filling ∧
        u.journal.flushes = s.dev.journal.flushes ++
          [⟨⟨p, s.dev.nextToken⟩, e.journal.bufA.state != .empty, e.journal.bufB.state != .empty⟩] ∧
        u.ports[p].respQ = s.dev.ports[p].respQ ∧ u.ports[p].taken = [{ id := s.dev.nextToken, cid := cid, kind := 2 }])

/-! ## Held intents: commands -/

/-- R51, R58, R59: RELEASE (8) and DENY (9): their three refusals, and the decision on a WAITING entry, whose DECISION
record is the command's own record. -/
def Obligations.ReleaseAndDenyDecide : Prop :=
  ∀ (s : State) (t : Time) (p : PortId) (cid : Word32) (q : Seq) (release : Bool), s.dev.up → s.dev.portFree p →
    s.dev.intakeFree →
    let d := s.dev.tick t
    let c : Instr := if release then .release t p cid q else .deny t p cid q
    let kind : Nat := if release then 8 else 9
    let dn : Decision := if release then .released else .denied
    let gone := s.dev.journal.nextSeq ≤ q ∨ (∃ r ∈ s.dev.journal.passedOver, r.1 ≤ q ∧ q ≤ r.2) ∨ s.dev.inJournal q = false
    let waits := ∃ e due, s.dev.heldEntry q = some e ∧ e.state = .waiting due
    (q = 0 → exec c s = .next { s with dev := (d.grantedReply p cid kind .badField 0 .none).settle }) ∧
    (q ≠ 0 → gone → exec c s = .next { s with dev := (d.grantedReply p cid kind .notFound 0 .none).settle }) ∧
    (q ≠ 0 → ¬ gone → ¬ waits → exec c s = .next { s with dev := (d.grantedReply p cid kind .wrongState 0 .none).settle }) ∧
    (q ≠ 0 → ¬ gone → waits → s.dev.canPlace 32 →
      exec c s =
        .next { s with dev :=
          ((({ d with
              held := { d.held with
                entries := d.held.entries.map fun (e : HeldEntry) =>
                  if e.seq = q then { e with state := .deciding dn .command } else e } }).recorded p (.decision q dn)).granted p cid kind (if release then .release q none else .done)).settle })

/-! ## Peer sites: commands -/

/-- R79, R83: ATTACH SITE. The span port is 1 for SP0 and 2 for SP1, the mode 1 for PACED and 2 for UNPACED (log 7), and a HELLO
that a full control queue drops is counted, too (log 72): the model's choices. -/
def Obligations.AttachSiteBeginsProbing : Prop :=
  ∀ (s : State) (t : Time) (p : PortId) (cid : Word32) (b : AttachSiteBody), s.dev.up → s.dev.portFree p → s.dev.intakeFree →
    let d := s.dev.tick t
    let bad := 7 < b.slot ∨ (b.spanPort ≠ 1 ∧ b.spanPort ≠ 2) ∨ 3 < b.generator ∨ (b.mode ≠ 1 ∧ b.mode ≠ 2)
    (s.dev.settings.localSite = none →
      exec (.attachSite t p cid b) s = .next { s with dev := (d.grantedReply p cid 10 .wrongState 0 .none).settle }) ∧
    (s.dev.settings.localSite ≠ none → bad →
      exec (.attachSite t p cid b) s = .next { s with dev := (d.grantedReply p cid 10 .badField 0 .none).settle }) ∧
    (∀ (own : Nat) (j : SlotId) (sp : SpanId) (g : Fin 4), s.dev.settings.localSite = some own → ¬ bad → b.slot = j.val →
      b.spanPort = sp.val + 1 → b.generator = g.val →
      let taken := 15 < b.site ∨ b.site = own ∨
        ∃ k : SlotId, k ≠ j ∧ s.dev.sites[k].state ≠ .detached ∧ s.dev.settings.sites[k].site = some b.site
      let c : SiteConfig :=
        { site := some b.site, spanPort := sp, generator := g, share := min b.share 1024
          mode := if b.mode = 1 then .paced else .unpaced, lend := b.lend
          maxWindow := max 65536 (min 67108864 b.maxWindow), evictable := b.evictable }
      let all : Settings := { s.dev.settings with sites := s.dev.settings.sites.set j c }
      let owner : Tok := ⟨p, s.dev.nextToken⟩
      let f : Frame := ⟨own, b.site, s.dev.power.startCount, .hello b.site⟩
      (taken →
        exec (.attachSite t p cid b) s = .next { s with dev := (d.grantedReply p cid 10 .badField 0 .none).settle }) ∧
      (¬ taken → s.dev.sites[j].state ≠ .detached →
        exec (.attachSite t p cid b) s = .next { s with dev := (d.grantedReply p cid 10 .wrongState 0 .none).settle }) ∧
      (¬ taken → s.dev.sites[j].state = .detached → s.dev.journal.buffersOk = true → s.dev.canPlaceBoth →
        ∃ u : Dev, exec (.attachSite t p cid b) s = .next { s with dev := u.settle } ∧
          u.settings = all ∧
          u.sites =
            s.dev.sites.set j
              { state := .probing, cursor := s.dev.journal.nextSeq, frontier := some s.dev.journal.nextSeq
                probeCount := 1, probeDue := some (d.now + 1000000) } ∧
          u.span =
            s.dev.span.set sp
              { s.dev.span[sp] with
                ctrlQ := if s.dev.span[sp].ctrlQ.length < 4096 then s.dev.span[sp].ctrlQ ++ [f] else s.dev.span[sp].ctrlQ } ∧
          u.journal =
            ((d.place ⟨.settings all, some owner⟩).1.place ⟨.siteEvent j (.state .probing) 0, some owner⟩).1.journal ∧
          (∀ q : PortId, u.ports[q].noticeQ =
            if s.dev.ports[q].state = .online then
              (s.dev.ports[q].addNotice false (.siteState j (some b.site) .detached .probing .command)).noticeQ
            else s.dev.ports[q].noticeQ) ∧
          u.ports[p].taken =
            [{ id := s.dev.nextToken, cid := cid, kind := 10, holds := true, discard := false, cont := .done }] ∧
          { u with
            nextToken := s.dev.nextToken, settings := s.dev.settings, sites := s.dev.sites, span := s.dev.span
            journal := s.dev.journal, ports := s.dev.ports, intake := s.dev.intake
            status := { u.status with frontierChanged := s.dev.status.frontierChanged } } = d))

/-- R79, R82, R84, R138: DETACH SITE clears the slot; every open mark of the slot becomes SKIPPED(DETACHED) and no other
mark changes; its arrivals go; the command owes the number of those marks. The cursor of the DETACHED slot is 0: the model's
choice (log 5). -/
def Obligations.DetachSiteClearsTheSlot : Prop :=
  ∀ (s : State) (t : Time) (p : PortId) (cid : Word32) (j : SlotId), s.dev.up → s.dev.portFree p → s.dev.intakeFree →
    s.dev.settings.localSite ≠ none → s.dev.sites[j].state ≠ .detached → s.dev.journal.buffersOk = true →
    s.dev.canPlaceBoth →
    let d := s.dev.tick t
    let all : Settings := { s.dev.settings with sites := s.dev.settings.sites.set j {} }
    let owner : Tok := ⟨p, s.dev.nextToken⟩
    let n := (s.dev.status.slots.filter fun e => ((e.2.mark j).map Mark.isOpen).getD false).length
    ∃ u : Dev, exec (.detachSite t p cid j.val) s = .next { s with dev := u.settle } ∧
      u.settings = all ∧ u.sites[j] = {} ∧ u.status.frontierChanged = true ∧
      (∀ (q : Seq) (x : Slot), s.dev.slot? q = some x →
        ∃ y, u.slot? q = some y ∧
          y.mark j = (x.mark j).map (fun m => if m.isOpen then .skipped .detached else m) ∧
          ∀ k, k ≠ j → y.mark k = x.mark k) ∧
      (∀ a ∈ u.inbound.arrivals, a.slot ≠ j) ∧ (∀ e ∈ u.inbound.done, e.slot ≠ j) ∧
      u.journal =
        ((d.place ⟨.settings all, some owner⟩).1.place ⟨.siteEvent j (.state .detached) 0, some owner⟩).1.journal ∧
      u.ports[p].taken =
        [{ id := s.dev.nextToken, cid := cid, kind := 11, holds := true, discard := false, cont := .count n }] ∧
      u.array = s.dev.array ∧ u.held = s.dev.held ∧ u.fetch = s.dev.fetch

/-- R61, R79, R80, R85: FENCE SITE. The marks of the slot's in-flight intents return from IN_FLIGHT to PENDING, and no
other mark changes. R66, R79, R85, R86: UNFENCE SITE brings a FENCED slot, and REJOIN SITE an EVICTED one, to PROBING; the
slot sends a HELLO and counts it. The model's choices: a rejoin ends a BUSY pause (log 56) and keeps the fence mark (log 79),
and a HELLO that a full control queue drops is counted, too (log 72). R84 to R86: the checks that DETACH SITE (11), FENCE SITE
(12), UNFENCE SITE (13) and REJOIN SITE (14) make. -/
def Obligations.FenceUnfenceAndRejoinSite : Prop :=
  (∀ (s : State) (t : Time) (p : PortId) (cid : Word32) (j : SlotId), s.dev.up → s.dev.portFree p → s.dev.intakeFree →
     s.dev.settings.localSite ≠ none →
     s.dev.sites[j].state = .probing ∨ s.dev.sites[j].state = .active ∨ s.dev.sites[j].state = .stalled →
     s.dev.journal.buffersOk = true → s.dev.canPlaceBoth →
     let d := s.dev.tick t
     let c : SiteConfig := { s.dev.settings.sites[j] with fenceMark := true }
     let all : Settings := { s.dev.settings with sites := s.dev.settings.sites.set j c }
     let owner : Tok := ⟨p, s.dev.nextToken⟩
     ∃ u : Dev, exec (.fenceSite t p cid j.val) s = .next { s with dev := u.settle } ∧
       u.settings = all ∧
       u.sites[j] =
         { s.dev.sites[j] with
           state := .fenced, inFlight := [], resends := [], send := none, candidates := [], credit := 0, probeDue := none
           cursor := u.frontierOf j } ∧
       (∀ (q : Seq) (x : Slot), s.dev.slot? q = some x →
         let back := x.mark j = some .inFlight ∧ ∃ e ∈ s.dev.sites[j].inFlight, e.seq = q
         ∃ y, u.slot? q = some y ∧ (back → y.mark j = some .pending) ∧ (¬ back → y.mark j = x.mark j) ∧
           ∀ k, k ≠ j → y.mark k = x.mark k) ∧
       u.journal =
         ((d.place ⟨.settings all, some owner⟩).1.place ⟨.siteEvent j (.state .fenced) 0, some owner⟩).1.journal ∧
       (∀ q : PortId, u.ports[q].respQ = s.dev.ports[q].respQ) ∧
       u.ports[p].taken =
         [{ id := s.dev.nextToken, cid := cid, kind := 12, holds := true, discard := false, cont := .done }] ∧
       u.array = s.dev.array ∧ u.held = s.dev.held ∧ u.fetch = s.dev.fetch ∧ u.span = s.dev.span) ∧
  (∀ (s : State) (t : Time) (p : PortId) (cid : Word32) (j : SlotId) (own site : Nat), s.dev.up → s.dev.portFree p →
     s.dev.intakeFree → s.dev.settings.localSite = some own → s.dev.settings.sites[j].site = some site →
     s.dev.journal.buffersOk = true → s.dev.canPlaceBoth →
     let d := s.dev.tick t
     let x := s.dev.sites[j]
     let sp := s.dev.settings.sites[j].spanPort
     let owner : Tok := ⟨p, s.dev.nextToken⟩
     let f : Frame := ⟨own, site, s.dev.power.startCount, .hello site⟩
     let queued := if s.dev.span[sp].ctrlQ.length < 4096 then s.dev.span[sp].ctrlQ ++ [f] else s.dev.span[sp].ctrlQ
     (x.state = .fenced →
       let n := min (x.probeCount + 1) 65535
       let all : Settings :=
         { s.dev.settings with sites := s.dev.settings.sites.set j { s.dev.settings.sites[j] with fenceMark := false } }
       ∃ u : Dev, exec (.unfenceSite t p cid j.val) s = .next { s with dev := u.settle } ∧
         u.settings = all ∧
         u.sites[j] =
           { x with
             state := .probing, candidates := [], cursor := s.dev.frontierOf j, probeCount := n
             probeDue := some (d.now + 1000000), stall := if n = 30 then true else x.stall } ∧
         u.span[sp].ctrlQ = queued ∧
         u.journal =
           ((d.place ⟨.settings all, some owner⟩).1.place ⟨.siteEvent j (.state .probing) 0, some owner⟩).1.journal ∧
         u.ports[p].taken =
           [{ id := s.dev.nextToken, cid := cid, kind := 13, holds := true, discard := false, cont := .done }] ∧
         u.status = s.dev.status ∧ u.array = s.dev.array ∧ u.held = s.dev.held) ∧
     (x.state = .evicted →
       let all : Settings :=
         { s.dev.settings with sites := s.dev.settings.sites.set j { s.dev.settings.sites[j] with evictMark := false } }
       ∃ u : Dev, exec (.rejoinSite t p cid j.val) s = .next { s with dev := u.settle } ∧
         u.settings = all ∧
         u.sites[j] =
           { x with
             state := .probing, candidates := [], cursor := s.dev.journal.nextSeq, frontier := some s.dev.journal.nextSeq
             rtt := none, busyCount := 0, busyEnd := none, peerStart := none, probeCount := 1
             probeDue := some (d.now + 1000000) } ∧
         u.span[sp].ctrlQ = queued ∧
         u.journal =
           ((d.place ⟨.settings all, some owner⟩).1.place ⟨.siteEvent j (.state .probing) 0, some owner⟩).1.journal ∧
         u.ports[p].taken =
           [{ id := s.dev.nextToken, cid := cid, kind := 14, holds := true, discard := false, cont := .done }] ∧
         u.status.slots = s.dev.status.slots ∧ u.array = s.dev.array ∧ u.held = s.dev.held)) ∧
  (∀ (s : State) (t : Time) (p : PortId) (cid : Word32) (n : Nat), s.dev.up → s.dev.portFree p → s.dev.intakeFree →
     let answer (kind : Nat) (st : Status) : Host.Outcome State Fault Refusal :=
       .next { s with dev := ((s.dev.tick t).grantedReply p cid kind st 0 .none).settle }
     (s.dev.settings.localSite = none →
       exec (.detachSite t p cid n) s = answer 11 .wrongState ∧ exec (.fenceSite t p cid n) s = answer 12 .wrongState ∧
       exec (.unfenceSite t p cid n) s = answer 13 .wrongState ∧ exec (.rejoinSite t p cid n) s = answer 14 .wrongState) ∧
     (s.dev.settings.localSite ≠ none → 7 < n →
       exec (.detachSite t p cid n) s = answer 11 .badField ∧ exec (.fenceSite t p cid n) s = answer 12 .badField ∧
       exec (.unfenceSite t p cid n) s = answer 13 .badField ∧ exec (.rejoinSite t p cid n) s = answer 14 .badField) ∧
     (∀ j : SlotId, s.dev.settings.localSite ≠ none → n = j.val →
       (s.dev.sites[j].state = .detached → exec (.detachSite t p cid n) s = answer 11 .wrongState) ∧
       (s.dev.sites[j].state ≠ .probing → s.dev.sites[j].state ≠ .active → s.dev.sites[j].state ≠ .stalled →
         exec (.fenceSite t p cid n) s = answer 12 .wrongState) ∧
       (s.dev.sites[j].state ≠ .fenced → exec (.unfenceSite t p cid n) s = answer 13 .wrongState) ∧
       (s.dev.sites[j].state ≠ .evicted → exec (.rejoinSite t p cid n) s = answer 14 .wrongState)))

/-- R87, R191: REWIND SITE, which is answered WRONG_STATE while the local site number is unset. A mark of the slot at or above the
target returns to PENDING when it is ACKED, or SKIPPED(SUPERSEDED) by an intent that is not itself within the rewind with the
slot in its set; no other mark changes. -/
def Obligations.RewindSiteReturnsMarks : Prop :=
  ∀ (s : State) (t : Time) (p : PortId) (cid : Word32) (n : Nat) (q : Seq), s.dev.up → s.dev.portFree p → s.dev.intakeFree →
    s.dev.tablesOk = true →
    let d := s.dev.tick t
    let answer (st : Status) : Host.Outcome State Fault Refusal :=
      .next { s with dev := (d.grantedReply p cid 15 st 0 .none).settle }
    (s.dev.settings.localSite = none → exec (.rewindSite t p cid n q) s = answer .wrongState) ∧
    (s.dev.settings.localSite ≠ none → 7 < n ∨ s.dev.journal.nextSeq < q → exec (.rewindSite t p cid n q) s = answer .badField) ∧
    (∀ j : SlotId, s.dev.settings.localSite ≠ none → n = j.val → q ≤ s.dev.journal.nextSeq →
      let covered (x : Slot) : Prop :=
        ∃ m y, x.supersededBy = some m ∧ q ≤ m ∧ s.dev.slot? m = some y ∧ (y.mark j).isSome = true
      let back (r : Seq) (x : Slot) : Prop :=
        q ≤ r ∧ (x.mark j = some .acked ∨ (x.mark j = some (.skipped .superseded) ∧ ¬ covered x))
      (s.dev.sites[j].state = .detached ∨ s.dev.sites[j].state = .evicted →
        exec (.rewindSite t p cid n q) s = answer .wrongState) ∧
      (s.dev.sites[j].state ≠ .detached → s.dev.sites[j].state ≠ .evicted → q < s.dev.rewindFloor →
        exec (.rewindSite t p cid n q) s = answer .notFound) ∧
      (s.dev.sites[j].state ≠ .detached → s.dev.sites[j].state ≠ .evicted → s.dev.rewindFloor ≤ q → s.dev.canPlace 32 →
        ∃ (u : Dev) (count : Nat), exec (.rewindSite t p cid n q) s = .next { s with dev := u.settle } ∧
          (∀ (r : Seq) (x : Slot), s.dev.slot? r = some x →
            ∃ y, u.slot? r = some y ∧ (back r x → y.mark j = some .pending) ∧ (¬ back r x → y.mark j = x.mark j) ∧
              ∀ k, k ≠ j → y.mark k = x.mark k) ∧
          (∃ l : List Seq, l.Nodup ∧ count = l.length ∧ ∀ r, r ∈ l ↔ ∃ x, s.dev.slot? r = some x ∧ back r x) ∧
          u.sites[j].cursor = min s.dev.sites[j].cursor q ∧
          u.journal = (d.place ⟨.siteEvent j .rewind q, some ⟨p, s.dev.nextToken⟩⟩).1.journal ∧
          u.ports[p].taken =
            [{ id := s.dev.nextToken, cid := cid, kind := 15, holds := true, discard := false, cont := .count count }] ∧
          u.settings = s.dev.settings ∧ u.array = s.dev.array ∧ u.index = s.dev.index))

/-- R88, R142, R163, R191: READ SITE, READ INBOUND and READ SEGMENTS are answered at once with the state as it stands. The
model's choices: READ SITE is answered WRONG_STATE while the local site number is unset (log 55), and for a slot that is no member
it reports the window of its configuration (log 19); READ INBOUND gives the time at which the silence timer is due (log 81), and
the completion order 0 for an entry that has none yet (log 83); READ SEGMENTS counts a failed page among the programmed ones, too
(log 98). -/
def Obligations.SiteInboundAndSegmentReports : Prop :=
  ∀ (s : State) (t : Time) (p : PortId) (cid : Word32), s.dev.up → s.dev.portFree p →
    let d := s.dev.tick t
    (∀ slot : Option Nat, s.dev.settings.localSite = none →
      exec (.readSite t p cid slot) s = .next { s with dev := (d.replied p cid 16 .wrongState 0 .none).settle }) ∧
    (∀ n : Nat, s.dev.settings.localSite ≠ none → 7 < n →
      exec (.readSite t p cid (some n)) s = .next { s with dev := (d.replied p cid 16 .badField 0 .none).settle }) ∧
    (∀ j : SlotId, s.dev.settings.localSite ≠ none → ∃ r : SiteReport,
      exec (.readSite t p cid (some j.val)) s = .next { s with dev := (d.replied p cid 16 .done 0 (.site r)).settle } ∧
      let x := s.dev.sites[j]
      r.config = s.dev.settings.sites[j] ∧ r.state = x.state ∧ r.cursor = x.cursor ∧ r.frontier = x.frontier ∧
      r.candidates = x.candidates.length ∧ r.inFlight = x.inFlight.length ∧
      r.inFlightBytes = (x.inFlight.map fun e => e.size).sum ∧ r.window = s.dev.window j ∧ r.credit = x.credit ∧
      r.busyCount = x.busyCount ∧ r.busyEnd = x.busyEnd ∧ r.probeCount = x.probeCount ∧ r.peerStart = x.peerStart ∧
      r.stall = x.stall ∧ r.overrun = x.overrun ∧ r.digest = x.digest ∧ r.protocol = x.protocol ∧
      r.duplicates = x.duplicates ∧ r.stale = x.stale ∧ r.framesSent = x.framesSent ∧ r.bytesSent = x.bytesSent ∧
      r.rtt = (x.rtt.map fun e => (e.1, e.2, max 20000 (min 8000000 (e.1 + max (4 * e.2) 2000)))) ∧
      r.oldest = (x.inFlight.head?.map fun e => (e.seq, e.retries, e.deadline))) ∧
    (s.dev.settings.localSite ≠ none → ∃ l : List SiteLine,
      exec (.readSite t p cid none) s =
        .next { s with dev :=
          (d.replied p cid 16 .done 0
            (.sites l s.dev.span[(0 : SpanId)].badFrames s.dev.span[(1 : SpanId)].badFrames s.dev.foreign)).settle } ∧
      l.length = 8 ∧
      ∀ j : SlotId, l[j.val]? =
        some ⟨s.dev.settings.sites[j].site, s.dev.sites[j].state, s.dev.sites[j].frontier, s.dev.sites[j].stall,
          s.dev.sites[j].overrun, s.dev.sites[j].digest, s.dev.sites[j].protocol⟩) ∧
    (∃ r : InboundSummary,
      exec (.readInbound t p cid 0) s = .next { s with dev := (d.replied p cid 22 .done 0 (.inboundSummary r)).settle } ∧
      r.counts = s.dev.inbound.counts ∧ r.done = s.dev.inbound.done.length ∧ r.lastPort = s.dev.inbound.lastPort ∧
      r.freePlaces = 2048 - s.dev.inbound.arrivals.length ∧
      r.freeBlocks = 131072 - (s.dev.inbound.arrivals.map fun a => a.blocks).sum ∧
      r.landings = ([0, 1, 2, 3] : List PortId).map (fun q => s.dev.ports[q].landings.length) ∧
      (let inState (st : ArrivalState) : Nat := (s.dev.inbound.arrivals.filter fun a => a.state = st).length
       r.assembling = inState .assembling ∧ r.waiting = inState .waitingLanding ∧ r.delivering = inState .delivering ∧
         r.delivered = inState .delivered)) ∧
    (∀ id : Nat, id ≠ 0 → (s.dev.inbound.arrivals.find? fun a => a.id == id) = none →
      exec (.readInbound t p cid id) s = .next { s with dev := (d.replied p cid 22 .notFound 0 .none).settle }) ∧
    (∀ (id : Nat) (a : Arrival), id ≠ 0 → (s.dev.inbound.arrivals.find? fun a => a.id == id) = some a →
      exec (.readInbound t p cid id) s =
        .next { s with dev :=
          (d.replied p cid 22 .done 0
            (.arrival
              { id := a.id, slot := a.slot, seq := a.desc.seq, kind := a.kind
                bucket := a.desc.bucket, keyHash := a.desc.keyHash, keyLen := a.desc.keyLen, stamp := a.desc.stamp
                payloadLen := a.desc.payloadLen, digest := a.desc.digest, tag := a.desc.tag, blocks := a.blocks
                chunks := a.chunks.length
                lowestMissing :=
                  (List.range ((a.desc.payloadLen + 8191) / 8192)).find? fun k => !a.chunks.any fun c => c.1 == k
                gaps := a.gaps, silenceDue := a.silenceDue, state := a.state, lookup := a.lookup, compare := a.compare
                order := a.order, delivery := a.delivery, attempt := a.attempt
                heldReceipt := a.heldReceipt.map fun h => (s.dev.settings.sites[h.1].site, h.2) })).settle }) ∧
    (∀ n : Nat, 2047 < n →
      exec (.readSegments t p cid (some n)) s = .next { s with dev := (d.replied p cid 27 .badField 0 .none).settle }) ∧
    (∀ n : Nat, n ≤ 2047 → ∃ r : SegmentReport,
      exec (.readSegments t p cid (some n)) s =
        .next { s with dev := (d.replied p cid 27 .done 0 (.segment r)).settle } ∧
      r.state = (s.dev.seg n).state ∧ r.eraseCount = (s.dev.seg n).eraseCount ∧ r.group = n / 32 ∧
      r.guarded = (s.dev.settings.guardMap.getLsbD (n / 32) && (s.dev.guard.software || s.dev.guard.filtered)) ∧
      r.programmed = (s.dev.seg n).pages.length ∧ r.failed = (s.dev.seg n).failed.length ∧
      r.positions = bounds ((s.dev.seg n).pages.map fun g => g.pos) ∧
      r.intents = bounds ((s.dev.seg n).pages.flatMap fun g => recsIntents g.recs) ∧
      (let left := s.dev.unspent (s.dev.seg n)
       let named := left.filterMap Rec.about
       r.heldBack =
         if (s.dev.seg n).state ≠ .full then none
         else if r.guarded = true then some .guard
         else if left = [] then some .eligible
         else if named.any s.dev.isHeldIntent = true then some .held
         else if named ≠ [] then some .unresolved
         else some .control)) ∧
    (∃ r : SegmentsReport,
      exec (.readSegments t p cid none) s = .next { s with dev := (d.replied p cid 27 .done 0 (.segments r)).settle } ∧
      r.f = s.dev.free ∧ r.h = s.dev.headroom ∧ r.u = s.dev.lowest ∧ r.next = s.dev.journal.nextSeq ∧
      r.level = s.dev.level ∧ r.lowWatermark = s.dev.settings.lowWatermark ∧
      r.criticalReserve = s.dev.settings.criticalReserve ∧ r.armed = s.dev.reclaim.armed ∧
      r.lastBlocked = s.dev.reclaim.lastBlocked ∧ r.engine = s.dev.reclaim.engine ∧ r.floor = s.dev.rewindFloor ∧
      r.guardMap = s.dev.settings.guardMap ∧ r.software = s.dev.guard.software ∧ r.raw = s.dev.guard.raw ∧
      r.filtered = s.dev.guard.filtered ∧ r.topGap = s.dev.topGap ∧ r.floorSegment = s.dev.floorAt.2 ∧
      r.targetState =
        (match s.dev.reclaim.engine with
        | .idle => none
        | .waiting n | .erasing n => some (s.dev.seg n).state) ∧
      (let c := s.dev.reclaim
       r.counts = [c.erased, c.suspensions, c.withdrawn, c.eraseFails, c.wear, c.evictions, c.pressureNotices]))

/-! ## Durability -/

/-- R107, R122, R123: QUERY INTENT. The model's choices: the unresolved intents that are HELD and those that are FETCH-BLOCKED are
two counts, and one that is both is in both (log 65); the time since the last FRONTIER record is absent before one is raised
(log 35). -/
def Obligations.QueryIntentReports : Prop :=
  ∀ (s : State) (t : Time) (p : PortId) (cid : Word32), s.dev.up → s.dev.portFree p →
    let d := s.dev.tick t
    let kept : List Seq :=
      recsIntents ((s.dev.journal.bufA.recs ++ s.dev.journal.bufB.recs).map (·.item)) ++
        s.dev.array.held.flatMap fun e => e.2.intents
    (∃ r : StatusSummary,
      exec (.queryIntent t p cid 0) s = .next { s with dev := (d.replied p cid 19 .done 0 (.statusSummary r)).settle } ∧
      r.lowest = (minOf kept).getD s.dev.journal.nextSeq ∧ r.next = s.dev.journal.nextSeq ∧ r.tail = (s.dev.journal.nextSeq : Int) - 1 ∧
      r.staged = (s.dev.status.slots.filter fun e => e.2.written = false).length ∧
      r.written = (s.dev.status.slots.filter fun e => e.2.written = true).length ∧
      r.verdicts = (s.dev.status.durable, s.dev.status.superseded, s.dev.status.shortfall) ∧
      r.resolutions = s.dev.status.resolutions ∧ r.frontierChanged = s.dev.status.frontierChanged ∧
      (let open_ (x : Slot) : Bool := x.marks.any (fun e => e.2 = .pending ∨ e.2 = .inFlight) || x.held
       let unresolved := s.dev.status.slots.filter fun e => e.2.written && open_ e.2
       r.unresolved = unresolved.length ∧ r.unresolvedHeld = (unresolved.filter fun e => e.2.held).length ∧
         r.unresolvedBlocked = (unresolved.filter fun e => e.2.fetchBlocked).length) ∧
      r.sinceFrontier = (s.dev.status.lastFrontier.map fun at_ => d.now - at_) ∧
      (∀ (j : SlotId) (f : Seq), (j, f) ∈ r.frontiers ↔ s.dev.sites[j].state ≠ .detached ∧ f = s.dev.frontierOf j)) ∧
    (∀ q : Seq, q ≠ 0 →
      let gone := s.dev.journal.nextSeq ≤ q ∨ (∃ r ∈ s.dev.journal.passedOver, r.1 ≤ q ∧ q ≤ r.2) ∨
        s.dev.inJournal q = false
      (gone → exec (.queryIntent t p cid q) s = .next { s with dev := (d.replied p cid 19 .notFound 0 .none).settle }) ∧
      (¬ gone → s.dev.slot? q = none →
        exec (.queryIntent t p cid q) s = .next { s with dev := (d.replied p cid 19 .done 1 .none).settle }) ∧
      (¬ gone → ∀ x : Slot, s.dev.slot? q = some x →
        exec (.queryIntent t p cid q) s =
          .next { s with dev :=
            (d.replied p cid 19 .done 0
              (.intent
                { written := x.written, origin := x.origin, tag := x.tag, marks := x.marks, quorum := x.quorum
                  acked := (x.marks.filter fun e => e.2 = .acked).length
                  openMarks := (x.marks.filter fun e => e.2 = .pending ∨ e.2 = .inFlight).length
                  outcome := x.outcome, held := x.held, unindexed := x.unindexed, fetchBlocked := x.fetchBlocked
                  digestRetried := x.digestRetried.isSome, holdOverflow := x.holdOverflow
                  resolved := x.written && !x.marks.any (fun e => e.2 = .pending ∨ e.2 = .inFlight) && !x.held
                  verdict := x.verdict, supersededBy := x.supersededBy })).settle }))

/-- R113 to R118: the evaluation of an intent whose slot is filled, from any state; `was` says whether it was resolved before.
An intent that is not WRITTEN is not evaluated. One that becomes resolved is counted, and leaves its link. One that is not held
and has no verdict receives DURABLE when the ACKED marks reach the quorum, else SHORTFALL when the ACKED and open marks
together do not, with its notice to the origin port or to its successor; a verdict that stands is kept and gives no notice. -/
def Obligations.EvaluationGivesOneVerdict : Prop :=
  ∀ (d : Dev) (q : Seq) (x : Slot) (was : Bool), d.slot? q = some x →
    let u := d.evaluate q was
    let acked := (x.marks.filter fun e => e.2 = .acked).length
    let open_ := (x.marks.filter fun e => e.2 = .pending ∨ e.2 = .inFlight).length
    let newly := x.held = false ∧ open_ = 0 ∧ was = false
    let route : NoticeRoute := ⟨q, x.tag, x.origin⟩
    let told (b : NoticeBody) : Prop :=
      (d.ports[x.origin].state = .online →
        ∀ p : PortId, u.ports[p] = if p = x.origin then d.ports[p].addNotice false b else d.ports[p]) ∧
      (d.ports[x.origin].state ≠ .online → ∀ o : PortId, d.ports[o].state = .online →
        (∀ p : PortId, p < o → d.ports[p].state ≠ .online) →
        ∀ p : PortId, u.ports[p] = if p = o then d.ports[p].addNotice true b else d.ports[p]) ∧
      ((∀ p : PortId, d.ports[p].state ≠ .online) →
        u.ports = d.ports ∧ u.partLost = min (d.partLost + 1) 65535)
    let verdict : Option Verdict :=
      if x.held = true ∨ x.verdict ≠ none then x.verdict
      else if x.quorum ≤ acked then some .durable
      else if acked + open_ < x.quorum then some .shortfall else none
    (x.written = false → u = d) ∧
    (x.written = true →
      u.slot? q = some { x with verdict := verdict, link := if newly then none else x.link } ∧
      (∀ r, r ≠ q → u.slot? r = d.slot? r) ∧
      u.status.resolutions = (if newly then d.status.resolutions + 1 else d.status.resolutions) ∧
      (newly → ∀ w, x.link = some w → u.index = d.index.release w) ∧
      (¬ newly ∨ x.link = none → u.index = d.index) ∧
      (verdict = x.verdict → u.ports = d.ports ∧ u.partLost = d.partLost) ∧
      (x.verdict = none → verdict = some .durable → told (.durable route acked x.quorum)) ∧
      (x.verdict = none → verdict = some .shortfall →
        told (.shortfall route acked x.quorum (x.marks.filter fun e => match e.2 with | .failed | .skipped _ => true | _ => false))) ∧
      u.sites = d.sites ∧ u.journal = d.journal ∧ u.settings = d.settings ∧ u.held = d.held)

/-! ## Inbound -/

/-- R134, R140: POST LANDING. R136: the landing write completes: the entry becomes DELIVERED, and the port receives the DELIVERED
notice. R125, R126, R141: STORED. A finished arrival leaves the list, joins the done list, and a receipt is raised for it, and for
its held receipt, unless the slot is FENCED. That the outcome is 1 for STORED and 2 for REJECTED is the model's choice (log 7). -/
def Obligations.LandingsAreDeliveredAndFinished : Prop :=
  ((∀ (s : State) (t : Time) (p : PortId) (cid : Word32) (id addr capacity : Nat), s.dev.up → s.dev.portFree p →
      let d := s.dev.tick t
      let l := s.dev.ports[p].landings
      let bad := capacity < 4096 ∨ addr % 16 ≠ 0 ∨ (∃ x ∈ l, x.id = id) ∨
        ∃ a ∈ s.dev.inbound.arrivals, ∃ x, a.delivery = some (p, x) ∧ x.id = id
      (bad → exec (.postLanding t p cid id addr capacity) s =
        .next { s with dev := (d.replied p cid 20 .badField 0 .none).settle }) ∧
      (¬ bad → 256 ≤ l.length →
        exec (.postLanding t p cid id addr capacity) s =
          .next { s with dev := (d.replied p cid 20 .wrongState 0 .none).settle }) ∧
      (¬ bad → l.length < 256 →
        exec (.postLanding t p cid id addr capacity) s =
          .next { s with dev :=
            ((d.modPort p fun q => { q with landings := q.landings ++ [⟨id, addr, capacity⟩] }).replied p cid 20 .done 0
              (.landings (l.length + 1))).settle })) ∧
   (∀ (s : State) (t : Time) (p : PortId) (a : Arrival) (l : Landing) (site : Nat), s.dev.power.powered = true →
      (s.dev.inbound.arrivals.filter fun x => x.state = .delivering ∧ (x.delivery.map (·.1)) = some p) = [a] →
      a.delivery = some (p, l) → s.dev.settings.sites[a.slot].site = some site →
      ∃ u : Dev, exec (.landingWriteComplete t p) s = .next { s with dev := u.settle } ∧
        u.inbound.arrivals =
          (s.dev.inbound.arrivals.map fun x => if x.id = a.id then { x with state := .delivered } else x) ∧
        u.dma = (s.dev.dma.filter fun w => !(w.port == p && w.journal == none)) ∧
        u.ports[p] =
          s.dev.ports[p].addNotice false
            (.delivered a.id a.attempt l.id site a.desc.seq a.kind a.desc.bucket a.desc.payloadLen
              (a.compare.getD .none)) ∧
        (∀ q, q ≠ p → u.ports[q] = s.dev.ports[q]) ∧
        { u with inbound := s.dev.inbound, dma := s.dev.dma, ports := s.dev.ports } = s.dev.tick t)) ∧
  (∀ (s : State) (t : Time) (p : PortId) (cid : Word32) (id code : Nat), s.dev.up → s.dev.portFree p →
     let d := s.dev.tick t
     let found := s.dev.inbound.arrivals.find? fun a => a.id == id
     let ours (a : Arrival) : Prop := a.state = .delivered ∧ ∃ x, a.delivery = some (p, x)
     (code ≠ 1 ∧ code ≠ 2 →
       exec (.stored t p cid id code) s = .next { s with dev := (d.replied p cid 21 .badField 0 .none).settle }) ∧
     (code = 1 ∨ code = 2 → found = none →
       exec (.stored t p cid id code) s = .next { s with dev := (d.replied p cid 21 .notFound 0 .none).settle }) ∧
     (∀ a, code = 1 ∨ code = 2 → found = some a → ¬ ours a →
       exec (.stored t p cid id code) s = .next { s with dev := (d.replied p cid 21 .wrongState 0 .none).settle }) ∧
     (∀ a, code = 1 ∨ code = 2 → found = some a → ours a →
       let o : ReceiptOutcome := if code = 1 then .stored else .refused
       let pairs : List (SlotId × Seq × ReceiptOutcome) :=
         (a.slot, a.desc.seq, o) ::
           match a.heldReceipt with
           | some (k, q) => [(k, q, if code = 1 then .supersededAtPeer else .refused)]
           | none => []
       ∃ u : Dev, exec (.stored t p cid id code) s = .next { s with dev := u.settle } ∧
         u.inbound.arrivals = (s.dev.inbound.arrivals.filter fun x => x.id != a.id) ∧
         u.inbound.raised =
           s.dev.inbound.raised ++ (pairs.filter fun e => s.dev.sites[e.1].state != .fenced) ∧
         (s.dev.inbound.done.length + pairs.length ≤ 4096 →
           u.inbound.done = s.dev.inbound.done ++ pairs.map fun e => ⟨e.1, e.2.1, e.2.2⟩) ∧
         u.ports[p] = { s.dev.ports[p] with respQ := s.dev.ports[p].respQ ++ [⟨21, .done, 0, cid, .none⟩] } ∧
         (∀ q, q ≠ p → u.ports[q] = s.dev.ports[q]) ∧
         { u with nextToken := s.dev.nextToken, ports := s.dev.ports, inbound := s.dev.inbound } = d))

/-- R126 to R133: an OPEN and a CARRY of an intent that is not a DELETE, from the slot that hears the sender, with the peer start
count recorded. `ended` is the part when nothing but the inbound unit has changed. An INBOUND_PRESSURE notice counts as posted
also when no port is ONLINE: the model's choice (log 66). R132: the silence timer of an incomplete arrival expires: a GAP of its
missing chunks, unless the slot is FENCED, and after four of them the entry is dropped without a receipt. -/
def Obligations.OpenAndCarryFillTheArrivalList : Prop :=
  (∀ (s : State) (t : Time) (sp : SpanId) (h : FrameHdr) (j : SlotId), s.dev.up → s.dev.settings.localSite = some h.receiver →
     s.dev.hearsAt j h.sender → s.dev.sites[j].state ≠ .probing → s.dev.sites[j].peerStart = some h.start →
     let d := s.dev.tick t
     let x := s.dev.inbound
     let n := x.counts
     let up (k : Nat) : Nat := min (k + 1) 18446744073709551615
     let ended (y : Inbound) : Host.Outcome State Fault Refusal := .next { s with dev := Dev.settle { d with inbound := y } }
     let protocol (c : Instr) : Prop :=
       ∃ u : Dev, exec c s = .next { s with dev := u.settle } ∧ u.sites[j] = { s.dev.sites[j] with protocol := true } ∧
         u.inbound = x
     (∀ (len : Nat) (o : OpenDesc), 192 ≤ len → len ≤ 416 → len % 16 = 0 →
       let open_ : Instr := .openReceived t sp h len o
       let good : Prop :=
         (o.kind = 1 ∧ 1 ≤ o.payloadLen ∧ o.payloadLen ≤ 67108864 ∨ o.kind = 2 ∧ o.payloadLen = 0 ∨
           o.kind = 3 ∧ 1 ≤ o.payloadLen ∧ o.payloadLen ≤ 65536) ∧
         o.seq ≠ 0 ∧ 1 ≤ o.keyLen ∧ o.keyLen ≤ 240 ∧ len = 64 + recordSize o.keyLen ∧ o.stamp.toNat % 16 = h.sender
       let done := x.done.find? fun e => e.slot == j && e.seq == o.seq
       let known : Prop :=
         ∃ a ∈ x.arrivals, (a.slot = j ∧ a.desc.seq = o.seq) ∨ a.heldReceipt = some (j, o.seq)
       let rival := x.arrivals.find? fun a =>
         (a.state == .assembling || a.state == .waitingLanding) && a.desc.bucket == o.bucket && a.desc.keyLen == o.keyLen &&
           a.desc.key == o.key
       let need := (o.payloadLen + 8191) / 8192
       let blocks := 131072 - (x.arrivals.map fun a => a.blocks).sum
       let fresh (k : IntentKind) (held : Option (SlotId × Seq)) : Arrival :=
         { id := x.nextId, slot := j, desc := o, kind := k, blocks := need, silenceDue := some (d.now + 20000)
           heldReceipt := held }
       let nextId := if 4294967295 ≤ x.nextId then 1 else x.nextId + 1
       let refusal (u : Dev) : Prop :=
         u.inbound.arrivals = x.arrivals ∧ u.inbound.done = x.done ∧
         u.inbound.counts.listFull = (if 2048 ≤ x.arrivals.length then up n.listFull else n.listFull) ∧
         u.inbound.counts.arenaFull = (if blocks < need then up n.arenaFull else n.arenaFull) ∧
         (let out := s.dev.settings.sites[j].spanPort
          let f : Frame := ⟨h.receiver, h.sender, s.dev.power.startCount, .busy o.seq⟩
          u.span =
            s.dev.span.set out
              { s.dev.span[out] with
                ctrlQ :=
                  if s.dev.span[out].ctrlQ.length < 4096 then s.dev.span[out].ctrlQ ++ [f] else s.dev.span[out].ctrlQ }) ∧
         ((∃ last, x.lastPressure = some last ∧ d.now < last + 1000000) →
           u.ports = s.dev.ports ∧ u.inbound.refusals = x.refusals + 1) ∧
         ((∀ last, x.lastPressure = some last → last + 1000000 ≤ d.now) →
           u.inbound.refusals = 0 ∧ u.inbound.lastPressure = some d.now ∧
           ∀ p : PortId, u.ports[p] =
             if s.dev.ports[p].state = .online then
               s.dev.ports[p].addNotice false
                 (.inboundPressure (decide (2048 ≤ x.arrivals.length)) (decide (blocks < need)) (x.refusals + 1)
                   (2048 - x.arrivals.length) blocks)
             else s.dev.ports[p])
       (¬ good → protocol open_) ∧
       (good → ∀ e, done = some e →
         exec open_ s =
           ended { x with
             raised := x.raised ++ [(j, o.seq, e.outcome)], counts := { n with raised := up n.raised, doneHits := up n.doneHits } }) ∧
       (good → done = none → known → exec open_ s = ended { x with counts := { n with repeats := up n.repeats } }) ∧
       (good → done = none → ¬ known → rival = none → x.arrivals.length < 2048 → need ≤ blocks → ∀ k : IntentKind,
         intentKindOf o.kind = some k → k ≠ .delete →
         exec open_ s = ended { x with arrivals := x.arrivals ++ [fresh k none], nextId := nextId }) ∧
       (good → done = none → ¬ known → rival = none → 2048 ≤ x.arrivals.length ∨ blocks < need →
         ∃ u : Dev, exec open_ s = .next { s with dev := u.settle } ∧ refusal u) ∧
       (good → done = none → ¬ known → ∀ e, rival = some e →
         let newer := e.desc.stamp < o.stamp ∨ (o.stamp = e.desc.stamp ∧ j = e.slot ∧ e.desc.seq < o.seq)
         (¬ newer →
           exec open_ s =
             ended { x with
               done := (if x.done.length < 4096 then x.done else x.done.drop 1) ++ [⟨j, o.seq, .supersededAtPeer⟩]
               raised := x.raised ++ [(j, o.seq, .supersededAtPeer)]
               counts := { n with raised := up n.raised, answeredAtOnce := up n.answeredAtOnce } }) ∧
         (newer → need ≤ blocks + e.blocks → e.heldReceipt = none → ∀ k : IntentKind,
           intentKindOf o.kind = some k → k ≠ .delete →
           exec open_ s =
             ended { x with
               arrivals := (x.arrivals.filter fun a => a.id != e.id) ++ [fresh k (some (e.slot, e.desc.seq))]
               nextId := nextId, counts := { n with displaced := up n.displaced } }) ∧
         (newer → blocks + e.blocks < need →
           ∃ u : Dev, exec open_ s = .next { s with dev := u.settle } ∧ refusal u))) ∧
     (∀ (q k : Nat) (data : List Byte), data ≠ [] → data.length ≤ 8192 →
       let carry : Instr := .carryReceived t sp h q k data
       let found := x.arrivals.find? fun a => a.slot == j && a.desc.seq == q
       (found = none → exec carry s = ended { x with counts := { n with orphans := up n.orphans } }) ∧
       (∀ a, found = some a →
         let chunks := (a.desc.payloadLen + 8191) / 8192
         let bad := a.kind = .delete ∨ chunks ≤ k ∨ data.length ≠ min 8192 (a.desc.payloadLen - 8192 * k)
         let present := ∃ c ∈ a.chunks, c.1 = k
         let more (b : Arrival) : Arrival := { b with chunks := Tbl.put b.chunks k data, silenceDue := some (d.now + 20000) }
         (bad → protocol carry) ∧
         (¬ bad → present → exec carry s = ended { x with counts := { n with duplicates := up n.duplicates } }) ∧
         (¬ bad → ¬ present → (x.arrivals.find? fun b => b.id == a.id) = some a → a.chunks.length + 1 ≠ chunks →
           exec carry s = ended { x with arrivals := x.arrivals.map fun b => if b.id = a.id then more b else b }) ∧
         (¬ bad → ¬ present → (x.arrivals.find? fun b => b.id == a.id) = some a → a.chunks.length + 1 = chunks →
           crc32 ((more a).chunks.flatMap fun c => c.2) ≠ a.desc.digest →
           ∃ u : Dev, exec carry s = .next { s with dev := u.settle } ∧
             u.inbound.arrivals = (x.arrivals.filter fun b => b.id != a.id) ∧
             (j, q, .refused) ∈ u.inbound.raised ∧ ⟨j, q, .refused⟩ ∈ u.inbound.done ∧
             u.inbound.counts.digestRefusals = up n.digestRefusals) ∧
         (¬ bad → ¬ present → (x.arrivals.find? fun b => b.id == a.id) = some a → a.chunks.length + 1 = chunks →
           crc32 ((more a).chunks.flatMap fun c => c.2) = a.desc.digest →
           s.dev.index.find a.desc.bucket a.desc.keyHash a.desc.keyLen = none →
           exec carry s =
             ended { x with
               nextOrder := x.nextOrder + 1
               arrivals := x.arrivals.map fun b =>
                 if b.id = a.id then
                   { more b with
                     silenceDue := none, state := .waitingLanding, lookup := .none, compare := some .none
                     order := x.nextOrder }
                 else b })))) ∧
  (∀ (s : State) (id : Nat) (a : Arrival) (due : Time) (own site : Nat), s.dev.up →
     (s.dev.inbound.arrivals.find? fun x => x.id == id) = some a → a.silenceDue = some due →
     s.dev.settings.localSite = some own → s.dev.settings.sites[a.slot].site = some site →
     let d := s.dev.tick due
     let c := s.dev.inbound.counts
     let sp := s.dev.settings.sites[a.slot].spanPort
     let f : Frame := ⟨own, site, s.dev.power.startCount, .gap a.desc.seq ((ranges a.missing).take 32)⟩
     (a.gaps < 4 →
       ∃ u : Dev, exec (.silenceTimerExpiry id) s = .next { s with dev := u.settle } ∧
         u.inbound =
           { s.dev.inbound with
             arrivals := s.dev.inbound.arrivals.map fun (x : Arrival) =>
               if x.id = id then { x with gaps := x.gaps + 1, silenceDue := some (d.now + 20000) } else x
             counts := { c with gapReports := min (c.gapReports + 1) 18446744073709551615 } } ∧
         u.span[sp].ctrlQ =
           (if s.dev.sites[a.slot].state ≠ .fenced ∧ s.dev.span[sp].ctrlQ.length < 4096 then s.dev.span[sp].ctrlQ ++ [f]
           else s.dev.span[sp].ctrlQ) ∧
         { u with inbound := s.dev.inbound, span := s.dev.span } = d) ∧
     (4 ≤ a.gaps →
       exec (.silenceTimerExpiry id) s =
         .next { s with dev := Dev.settle { d with
           inbound := { s.dev.inbound with
             arrivals := s.dev.inbound.arrivals.filter fun x => x.id != id
             counts := { c with dropped := min (c.dropped + 1) 18446744073709551615 } } } }))

/-! ## The journal: events -/

/-- R2, R6, R14: a verify passes in READY: the page is valid and cached, page 63 makes its segment FULL, the buffer is
EMPTY, and every intent of the page whose slot is filled is WRITTEN. R14, R20, R109: the page of a single live intent,
whose marks can still reach the quorum, passes in READY: the slot is WRITTEN with its marks as they were, and the APPEND is
answered ACCEPTED with the sequence, the tag, the set and the quorum of its staging. R14, R20, R55, R57, R58, R84, R87, R104, R105,
R161, R162, R183: every page: its records take their effects in record order (recordPassed), and then a command that has a record in
it, and owes no other, is answered by its kind: an APPEND with its outcome and flags, RELEASE with the outcome of the release, a
command that changes a setting with the setting as it stands (log 63). When a failed read made a RELEASE void, its outcome is open
(log 23). -/
def Obligations.PassingPageIsValidAndAnswered : Prop :=
  (∀ (s : State) (t : Time) (buf : BufId) (seg num pos : Nat), s.dev.up →
     s.dev.array.op = some (.program buf seg num pos) →
     let recs := (s.dev.journal.buf buf).recs
     let old := s.dev.seg seg
     ∃ u : Dev, exec (.pageProgramComplete t true) s = .next { s with dev := u.settle } ∧
       u.array.op = none ∧
       u.seg seg =
         { old with
           pages := old.pages ++ [{ num := num, pos := pos, recs := recs.map fun x => x.item, crcOk := true }]
           state := if num = 63 then .full else old.state } ∧
       (∀ n, n ≠ seg → u.seg n = s.dev.seg n) ∧
       { u.array with op := s.dev.array.op, segs := s.dev.array.segs } = s.dev.array ∧
       u.journal.buf buf = {} ∧ u.journal.progQ = (s.dev.journal.progQ.filter fun x => x != buf) ∧
       u.journal.lastProg = some buf ∧ u.journal.consecFails = 0 ∧
       u.journal.tailCache =
         (if s.dev.journal.tailCache.length < 512 then s.dev.journal.tailCache ++ [pos]
           else (s.dev.journal.tailCache ++ [pos]).drop 1) ∧
       u.journal.nextSeq = s.dev.journal.nextSeq ∧ u.journal.ctrlQ = s.dev.journal.ctrlQ ∧ u.settings = s.dev.settings ∧
       ∀ (r : IntentRec) (x : Slot), .intent r ∈ recs.map (fun x => x.item) → s.dev.slot? r.seq = some x →
         ∃ y, u.slot? r.seq = some y ∧ y.written = true) ∧
  (∀ (s : State) (t : Time) (buf : BufId) (seg num pos : Nat) (r : IntentRec) (tok : Tok) (x : Slot) (y : Taken), s.dev.up →
     s.dev.array.op = some (.program buf seg num pos) → (s.dev.journal.buf buf).recs = [⟨.intent r, some tok⟩] →
     s.dev.slot? r.seq = some x → x.outcome = .live → x.pendingSup = none → x.verdict = none → x.held = false →
     x.unindexed = none → r.held = false → (∀ e ∈ x.marks, e.2 = .pending) → 1 ≤ x.quorum → x.quorum ≤ x.marks.length →
     s.dev.intake.grant = none → (s.dev.journal.bufA.recs.filter fun z => z.owner == some tok).length +
       (s.dev.journal.bufB.recs.filter fun z => z.owner == some tok).length = 1 →
     s.dev.ports[tok.port].taken = [y] → y.id = tok.id → y.discard = false →
     ∀ a : AppendAnswer, y.cont = .append a → a.outcome = .live → a.unindexed = false → a.overflow = false →
     ∃ u : Dev, exec (.pageProgramComplete t true) s = .next { s with dev := u.settle } ∧
       u.slot? r.seq = some { x with written := true, holdOverflow := false } ∧ u.index = s.dev.index ∧
       s.dev.ports[tok.port].respQ ++
         [⟨y.kind, .accepted, 0, y.cid, .append a.seq a.tag a.set a.quorum⟩] <+:
           u.ports[tok.port].respQ ∧
       u.ports[tok.port].taken = [] ∧ u.sites = s.dev.sites) ∧
  (∀ (s : State) (t : Time) (buf : BufId) (seg num pos : Nat), s.dev.up →
     s.dev.array.op = some (.program buf seg num pos) →
     let recs := (s.dev.journal.buf buf).recs
     let v : Dev := recs.foldl (fun e z => e.recordPassed z) ((s.dev.tick t).pageValid seg num pos (recs.map fun x => x.item) buf)
     ∃ u : Dev, exec (.pageProgramComplete t true) s = .next { s with dev := u.settle } ∧
       u.status = v.status ∧ u.index = v.index ∧ u.held = v.held ∧ u.sites = v.sites ∧
       (∀ q : PortId, u.ports[q].noticeQ = v.ports[q].noticeQ) ∧
       ∀ (tok : Tok) (y : Taken), (∃ z ∈ recs, z.owner = some tok) → s.dev.owesRecord buf tok = false →
         v.ports[tok.port].taken = [y] → y.id = tok.id → y.discard = false →
         let answered (st : Status) (fl : Byte) (body : RespBody) : Prop :=
           u.ports[tok.port].taken = [] ∧
             u.ports[tok.port].respQ = s.dev.ports[tok.port].respQ ++ [⟨y.kind, st, fl, y.cid, body⟩]
         (∀ a : AppendAnswer, y.cont = .append a →
           answered (match a.outcome with | .stale => .stale | .held => .held | _ => .accepted)
             ((if a.unindexed then 1 else 0) ||| (if a.overflow then 2 else 0)) (.append a.seq a.tag a.set a.quorum)) ∧
         (y.cont = .done → answered .done 0 .none) ∧
         (∀ n, y.cont = .count n → answered .done 0 (.count n)) ∧
         (∀ n : Fin 48, y.cont = .setPlacement n.val → answered .done 0 (.placementEntry s.dev.settings.placement[n])) ∧
         (y.cont = .setMode → answered .done 0 (.modeSettings s.dev.settings.mode)) ∧
         (∀ q o, y.cont = .release q (some o) → answered .done 0 (.release (some o))) ∧
         (∀ q, y.cont = .release q none → ∃ o, answered .done 0 (.release (some o))) ∧
         (∀ g, y.cont = .setGenerator g → answered .done 0 (.gen (v.genReport g))) ∧
         (∀ j, y.cont = .setSitePacing j →
           let c := s.dev.settings.sites[j]
           answered .done 0 (.sitePacing c.generator c.share c.mode c.lend c.maxWindow v.sites[j].credit (v.window j))) ∧
         (y.cont = .guardMap → answered .done 0 (.guardMap s.dev.settings.guardMap)) ∧
         (y.cont = .pressure →
           answered .done 0 (.pressure s.dev.settings.lowWatermark s.dev.settings.criticalReserve v.level)) ∧
         (y.cont = .mask → answered .done 0 (.mask s.dev.settings.masks[tok.port])))

/-- R14, R109, R111, R113: what a record does when its page passes, from any state. An intent's slot is WRITTEN: LIVE and UNINDEXED
keep their marks; STALE has its PENDING marks SKIPPED(STALE) and the SUPERSEDED verdict without a notice; OVERFLOW-DENIED has them
SKIPPED(DENIED); each is evaluated (EvaluationGivesOneVerdict). R33, R34: before that, a live intent that was to supersede L makes
L's PENDING marks that it covers SKIPPED(SUPERSEDED); L receives the SUPERSEDED verdict and notice when it has no verdict, and is
evaluated, the verdict coming before the evaluation: the model's reading (log 89). R49: HELD gives the HELD notice, and the entry is
WAITING with its deadline, which runs in READY. R36, R50, R52, R53: a DECISION acts on the entry that is DECIDING, and on no other:
it leaves the list, and an expiry gives HOLD_EXPIRED; DENIED skips the PENDING marks; RELEASED without a comparison when the intent
is UNINDEXED, STALE under the key's live intent when that has the greater stamp or, with equal stamps, the higher sequence, and else
live, superseding the live intent before in this event, also one that is STAGED: the model's ruling (log 53). A released intent is
offered to the dispatchers (R69), and the outcome joins the answer of its RELEASE. Other records do nothing. The counts of verdicts
stay at 2^64 - 1 (log 18), and the DECISION acts in record order (log 74): the model's choices. -/
def Obligations.RecordsOfAPassingPageTakeEffect : Prop :=
  let counted (e : Dev) : Dev :=
    { e with status := { e.status with superseded := min (e.status.superseded + 1) 18446744073709551615 } }
  let skip (x : Slot) (why : SkipReason) : List (SlotId × Mark) :=
    x.marks.map fun m => if m.2 = .pending then (m.1, .skipped why) else m
  let superseded (e : Dev) (l n : Seq) (set : List SlotId) (z : Slot) : Dev :=
    let y : Slot :=
      { z with
        marks := z.marks.map fun m => if m.1 ∈ set ∧ m.2 = .pending then (m.1, .skipped .superseded) else m
        supersededBy := some n }
    (if z.verdict = none then
      (counted (e.putSlot l { y with verdict := some .superseded })).route z.origin
        (.superseded ⟨l, z.tag, z.origin⟩ z.acked z.quorum n)
    else e.putSlot l y).evaluate l z.resolved
  (∀ (d : Dev) (r : IntentRec) (o : Option Tok) (x : Slot), d.slot? r.seq = some x → x.held = false →
     let u := d.recordPassed ⟨.intent r, o⟩
     let w : Slot := { x with written := true, holdOverflow := r.held && x.outcome != .held }
     (x.outcome = .live → x.pendingSup = none → u = (d.putSlot r.seq w).evaluate r.seq false) ∧
     (∀ (l : Seq) (z : Slot), x.outcome = .live → x.pendingSup = some l → l ≠ r.seq → d.slot? l = some z →
       u =
         ((superseded (d.putSlot r.seq w) l r.seq x.sites z).putSlot r.seq { w with pendingSup := none }).evaluate
           r.seq false) ∧
     (∀ l : Seq, x.outcome = .live → x.pendingSup = some l → l ≠ r.seq → d.slot? l = none →
       u = (d.putSlot r.seq { w with pendingSup := none }).evaluate r.seq false) ∧
     (x.pendingSup = none →
       (x.outcome = .unindexed → u = (d.putSlot r.seq { w with unindexed := x.stagedReason }).evaluate r.seq false) ∧
       (x.outcome = .stale →
         u =
           (counted (d.putSlot r.seq { w with marks := skip x .stale, verdict := some .superseded })).evaluate r.seq false) ∧
       (x.outcome = .overflowDenied → u = (d.putSlot r.seq { w with marks := skip x .denied }).evaluate r.seq false) ∧
       (x.outcome = .held →
         let limit := d.settings.mode.holdLimit
         let f : Dev :=
           (d.putSlot r.seq { w with held := true, unindexed := x.stagedReason }).route x.origin
             (.held ⟨r.seq, x.tag, x.origin⟩ r.bucket r.entry limit)
         u =
           { f with
             held := { d.held with
               entries := d.held.entries.map fun (e : HeldEntry) =>
                 if e.seq = r.seq then
                   { e with state := .waiting (if d.part = .ready then some (d.now + limit * 1000000) else none) }
                 else e } }))) ∧
  (∀ (d : Dev) (q : Seq) (dn : Decision) (o : Option Tok),
     let u := d.recordPassed ⟨.decision q dn, o⟩
     let stamp := d.stampOf q
     ((∀ e a c, d.heldEntry q = some e → e.state ≠ .deciding a c) → u = d) ∧
     (∀ (e : HeldEntry) (a : Decision) (cause : DecisionCause) (x : Slot), d.heldEntry q = some e →
       e.state = .deciding a cause → d.slot? q = some x →
       let left : Dev := { d with held := { d.held with entries := d.held.entries.filter fun e => e.seq != q } }
       let g : Dev :=
         match cause with
         | .expiry => left.route x.origin (.holdExpired ⟨q, x.tag, x.origin⟩ dn)
         | .command => left
       let y : Slot := { x with held := false }
       let answering (e : Dev) (c : ReleaseOutcome) : Dev :=
         match o with
         | some tok => e.setCont tok (.release q (some c))
         | none => e
       (dn = .denied → u = (g.putSlot q { y with marks := skip x .denied }).evaluate q x.resolved) ∧
       (dn = .released → x.unindexed ≠ none →
         u = answering (((g.putSlot q y).evaluate q false).offer q) .unindexed) ∧
       (∀ (w : Nat) (k : KeyEntry), dn = .released → x.unindexed = none → x.link = some w → Tbl.get d.index.ways w = some k →
         let h : Dev :=
           { g with index := { d.index with ways := Tbl.put d.index.ways w { k with live := some (q, stamp) } } }
         (∀ (l : Seq) (lt : Word64), k.live = some (l, lt) →
           (stamp < lt ∨ (lt = stamp ∧ q < l) →
             let z : Slot := { y with marks := skip x .stale, supersededBy := some l }
             u =
               answering
                 ((if x.verdict = none then
                   (counted (g.putSlot q { z with verdict := some .superseded })).route x.origin
                     (.superseded ⟨q, x.tag, x.origin⟩ x.acked x.quorum l)
                 else g.putSlot q z).evaluate q false) .stale) ∧
           (∀ z : Slot, ¬ (stamp < lt ∨ (lt = stamp ∧ q < l)) → l ≠ q → d.slot? l = some z →
             u = answering (((superseded (h.putSlot q y) l q x.sites z).evaluate q false).offer q) .live) ∧
           (¬ (stamp < lt ∨ (lt = stamp ∧ q < l)) → l ≠ q → d.slot? l = none →
             u = answering (((h.putSlot q y).evaluate q false).offer q) .live)) ∧
         (k.live = none → u = answering (((h.putSlot q y).evaluate q false).offer q) .live)))) ∧
  (∀ (d : Dev) (z : Staged), (∀ r, z.item ≠ .intent r) → (∀ q dn, z.item ≠ .decision q dn) → d.recordPassed z = d)

/-- R15: a verify fails: the page is invalid and joins the failed pages, its records stay in the buffer, and the third
consecutive failure, or page 63, makes the segment FULL; the third latches JOURNAL_MEDIA, with its FAULT notice. No command
is answered, and the rest of the array stays. That the failed page holds no records (log 11) is the model's choice. -/
def Obligations.FailingPageIsRetried : Prop :=
  ∀ (s : State) (t : Time) (buf : BufId) (seg num pos : Nat), s.dev.power.powered = true →
    s.dev.array.op = some (.program buf seg num pos) →
    let old := s.dev.seg seg
    let n := s.dev.journal.consecFails + 1
    ∃ u : Dev, exec (.pageProgramComplete t false) s = .next { s with dev := u.settle } ∧
      u.array.op = none ∧
      u.seg seg =
        { old with
          pages := old.pages ++ [{ num := num, pos := pos, recs := [], crcOk := false }], failed := old.failed ++ [num]
          state := if 3 ≤ n ∨ num = 63 then .full else old.state } ∧
      (∀ k, k ≠ seg → u.seg k = s.dev.seg k) ∧
      { u.array with op := s.dev.array.op, segs := s.dev.array.segs } = s.dev.array ∧
      u.journal =
        { s.dev.journal with progFails := min (s.dev.journal.progFails + 1) 65535, consecFails := n } ∧
      u.journalMedia = (s.dev.journalMedia || decide (3 ≤ n)) ∧
      (∀ q : PortId, u.ports[q] =
        if 3 ≤ n ∧ s.dev.journalMedia = false ∧ s.dev.ports[q].state = .online ∧ s.dev.settings.masks[q].getLsbD 0 = true then
          s.dev.ports[q].addNotice false (.fault .journalMedia .part)
        else s.dev.ports[q]) ∧
      { u with
        array := s.dev.array, journal := s.dev.journal, journalMedia := s.dev.journalMedia, ports := s.dev.ports } =
        s.dev.tick t

/-- R17, R27: a page read completes. With a correct CRC a dispatcher receives its record, a READ JOURNAL's record is written to its
port, and the lookup of a port's head APPEND ends, matched or with COLLISION; with a wrong one, also of a page that a start
found unreadable (log 62), the page joins its segment's failed pages, JOURNAL_MEDIA is latched, every mark of its intents that
is not ACKED becomes FAILED, a READ JOURNAL is answered NOT_FOUND, and a lookup ends UNREADABLE. R2, R16, R148: the suspension
of an erase completes, and the array is free; an erase completes, and the segment, its count increased, is BLANK, or RETIRED
when its verify fails or the count reaches 30,000. -/
def Obligations.ReadsAndErasesComplete : Prop :=
  (∀ (s : State) (t : Time) (q : ReadReq), s.dev.power.powered = true → s.dev.array.op = some (.read q) →
     let d := s.dev.tick t
     let free : Dev := { d with array := { d.array with op := none } }
     (∀ (j : SlotId) (r : IntentRec), q.who = .dispatch j q.seq → s.dev.readsBack q.seg q.page = true →
       s.dev.recordAt q.seg q.page q.seq = some r →
       exec (.pageReadComplete t true) s =
         .next { s with dev := (free.modSite j fun x =>
           { x with candidates := x.candidates.map fun (c : Candidate) =>
               if c.seq = q.seq then { c with record := some r, reading := false } else c }).settle }) ∧
     (∀ (tok : Tok) (addr : Nat) (r : IntentRec), q.who = .readJournal tok q.seq addr → s.dev.readsBack q.seg q.page = true →
       s.dev.recordAt q.seg q.page q.seq = some r →
       exec (.pageReadComplete t true) s =
         .next { s with dev := (Dev.settle { free with
           dma := s.dev.dma ++ [⟨tok.port, addr, intentBytes r, some (tok, recordSize r.key.length, true)⟩] }) }) ∧
     (∀ (p : PortId) (id way creation : Nat) (cid : Word32) (b : AppendBody) (rest : List CmdRec) (r : IntentRec),
       q.who = .lookup p id → s.dev.readsBack q.seg q.page = true → s.dev.recordAt q.seg q.page q.seq = some r →
       s.dev.ports[p].lookup = some (.reading id way creation) → s.dev.ports[p].cmdQ = ⟨cid, .append b⟩ :: rest →
       exec (.pageReadComplete t true) s =
         .next { s with dev := (free.modPort p fun x =>
           { x with
             lookup := some (.known (.found way creation (if r.key = keyOf b.keyLen b.key then .matched else .collision))) }).settle }) ∧
     (∀ (ok : Bool) (pg : Page), ((s.dev.seg q.seg).pages.find? fun x => x.num == q.page) = some pg →
       ok = false ∨ pg.crcOk = false →
       ∃ u : Dev, exec (.pageReadComplete t ok) s = .next { s with dev := u.settle } ∧
         u.array.op = none ∧ u.journalMedia = true ∧
         (u.seg q.seg).failed = (s.dev.seg q.seg).failed ++ [q.page] ∧
         (∀ (i : Seq) (x : Slot), i ∈ pg.intents → s.dev.slot? i = some x →
           ∃ y, u.slot? i = some y ∧ y.marks = x.marks.map fun e => if e.2 = .acked then e else (e.1, .failed)) ∧
         (∀ (tok : Tok) (addr : Nat) (y : Taken), q.who = .readJournal tok q.seq addr →
           (∀ x ∈ s.dev.array.reads, ¬ (x.seg = q.seg ∧ x.page = q.page)) →
           s.dev.ports[tok.port].taken = [y] → y.id = tok.id → y.discard = false →
           u.ports[tok.port].respQ = s.dev.ports[tok.port].respQ ++ [⟨y.kind, .notFound, 0, y.cid, .none⟩]) ∧
         (∀ (p : PortId) (id way creation : Nat) (cid : Word32) (b : AppendBody) (rest : List CmdRec), q.who = .lookup p id →
           (∀ x ∈ s.dev.array.reads, ¬ (x.seg = q.seg ∧ x.page = q.page)) →
           s.dev.ports[p].lookup = some (.reading id way creation) → s.dev.ports[p].cmdQ = ⟨cid, .append b⟩ :: rest →
           u.ports[p].lookup = some (.known (.found way creation .unreadable))))) ∧
  (∀ (s : State) (t : Time) (n : Nat) (ok : Bool), s.dev.power.powered = true →
     let d := s.dev.tick t
     let count := (s.dev.seg n).eraseCount + 1
     let retired := ok = false ∨ 30000 ≤ count
     let r := s.dev.reclaim
     (s.dev.array.op = some (.suspending n) →
       exec (.eraseSuspendComplete t) s =
         .next { s with dev := Dev.settle { d with array := { d.array with op := none, suspended := some n } } }) ∧
     (s.dev.tablesOk = true → s.dev.array.op = some (.erase n) →
       ∃ u : Dev, exec (.eraseComplete t ok) s = .next { s with dev := u.settle } ∧
         u.array.op = none ∧
         u.seg n = { state := if retired then .retired else .blank, eraseCount := count, failed := [], pages := [] } ∧
         (∀ k, k ≠ n → u.seg k = s.dev.seg k) ∧
         u.reclaim =
           { r with
             engine := .idle, erased := min (r.erased + 1) 65535
             wear := if ok = true ∧ 30000 ≤ count then min (r.wear + 1) 65535 else r.wear
             eraseFails := if ok = true then r.eraseFails else min (r.eraseFails + 1) 65535 } ∧
         u.journalMedia = (s.dev.journalMedia || !ok) ∧
         { u with
           array := s.dev.array, reclaim := s.dev.reclaim, journalMedia := s.dev.journalMedia, ports := s.dev.ports } = d))

/-! ## Reclaim, eviction and the arbiters -/

/-- R143 to R146: which records of a segment's pages are unspent, which segments are eligible, and which of them an IDLE engine
chooses: the lowest-numbered DAMAGED one, else the FULL one whose lowest page position is the lowest. Only the pages that have
not failed count, and a page whose CRC no read has met counts (log 62). R156, R157: under CRITICAL pressure, when nothing is
eligible, it examines one segment: that which holds U when H is at most 65,536, else the oldest FULL one that is not guarded.
The examination comes once in an event, and again after a SITE-EVENT record is placed (log 28). The first case that holds
decides: BLOCKED with GUARD or NOT_EVICTABLE without a segment that can be examined; a FRONTIER record for the records that
await a newer one, and nothing more when no other is unspent; BLOCKED with HELD; the eviction of the slot with the lowest
frontier, when all that remains awaits EVICTABLE slots; else BLOCKED with NOT_EVICTABLE. An intent that a DECISION record of the
segment names counts as in it (log 77). R158: a cause that is the last blocked notice's, in its segment, is not reported again.
The choices named by a log entry are the model's, and so is that the counts stay at 4,294,967,295 (log 18). -/
def Obligations.ReclaimEngineChoosesAndExamines : Prop :=
  (∀ (d : Dev) (n : Nat) (g : Segment),
     let later (p : Page) (i : Nat) (kind : Rec → Prop) : Prop :=
       ∃ (m : Nat) (h : Segment) (q : Page) (k : Nat) (r : Rec), (m, h) ∈ d.array.segs ∧ (h.state = .full ∨ h.state = .filling) ∧
         q ∈ h.pages ∧ q.crcOk = true ∧ q.num ∉ h.failed ∧ (p.pos < q.pos ∨ (p.pos = q.pos ∧ i < k)) ∧ q.recs[k]? = some r ∧ kind r
     let done (s : Seq) : Prop :=
       ∀ x, d.slot? s = some x → x.written = true ∧ x.held = false ∧ ∀ m ∈ x.marks, m.2 ≠ .pending ∧ m.2 ≠ .inFlight
     let spent (p : Page) (i : Nat) (r : Rec) : Prop :=
       match r with
       | .intent x => done x.seq
       | .decision s _ => done s
       | .settings _ => later p i fun r => ∃ c, r = .settings c
       | .frontier _ | .siteEvent .. => later p i fun r => ∃ f, r = .frontier f
       | .shutdown _ | .resume _ => later p i fun _ => True
     let unspent (r : Rec) : Prop := ∃ p ∈ g.pages, p.num ∉ g.failed ∧ ∃ i, p.recs[i]? = some r ∧ ¬ spent p i r
     let guarded : Prop := d.settings.guardMap.getLsbD (n / 32) = true ∧ (d.guard.software = true ∨ d.guard.filtered = true)
     (∀ r, r ∈ d.unspent g ↔ unspent r) ∧ (d.guarded n = true ↔ guarded) ∧
       (d.eligible n g = true ↔ (g.state = .damaged ∨ (g.state = .full ∧ ∀ r, ¬ unspent r)) ∧ ¬ guarded)) ∧
  (∀ d : Dev, d.tablesOk = true →
     let can (n : Nat) (g : Segment) : Prop := (n, g) ∈ d.array.segs ∧ d.eligible n g = true
     (∀ n, d.reclaimChoice = some n →
       ∃ g, can n g ∧
         (g.state = .damaged → ∀ m h, can m h → h.state = .damaged → n ≤ m) ∧
         (g.state ≠ .damaged → ∀ m h, can m h → h.state ≠ .damaged ∧ g.lowestPos ≤ h.lowestPos)) ∧
     (d.reclaimChoice = none → ∀ m h, ¬ can m h) ∧
     (d.reclaim.engine ≠ .idle → d.reclaimStep = none) ∧
     (d.reclaim.engine = .idle →
       (∀ n, d.reclaimChoice = some n → d.reclaimStep = some { d with reclaim := { d.reclaim with engine := .waiting n } }) ∧
       (d.reclaimChoice = none →
         d.reclaimStep =
           if (d.free ≤ d.settings.criticalReserve ∨ d.headroom ≤ 65536) ∧ d.examined = false ∧
               d.journal.ctrlQ.all (fun r => !r.isSiteEvent) = true then some d.examine
           else none))) ∧
  (∀ d : Dev, d.tablesOk = true →
     let seg := d.examinedSegment
     (d.headroom ≤ 65536 →
       ∃ n g, seg = some n ∧ (n, g) ∈ d.array.segs ∧ (g.state = .full ∨ g.state = .filling) ∧ d.lowest ∈ g.intents) ∧
     (65536 < d.headroom →
       (∀ n, seg = some n →
         ∃ g, (n, g) ∈ d.array.segs ∧ g.state = .full ∧ d.guarded n = false ∧
           ∀ e ∈ d.array.segs, e.2.state = .full → d.guarded e.1 = false → g.lowestPos ≤ e.2.lowestPos) ∧
       (seg = none → ∀ e ∈ d.array.segs, e.2.state = .full → d.guarded e.1 = true))) ∧
  (∀ d : Dev,
     let u := d.examine
     let e : Dev := { d with examined := true }
     let told (f : Dev) (c : BlockCause) (seg : Option Nat) (heldSeq : Option Seq) (slot : Option SlotId) : Prop :=
       if d.reclaim.lastBlocked = some (c, seg) then u = f
       else
         { u with ports := f.ports } =
             { f with
               reclaim := { d.reclaim with
                 lastBlocked := some (c, seg), pressureNotices := min (d.reclaim.pressureNotices + 1) 4294967295 } } ∧
           ∀ p : PortId, u.ports[p] =
             if d.ports[p].state = .online then
               d.ports[p].addNotice false
                 (.blocked d.free d.headroom d.level d.settings.lowWatermark d.settings.criticalReserve c seg
                   (seg.map fun n => n / 32) heldSeq slot)
             else d.ports[p]
     (d.examinedSegment = none →
       told e (if d.array.segs.any (fun g => g.2.state == .full) then .guard else .notEvictable) none none none) ∧
     (∀ n, d.examinedSegment = some n →
       let l := d.unspent (d.seg n)
       let awaits (r : Rec) : Prop :=
         (∃ f, r = .frontier f) ∨ (∃ j st q, r = .siteEvent j st q) ∨ (∃ c, r = .shutdown c) ∨ ∃ c, r = .resume c
       let named (s : Seq) : Prop := (∃ r, .intent r ∈ l ∧ r.seq = s) ∨ ∃ a, .decision s a ∈ l
       let open_ (j : SlotId) : Prop :=
         ∃ s x, named s ∧ d.slot? s = some x ∧ (x.mark j = some .pending ∨ x.mark j = some .inFlight)
       let held (s : Seq) : Prop := named s ∧ ∃ x, d.slot? s = some x ∧ x.held = true
       let holdsUp (w : Option SlotId) : Prop :=
         match w with
         | none => ∀ j, open_ j → (d.config j).evictable = true
         | some j => open_ j ∧ (d.config j).evictable = false ∧ ∀ k, open_ k → (d.config k).evictable = false → j ≤ k
       ((d.seg n).state = .filling → ∃ w, holdsUp w ∧ told e .notEvictable (some n) none w) ∧
       ((d.seg n).state ≠ .filling → d.guarded n = true → told e .guard (some n) none none) ∧
       (∀ f : Dev, (d.seg n).state ≠ .filling → d.guarded n = false →
         ((∃ r ∈ l, awaits r) → f = e.raiseFrontier) → ((∀ r ∈ l, ¬ awaits r) → f = e) →
         let all : Prop := (∀ r ∈ l, ¬ awaits r → ∃ s, r.about = some s) ∧ (∀ j, open_ j → (d.config j).evictable = true)
         ((∀ r ∈ l, awaits r) → u = f) ∧
         (∀ s, held s → (∀ q, held q → s ≤ q) → told f .held (some n) (some s) none) ∧
         ((∃ r ∈ l, ¬ awaits r) → (∀ s, ¬ held s) →
           (∀ j, all → open_ j →
             (∀ k, open_ k → d.frontierOf j < d.frontierOf k ∨ (d.frontierOf j = d.frontierOf k ∧ j ≤ k)) →
             u = Dev.evictSlot j { f with reclaim := { f.reclaim with evictions := min (f.reclaim.evictions + 1) 4294967295 } }) ∧
           (¬ all ∨ (∀ j, ¬ open_ j) → ∃ w, holdsUp w ∧ told f .notEvictable (some n) none w)))))

/-- R79, R81, R97, R113: the eviction of a slot, from any state: each open mark of the slot becomes SKIPPED(EVICTED), also of a
STAGED and of a held intent, and no other mark changes; a WRITTEN intent whose mark changed is evaluated. The in-flight list,
the candidates, the due resends and the send are discarded, the credit is 0, the cursor and the frontier go to tail + 1, probing
stops and the slot is EVICTED; its eviction mark is set, and its fence mark stays (log 79, the model's choice). The credits of
its generator's members are limited to their new caps. Each ONLINE port receives SITE_STATE before any verdict notice, and the
SITE-EVENT record enters the control queue. -/
def Obligations.EvictionEndsASlot : Prop :=
  ∀ (d : Dev) (j : SlotId), d.tablesOk = true →
    let u := d.evictSlot j
    let x := d.sites[j]
    let c := d.settings.sites[j]
    let next := d.journal.nextSeq
    u.settings = { d.settings with sites := d.settings.sites.set j { c with evictMark := true } } ∧
      u.sites[j] =
        { x with
          state := .evicted, cursor := next, frontier := some next, candidates := [], inFlight := [], resends := []
          send := none, credit := 0, probeDue := none } ∧
      (∀ k : SlotId, k ≠ j →
        u.sites[k] =
          if u.isMember c.gen k = true then { d.sites[k] with credit := min d.sites[k].credit (u.cap k : Nat) }
          else d.sites[k]) ∧
      (∀ q, d.slot? q = none → u.slot? q = none) ∧
      (∀ (q : Seq) (y : Slot), d.slot? q = some y →
        let z : Slot :=
          { y with
            marks := y.marks.map fun m =>
              if m.1 = j ∧ (m.2 = .pending ∨ m.2 = .inFlight) then (j, .skipped .evicted) else m }
        let hit : Prop := y.mark j = some .pending ∨ y.mark j = some .inFlight
        let acked := (z.marks.filter fun m => m.2 = .acked).length
        let open_ := (z.marks.filter fun m => m.2 = .pending ∨ m.2 = .inFlight).length
        (¬ hit → u.slot? q = some y) ∧
        (hit → y.written = false → u.slot? q = some z) ∧
        (hit → y.written = true →
          u.slot? q =
            some { z with
              link := if y.held = false ∧ open_ = 0 then none else y.link
              verdict :=
                if y.held = true ∨ y.verdict ≠ none then y.verdict
                else if y.quorum ≤ acked then some .durable
                else if acked + open_ < y.quorum then some .shortfall else none })) ∧
      (∀ p : PortId,
        let told : Port :=
          if d.ports[p].state = .online then d.ports[p].addNotice false (.siteState j c.site x.state .evicted .eviction)
          else d.ports[p]
        told.noticeQ <+: u.ports[p].noticeQ ∧
          { u.ports[p] with noticeQ := told.noticeQ, noticeNumber := told.noticeNumber, lost := told.lost } = told) ∧
      u.journal = { d.journal with ctrlQ := d.journal.ctrlQ ++ [.siteEvent j (.state .evicted) 0] } ∧
      { u with
        settings := d.settings, sites := d.sites, ports := d.ports, partLost := d.partLost, journal := d.journal
        index := d.index, status := d.status } = d

/-- R167, R170: the intake arbiter grants, when no command holds the grant and no control record waits, the ready command of the
first port after the one granted last. R3, R16, R147, R149: the array arbiter starts, when the array is free, the oldest
program, for which a FILLING segment or a BLANK one is there, else the oldest read, else the suspended erase, else the requested
one if its target is still eligible, and suspends a running erase for a program or a read; while the part is not READY it starts
programs alone. The BLANK segment is the one with the lowest erase count, and the lowest-numbered of them. A waiting read whose
page has failed or gone ends without a record: the model's choice (log 12). The counts stay at 4,294,967,295: the model's choice
(log 18). -/
def Obligations.IntakeAndArrayArbitersChoose : Prop :=
  (∀ (d : Dev) (p : PortId),
     let ready (q : PortId) : Prop :=
       (∀ y ∈ d.ports[q].taken, y.holds = false) ∧ d.ports[q].state = .online ∧
         ∃ c rest, d.ports[q].cmdQ = c :: rest ∧ usesArbiter c.body = true ∧
           ∀ b, c.body = .append b → 1 ≤ b.keyLen → b.keyLen ≤ 240 → ∃ o, d.ports[q].lookup = some (.known o)
     let far (q : PortId) : Nat := (q.val + 3 - d.intake.last.val) % 4
     let may : Prop := d.part = .ready ∧ d.intake.grant = none ∧ d.journal.ctrlQ = []
     (d.grantChoice = some p ↔ may ∧ ready p ∧ ∀ q, ready q → far p ≤ far q) ∧
       (d.grantChoice = none ↔ ¬ may ∨ ∀ q, ¬ ready q)) ∧
  (∀ (a : ArrayBlk) (n : Nat), Tbl.ascending a.segs = true → a.chooseBlank = some n →
     (a.seg n).state = .blank ∧
       ∀ m, m < 2048 → (a.seg m).state = .blank →
         (a.seg n).eraseCount < (a.seg m).eraseCount ∨ ((a.seg n).eraseCount = (a.seg m).eraseCount ∧ n ≤ m)) ∧
  (∀ d : Dev,
     let target : Option Nat :=
       match d.array.filling with
       | some n => some n
       | none => d.array.chooseBlank
     let program : Prop := d.journal.progQ ≠ [] ∧ target ≠ none
     (∀ n, d.array.op = some (.erase n) →
       (d.part = .ready → program ∨ d.array.reads ≠ [] →
         ∃ u : Dev, d.arbitrate = some u ∧ u.array.op = some (.suspending n) ∧
           u.seg n = { d.seg n with state := .suspended } ∧ (∀ k, k ≠ n → u.seg k = d.seg k) ∧
           u.reclaim = { d.reclaim with suspensions := min (d.reclaim.suspensions + 1) 4294967295 } ∧
           { u.array with op := d.array.op, segs := d.array.segs } = d.array ∧
           { u with array := d.array, reclaim := d.reclaim } = d) ∧
       (d.part ≠ .ready ∨ (¬ program ∧ d.array.reads = []) → d.arbitrate = none)) ∧
     (∀ o, d.array.op = some o → (∀ n, o ≠ .erase n) → d.arbitrate = none) ∧
     (∀ (buf : BufId) (rest : List BufId) (n : Nat), d.array.op = none → d.journal.progQ = buf :: rest → target = some n →
       ∃ u : Dev, d.arbitrate = some u ∧ u.array.op = some (.program buf n (d.seg n).pages.length d.journal.nextPos) ∧
         u.seg n = { d.seg n with state := .filling } ∧ (∀ k, k ≠ n → u.seg k = d.seg k) ∧
         u.journal =
           { d.journal with
             nextPos := d.journal.nextPos + 1
             consecFails := if (d.seg n).state = .filling then d.journal.consecFails else 0 } ∧
         { u.array with op := d.array.op, segs := d.array.segs } = d.array ∧
         { u with array := d.array, journal := d.journal } = d) ∧
     (d.array.op = none → ¬ program → d.part ≠ .ready → d.arbitrate = none) ∧
     (d.array.op = none → ¬ program → d.part = .ready →
       (∀ (r : ReadReq) (rest : List ReadReq), d.array.reads = r :: rest →
         let e : Dev := { d with array := { d.array with reads := rest } }
         let there : Prop := ∃ g ∈ d.array.segs, g.1 = r.seg ∧ (g.2.state = .full ∨ g.2.state = .filling) ∧
           ∃ p ∈ g.2.pages, p.num = r.page ∧ p.num ∉ g.2.failed
         (there → d.arbitrate = some { e with array := { e.array with op := some (.read r) } }) ∧
         (¬ there → d.arbitrate = some (e.readEnded r none))) ∧
       (∀ n, d.array.reads = [] → d.array.suspended = some n →
         ∃ u : Dev, d.arbitrate = some u ∧ u.array.op = some (.erase n) ∧ u.array.suspended = none ∧
           u.seg n = { d.seg n with state := .reclaiming } ∧ (∀ k, k ≠ n → u.seg k = d.seg k) ∧
           { u.array with op := d.array.op, segs := d.array.segs, suspended := d.array.suspended } = d.array ∧
           { u with array := d.array } = d) ∧
       (∀ n, d.array.reads = [] → d.array.suspended = none → d.reclaim.engine = .waiting n →
         (d.eligible n (d.seg n) = false →
           d.arbitrate =
             some { d with
               reclaim := { d.reclaim with engine := .idle, withdrawn := min (d.reclaim.withdrawn + 1) 4294967295 } }) ∧
         (d.tablesOk = true → d.eligible n (d.seg n) = true →
           ∃ u : Dev, d.arbitrate = some u ∧ u.array.op = some (.erase n) ∧
             u.seg n = { d.seg n with state := .reclaiming } ∧ (∀ k, k ≠ n → u.seg k = d.seg k) ∧
             u.reclaim = { d.reclaim with engine := .erasing n } ∧
             { u.array with op := d.array.op, segs := d.array.segs } = d.array ∧
             { u.status with slots := d.status.slots } = d.status ∧
             ((d.seg n).state ≠ .full → u.status = d.status ∧ u.journal = d.journal) ∧
             ((d.seg n).state = .full →
               (∀ q, u.slot? q = if q ∈ (d.seg n).intents then none else d.slot? q) ∧
               u.journal =
                 { d.journal with
                   tailCache := d.journal.tailCache.filter fun x =>
                     !((d.seg n).pages.any fun p => p.crcOk && !(d.seg n).failed.contains p.num && p.pos == x) }) ∧
             { u with array := d.array, status := d.status, journal := d.journal, reclaim := d.reclaim } = d)) ∧
       (d.array.reads = [] → d.array.suspended = none → (∀ n, d.reclaim.engine ≠ .waiting n) → d.arbitrate = none)))

/-- R134 to R136: the delivery arbiter takes the WAITING_LANDING arrivals in completion order, and gives the first for which a port
qualifies to the first such port after the one chosen last, with that port's oldest descriptor that is large enough. The delivery
starts: the attempt is counted, the comparison refreshed from the live stamp of the entry that the lookup found, if it still
holds the key, and the landing header and the payload are written. The attempt has no largest value (log 18), and a stored
lookup whose entry has gone stays (log 75): the model's choices. R68, R70, R71: a dispatcher examines the sequence at its
cursor, and waits at a STAGED slot; what it finds becomes a candidate or not. A send in progress goes on; else the first due
resend begins that may, a whole-intent one waiting for the end of a BUSY pause; else the lowest candidate's first send, when its
record and payload are ready, no pause runs and the window permits. -/
def Obligations.DeliveriesAndDispatchersChoose : Prop :=
  (∀ d : Dev,
     let waiting (a : Arrival) : Prop := a ∈ d.inbound.arrivals ∧ a.state = .waitingLanding
     let fits (a : Arrival) (l : Landing) : Prop := 512 + a.desc.payloadLen ≤ l.capacity
     let takes (a : Arrival) (p : PortId) : Prop :=
       d.ports[p].state = .online ∧
         (∀ b ∈ d.inbound.arrivals, b.state = .delivering → b.delivery.map (fun x => x.1) ≠ some p) ∧
         ∃ l ∈ d.ports[p].landings, fits a l
     let far (q : PortId) : Nat := (q.val + 3 - d.inbound.lastPort.val) % 4
     (∀ a p, d.nextDelivery = some (a, p) →
       waiting a ∧ takes a p ∧ (∀ q, takes a q → far p ≤ far q) ∧ ∀ b q, waiting b → b.order < a.order → ¬ takes b q) ∧
     (d.nextDelivery = none → ∀ a q, waiting a → ¬ takes a q) ∧
     (∀ (a : Arrival) (p : PortId) (before after : List Landing) (l : Landing) (site : Nat),
       d.ports[p].landings = before ++ l :: after → (∀ x ∈ before, ¬ fits a x) → fits a l →
       d.settings.sites[a.slot].site = some site →
       let live : Option (Option (Seq × Word64)) :=
         match a.lookup with
         | .found w c =>
           (Tbl.get d.index.ways w).bind fun e =>
             if e.creation = c ∧ e.bucket = a.desc.bucket ∧ e.keyHash = a.desc.keyHash ∧ e.keyLen = a.desc.keyLen then some e.live
             else none
         | _ => none
       let c : LocalCompare :=
         match live with
         | some (some (_, t)) => if a.desc.stamp < t then .newer else .older
         | _ => .none
       let stamp : Nat :=
         match live with
         | some (some (_, t)) => t.toNat
         | _ => 0
       let b : Arrival := { a with state := .delivering, delivery := some (p, l), attempt := a.attempt + 1, compare := some c }
       d.startDelivery a p =
         { d with
           inbound := { d.inbound with
             arrivals := d.inbound.arrivals.map fun (x : Arrival) => if x.id = a.id then b else x
             lastPort := p
             counts := { d.inbound.counts with deliveries := min (d.inbound.counts.deliveries + 1) 18446744073709551615 } }
           ports := d.ports.set p { d.ports[p] with landings := before ++ after }
           dma := d.dma ++ [⟨p, l.addr, landingHeader b l.id site c stamp ++ a.chunks.flatMap fun x => x.2, none⟩] })) ∧
  (∀ (d : Dev) (j : SlotId),
     let x := d.sites[j]
     let pause : Prop := ∃ t, x.busyEnd = some t ∧ d.now < t
     let found (y : Slot) : Prop := y.mark j = some .pending ∧ y.held = false ∧ y.fetchBlocked = false
     (d.canExamine j = true ↔
       x.state = .active ∧ x.cursor < d.journal.nextSeq ∧ x.candidates.length < 4 ∧
         ∀ y, d.slot? x.cursor = some y → y.written = true) ∧
     (∀ l : List Candidate, ((∃ y, d.slot? x.cursor = some y ∧ found y) → l = [{ seq := x.cursor }]) →
       ((∀ y, d.slot? x.cursor = some y → ¬ found y) → l = []) →
       d.examineCursor j = d.modSite j fun z => { z with cursor := x.cursor + 1, candidates := x.candidates ++ l }) ∧
     (x.state ≠ .active → d.nextSend j = none) ∧
     (x.state = .active →
       (∀ k, x.send = some k → d.nextSend j = some (k, x.resends)) ∧
       (∀ (before after : List Resend) (r : Resend) (e : InFlight), x.send = none → x.resends = before ++ r :: after →
         (∀ y ∈ before, y.chunks = none ∧ pause) → r.chunks ≠ none ∨ ¬ pause → x.entry r.seq = some e →
         let pieces : List Piece :=
           match r.chunks with
           | none => .opening :: (List.range ((e.record.payloadLen + 8191) / 8192)).map .chunk
           | some l => l.map .chunk
         d.nextSend j = some (⟨r.seq, pieces⟩, before ++ after)) ∧
       (x.send = none → (∀ y ∈ x.resends, y.chunks = none ∧ pause) →
         (x.candidates = [] → d.nextSend j = none) ∧
         (∀ (c : Candidate) (rest : List Candidate), x.candidates = c :: rest →
           let size (r : IntentRec) : Nat :=
             64 + recordSize r.key.length + 64 * ((r.payloadLen + 8191) / 8192) + r.payloadLen
           let may (r : IntentRec) : Prop :=
             c.record = some r ∧ (r.kind = .delete ∨ ∃ e ∈ d.fetch.cache, e.seq = c.seq) ∧ ¬ pause ∧ x.inFlight.length < 4096 ∧
               ((x.inFlight.map fun e => e.size).sum + size r ≤ d.window j ∨ x.inFlight = [])
           (∀ r, may r →
             d.nextSend j =
               some (⟨c.seq, .opening :: (List.range ((r.payloadLen + 8191) / 8192)).map .chunk⟩, x.resends)) ∧
           ((∀ r, ¬ may r) → d.nextSend j = none)))))

/-! ## The journal: timers -/

/-- R13, R14: the commit timer expires: the FILLING buffer goes to PROGRAMMING, behind the buffers that wait already, and the timer
stops. The expiry comes when the timer is due (log 2). It does not come while a quiesce is in its steps 1 to 4: the model's
choice (log 86). R43, R51, R120: the checkpoint timer expires; and the deadline of a WAITING held intent, whose DECISION record,
with the expiry action, enters the control queue. Both run in READY, and come when they are due (log 2). R120: when a frontier
has changed and the timer has expired or 1,024 intents have been resolved, a FRONTIER record of the slots' states and frontiers
is raised, the mark is cleared, the count starts again at 0 and the timer at 250 ms. The test comes once after all that one effect
resolves: the model's choice (log 96). -/
def Obligations.JournalTimersExpire : Prop :=
  (∀ (s : State) (due : Time), s.dev.power.powered = true → s.dev.part ≠ .starting → s.dev.journal.commitDue = some due →
     s.dev.journal.buffersOk = true →
     let quiescing := s.dev.part = .quiescing ∧ (s.dev.power.phase = .placing ∨ s.dev.power.phase = .frontierPlaced)
     (quiescing → exec .commitTimerExpiry s = .next s) ∧
     (¬ quiescing → s.dev.journal.bufA.state = .filling →
       exec .commitTimerExpiry s =
         .next { s with dev := Dev.settle { s.dev.tick due with
           journal := { s.dev.journal with
             bufA := { s.dev.journal.bufA with state := .programming }, progQ := s.dev.journal.progQ ++ [.a]
             commitDue := none } } }) ∧
     (¬ quiescing → s.dev.journal.bufB.state = .filling →
       exec .commitTimerExpiry s =
         .next { s with dev := Dev.settle { s.dev.tick due with
           journal := { s.dev.journal with
             bufB := { s.dev.journal.bufB with state := .programming }, progQ := s.dev.journal.progQ ++ [.b]
             commitDue := none } } })) ∧
  (∀ (s : State) (due : Time), s.dev.up →
     (s.dev.status.checkpoint = .running due →
       exec .checkpointTimerExpiry s =
         .next { s with dev := Dev.settle { s.dev.tick due with
           status := { s.dev.status with checkpoint := .expired } } }) ∧
     (∀ q : Seq, s.dev.heldEntry q = some ⟨q, .waiting (some due)⟩ →
       exec (.holdDeadlineExpiry q) s =
         .next { s with dev := Dev.settle { s.dev.tick due with
           held := { s.dev.held with
             entries := s.dev.held.entries.map fun (e : HeldEntry) =>
               if e.seq = q then { e with state := .deciding s.dev.settings.mode.expiryAction .expiry } else e }
           journal := { s.dev.journal with
             ctrlQ := s.dev.journal.ctrlQ ++ [.decision q s.dev.settings.mode.expiryAction] } } })) ∧
  (∀ d : Dev,
     let due := d.status.frontierChanged = true ∧ (d.status.checkpoint = .expired ∨ 1024 ≤ d.status.resolutions)
     let r : Rec := .frontier (d.sites.map fun x => (x.state, x.frontier))
     (¬ due → d.checkpointIfDue = d) ∧
     (due →
       d.checkpointIfDue =
         { d with
           journal := { d.journal with
             ctrlQ :=
               if d.journal.ctrlQ.any Rec.isFrontier then d.journal.ctrlQ.map fun x => if x.isFrontier then r else x
               else d.journal.ctrlQ ++ [r] }
           status := { d.status with
             frontierChanged := false, resolutions := 0, checkpoint := .running (d.now + 250000)
             lastFrontier := some d.now } }))

/-! ## Span frames and peer sites: events -/

/-- R61, R64: the checks of a frame that arrives, in their order; the first that fails decides. BAD_FRAME brings a frame as bytes:
it fails check 1, or it is what its bytes spell. R199: an OPEN whose kind code is outside its table fails check 5. (The other
checks of an OPEN's and a CARRY's contents that R127 and R131 give are made after R65.) The bad-frame and foreign counters stay
at 2^32 - 1 and the stale counter at 2^64 - 1: the model's choice (log 18). R65: a frame other than HELLO or HELLO-ACK that
passes R64, at a slot whose peer start count is absent or differs from the frame's. The stale counter stays at 2^64 - 1: the
model's choice (log 18). -/
def Obligations.FramesAreChecked : Prop :=
  (∀ (s : State) (t : Time) (sp : SpanId), s.dev.power.powered = true →
     let d := s.dev.tick t
     let up (k : Nat) : Nat := min (k + 1) 18446744073709551615
     let up32 (k : Nat) : Nat := min (k + 1) 4294967295
     let bad : Host.Outcome State Fault Refusal :=
       .next { s with dev := Dev.settle { d with
         span := s.dev.span.set sp { s.dev.span[sp] with badFrames := up32 s.dev.span[sp].badFrames } } }
     let wrong (l : List Byte) : Prop :=
       l.length < 64 ∨ fieldAt 0 4 l ≠ 0x5A3C9E17 ∨ fieldAt 4 1 l ≠ 1 ∨ fieldAt 16 4 l ≠ l.length ∨
         fieldAt 20 4 l ≠ (crc32 (l.take 20 ++ zeros 4 ++ l.drop 24)).toNat
     let protocol (c : Instr) (j : SlotId) (site : Nat) : Prop :=
       ∃ u : Dev, exec c s = .next { s with dev := u.settle } ∧
         u.sites = s.dev.sites.set j { s.dev.sites[j] with protocol := true } ∧
         (∀ q : PortId, u.ports[q] =
           if s.dev.sites[j].protocol = false ∧ s.dev.ports[q].state = .online ∧ s.dev.settings.masks[q].getLsbD 6 = true then
             s.dev.ports[q].addNotice false (.fault .protocol (.slot j (some site)))
           else s.dev.ports[q]) ∧
         { u with sites := s.dev.sites, ports := s.dev.ports } = d
     (∀ l : List Byte, wrong l → exec (.badFrame t sp l) s = bad) ∧
     (∀ (l : List Byte) (h : FrameHdr) (b : InBody) (c : Instr), ¬ wrong l → parseFrame l = some (h, b) →
       arrives c = some (t, sp, h, b) → exec (.badFrame t sp l) s = exec c s) ∧
     (∀ (l : List Byte) (h : FrameHdr) (code : Nat) (j : SlotId), parseFrame l = some (h, .malformed code) →
       s.dev.settings.localSite = some h.receiver → s.dev.hearsAt j h.sender →
       s.dev.sites[j].state ≠ .probing ∨ code = 1 ∨ code = 2 → protocol (.badFrame t sp l) j h.sender) ∧
     (∀ (c : Instr) (h : FrameHdr) (b : InBody), arrives c = some (t, sp, h, b) →
       (s.dev.settings.localSite ≠ some h.receiver → exec c s = bad) ∧
       (s.dev.settings.localSite = some h.receiver →
         (∀ j : SlotId, (s.dev.siteState j).hears = true → s.dev.settings.sites[j].site ≠ some h.sender) →
         exec c s = .next { s with dev := Dev.settle { d with foreign := up32 s.dev.foreign } }) ∧
       (∀ j : SlotId, s.dev.settings.localSite = some h.receiver → s.dev.hearsAt j h.sender →
         (s.dev.sites[j].state = .probing → (∀ n, b ≠ .hello n) → (∀ n, b ≠ .helloAck n) →
           exec c s = .next { s with dev := (d.modSite j fun x => { x with stale := up x.stale }).settle }) ∧
         ((∃ n, b = .hello n ∧ n ≠ h.receiver) → protocol c j h.sender) ∧
         (s.dev.sites[j].state ≠ .probing →
           (∃ l, b = .receipt l ∧ (l = [] ∨ 64 < l.length)) ∨
             (∃ q l, b = .gap q l ∧ (l = [] ∨ 32 < l.length ∨ ∃ r ∈ l, r.2 < r.1)) ∨
             (∃ n o, b = .opening n o ∧ (n < 192 ∨ 416 < n ∨ n % 16 ≠ 0 ∨ o.kind = 0 ∨ 3 < o.kind)) ∨
             (∃ q k data, b = .carry q k data ∧ (data = [] ∨ 8192 < data.length)) →
           protocol c j h.sender)))) ∧
  (∀ (s : State) (c : Instr) (t : Time) (sp : SpanId) (h : FrameHdr) (b : InBody) (j : SlotId), s.dev.up →
     arrives c = some (t, sp, h, b) → (∀ n, b ≠ .hello n) → (∀ n, b ≠ .helloAck n) →
     s.dev.settings.localSite = some h.receiver → s.dev.hearsAt j h.sender → s.dev.sites[j].state ≠ .probing →
     b.badContents h.receiver = false →
     s.dev.sites[j].peerStart = none ∨ (∃ n, s.dev.sites[j].peerStart = some n ∧ n ≠ h.start) →
       exec c s =
         .next { s with dev :=
           ((s.dev.tick t).modSite j fun x => { x with stale := min (x.stale + 1) 18446744073709551615 }).settle })

/-- R66, R67, R138: a HELLO is answered with a HELLO-ACK; it and a matching HELLO-ACK bring the peer's start count, and a new one
at an ACTIVE slot is a peer restart; a matching HELLO-ACK brings a PROBING or STALLED slot to ACTIVE; one that does not match,
or that comes to an EVICTED slot, is stale. A count that is first recorded clears the gap counts and restarts the silence timers, as
a peer restart does; a recorded count that changes at a slot that is not ACTIVE does so too (log 33), and the stale counter stays
at 2^64 - 1 (log 18): the model's choices. -/
def Obligations.HelloAndHelloAckRecordThePeer : Prop :=
  ∀ (s : State) (t : Time) (sp : SpanId) (h : FrameHdr) (j : SlotId), s.dev.up → s.dev.settings.localSite = some h.receiver →
    s.dev.hearsAt j h.sender →
    let d := s.dev.tick t
    let x := s.dev.sites[j]
    let out := s.dev.settings.sites[j].spanPort
    let f : Frame := ⟨h.receiver, h.sender, s.dev.power.startCount, .helloAck h.start⟩
    let queue : List Frame := s.dev.span[out].ctrlQ
    let answered : Vector SpanPort 2 :=
      s.dev.span.set out { s.dev.span[out] with ctrlQ := if queue.length < 4096 then queue ++ [f] else queue }
    let told : Inbound :=
      if x.peerStart = some h.start then s.dev.inbound
      else
        { s.dev.inbound with
          arrivals := s.dev.inbound.arrivals.map fun (a : Arrival) =>
            if a.slot = j ∧ a.state = .assembling then
              { a with gaps := 0, silenceDue := a.silenceDue.map fun _ => d.now + 20000 }
            else a }
    let restarts : Prop := x.state = .active ∧ ∃ n, x.peerStart = some n ∧ n ≠ h.start
    let restarted (c : Instr) (span : Vector SpanPort 2) : Prop :=
      ∃ u : Dev, exec c s = .next { s with dev := u.settle } ∧
        u.sites =
          s.dev.sites.set j
            { x with
              inFlight := [], resends := [], send := none, candidates := [], cursor := u.frontierOf j
              peerStart := some h.start } ∧
        (∀ (q : Seq) (y : Slot), s.dev.slot? q = some y →
          let back := y.mark j = some .inFlight ∧ ∃ e ∈ x.inFlight, e.seq = q
          ∃ z, u.slot? q = some z ∧ (back → z.mark j = some .pending) ∧ (¬ back → z.mark j = y.mark j) ∧
            ∀ k, k ≠ j → z.mark k = y.mark k) ∧
        u.inbound = told ∧ u.span = span ∧
        (x.inFlight = [] → ∀ q : PortId, u.ports[q] =
          if s.dev.ports[q].state = .online then
            s.dev.ports[q].addNotice false (.siteState j (some h.sender) .active .active .peerRestart)
          else s.dev.ports[q]) ∧
        u.settings = s.dev.settings ∧ u.journal = s.dev.journal ∧ u.array = s.dev.array ∧ u.held = s.dev.held
    let recorded (span : Vector SpanPort 2) : Dev :=
      { d with span := span, inbound := told, sites := s.dev.sites.set j { x with peerStart := some h.start } }
    let stale : Host.Outcome State Fault Refusal :=
      .next { s with dev := (d.modSite j fun x => { x with stale := min (x.stale + 1) 18446744073709551615 }).settle }
    (restarts → restarted (.helloReceived t sp h h.receiver) answered) ∧
    (¬ restarts → exec (.helloReceived t sp h h.receiver) s = .next { s with dev := (recorded answered).settle }) ∧
    (∀ n, n ≠ s.dev.power.startCount ∨ x.state = .evicted → exec (.helloAckReceived t sp h n) s = stale) ∧
    (∀ n, n = s.dev.power.startCount →
      (restarts → restarted (.helloAckReceived t sp h n) s.dev.span) ∧
      (x.state = .active → ¬ restarts →
        exec (.helloAckReceived t sp h n) s = .next { s with dev := (recorded s.dev.span).settle }) ∧
      (x.state = .probing ∨ x.state = .stalled →
        ∃ u : Dev, exec (.helloAckReceived t sp h n) s = .next { s with dev := u.settle } ∧
          (let y : Site :=
            { x with
              state := .active, peerStart := some h.start, probeCount := 0, busyCount := 0, busyEnd := none, probeDue := none }
           ∀ k : SlotId, u.sites[k] =
             (let z := if k = j then y else s.dev.sites[k]
              if u.isMember (s.dev.config j).gen k = true then { z with credit := min z.credit (u.cap k : Nat) } else z)) ∧
          (∀ q : PortId, u.ports[q] =
            if s.dev.ports[q].state = .online then
              s.dev.ports[q].addNotice false (.siteState j (some h.sender) x.state .active .probeAnswered)
            else s.dev.ports[q]) ∧
          u.inbound = told ∧
          { u with sites := s.dev.sites, ports := s.dev.ports, inbound := s.dev.inbound } = d))

/-- R77, R98, R111: a RECEIPT from a slot that is not PROBING and whose start count is known: its entries are taken in their
order. An entry with an in-flight entry removes it, closes the mark, gives a round-trip sample when the intent was sent once,
and, with outcome STORED, ends the BUSY pause; any other is a duplicate, and an outcome that is not one of the three latches
PROTOCOL as well. The duplicates counter stays at 2^64 - 1: the model's choice (log 18). -/
def Obligations.ReceiptClosesTheMark : Prop :=
  (∀ (s : State) (t : Time) (sp : SpanId) (h : FrameHdr) (j : SlotId) (l : List (Nat × Nat)), s.dev.up →
    s.dev.settings.localSite = some h.receiver → s.dev.hearsAt j h.sender → s.dev.sites[j].state ≠ .probing →
    s.dev.sites[j].peerStart = some h.start → l ≠ [] → l.length ≤ 64 →
      exec (.receiptReceived t sp h l) s =
        .next { s with dev := (l.foldl (fun d e => d.takeReceipt j e.1 e.2) (s.dev.tick t)).settle }) ∧
  (∀ (d : Dev) (j : SlotId) (q : Seq) (code : Nat),
    let x := d.sites[j]
    let u := d.takeReceipt j q code
    let duplicate (y : Site) : Site := { y with duplicates := min (y.duplicates + 1) 18446744073709551615 }
    let known := code = 1 ∨ code = 2 ∨ code = 3
    (known → x.entry q = none → u = d.modSite j duplicate) ∧
    (¬ known →
      u.sites = d.sites.set j (duplicate { x with protocol := true }) ∧ u.status = d.status ∧ u.index = d.index) ∧
    (known → ∀ e : InFlight, x.entry q = some e →
      u.sites =
        d.sites.set j
          { x with
            inFlight := x.inFlight.filter fun y => y.seq != q
            resends := x.resends.filter fun y => y.seq != q
            send := x.send.filter fun y => y.seq != q
            rtt :=
              match e.sentOnce, e.lastSend with
              | true, some last => some (rttAfter x.rtt (clampSample (d.now - last)))
              | _, _ => x.rtt
            busyCount := if code = 1 then 0 else x.busyCount
            busyEnd := if code = 1 then none else x.busyEnd } ∧
      (∀ y : Slot, d.slot? q = some y →
        ∃ z, u.slot? q = some z ∧
          z.mark j = (if y.mark j = some .inFlight then some (if code = 3 then .failed else .acked) else y.mark j) ∧
          ∀ k, k ≠ j → z.mark k = y.mark k) ∧
      (∀ r, r ≠ q → u.slot? r = d.slot? r) ∧
      u.journal = d.journal ∧ u.settings = d.settings ∧ u.array = d.array ∧ u.held = d.held))

/-- R69, R75, R76, R78: a GAP and a BUSY that pass R64 and R65. That a GAP whose chunks are all due already still cancels the
deadline (log 36), and that the duplicates counter stays at 2^64 - 1 (log 18), are the model's choices. -/
def Obligations.GapAndBusyActOnTheEntry : Prop :=
  ∀ (s : State) (t : Time) (sp : SpanId) (h : FrameHdr) (j : SlotId) (q : Seq), s.dev.up →
    s.dev.settings.localSite = some h.receiver → s.dev.hearsAt j h.sender → s.dev.sites[j].state ≠ .probing →
    s.dev.sites[j].peerStart = some h.start →
    let d := s.dev.tick t
    let x := s.dev.sites[j]
    let duplicate : Host.Outcome State Fault Refusal :=
      .next { s with dev :=
        (d.modSite j fun y => { y with duplicates := min (y.duplicates + 1) 18446744073709551615 }).settle }
    (∀ l : List (Nat × Nat), l ≠ [] → l.length ≤ 32 → (∀ r ∈ l, r.1 ≤ r.2) →
      (x.entry q = none → exec (.gapReceived t sp h q l) s = duplicate) ∧
      (∀ e : InFlight, x.entry q = some e →
        let count := (e.record.payloadLen + 8191) / 8192
        let beyond := count = 0 ∨ ∃ r ∈ l, count ≤ r.2
        let pending (k : Nat) : Prop :=
          (∃ r ∈ x.resends, r.seq = q ∧ (r.chunks = none ∨ ∃ m, r.chunks = some m ∧ k ∈ m)) ∨
            ∃ y, x.send = some y ∧ y.seq = q ∧ .chunk k ∈ y.pieces
        (beyond →
          ∃ u : Dev, exec (.gapReceived t sp h q l) s = .next { s with dev := u.settle } ∧
            u.sites = s.dev.sites.set j { x with protocol := true } ∧ u.status = s.dev.status) ∧
        (¬ beyond → ∀ m : List Nat, m.Pairwise (· < ·) →
          (∀ k, k ∈ m ↔ (∃ r ∈ l, r.1 ≤ k ∧ k ≤ r.2) ∧ ¬ pending k) →
          exec (.gapReceived t sp h q l) s =
            .next { s with dev := (d.modSite j fun y =>
              { y with
                inFlight := y.inFlight.map fun (z : InFlight) =>
                  if z.seq = q then { z with deadline := none, sentOnce := false } else z
                resends := if m = [] then y.resends else y.resends ++ [⟨q, some m⟩] }).settle }))) ∧
    (x.entry q = none → exec (.busyReceived t sp h q) s = duplicate) ∧
    (∀ e : InFlight, x.entry q = some e →
      let n := min (x.busyCount + 1) 65535
      let c := min x.cursor q
      ∃ u : Dev, exec (.busyReceived t sp h q) s = .next { s with dev := u.settle } ∧
        u.sites =
          s.dev.sites.set j
            { x with
              inFlight := x.inFlight.filter fun y => y.seq != q
              resends := x.resends.filter fun y => y.seq != q
              send := x.send.filter fun y => y.seq != q
              cursor := c, candidates := x.candidates.filter fun y => decide (y.seq < c)
              busyCount := n, busyEnd := some (max (x.busyEnd.getD 0) (d.now + min (10000 * 2 ^ (n - 1)) 1000000))
              overrun := if n = 16 then true else x.overrun } ∧
        (∀ y : Slot, s.dev.slot? q = some y →
          ∃ z, u.slot? q = some z ∧ z.mark j = (if y.mark j = some .inFlight then some .pending else y.mark j) ∧
            ∀ k, k ≠ j → z.mark k = y.mark k) ∧
        (∀ r, r ≠ q → u.slot? r = s.dev.slot? r) ∧
        u.journal = s.dev.journal ∧ u.settings = s.dev.settings ∧ u.array = s.dev.array)

/-- R61, R63, R64, R95: a transmitter that has finished a frame is free, and the engines give it the next one. It takes the front
frame of its control queue, which is sent when the state of its slot lets it be and the span port is the slot's own, and else
dropped (log 17); only then a frame of a slot, of which a PACED one needs credit above 0 and is charged the frame's length. The
frame and byte counters stay at 2^64 - 1 (log 18). Both are the model's choices. R70, R73, R101: with the OPEN of a first send
the intent's mark for the slot goes from PENDING to IN_FLIGHT, the candidate leaves the candidates, and an in-flight entry is
appended with retry count 0 and sent-once set; with the last frame of any send the entry's last-send time and retry deadline are
set. -/
def Obligations.TransmitterTakesTheNextFrame : Prop :=
  (∀ (s : State) (t : Time) (sp : SpanId), s.dev.power.powered = true →
    exec (.frameTransmitted t sp) s =
      .next { s with dev := ((s.dev.tick t).modSpan sp fun x => { x with sending := none }).settle }) ∧
  (∀ (d : Dev) (sp : SpanId), d.span[sp].sending ≠ none → d.transmit sp = none) ∧
  (∀ (d : Dev) (sp : SpanId) (f : Frame) (rest : List Frame) (j : SlotId), d.span[sp].sending = none →
    d.span[sp].ctrlQ = f :: rest → (d.config j).site = some f.receiver → d.sites[j].state ≠ .detached →
    (∀ k : SlotId, k ≠ j → (d.config k).site = some f.receiver → d.sites[k].state = .detached) →
    let st := d.sites[j].state
    let sends : Prop :=
      (d.config j).spanPort = sp ∧
      (st = .active ∨
        (st ≠ .fenced ∧ (∀ o, f.body ≠ .opening o) ∧ (∀ q k data, f.body ≠ .carry q k data) ∧
          (st = .evicted → ∀ n, f.body ≠ .hello n)))
    (sends →
      d.transmit sp =
        some { d with
          sites :=
            d.sites.set j
              { d.sites[j] with
                framesSent := min (d.sites[j].framesSent + 1) 18446744073709551615
                bytesSent := min (d.sites[j].bytesSent + f.len) 18446744073709551615 }
          span := d.span.set sp { d.span[sp] with ctrlQ := rest, sending := some f } }) ∧
    (¬ sends → d.transmit sp = some (d.modSpan sp fun x => { x with ctrlQ := rest }))) ∧
  (∀ (d : Dev) (sp : SpanId), d.span[sp].ctrlQ = [] →
    (∀ j : SlotId, (d.config j).spanPort = sp → (d.config j).mode = .paced ∧ d.sites[j].credit ≤ 0) →
    d.transmit sp = none) ∧
  (∀ (d : Dev) (j : SlotId) (k : Send) (rs : List Resend) (piece : Piece) (rest : List Piece) (r : IntentRec),
    d.nextSend j = some (k, rs) → k.pieces = piece :: rest → d.sites[j].sendRecord k.seq = some r →
    let u := d.handOver j
    let sp := (d.config j).spanPort
    let len := match piece with
      | .opening => 64 + recordSize r.key.length
      | .chunk n => 64 + min 8192 (r.payloadLen - 8192 * n)
    u.sites[j].credit = (if (d.config j).mode = .paced then d.sites[j].credit - len else d.sites[j].credit) ∧
      u.sites[j].framesSent = min (d.sites[j].framesSent + 1) 18446744073709551615 ∧
      u.sites[j].bytesSent = min (d.sites[j].bytesSent + len) 18446744073709551615 ∧
      u.sites[j].send = (if rest = [] then none else some { k with pieces := rest }) ∧ u.sites[j].resends = rs ∧
      (∀ i, i ≠ j → u.sites[i] = d.sites[i]) ∧
      u.span =
        d.span.set sp
          { d.span[sp] with
            lastServed := j
            sending :=
              some ⟨d.settings.localSite.getD 0, (d.config j).site.getD 0, d.power.startCount, d.pieceBody r piece⟩ } ∧
      (r.seq = k.seq →
        let x := d.sites[j]
        let first : Bool := piece == .opening && (x.entry k.seq).isNone
        let flying : List InFlight :=
          if first then
            x.inFlight ++
              [{ seq := k.seq
                 size := 64 + recordSize r.key.length + 64 * ((r.payloadLen + 8191) / 8192) + r.payloadLen
                 firstSend := d.now, lastSend := none, retries := 0, deadline := none, sentOnce := true, record := r }]
          else x.inFlight
        u.sites[j].candidates = (if first then x.candidates.filter fun c => c.seq ≠ k.seq else x.candidates) ∧
          u.sites[j].inFlight =
            (if rest = [] then
              flying.map fun (e : InFlight) =>
                if e.seq = k.seq then
                  { e with
                    lastSend := some d.now, deadline := some (d.now + intervalOf x.rtt (min (e.retries + 1) 8)) }
                else e
            else flying) ∧
          (∀ q, first = false ∨ q ≠ k.seq → u.slot? q = d.slot? q) ∧
          (first = true → ∀ y, d.slot? k.seq = some y →
            ∃ z, u.slot? k.seq = some z ∧
              z.mark j = (if y.mark j = some .pending then some .inFlight else y.mark j) ∧
              ∀ i, i ≠ j → z.mark i = y.mark i) ∧
          u.journal = d.journal ∧ u.settings = d.settings ∧ u.array = d.array))

/-- R63, R198, R199, 11.4: a frame of each kind, written as its bytes, is read back as that frame, for every value that its
fields hold. -/
def Obligations.FramesReadBack : Prop :=
  ∀ f : Frame, f.sender < 256 → f.receiver < 256 → f.start < 2 ^ 64 →
    let back (b : InBody) : Prop := parseFrame f.bytes = some (⟨f.sender, f.receiver, f.start⟩, b)
    (∀ n, f.body = .hello n → n < 256 → back (.hello n)) ∧
    (∀ n, f.body = .helloAck n → n < 2 ^ 64 → back (.helloAck n)) ∧
    (∀ o, f.body = .opening o → o.seq < 2 ^ 64 → o.kind < 256 → 1 ≤ o.keyLen → o.keyLen ≤ 240 → o.key.length = o.keyLen →
      o.payloadLen < 2 ^ 32 → back (.opening (64 + recordSize o.keyLen) o)) ∧
    (∀ q k data, f.body = .carry q k data → q < 2 ^ 64 → k < 2 ^ 32 → data ≠ [] → data.length ≤ 8192 →
      back (.carry q k data)) ∧
    (∀ l, f.body = .receipt l → l ≠ [] → l.length ≤ 64 → (∀ e ∈ l, e.1 < 2 ^ 64) →
      back (.receipt (l.map fun e => (e.1, receiptOutcomeCode e.2)))) ∧
    (∀ q l, f.body = .gap q l → q < 2 ^ 64 → l ≠ [] → l.length ≤ 32 → (∀ r ∈ l, r.1 < 2 ^ 32 ∧ r.2 < 2 ^ 32) →
      back (.gap q l)) ∧
    (∀ q, f.body = .busy q → q < 2 ^ 64 → back (.busy q))

/-- R66, R76, R78: a PROBING or STALLED slot sends another HELLO and counts it, and the thirtieth latches STALL, with its FAULT
notice when the latch was clear; and a BUSY pause ends. A HELLO that a full control queue drops is counted, too: the model's choice
(log 72). R61, R73, R74, R97: a retry deadline expires: below 8 retries a whole-intent resend becomes due and absorbs the chunk
resends; at 8 the slot stalls: its in-flight marks return to PENDING, STALL is latched, each ONLINE port receives the FAULT notice
of a latch that was clear and then SITE_STATE, a HELLO is sent, and the credits of the generator's members are limited to their new
caps. When no verdict is due for the intents in flight, the ports receive nothing else. -/
def Obligations.SiteTimersExpire : Prop :=
  (∀ (s : State) (j : SlotId) (due : Time), s.dev.up →
     let d := s.dev.tick due
     let x := s.dev.sites[j]
     (∀ own site : Nat, x.state = .probing ∨ x.state = .stalled → x.probeDue = some due →
       s.dev.settings.localSite = some own → s.dev.settings.sites[j].site = some site →
       let n := min (x.probeCount + 1) 65535
       let sp := s.dev.settings.sites[j].spanPort
       ∃ u : Dev, exec (.probeTimerExpiry j) s = .next { s with dev := u.settle } ∧
         u.sites =
           s.dev.sites.set j
             { x with probeCount := n, probeDue := some (d.now + 1000000), stall := if n = 30 then true else x.stall } ∧
         u.span =
           s.dev.span.set sp
             { s.dev.span[sp] with
               ctrlQ :=
                 if s.dev.span[sp].ctrlQ.length < 4096 then
                   s.dev.span[sp].ctrlQ ++ [⟨own, site, s.dev.power.startCount, .hello site⟩]
                 else s.dev.span[sp].ctrlQ } ∧
         (∀ q : PortId, u.ports[q] =
           if n = 30 ∧ x.stall = false ∧ s.dev.ports[q].state = .online ∧ s.dev.settings.masks[q].getLsbD 3 = true then
             s.dev.ports[q].addNotice false (.fault .stall (.slot j (some site)))
           else s.dev.ports[q]) ∧
         { u with sites := s.dev.sites, span := s.dev.span, ports := s.dev.ports } = d) ∧
     (x.busyEnd = some due →
       exec (.busyPauseExpiry j) s = .next { s with dev := (d.modSite j fun x => { x with busyEnd := none }).settle })) ∧
  (∀ (s : State) (j : SlotId) (q : Seq) (e : InFlight) (due : Time), s.dev.up → s.dev.sites[j].entry q = some e →
     e.deadline = some due →
     (e.retries < 8 →
       exec (.retryDeadlineExpiry j q) s =
         .next { s with dev := ((s.dev.tick due).modSite j fun x =>
           { x with
             inFlight := x.inFlight.map fun (y : InFlight) =>
               if y.seq = q then { y with retries := y.retries + 1, sentOnce := false, deadline := none } else y
             resends := (x.resends.filter fun r => r.seq != q) ++ [⟨q, none⟩] }).settle }) ∧
     (∀ own site : Nat, 8 ≤ e.retries → s.dev.settings.localSite = some own → s.dev.settings.sites[j].site = some site →
       let d := s.dev.tick due
       let x := s.dev.sites[j]
       let sp := s.dev.settings.sites[j].spanPort
       let flies (i : Seq) : Prop := ∃ y ∈ x.inFlight, y.seq = i
       let noVerdictDue : Prop :=
         ∀ (i : Seq) (z : Slot), flies i → s.dev.slot? i = some z →
           z.written = false ∨ z.held = true ∨ z.verdict ≠ none ∨ (z.acked < z.quorum ∧ z.quorum ≤ z.acked + z.openMarks)
       ∃ u : Dev, exec (.retryDeadlineExpiry j q) s = .next { s with dev := u.settle } ∧
         u.sites[j] =
           { x with
             state := .stalled, inFlight := [], resends := [], send := none, candidates := [], credit := 0
             cursor := u.frontierOf j, stall := true, probeCount := min (x.probeCount + 1) 65535
             probeDue := some (d.now + 1000000) } ∧
         (∀ k : SlotId, k ≠ j →
           u.sites[k] =
             if u.isMember (s.dev.config j).gen k = true then
               { s.dev.sites[k] with credit := min s.dev.sites[k].credit (u.cap k : Nat) }
             else s.dev.sites[k]) ∧
         (∀ (i : Seq) (x : Slot), s.dev.slot? i = some x →
           let back := x.mark j = some .inFlight ∧ flies i
           ∃ y, u.slot? i = some y ∧ (back → y.mark j = some .pending) ∧ (¬ back → y.mark j = x.mark j) ∧
             ∀ k, k ≠ j → y.mark k = x.mark k) ∧
         u.span =
           s.dev.span.set sp
             { s.dev.span[sp] with
               ctrlQ :=
                 if s.dev.span[sp].ctrlQ.length < 4096 then
                   s.dev.span[sp].ctrlQ ++ [⟨own, site, s.dev.power.startCount, .hello site⟩]
                 else s.dev.span[sp].ctrlQ } ∧
         (∀ p : PortId, ∃ r : Port, (noVerdictDue → r = s.dev.ports[p]) ∧ s.dev.ports[p].noticeQ <+: r.noticeQ ∧
           u.ports[p] =
             if s.dev.ports[p].state = .online then
               (if x.stall = false ∧ s.dev.settings.masks[p].getLsbD 3 = true then
                 r.addNotice false (.fault .stall (.slot j (some site)))
               else r).addNotice false (.siteState j (some site) .active .stalled .retriesExhausted)
             else r) ∧
         u.settings = s.dev.settings ∧ u.journal = s.dev.journal ∧ u.array = s.dev.array ∧ u.held = s.dev.held))

/-! ## Fetches -/

/-- R165, R173 to R175: a payload read completes within 50 ms, with the right digest, with a first mismatch, or with a second one;
data of a read that was abandoned, or that comes late, is discarded; and a read that has run for 50 ms times out. The data names
its read by a number; data at exactly 50 ms counts, and data that comes later counts for nothing also where the timeout has not
been taken yet (log 37); data of another length than the payload's has no effect (log 4): the model's choices. -/
def Obligations.PayloadReadsEnd : Prop :=
  ∀ (s : State) (q : Seq) (f : Fetch), s.dev.power.powered = true →
    (s.dev.fetch.active.find? fun a => a.req.seq == q) = some f →
    let online (p : PortId) : Prop := s.dev.ports[p].state = .online
    let next (o : PortId) : Prop := (portsAfter f.port).find? (fun p => s.dev.ports[p].state == .online) = some o
    let others : List Fetch := s.dev.fetch.active.filter fun a => a.req.seq != q
    let served : Vector Port 4 := s.dev.ports.set f.port { s.dev.ports[f.port] with timeouts := 0 }
    let up (k : Nat) : Nat := min (k + 1) 18446744073709551615
    let number := s.dev.fetch.nextRead
    (∀ (t : Time) (p : PortId) (read : Nat) (data : List Byte),
      let d := s.dev.tick t
      let inTime :=
        f.reading = true ∧ f.port = p ∧ f.read = read ∧ d.now ≤ f.started + 50000 ∧ data.length = f.req.len
      let c : Instr := .fetchReadComplete t ⟨q, p, read⟩ data
      (¬ inTime → exec c s = .next { s with dev := d.settle }) ∧
      (inTime → crc32 data = f.req.digest →
        exec c s =
          .next { s with dev := Dev.settle { d with
            ports := served
            fetch := { s.dev.fetch with active := others, cache := s.dev.fetch.cache ++ [⟨q, data⟩] } } }) ∧
      (inTime → crc32 data ≠ f.req.digest → ∀ x : Slot, s.dev.slot? q = some x →
        (f.mismatch = none → x.digestRetried = none → ∀ o : PortId, next o →
          exec c s =
            .next { s with dev := Dev.settle { d with
              ports := served
              status := { s.dev.status with slots := Tbl.put s.dev.status.slots q { x with digestRetried := some f.port } }
              fetch := { s.dev.fetch with
                mismatches := up s.dev.fetch.mismatches, nextRead := number + 1
                active := s.dev.fetch.active.map fun (a : Fetch) =>
                  if a.req.seq = q then
                    { a with mismatch := some f.port, port := o, started := d.now, reading := true, read := number }
                  else a } } }) ∧
        (∀ first : PortId, f.mismatch = some first ∨ (f.mismatch = none ∧ x.digestRetried = some first) →
          ∃ u : Dev, exec c s = .next { s with dev := u.settle } ∧
            u.fetch =
              { s.dev.fetch with
                mismatches := up s.dev.fetch.mismatches, fetchFailed := up s.dev.fetch.fetchFailed, active := others } ∧
            (∃ y, u.slot? q = some y ∧ y.held = false ∧
              y.marks = x.marks.map fun e => if e.2 = .acked then e else (e.1, .failed)) ∧
            (∀ e ∈ x.marks, u.sites[e.1].digest = true) ∧
            (∀ (j : SlotId), (∀ k ∈ u.sites[j].candidates, k.seq ≠ q) ∧ (∀ k ∈ u.sites[j].inFlight, k.seq ≠ q)) ∧
            (∀ e ∈ u.held.entries, e.seq ≠ q) ∧
            (online x.origin → s.dev.ports[x.origin].noticeQ.length < 256 →
              ∃ n, ⟨n, false, .fetchFailed ⟨q, x.tag, x.origin⟩ first f.port⟩ ∈ u.ports[x.origin].noticeQ)))) ∧
    (f.reading = true →
      let d := s.dev.tick (f.started + 50000)
      let n := s.dev.ports[f.port].timeouts + 1
      let late : Vector Port 4 := s.dev.ports.set f.port { s.dev.ports[f.port] with timeouts := n }
      (n ≠ 3 ∨ ¬ online f.port →
        (∀ o : PortId, next o →
          exec (.fetchTimeout q) s =
            .next { s with dev := Dev.settle { d with
              ports := late
              fetch := { s.dev.fetch with
                timeouts := up s.dev.fetch.timeouts, nextRead := number + 1
                active := s.dev.fetch.active.map fun (a : Fetch) =>
                  if a.req.seq = q then { a with port := o, started := d.now, reading := true, read := number } else a } } }) ∧
        ((∀ p : PortId, ¬ online p) → ∀ x : Slot, s.dev.slot? q = some x →
          exec (.fetchTimeout q) s =
            .next { s with dev := Dev.settle { d with
              ports := late
              fetch := { s.dev.fetch with timeouts := up s.dev.fetch.timeouts, active := others }
              status := { s.dev.status with slots := Tbl.put s.dev.status.slots q { x with fetchBlocked := true } }
              sites := s.dev.sites.map fun y => { y with candidates := y.candidates.filter fun k => k.seq != q } } })) ∧
      (n = 3 → online f.port →
        ∃ u : Dev, exec (.fetchTimeout q) s = .next { s with dev := u.settle } ∧
          u.ports[f.port].state = .lost ∧ u.ports[f.port].timeouts = 3 ∧ u.ports[f.port].landings = [] ∧
          u.fetch.timeouts = up s.dev.fetch.timeouts ∧ (∀ a ∈ u.fetch.active, a.reading = true → a.port ≠ f.port) ∧
          (∀ p, p ≠ f.port → u.ports[p].state = s.dev.ports[p].state ∧
            u.ports[p].noticeQ =
              if online p then
                (s.dev.ports[p].addNotice false (.portState f.port .online .lost .fetchTimeout)).noticeQ
              else s.dev.ports[p].noticeQ)))

/-! ## Power -/

/-- R54, R139, R150, R185, R186, R188, R189: power-warn and the reset line, on a powered part. A line that asserts begins a
quiesce, is added to the cause of one that has not ended, or stops a start; power-warn that deasserts ends a quiesce whose cause
has no RESET, and either line that deasserts can begin a start. A change to the level that the line has already does nothing
(log 4). The model's choices: a quiesce whose program waits for a BLANK segment is ended by a start when RESET is in its cause and
both lines are deasserted, a stopped start begins again when both lines are deasserted, and the other line that asserts in a
stopped start stops it once more, so that a WARM one re-enters retention again (log 25 for the three); a FILLING buffer for which
a FLUSH of the quiesce waits closes when power-warn ends the quiesce (log 86); the withdrawal of a
waiting erase is counted (log 29) and stays at 4,294,967,295 (log 18), an abandoned erase leaves a DAMAGED segment without
pages, whose failed-page list stands (log 27), and the level of the backup cell (log 22). -/
def Obligations.LinesBeginAndEndAQuiesce : Prop :=
  ∀ (s : State) (t : Time), s.dev.power.powered = true →
    let d := s.dev.tick t
    let w := s.dev.power
    let ended (u : Dev) : Host.Outcome State Fault Refusal := .next { s with dev := u.settle }
    (∀ power : Bool,
      let c : Instr := if power then .powerWarnAssert t else .resetLineAssert t
      let asserted : Bool := if power then w.warn else w.resetLine
      let lines : Power := if power then { w with warn := true } else { w with resetLine := true }
      (asserted = true → exec c s = ended d) ∧
      (asserted = false → s.dev.part = .ready ∨ (s.dev.part = .quiescing ∧ w.phase = .returning) →
        ∃ u : Dev, exec c s = ended u ∧ u.part = .quiescing ∧
          u.power = { lines with phase := .placing, causePower := power, causeReset := !power } ∧
          u.status = { s.dev.status with checkpoint := .stopped } ∧
          u.held =
            { s.dev.held with
              entries := s.dev.held.entries.map fun (e : HeldEntry) =>
                match e.state with
                | .waiting _ => { e with state := .waiting none }
                | _ => e } ∧
          (∀ g : GenId, u.gens[g] = { s.dev.gens[g] with due := none }) ∧
          (∀ j : SlotId, u.sites[j] = { s.dev.sites[j] with send := none }) ∧
          (∀ sp : SpanId, u.span[sp] = { s.dev.span[sp] with ctrlQ := [] }) ∧
          u.fetch =
            { s.dev.fetch with active := s.dev.fetch.active.map fun (a : Fetch) => { a with reading := false } } ∧
          u.inbound =
            { s.dev.inbound with
              arrivals := s.dev.inbound.arrivals.map fun (a : Arrival) => { a with silenceDue := none } } ∧
          (s.dev.reclaim.engine = .idle → u.reclaim = s.dev.reclaim ∧ u.array = s.dev.array) ∧
          (∀ n, s.dev.reclaim.engine = .waiting n →
            u.reclaim =
              { s.dev.reclaim with engine := .idle, withdrawn := min (s.dev.reclaim.withdrawn + 1) 4294967295 } ∧
            u.array = s.dev.array) ∧
          (∀ n, s.dev.reclaim.engine = .erasing n →
            u.reclaim = { s.dev.reclaim with engine := .idle } ∧ u.array.suspended = none ∧
            u.seg n = { s.dev.seg n with state := .damaged, pages := [] } ∧
            (∀ m, m ≠ n → u.seg m = s.dev.seg m) ∧
            (∀ m, s.dev.array.op = some (.erase m) ∨ s.dev.array.op = some (.suspending m) → u.array.op = none)) ∧
          u.journal = s.dev.journal ∧ u.ports = s.dev.ports ∧ u.intake = s.dev.intake ∧ u.settings = s.dev.settings ∧
          u.guard = s.dev.guard ∧ u.index = s.dev.index) ∧
      (asserted = false → s.dev.part = .quiescing → w.phase ≠ .returning →
        exec c s =
          ended { d with power := if power then { lines with causePower := true } else { lines with causeReset := true } }) ∧
      (asserted = false → s.dev.part = .starting → w.kind ≠ .warm →
        exec c s = ended { d with power := { lines with stopped := true, latch := false } }) ∧
      (asserted = false → s.dev.part = .starting → w.kind = .warm → w.cellLow = false →
        exec c s =
          ended { d with power :=
            { lines with
              stopped := true, latch := true, checkWord := Config.checkWord s.dev.retained
              cellReads := w.cellReads + 1 } })) ∧
    (w.warn = false → exec (.powerWarnDeassert t) s = ended d) ∧
    (w.resetLine = false → exec (.resetLineDeassert t) s = ended d) ∧
    (w.warn = true →
      let e : Dev := { d with power := { w with warn := false } }
      let record : List Rec :=
        if s.dev.journal.ctrlQ.any Rec.isResume then s.dev.journal.ctrlQ
        else s.dev.journal.ctrlQ ++ [.resume w.startCount]
      let left : Journal := if s.dev.journal.flushOwed = true then s.dev.journal.close else s.dev.journal
      (s.dev.part = .quiescing → w.causeReset = false → w.phase ≠ .returning →
        (({ s.dev with journal := left } : Dev).programStalled = false →
          exec (.powerWarnDeassert t) s =
            ended { e with
              power := { e.power with phase := .returning }, journal := { left with ctrlQ := record } }) ∧
        (({ s.dev with journal := left } : Dev).programStalled = true →
          ∃ u : Dev, exec (.powerWarnDeassert t) s = ended u ∧ u.part = .ready ∧
            u.power = { e.power with phase := .idle, causePower := false, causeReset := false, latch := false } ∧
            u.journal = { left with ctrlQ := record } ∧ u.status.checkpoint = .running (d.now + 250000) ∧
            (∀ g : GenId, u.gens[g].due =
              if s.dev.settings.gens[g].enable = true then some (d.now + s.dev.settings.gens[g].period) else none))) ∧
      (s.dev.part = .quiescing → w.causeReset = true → w.phase ≠ .complete ∨ w.resetLine = true →
        exec (.powerWarnDeassert t) s = ended e) ∧
      (s.dev.part = .quiescing → w.causeReset = true → w.phase = .complete → w.resetLine = false →
        exec (.powerWarnDeassert t) s = ended e.beginStart) ∧
      (s.dev.part = .starting → w.stopped = true → w.resetLine = false →
        exec (.powerWarnDeassert t) s = ended e.beginStart)) ∧
    (w.resetLine = true →
      let e : Dev := { d with power := { w with resetLine := false } }
      let begins : Prop :=
        w.warn = false ∧
          ((s.dev.part = .quiescing ∧ w.phase = .complete ∧ w.causeReset = true) ∨ (s.dev.part = .starting ∧ w.stopped = true))
      (begins → exec (.resetLineDeassert t) s = ended e.beginStart) ∧
      (¬ begins → exec (.resetLineDeassert t) s = ended e)) ∧
    (∀ e : Dev, e.part = .quiescing → e.power.causeReset = true → e.power.warn = false → e.power.resetLine = false →
      e.journal.progQ ≠ [] → e.array.programTarget = none → e.quiesceStep = some e.beginStart)

/-- R4, R18, R62, R165, R177, R185, R190 to R192: main power is lost, a page that is being programmed being torn; the backup cell
falls; and power is applied: the kind of the start, and what each kind leaves. The start count stays. R176, R177, R192: a WARM
start latches nothing and fails no page. R193 to R195: a COLD start passes over 62 sequences, takes the state of each slot from
the newest SITE-EVENT record after the newest FRONTIER record, else from that record, else from the settings, and fills a slot
of the status array for each intent at or above the scan start: its marks are those rebuilt from the frontiers and closings, of
which the replay of R39 can make a PENDING one SKIPPED. The first SITE-EVENT record that detached or evicted the slot after the
intent, where it stands before the newest FRONTIER record, gives SKIPPED (that the first counts is log 31's). `read` has the
array as the scan reads it: the torn page dropped, and no page that the scan finds unreadable failed yet, so that nothing is
asked of the numbers of the pages. Without main power the level of a line is only recorded (log 2). The model's choices besides:
the newest intent counts as 0 when no valid page holds one (log 91), a slot that FRONTIER or the settings have DETACHED or
EVICTED gives SKIPPED for every mark (log 31), a slot that the records leave DETACHED keeps its configuration (log 73), POWER_UP
on a powered part does nothing (log 4), a torn page holds no records (log 11), what a start finds of the array comes as the
operand of POWER_UP (log 24), power-warn is deasserted and the raw guard level kept at POWER_UP (log 26), the number of the next
payload read is kept (log 37), the cursor of a DETACHED slot is 0 (log 5), and the check word leaves out the stale counters and
takes in the fault flags of the slots (log 45). -/
def Obligations.PowerIsLostAndApplied : Prop :=
  ∀ (s : State) (t : Time),
    let d := s.dev.tick t
    let w := s.dev.power
    (w.powered = true →
      (∀ (buf : BufId) (seg num pos : Nat), s.dev.array.op = some (.program buf seg num pos) →
        ∃ u : Dev, exec (.powerLoss t) s = .next { s with dev := u } ∧
          u.seg seg =
            { s.dev.seg seg with
              pages := (s.dev.seg seg).pages ++ [{ num := num, pos := pos, recs := [], crcOk := false }] } ∧
          (∀ n, n ≠ seg → u.seg n = s.dev.seg n) ∧ u.array.op = none ∧
          { u with array := s.dev.array } = { d with power := { w with powered := false } }) ∧
      ((∀ (buf : BufId) (seg num pos : Nat), s.dev.array.op ≠ some (.program buf seg num pos)) →
        exec (.powerLoss t) s =
          .next { s with dev := { d with
            array := { s.dev.array with op := none }, power := { w with powered := false } } })) ∧
    (w.powered = false → exec (.powerLoss t) s = .next s) ∧
    exec (.backupCellLow t) s =
      .next { s with dev :=
        (let e : Dev := { d with power := { w with cellLow := true, latch := false } }
         if w.powered then e.settle else e) } ∧
    (w.powered = false →
      (∀ raw : Bool,
        exec (.guardLineChange t raw) s = .next { s with dev := { d with guard := { s.dev.guard with raw := raw } } }) ∧
      exec (.powerWarnAssert t) s = .next { s with dev := { d with power := { w with warn := true } } } ∧
      exec (.powerWarnDeassert t) s = .next { s with dev := { d with power := { w with warn := false } } } ∧
      exec (.resetLineAssert t) s = .next { s with dev := { d with power := { w with resetLine := true } } } ∧
      exec (.resetLineDeassert t) s = .next { s with dev := { d with power := { w with resetLine := false } } }) ∧
    (w.powered = true → ∀ m, exec (.powerUp t m) s = .next s) ∧
    (w.powered = false → ∀ m : StartMedia,
      let found : Dev := Dev.readArray { d with power := { w with powered := true, warn := false, media := m } }
      let kind : StartKind :=
        if found.newestSettings = none then .first
        else if w.latch = true ∧ w.checkWord = Config.checkWord s.dev.retained ∧ found.cleanShutdown = true then .warm
        else .cold
      ∃ u : Dev, exec (.powerUp t m) s = .next { s with dev := u.settle } ∧
        u.part = .starting ∧ u.power.powered = true ∧ u.power.warn = false ∧ u.power.kind = kind ∧
        u.power.startCount = w.startCount ∧
        u.settings = found.newestSettings.getD {} ∧
        (∀ p : PortId, u.ports[p] = { state := if u.settings.portFence[p] = true then .fenced else .offline }) ∧
        u.journal.bufA = {} ∧ u.journal.bufB = {} ∧ u.journal.tailCache = [] ∧ u.journal.progFails = 0 ∧
        u.fetch = { nextRead := s.dev.fetch.nextRead } ∧ u.inbound = {} ∧ u.intake = {} ∧ u.reclaim = {} ∧ u.foreign = 0 ∧
        u.guard.software = false ∧ u.guard.filtered = true ∧ u.guard.raw = s.dev.guard.raw ∧
        u.retentionLost = decide (kind = .cold) ∧
        (∀ j : SlotId, u.sites[j].state ≠ .active ∧ u.sites[j].state ≠ .stalled ∧ u.sites[j].inFlight = [] ∧
          u.sites[j].candidates = [] ∧ u.sites[j].credit = 0 ∧ u.sites[j].rtt = none ∧ u.sites[j].peerStart = none ∧
          u.sites[j].stall = false ∧ u.sites[j].framesSent = 0) ∧
        (kind = .first →
          u.journal.nextSeq = 1 ∧ u.journal.nextPos = 1 ∧ u.index = {} ∧ u.held = {} ∧ u.status.slots = [] ∧
          (∀ j : SlotId, u.sites[j] = {}) ∧
          ∀ n : Nat, n < 2048 →
            let old := found.seg n
            let count := old.eraseCount + 1
            u.seg n =
              if old.state = .retired then old
              else
                { state := if m.eraseFails.contains n = true ∨ 30000 ≤ count then .retired else .blank
                  eraseCount := count, failed := [], pages := [] }) ∧
        (kind = .warm →
          u.journal.ctrlQ = s.dev.journal.ctrlQ ∧ u.index.ways = s.dev.index.ways ∧ u.array.segs = found.array.segs ∧
          u.journalMedia = false ∧
          u.status.slots =
            (s.dev.status.slots.map fun e =>
              (e.1, { e.2 with marks := e.2.marks.map fun m => if m.2 = .inFlight then (m.1, .pending) else m })) ∧
          ∀ j : SlotId, u.sites[j].state =
            match s.dev.sites[j].state with
            | .probing | .active | .stalled => .probing
            | x => x) ∧
        (kind = .cold →
          let read : Dev := { u with array := found.dropTorn.array }
          let tail := read.scannedTail
          let l := read.journalOrder
          let scan := read.scanStart l
          let newest := lastMatch Rec.frontier? l
          let counts (at_ : Nat × Nat) : Bool := match newest with
            | some v => later v.1 at_
            | none => true
          let base (j : SlotId) : SiteState :=
            if (u.config j).site = none then .detached
            else match newest with
              | some v => v.2[j].1
              | none => if (u.config j).fenceMark then .fenced else if (u.config j).evictMark then .evicted else .probing
          let moves (j : SlotId) : List SiteState :=
            l.filterMap fun e =>
              match e.2.siteEvent? j with
              | some (.state st, _) => if counts e.1 then some st else none
              | _ => none
          u.journal.nextSeq = tail + 63 ∧ u.journal.ctrlQ = [] ∧
          (∀ n : Seq, tail < n → n < u.journal.nextSeq → u.passedOver n = true) ∧
          u.power.info.scanStart = some scan ∧ u.power.info.scannedTail = some tail ∧
          u.power.info.passedOver = some (tail + 1, tail + 62) ∧
          (∀ j : SlotId, u.sites[j].state =
            match (moves j).getLast?.getD (base j) with
            | .probing | .active | .stalled => .probing
            | x => x) ∧
          (∀ j : SlotId, u.sites[j].state ≠ .detached →
            u.sites[j].cursor = u.frontierOf j ∧ u.sites[j].frontier = some (u.frontierOf j)) ∧
          (∀ q, q < scan → u.slot? q = none) ∧
          (∀ (at_ : Nat × Nat) (r : IntentRec) (before after : List ((Nat × Nat) × Rec)),
            l = before ++ (at_, Rec.intent r) :: after → (∀ e ∈ after, e.2.intentSeq ≠ some r.seq) → scan ≤ r.seq →
            ∃ x : Slot, u.slot? r.seq = some x ∧ x.written = true ∧ x.origin = r.origin ∧ x.tag = r.tag ∧
              x.quorum = r.quorum ∧ x.marks.map (fun m => m.1) = slotsOf r.siteSet ∧
              ∀ j ∈ slotsOf r.siteSet,
                let built := (read.rebuilt l j).markOf at_ r.seq
                (x.mark j = some built ∨ (built = .pending ∧ ∃ why, x.mark j = some (.skipped why))) ∧
                (∀ (v : (Nat × Nat) × Vector (SiteState × Option Seq) 8) (e : (Nat × Nat) × Rec) (why : SkipReason)
                    (earlier rest : List ((Nat × Nat) × Rec)),
                  newest = some v → l = earlier ++ e :: rest → later at_ e.1 = true → later e.1 v.1 = true →
                  e.2.closes? j = some why → (∀ x ∈ earlier, later at_ x.1 = true → x.2.closes? j = none) →
                  built = .skipped why) ∧
                ((∀ e ∈ l, (counts e.1 = true ∨ later at_ e.1 = true) → e.2.siteEvent? j = none) → (u.config j).site ≠ none →
                  built =
                    match base j with
                    | .detached => .skipped .detached
                    | .evicted => .skipped .evicted
                    | _ =>
                      match newest with
                      | some v =>
                        match v.2[j].2 with
                        | some f => if f ≤ r.seq then .pending else .acked
                        | none => .acked
                      | none => if read.lowest ≤ r.seq then .pending else .acked))))

/-- R54, R62, R66, R90, R120, R150, R176, R184, R196: the start ends: the part becomes READY, the start count increases, the
retention-good latch and every latched fault but RETENTION_LOST are cleared, the timers start, the armed flag is set by F, and
each PROBING slot sends a HELLO. What the START notice will carry of the site number, the DAMAGED segments and RETENTION_LOST is
taken here. The model's choices: a part that is not STARTING, or whose start a line has stopped, is not changed by it (log 4), the
start count stays at 2^64 - 1 (log 18), a latch that the start itself has set is cleared, before the HELLOs (log 43), the counters
of the slots (log 70) and the answers in the ports' queues (log 90) stay as the start leaves them, and a HELLO that a full control
queue drops is counted, too (log 72). -/
def Obligations.StartEndMakesThePartReady : Prop :=
  ∀ (s : State) (t : Time), s.dev.power.powered = true →
    let d := s.dev.tick t
    let n := min (s.dev.power.startCount + 1) 18446744073709551615
    let hold := d.now + s.dev.settings.mode.holdLimit * 1000000
    (s.dev.part ≠ .starting ∨ s.dev.power.stopped = true → exec (.startEnd t) s = .next { s with dev := d.settle }) ∧
    (s.dev.part = .starting → s.dev.power.stopped = false →
      ∃ u : Dev, exec (.startEnd t) s = .next { s with dev := u.settle } ∧
        u.part = .ready ∧
        u.power =
          { s.dev.power with
            startCount := n, latch := false
            info :=
              { s.dev.power.info with
                site := s.dev.settings.localSite, damaged := s.dev.array.countState .damaged
                retentionLost := s.dev.retentionLost } } ∧
        u.status = { s.dev.status with checkpoint := .running (d.now + 250000) } ∧
        u.reclaim = { s.dev.reclaim with armed := decide (s.dev.settings.lowWatermark < s.dev.free) } ∧
        (∀ g : GenId, u.gens[g] =
          { s.dev.gens[g] with
            due :=
              if s.dev.settings.gens[g].enable = true then some (d.now + s.dev.settings.gens[g].period) else none }) ∧
        u.held =
          { s.dev.held with
            entries := s.dev.held.entries.map fun (e : HeldEntry) =>
              match e.state with
              | .waiting _ => { e with state := .waiting (some hold) }
              | _ => e } ∧
        (∀ j : SlotId, u.sites[j] =
          if s.dev.sites[j].state = .probing then
            let k := min (s.dev.sites[j].probeCount + 1) 65535
            { s.dev.sites[j] with
              probeCount := k, probeDue := some (d.now + 1000000)
              stall := decide (k = 30), overrun := false, digest := false, protocol := false }
          else { s.dev.sites[j] with stall := false, overrun := false, digest := false, protocol := false }) ∧
        u.journalMedia = false ∧ u.retentionLost = s.dev.retentionLost ∧
        (∀ (sp : SpanId) (own : Nat), s.dev.settings.localSite = some own → s.dev.span[sp].ctrlQ.length ≤ 4088 →
          u.span[sp].ctrlQ =
            s.dev.span[sp].ctrlQ ++
              (allSlots.filter fun j => s.dev.sites[j].state = .probing ∧ (s.dev.config j).spanPort = sp).map fun j =>
                let site := (s.dev.config j).site.getD 0
                (⟨own, site, n, .hello site⟩ : Frame)) ∧
        (∀ p : PortId, u.ports[p].respQ = s.dev.ports[p].respQ ∧ u.ports[p].state = s.dev.ports[p].state ∧
          u.ports[p].overrun = false) ∧
        u.settings = s.dev.settings ∧ u.journal = s.dev.journal ∧ u.array = s.dev.array ∧ u.index = s.dev.index)

/-! ## Reset and invariants -/

/-- R18, R38, R43, R54, R60, R63, R89, R121, R150, R177, R191, R196: the part after reset is the part at the end of a FIRST start,
with no command waiting; the invariants hold of it. That reset is the end of the first FIRST start of a part as delivered, the
erase count and the levels of the lines are the model's choice (logs 5 and 26). -/
def Obligations.ResetIsTheEndOfAFirstStart : Prop :=
  let s := State.reset
  let d := s.dev
  s.pending = [] ∧ d.part = .ready ∧ d.power.kind = .first ∧ d.power.startCount = 1 ∧ d.power.latch = false ∧
  d.settings.localSite = none ∧ d.settings.commitDelay = 200 ∧
  d.settings.mode = { strict := true, mirrorAll := false, defaultQuorum := 1, holdLimit := 30, expiryAction := .denied } ∧
  (∀ n : Fin 48, d.settings.placement[n].enabled = false) ∧
  (∀ g : GenId, d.settings.gens[g] = ⟨false, 1, 1000⟩ ∧ d.gens[g] = ⟨none, 0, 0⟩) ∧
  (∀ j : SlotId, d.sites[j].state = .detached ∧ d.settings.sites[j] = {} ∧ d.sites[j].credit = 0 ∧ d.sites[j].inFlight = []) ∧
  d.settings.guardMap = 0 ∧ d.settings.lowWatermark = 128 ∧ d.settings.criticalReserve = 32 ∧
  (∀ p : PortId, d.ports[p] =
    { state := .offline, cmdQ := [], respQ := [], noticeQ := [], noticeNumber := 1, lost := 0, timeouts := 0
      overrun := false, landings := [], lookup := none, taken := [] } ∧
    d.settings.masks[p] = 127 ∧ d.settings.portFence[p] = false) ∧
  d.free = 2048 ∧ (∀ n : Nat, (d.seg n).state = .blank) ∧ d.level = .normal ∧ d.reclaim.armed = true ∧
  d.journal.nextSeq = 1 ∧ d.journal.nextPos = 1 ∧ d.journal.bufA = {} ∧ d.journal.bufB = {} ∧ d.journal.ctrlQ = [] ∧
  d.index.ways = [] ∧ d.held.entries = [] ∧ d.status.slots = [] ∧ d.status.checkpoint = .running 250000 ∧
  d.guard.software = false ∧ d.guard.filtered = true ∧ d.intake.last = 3 ∧ d.inbound.lastPort = 3 ∧
  (∀ sp : SpanId, d.span[sp].lastServed = 7 ∧ d.span[sp].badFrames = 0) ∧ d.latchedFaults = [] ∧
  d.noticesOk = true ∧ d.restOk = true ∧ d.journal.buffersOk = true ∧ d.tablesOk = true

/-- R166, R169: a notice queue never holds more than 256 notices, a notice number is never 0 and stays within 32 bits, and the
lost counts saturate: every step keeps this. -/
def Obligations.EveryStepKeepsNoticeQueues : Prop :=
  ∀ s t : State, s.dev.noticesOk = true → step s = .next t → t.dev.noticesOk = true

/-- R61, R97: a slot that is not ACTIVE has credit 0 and nothing in flight, due or being sent: every step keeps this. -/
def Obligations.EveryStepKeepsInactiveSlotsAtRest : Prop :=
  ∀ s t : State, s.dev.restOk = true → step s = .next t → t.dev.restOk = true

/-- R12, R14: at most one staging buffer is FILLING, an EMPTY one holds no record, and the buffers in PROGRAMMING are those that
wait for the array; and the sparse tables of the model are in their one form: every step keeps this. -/
def Obligations.EveryStepKeepsBuffersAndTables : Prop :=
  ∀ s t : State, s.dev.journal.buffersOk = true → s.dev.tablesOk = true → step s = .next t →
    t.dev.journal.buffersOk = true ∧ t.dev.tablesOk = true
end

