-- ==== Sys2Proof/Laws/State.lean ====
section
/-!
SUPPORT. For each named update of the part, the fields that it leaves as they are, one lemma a field, each true by rfl; and
what each says of the field that it changes.
-/

namespace Sys2Proof.Machine

@[simp] theorem Dev.modPort_now (d : Dev) (p : PortId) (f : Port → Port) : (d.modPort p f).now = d.now := rfl
@[simp] theorem Dev.modPort_examined (d : Dev) (p : PortId) (f : Port → Port) : (d.modPort p f).examined = d.examined := rfl
@[simp] theorem Dev.modPort_nextToken (d : Dev) (p : PortId) (f : Port → Port) : (d.modPort p f).nextToken = d.nextToken := rfl
@[simp] theorem Dev.modPort_part (d : Dev) (p : PortId) (f : Port → Port) : (d.modPort p f).part = d.part := rfl
@[simp] theorem Dev.modPort_power (d : Dev) (p : PortId) (f : Port → Port) : (d.modPort p f).power = d.power := rfl
@[simp] theorem Dev.modPort_settings (d : Dev) (p : PortId) (f : Port → Port) : (d.modPort p f).settings = d.settings := rfl
@[simp] theorem Dev.modPort_journal (d : Dev) (p : PortId) (f : Port → Port) : (d.modPort p f).journal = d.journal := rfl
@[simp] theorem Dev.modPort_array (d : Dev) (p : PortId) (f : Port → Port) : (d.modPort p f).array = d.array := rfl
@[simp] theorem Dev.modPort_index (d : Dev) (p : PortId) (f : Port → Port) : (d.modPort p f).index = d.index := rfl
@[simp] theorem Dev.modPort_held (d : Dev) (p : PortId) (f : Port → Port) : (d.modPort p f).held = d.held := rfl
@[simp] theorem Dev.modPort_status (d : Dev) (p : PortId) (f : Port → Port) : (d.modPort p f).status = d.status := rfl
@[simp] theorem Dev.modPort_sites (d : Dev) (p : PortId) (f : Port → Port) : (d.modPort p f).sites = d.sites := rfl
@[simp] theorem Dev.modPort_span (d : Dev) (p : PortId) (f : Port → Port) : (d.modPort p f).span = d.span := rfl
@[simp] theorem Dev.modPort_foreign (d : Dev) (p : PortId) (f : Port → Port) : (d.modPort p f).foreign = d.foreign := rfl
@[simp] theorem Dev.modPort_gens (d : Dev) (p : PortId) (f : Port → Port) : (d.modPort p f).gens = d.gens := rfl
@[simp] theorem Dev.modPort_fetch (d : Dev) (p : PortId) (f : Port → Port) : (d.modPort p f).fetch = d.fetch := rfl
@[simp] theorem Dev.modPort_inbound (d : Dev) (p : PortId) (f : Port → Port) : (d.modPort p f).inbound = d.inbound := rfl
@[simp] theorem Dev.modPort_dma (d : Dev) (p : PortId) (f : Port → Port) : (d.modPort p f).dma = d.dma := rfl
@[simp] theorem Dev.modPort_reclaim (d : Dev) (p : PortId) (f : Port → Port) : (d.modPort p f).reclaim = d.reclaim := rfl
@[simp] theorem Dev.modPort_guard (d : Dev) (p : PortId) (f : Port → Port) : (d.modPort p f).guard = d.guard := rfl
@[simp] theorem Dev.modPort_partLost (d : Dev) (p : PortId) (f : Port → Port) : (d.modPort p f).partLost = d.partLost := rfl
@[simp] theorem Dev.modPort_intake (d : Dev) (p : PortId) (f : Port → Port) : (d.modPort p f).intake = d.intake := rfl
@[simp] theorem Dev.modPort_journalMedia (d : Dev) (p : PortId) (f : Port → Port) : (d.modPort p f).journalMedia = d.journalMedia := rfl
@[simp] theorem Dev.modPort_retentionLost (d : Dev) (p : PortId) (f : Port → Port) : (d.modPort p f).retentionLost = d.retentionLost := rfl

@[simp] theorem Dev.modSite_now (d : Dev) (j : SlotId) (f : Site → Site) : (d.modSite j f).now = d.now := rfl
@[simp] theorem Dev.modSite_examined (d : Dev) (j : SlotId) (f : Site → Site) : (d.modSite j f).examined = d.examined := rfl
@[simp] theorem Dev.modSite_nextToken (d : Dev) (j : SlotId) (f : Site → Site) : (d.modSite j f).nextToken = d.nextToken := rfl
@[simp] theorem Dev.modSite_part (d : Dev) (j : SlotId) (f : Site → Site) : (d.modSite j f).part = d.part := rfl
@[simp] theorem Dev.modSite_power (d : Dev) (j : SlotId) (f : Site → Site) : (d.modSite j f).power = d.power := rfl
@[simp] theorem Dev.modSite_settings (d : Dev) (j : SlotId) (f : Site → Site) : (d.modSite j f).settings = d.settings := rfl
@[simp] theorem Dev.modSite_journal (d : Dev) (j : SlotId) (f : Site → Site) : (d.modSite j f).journal = d.journal := rfl
@[simp] theorem Dev.modSite_array (d : Dev) (j : SlotId) (f : Site → Site) : (d.modSite j f).array = d.array := rfl
@[simp] theorem Dev.modSite_index (d : Dev) (j : SlotId) (f : Site → Site) : (d.modSite j f).index = d.index := rfl
@[simp] theorem Dev.modSite_held (d : Dev) (j : SlotId) (f : Site → Site) : (d.modSite j f).held = d.held := rfl
@[simp] theorem Dev.modSite_status (d : Dev) (j : SlotId) (f : Site → Site) : (d.modSite j f).status = d.status := rfl
@[simp] theorem Dev.modSite_span (d : Dev) (j : SlotId) (f : Site → Site) : (d.modSite j f).span = d.span := rfl
@[simp] theorem Dev.modSite_foreign (d : Dev) (j : SlotId) (f : Site → Site) : (d.modSite j f).foreign = d.foreign := rfl
@[simp] theorem Dev.modSite_gens (d : Dev) (j : SlotId) (f : Site → Site) : (d.modSite j f).gens = d.gens := rfl
@[simp] theorem Dev.modSite_fetch (d : Dev) (j : SlotId) (f : Site → Site) : (d.modSite j f).fetch = d.fetch := rfl
@[simp] theorem Dev.modSite_inbound (d : Dev) (j : SlotId) (f : Site → Site) : (d.modSite j f).inbound = d.inbound := rfl
@[simp] theorem Dev.modSite_dma (d : Dev) (j : SlotId) (f : Site → Site) : (d.modSite j f).dma = d.dma := rfl
@[simp] theorem Dev.modSite_reclaim (d : Dev) (j : SlotId) (f : Site → Site) : (d.modSite j f).reclaim = d.reclaim := rfl
@[simp] theorem Dev.modSite_guard (d : Dev) (j : SlotId) (f : Site → Site) : (d.modSite j f).guard = d.guard := rfl
@[simp] theorem Dev.modSite_ports (d : Dev) (j : SlotId) (f : Site → Site) : (d.modSite j f).ports = d.ports := rfl
@[simp] theorem Dev.modSite_partLost (d : Dev) (j : SlotId) (f : Site → Site) : (d.modSite j f).partLost = d.partLost := rfl
@[simp] theorem Dev.modSite_intake (d : Dev) (j : SlotId) (f : Site → Site) : (d.modSite j f).intake = d.intake := rfl
@[simp] theorem Dev.modSite_journalMedia (d : Dev) (j : SlotId) (f : Site → Site) : (d.modSite j f).journalMedia = d.journalMedia := rfl
@[simp] theorem Dev.modSite_retentionLost (d : Dev) (j : SlotId) (f : Site → Site) : (d.modSite j f).retentionLost = d.retentionLost := rfl

@[simp] theorem Dev.modConfig_now (d : Dev) (j : SlotId) (f : SiteConfig → SiteConfig) : (d.modConfig j f).now = d.now := rfl
@[simp] theorem Dev.modConfig_examined (d : Dev) (j : SlotId) (f : SiteConfig → SiteConfig) : (d.modConfig j f).examined = d.examined := rfl
@[simp] theorem Dev.modConfig_nextToken (d : Dev) (j : SlotId) (f : SiteConfig → SiteConfig) : (d.modConfig j f).nextToken = d.nextToken := rfl
@[simp] theorem Dev.modConfig_part (d : Dev) (j : SlotId) (f : SiteConfig → SiteConfig) : (d.modConfig j f).part = d.part := rfl
@[simp] theorem Dev.modConfig_power (d : Dev) (j : SlotId) (f : SiteConfig → SiteConfig) : (d.modConfig j f).power = d.power := rfl
@[simp] theorem Dev.modConfig_journal (d : Dev) (j : SlotId) (f : SiteConfig → SiteConfig) : (d.modConfig j f).journal = d.journal := rfl
@[simp] theorem Dev.modConfig_array (d : Dev) (j : SlotId) (f : SiteConfig → SiteConfig) : (d.modConfig j f).array = d.array := rfl
@[simp] theorem Dev.modConfig_index (d : Dev) (j : SlotId) (f : SiteConfig → SiteConfig) : (d.modConfig j f).index = d.index := rfl
@[simp] theorem Dev.modConfig_held (d : Dev) (j : SlotId) (f : SiteConfig → SiteConfig) : (d.modConfig j f).held = d.held := rfl
@[simp] theorem Dev.modConfig_status (d : Dev) (j : SlotId) (f : SiteConfig → SiteConfig) : (d.modConfig j f).status = d.status := rfl
@[simp] theorem Dev.modConfig_sites (d : Dev) (j : SlotId) (f : SiteConfig → SiteConfig) : (d.modConfig j f).sites = d.sites := rfl
@[simp] theorem Dev.modConfig_span (d : Dev) (j : SlotId) (f : SiteConfig → SiteConfig) : (d.modConfig j f).span = d.span := rfl
@[simp] theorem Dev.modConfig_foreign (d : Dev) (j : SlotId) (f : SiteConfig → SiteConfig) : (d.modConfig j f).foreign = d.foreign := rfl
@[simp] theorem Dev.modConfig_gens (d : Dev) (j : SlotId) (f : SiteConfig → SiteConfig) : (d.modConfig j f).gens = d.gens := rfl
@[simp] theorem Dev.modConfig_fetch (d : Dev) (j : SlotId) (f : SiteConfig → SiteConfig) : (d.modConfig j f).fetch = d.fetch := rfl
@[simp] theorem Dev.modConfig_inbound (d : Dev) (j : SlotId) (f : SiteConfig → SiteConfig) : (d.modConfig j f).inbound = d.inbound := rfl
@[simp] theorem Dev.modConfig_dma (d : Dev) (j : SlotId) (f : SiteConfig → SiteConfig) : (d.modConfig j f).dma = d.dma := rfl
@[simp] theorem Dev.modConfig_reclaim (d : Dev) (j : SlotId) (f : SiteConfig → SiteConfig) : (d.modConfig j f).reclaim = d.reclaim := rfl
@[simp] theorem Dev.modConfig_guard (d : Dev) (j : SlotId) (f : SiteConfig → SiteConfig) : (d.modConfig j f).guard = d.guard := rfl
@[simp] theorem Dev.modConfig_ports (d : Dev) (j : SlotId) (f : SiteConfig → SiteConfig) : (d.modConfig j f).ports = d.ports := rfl
@[simp] theorem Dev.modConfig_partLost (d : Dev) (j : SlotId) (f : SiteConfig → SiteConfig) : (d.modConfig j f).partLost = d.partLost := rfl
@[simp] theorem Dev.modConfig_intake (d : Dev) (j : SlotId) (f : SiteConfig → SiteConfig) : (d.modConfig j f).intake = d.intake := rfl
@[simp] theorem Dev.modConfig_journalMedia (d : Dev) (j : SlotId) (f : SiteConfig → SiteConfig) : (d.modConfig j f).journalMedia = d.journalMedia := rfl
@[simp] theorem Dev.modConfig_retentionLost (d : Dev) (j : SlotId) (f : SiteConfig → SiteConfig) : (d.modConfig j f).retentionLost = d.retentionLost := rfl

@[simp] theorem Dev.modSpan_now (d : Dev) (sp : SpanId) (f : SpanPort → SpanPort) : (d.modSpan sp f).now = d.now := rfl
@[simp] theorem Dev.modSpan_examined (d : Dev) (sp : SpanId) (f : SpanPort → SpanPort) : (d.modSpan sp f).examined = d.examined := rfl
@[simp] theorem Dev.modSpan_nextToken (d : Dev) (sp : SpanId) (f : SpanPort → SpanPort) : (d.modSpan sp f).nextToken = d.nextToken := rfl
@[simp] theorem Dev.modSpan_part (d : Dev) (sp : SpanId) (f : SpanPort → SpanPort) : (d.modSpan sp f).part = d.part := rfl
@[simp] theorem Dev.modSpan_power (d : Dev) (sp : SpanId) (f : SpanPort → SpanPort) : (d.modSpan sp f).power = d.power := rfl
@[simp] theorem Dev.modSpan_settings (d : Dev) (sp : SpanId) (f : SpanPort → SpanPort) : (d.modSpan sp f).settings = d.settings := rfl
@[simp] theorem Dev.modSpan_journal (d : Dev) (sp : SpanId) (f : SpanPort → SpanPort) : (d.modSpan sp f).journal = d.journal := rfl
@[simp] theorem Dev.modSpan_array (d : Dev) (sp : SpanId) (f : SpanPort → SpanPort) : (d.modSpan sp f).array = d.array := rfl
@[simp] theorem Dev.modSpan_index (d : Dev) (sp : SpanId) (f : SpanPort → SpanPort) : (d.modSpan sp f).index = d.index := rfl
@[simp] theorem Dev.modSpan_held (d : Dev) (sp : SpanId) (f : SpanPort → SpanPort) : (d.modSpan sp f).held = d.held := rfl
@[simp] theorem Dev.modSpan_status (d : Dev) (sp : SpanId) (f : SpanPort → SpanPort) : (d.modSpan sp f).status = d.status := rfl
@[simp] theorem Dev.modSpan_sites (d : Dev) (sp : SpanId) (f : SpanPort → SpanPort) : (d.modSpan sp f).sites = d.sites := rfl
@[simp] theorem Dev.modSpan_foreign (d : Dev) (sp : SpanId) (f : SpanPort → SpanPort) : (d.modSpan sp f).foreign = d.foreign := rfl
@[simp] theorem Dev.modSpan_gens (d : Dev) (sp : SpanId) (f : SpanPort → SpanPort) : (d.modSpan sp f).gens = d.gens := rfl
@[simp] theorem Dev.modSpan_fetch (d : Dev) (sp : SpanId) (f : SpanPort → SpanPort) : (d.modSpan sp f).fetch = d.fetch := rfl
@[simp] theorem Dev.modSpan_inbound (d : Dev) (sp : SpanId) (f : SpanPort → SpanPort) : (d.modSpan sp f).inbound = d.inbound := rfl
@[simp] theorem Dev.modSpan_dma (d : Dev) (sp : SpanId) (f : SpanPort → SpanPort) : (d.modSpan sp f).dma = d.dma := rfl
@[simp] theorem Dev.modSpan_reclaim (d : Dev) (sp : SpanId) (f : SpanPort → SpanPort) : (d.modSpan sp f).reclaim = d.reclaim := rfl
@[simp] theorem Dev.modSpan_guard (d : Dev) (sp : SpanId) (f : SpanPort → SpanPort) : (d.modSpan sp f).guard = d.guard := rfl
@[simp] theorem Dev.modSpan_ports (d : Dev) (sp : SpanId) (f : SpanPort → SpanPort) : (d.modSpan sp f).ports = d.ports := rfl
@[simp] theorem Dev.modSpan_partLost (d : Dev) (sp : SpanId) (f : SpanPort → SpanPort) : (d.modSpan sp f).partLost = d.partLost := rfl
@[simp] theorem Dev.modSpan_intake (d : Dev) (sp : SpanId) (f : SpanPort → SpanPort) : (d.modSpan sp f).intake = d.intake := rfl
@[simp] theorem Dev.modSpan_journalMedia (d : Dev) (sp : SpanId) (f : SpanPort → SpanPort) : (d.modSpan sp f).journalMedia = d.journalMedia := rfl
@[simp] theorem Dev.modSpan_retentionLost (d : Dev) (sp : SpanId) (f : SpanPort → SpanPort) : (d.modSpan sp f).retentionLost = d.retentionLost := rfl

@[simp] theorem Dev.modSeg_now (d : Dev) (n : Nat) (f : Segment → Segment) : (d.modSeg n f).now = d.now := rfl
@[simp] theorem Dev.modSeg_examined (d : Dev) (n : Nat) (f : Segment → Segment) : (d.modSeg n f).examined = d.examined := rfl
@[simp] theorem Dev.modSeg_nextToken (d : Dev) (n : Nat) (f : Segment → Segment) : (d.modSeg n f).nextToken = d.nextToken := rfl
@[simp] theorem Dev.modSeg_part (d : Dev) (n : Nat) (f : Segment → Segment) : (d.modSeg n f).part = d.part := rfl
@[simp] theorem Dev.modSeg_power (d : Dev) (n : Nat) (f : Segment → Segment) : (d.modSeg n f).power = d.power := rfl
@[simp] theorem Dev.modSeg_settings (d : Dev) (n : Nat) (f : Segment → Segment) : (d.modSeg n f).settings = d.settings := rfl
@[simp] theorem Dev.modSeg_journal (d : Dev) (n : Nat) (f : Segment → Segment) : (d.modSeg n f).journal = d.journal := rfl
@[simp] theorem Dev.modSeg_index (d : Dev) (n : Nat) (f : Segment → Segment) : (d.modSeg n f).index = d.index := rfl
@[simp] theorem Dev.modSeg_held (d : Dev) (n : Nat) (f : Segment → Segment) : (d.modSeg n f).held = d.held := rfl
@[simp] theorem Dev.modSeg_status (d : Dev) (n : Nat) (f : Segment → Segment) : (d.modSeg n f).status = d.status := rfl
@[simp] theorem Dev.modSeg_sites (d : Dev) (n : Nat) (f : Segment → Segment) : (d.modSeg n f).sites = d.sites := rfl
@[simp] theorem Dev.modSeg_span (d : Dev) (n : Nat) (f : Segment → Segment) : (d.modSeg n f).span = d.span := rfl
@[simp] theorem Dev.modSeg_foreign (d : Dev) (n : Nat) (f : Segment → Segment) : (d.modSeg n f).foreign = d.foreign := rfl
@[simp] theorem Dev.modSeg_gens (d : Dev) (n : Nat) (f : Segment → Segment) : (d.modSeg n f).gens = d.gens := rfl
@[simp] theorem Dev.modSeg_fetch (d : Dev) (n : Nat) (f : Segment → Segment) : (d.modSeg n f).fetch = d.fetch := rfl
@[simp] theorem Dev.modSeg_inbound (d : Dev) (n : Nat) (f : Segment → Segment) : (d.modSeg n f).inbound = d.inbound := rfl
@[simp] theorem Dev.modSeg_dma (d : Dev) (n : Nat) (f : Segment → Segment) : (d.modSeg n f).dma = d.dma := rfl
@[simp] theorem Dev.modSeg_reclaim (d : Dev) (n : Nat) (f : Segment → Segment) : (d.modSeg n f).reclaim = d.reclaim := rfl
@[simp] theorem Dev.modSeg_guard (d : Dev) (n : Nat) (f : Segment → Segment) : (d.modSeg n f).guard = d.guard := rfl
@[simp] theorem Dev.modSeg_ports (d : Dev) (n : Nat) (f : Segment → Segment) : (d.modSeg n f).ports = d.ports := rfl
@[simp] theorem Dev.modSeg_partLost (d : Dev) (n : Nat) (f : Segment → Segment) : (d.modSeg n f).partLost = d.partLost := rfl
@[simp] theorem Dev.modSeg_intake (d : Dev) (n : Nat) (f : Segment → Segment) : (d.modSeg n f).intake = d.intake := rfl
@[simp] theorem Dev.modSeg_journalMedia (d : Dev) (n : Nat) (f : Segment → Segment) : (d.modSeg n f).journalMedia = d.journalMedia := rfl
@[simp] theorem Dev.modSeg_retentionLost (d : Dev) (n : Nat) (f : Segment → Segment) : (d.modSeg n f).retentionLost = d.retentionLost := rfl

@[simp] theorem Dev.modFetch_now (d : Dev) (f : FetchUnit → FetchUnit) : (d.modFetch f).now = d.now := rfl
@[simp] theorem Dev.modFetch_examined (d : Dev) (f : FetchUnit → FetchUnit) : (d.modFetch f).examined = d.examined := rfl
@[simp] theorem Dev.modFetch_nextToken (d : Dev) (f : FetchUnit → FetchUnit) : (d.modFetch f).nextToken = d.nextToken := rfl
@[simp] theorem Dev.modFetch_part (d : Dev) (f : FetchUnit → FetchUnit) : (d.modFetch f).part = d.part := rfl
@[simp] theorem Dev.modFetch_power (d : Dev) (f : FetchUnit → FetchUnit) : (d.modFetch f).power = d.power := rfl
@[simp] theorem Dev.modFetch_settings (d : Dev) (f : FetchUnit → FetchUnit) : (d.modFetch f).settings = d.settings := rfl
@[simp] theorem Dev.modFetch_journal (d : Dev) (f : FetchUnit → FetchUnit) : (d.modFetch f).journal = d.journal := rfl
@[simp] theorem Dev.modFetch_array (d : Dev) (f : FetchUnit → FetchUnit) : (d.modFetch f).array = d.array := rfl
@[simp] theorem Dev.modFetch_index (d : Dev) (f : FetchUnit → FetchUnit) : (d.modFetch f).index = d.index := rfl
@[simp] theorem Dev.modFetch_held (d : Dev) (f : FetchUnit → FetchUnit) : (d.modFetch f).held = d.held := rfl
@[simp] theorem Dev.modFetch_status (d : Dev) (f : FetchUnit → FetchUnit) : (d.modFetch f).status = d.status := rfl
@[simp] theorem Dev.modFetch_sites (d : Dev) (f : FetchUnit → FetchUnit) : (d.modFetch f).sites = d.sites := rfl
@[simp] theorem Dev.modFetch_span (d : Dev) (f : FetchUnit → FetchUnit) : (d.modFetch f).span = d.span := rfl
@[simp] theorem Dev.modFetch_foreign (d : Dev) (f : FetchUnit → FetchUnit) : (d.modFetch f).foreign = d.foreign := rfl
@[simp] theorem Dev.modFetch_gens (d : Dev) (f : FetchUnit → FetchUnit) : (d.modFetch f).gens = d.gens := rfl
@[simp] theorem Dev.modFetch_inbound (d : Dev) (f : FetchUnit → FetchUnit) : (d.modFetch f).inbound = d.inbound := rfl
@[simp] theorem Dev.modFetch_dma (d : Dev) (f : FetchUnit → FetchUnit) : (d.modFetch f).dma = d.dma := rfl
@[simp] theorem Dev.modFetch_reclaim (d : Dev) (f : FetchUnit → FetchUnit) : (d.modFetch f).reclaim = d.reclaim := rfl
@[simp] theorem Dev.modFetch_guard (d : Dev) (f : FetchUnit → FetchUnit) : (d.modFetch f).guard = d.guard := rfl
@[simp] theorem Dev.modFetch_ports (d : Dev) (f : FetchUnit → FetchUnit) : (d.modFetch f).ports = d.ports := rfl
@[simp] theorem Dev.modFetch_partLost (d : Dev) (f : FetchUnit → FetchUnit) : (d.modFetch f).partLost = d.partLost := rfl
@[simp] theorem Dev.modFetch_intake (d : Dev) (f : FetchUnit → FetchUnit) : (d.modFetch f).intake = d.intake := rfl
@[simp] theorem Dev.modFetch_journalMedia (d : Dev) (f : FetchUnit → FetchUnit) : (d.modFetch f).journalMedia = d.journalMedia := rfl
@[simp] theorem Dev.modFetch_retentionLost (d : Dev) (f : FetchUnit → FetchUnit) : (d.modFetch f).retentionLost = d.retentionLost := rfl

@[simp] theorem Dev.modInbound_now (d : Dev) (f : Inbound → Inbound) : (d.modInbound f).now = d.now := rfl
@[simp] theorem Dev.modInbound_examined (d : Dev) (f : Inbound → Inbound) : (d.modInbound f).examined = d.examined := rfl
@[simp] theorem Dev.modInbound_nextToken (d : Dev) (f : Inbound → Inbound) : (d.modInbound f).nextToken = d.nextToken := rfl
@[simp] theorem Dev.modInbound_part (d : Dev) (f : Inbound → Inbound) : (d.modInbound f).part = d.part := rfl
@[simp] theorem Dev.modInbound_power (d : Dev) (f : Inbound → Inbound) : (d.modInbound f).power = d.power := rfl
@[simp] theorem Dev.modInbound_settings (d : Dev) (f : Inbound → Inbound) : (d.modInbound f).settings = d.settings := rfl
@[simp] theorem Dev.modInbound_journal (d : Dev) (f : Inbound → Inbound) : (d.modInbound f).journal = d.journal := rfl
@[simp] theorem Dev.modInbound_array (d : Dev) (f : Inbound → Inbound) : (d.modInbound f).array = d.array := rfl
@[simp] theorem Dev.modInbound_index (d : Dev) (f : Inbound → Inbound) : (d.modInbound f).index = d.index := rfl
@[simp] theorem Dev.modInbound_held (d : Dev) (f : Inbound → Inbound) : (d.modInbound f).held = d.held := rfl
@[simp] theorem Dev.modInbound_status (d : Dev) (f : Inbound → Inbound) : (d.modInbound f).status = d.status := rfl
@[simp] theorem Dev.modInbound_sites (d : Dev) (f : Inbound → Inbound) : (d.modInbound f).sites = d.sites := rfl
@[simp] theorem Dev.modInbound_span (d : Dev) (f : Inbound → Inbound) : (d.modInbound f).span = d.span := rfl
@[simp] theorem Dev.modInbound_foreign (d : Dev) (f : Inbound → Inbound) : (d.modInbound f).foreign = d.foreign := rfl
@[simp] theorem Dev.modInbound_gens (d : Dev) (f : Inbound → Inbound) : (d.modInbound f).gens = d.gens := rfl
@[simp] theorem Dev.modInbound_fetch (d : Dev) (f : Inbound → Inbound) : (d.modInbound f).fetch = d.fetch := rfl
@[simp] theorem Dev.modInbound_dma (d : Dev) (f : Inbound → Inbound) : (d.modInbound f).dma = d.dma := rfl
@[simp] theorem Dev.modInbound_reclaim (d : Dev) (f : Inbound → Inbound) : (d.modInbound f).reclaim = d.reclaim := rfl
@[simp] theorem Dev.modInbound_guard (d : Dev) (f : Inbound → Inbound) : (d.modInbound f).guard = d.guard := rfl
@[simp] theorem Dev.modInbound_ports (d : Dev) (f : Inbound → Inbound) : (d.modInbound f).ports = d.ports := rfl
@[simp] theorem Dev.modInbound_partLost (d : Dev) (f : Inbound → Inbound) : (d.modInbound f).partLost = d.partLost := rfl
@[simp] theorem Dev.modInbound_intake (d : Dev) (f : Inbound → Inbound) : (d.modInbound f).intake = d.intake := rfl
@[simp] theorem Dev.modInbound_journalMedia (d : Dev) (f : Inbound → Inbound) : (d.modInbound f).journalMedia = d.journalMedia := rfl
@[simp] theorem Dev.modInbound_retentionLost (d : Dev) (f : Inbound → Inbound) : (d.modInbound f).retentionLost = d.retentionLost := rfl

@[simp] theorem Dev.modReclaim_now (d : Dev) (f : Reclaim → Reclaim) : (d.modReclaim f).now = d.now := rfl
@[simp] theorem Dev.modReclaim_examined (d : Dev) (f : Reclaim → Reclaim) : (d.modReclaim f).examined = d.examined := rfl
@[simp] theorem Dev.modReclaim_nextToken (d : Dev) (f : Reclaim → Reclaim) : (d.modReclaim f).nextToken = d.nextToken := rfl
@[simp] theorem Dev.modReclaim_part (d : Dev) (f : Reclaim → Reclaim) : (d.modReclaim f).part = d.part := rfl
@[simp] theorem Dev.modReclaim_power (d : Dev) (f : Reclaim → Reclaim) : (d.modReclaim f).power = d.power := rfl
@[simp] theorem Dev.modReclaim_settings (d : Dev) (f : Reclaim → Reclaim) : (d.modReclaim f).settings = d.settings := rfl
@[simp] theorem Dev.modReclaim_journal (d : Dev) (f : Reclaim → Reclaim) : (d.modReclaim f).journal = d.journal := rfl
@[simp] theorem Dev.modReclaim_array (d : Dev) (f : Reclaim → Reclaim) : (d.modReclaim f).array = d.array := rfl
@[simp] theorem Dev.modReclaim_index (d : Dev) (f : Reclaim → Reclaim) : (d.modReclaim f).index = d.index := rfl
@[simp] theorem Dev.modReclaim_held (d : Dev) (f : Reclaim → Reclaim) : (d.modReclaim f).held = d.held := rfl
@[simp] theorem Dev.modReclaim_status (d : Dev) (f : Reclaim → Reclaim) : (d.modReclaim f).status = d.status := rfl
@[simp] theorem Dev.modReclaim_sites (d : Dev) (f : Reclaim → Reclaim) : (d.modReclaim f).sites = d.sites := rfl
@[simp] theorem Dev.modReclaim_span (d : Dev) (f : Reclaim → Reclaim) : (d.modReclaim f).span = d.span := rfl
@[simp] theorem Dev.modReclaim_foreign (d : Dev) (f : Reclaim → Reclaim) : (d.modReclaim f).foreign = d.foreign := rfl
@[simp] theorem Dev.modReclaim_gens (d : Dev) (f : Reclaim → Reclaim) : (d.modReclaim f).gens = d.gens := rfl
@[simp] theorem Dev.modReclaim_fetch (d : Dev) (f : Reclaim → Reclaim) : (d.modReclaim f).fetch = d.fetch := rfl
@[simp] theorem Dev.modReclaim_inbound (d : Dev) (f : Reclaim → Reclaim) : (d.modReclaim f).inbound = d.inbound := rfl
@[simp] theorem Dev.modReclaim_dma (d : Dev) (f : Reclaim → Reclaim) : (d.modReclaim f).dma = d.dma := rfl
@[simp] theorem Dev.modReclaim_guard (d : Dev) (f : Reclaim → Reclaim) : (d.modReclaim f).guard = d.guard := rfl
@[simp] theorem Dev.modReclaim_ports (d : Dev) (f : Reclaim → Reclaim) : (d.modReclaim f).ports = d.ports := rfl
@[simp] theorem Dev.modReclaim_partLost (d : Dev) (f : Reclaim → Reclaim) : (d.modReclaim f).partLost = d.partLost := rfl
@[simp] theorem Dev.modReclaim_intake (d : Dev) (f : Reclaim → Reclaim) : (d.modReclaim f).intake = d.intake := rfl
@[simp] theorem Dev.modReclaim_journalMedia (d : Dev) (f : Reclaim → Reclaim) : (d.modReclaim f).journalMedia = d.journalMedia := rfl
@[simp] theorem Dev.modReclaim_retentionLost (d : Dev) (f : Reclaim → Reclaim) : (d.modReclaim f).retentionLost = d.retentionLost := rfl

@[simp] theorem Dev.modSettings_now (d : Dev) (f : Settings → Settings) : (d.modSettings f).now = d.now := rfl
@[simp] theorem Dev.modSettings_examined (d : Dev) (f : Settings → Settings) : (d.modSettings f).examined = d.examined := rfl
@[simp] theorem Dev.modSettings_nextToken (d : Dev) (f : Settings → Settings) : (d.modSettings f).nextToken = d.nextToken := rfl
@[simp] theorem Dev.modSettings_part (d : Dev) (f : Settings → Settings) : (d.modSettings f).part = d.part := rfl
@[simp] theorem Dev.modSettings_power (d : Dev) (f : Settings → Settings) : (d.modSettings f).power = d.power := rfl
@[simp] theorem Dev.modSettings_journal (d : Dev) (f : Settings → Settings) : (d.modSettings f).journal = d.journal := rfl
@[simp] theorem Dev.modSettings_array (d : Dev) (f : Settings → Settings) : (d.modSettings f).array = d.array := rfl
@[simp] theorem Dev.modSettings_index (d : Dev) (f : Settings → Settings) : (d.modSettings f).index = d.index := rfl
@[simp] theorem Dev.modSettings_held (d : Dev) (f : Settings → Settings) : (d.modSettings f).held = d.held := rfl
@[simp] theorem Dev.modSettings_status (d : Dev) (f : Settings → Settings) : (d.modSettings f).status = d.status := rfl
@[simp] theorem Dev.modSettings_sites (d : Dev) (f : Settings → Settings) : (d.modSettings f).sites = d.sites := rfl
@[simp] theorem Dev.modSettings_span (d : Dev) (f : Settings → Settings) : (d.modSettings f).span = d.span := rfl
@[simp] theorem Dev.modSettings_foreign (d : Dev) (f : Settings → Settings) : (d.modSettings f).foreign = d.foreign := rfl
@[simp] theorem Dev.modSettings_gens (d : Dev) (f : Settings → Settings) : (d.modSettings f).gens = d.gens := rfl
@[simp] theorem Dev.modSettings_fetch (d : Dev) (f : Settings → Settings) : (d.modSettings f).fetch = d.fetch := rfl
@[simp] theorem Dev.modSettings_inbound (d : Dev) (f : Settings → Settings) : (d.modSettings f).inbound = d.inbound := rfl
@[simp] theorem Dev.modSettings_dma (d : Dev) (f : Settings → Settings) : (d.modSettings f).dma = d.dma := rfl
@[simp] theorem Dev.modSettings_reclaim (d : Dev) (f : Settings → Settings) : (d.modSettings f).reclaim = d.reclaim := rfl
@[simp] theorem Dev.modSettings_guard (d : Dev) (f : Settings → Settings) : (d.modSettings f).guard = d.guard := rfl
@[simp] theorem Dev.modSettings_ports (d : Dev) (f : Settings → Settings) : (d.modSettings f).ports = d.ports := rfl
@[simp] theorem Dev.modSettings_partLost (d : Dev) (f : Settings → Settings) : (d.modSettings f).partLost = d.partLost := rfl
@[simp] theorem Dev.modSettings_intake (d : Dev) (f : Settings → Settings) : (d.modSettings f).intake = d.intake := rfl
@[simp] theorem Dev.modSettings_journalMedia (d : Dev) (f : Settings → Settings) : (d.modSettings f).journalMedia = d.journalMedia := rfl
@[simp] theorem Dev.modSettings_retentionLost (d : Dev) (f : Settings → Settings) : (d.modSettings f).retentionLost = d.retentionLost := rfl

@[simp] theorem Dev.putSlot_now (d : Dev) (s : Seq) (x : Slot) : (d.putSlot s x).now = d.now := rfl
@[simp] theorem Dev.putSlot_examined (d : Dev) (s : Seq) (x : Slot) : (d.putSlot s x).examined = d.examined := rfl
@[simp] theorem Dev.putSlot_nextToken (d : Dev) (s : Seq) (x : Slot) : (d.putSlot s x).nextToken = d.nextToken := rfl
@[simp] theorem Dev.putSlot_part (d : Dev) (s : Seq) (x : Slot) : (d.putSlot s x).part = d.part := rfl
@[simp] theorem Dev.putSlot_power (d : Dev) (s : Seq) (x : Slot) : (d.putSlot s x).power = d.power := rfl
@[simp] theorem Dev.putSlot_settings (d : Dev) (s : Seq) (x : Slot) : (d.putSlot s x).settings = d.settings := rfl
@[simp] theorem Dev.putSlot_journal (d : Dev) (s : Seq) (x : Slot) : (d.putSlot s x).journal = d.journal := rfl
@[simp] theorem Dev.putSlot_array (d : Dev) (s : Seq) (x : Slot) : (d.putSlot s x).array = d.array := rfl
@[simp] theorem Dev.putSlot_index (d : Dev) (s : Seq) (x : Slot) : (d.putSlot s x).index = d.index := rfl
@[simp] theorem Dev.putSlot_held (d : Dev) (s : Seq) (x : Slot) : (d.putSlot s x).held = d.held := rfl
@[simp] theorem Dev.putSlot_sites (d : Dev) (s : Seq) (x : Slot) : (d.putSlot s x).sites = d.sites := rfl
@[simp] theorem Dev.putSlot_span (d : Dev) (s : Seq) (x : Slot) : (d.putSlot s x).span = d.span := rfl
@[simp] theorem Dev.putSlot_foreign (d : Dev) (s : Seq) (x : Slot) : (d.putSlot s x).foreign = d.foreign := rfl
@[simp] theorem Dev.putSlot_gens (d : Dev) (s : Seq) (x : Slot) : (d.putSlot s x).gens = d.gens := rfl
@[simp] theorem Dev.putSlot_fetch (d : Dev) (s : Seq) (x : Slot) : (d.putSlot s x).fetch = d.fetch := rfl
@[simp] theorem Dev.putSlot_inbound (d : Dev) (s : Seq) (x : Slot) : (d.putSlot s x).inbound = d.inbound := rfl
@[simp] theorem Dev.putSlot_dma (d : Dev) (s : Seq) (x : Slot) : (d.putSlot s x).dma = d.dma := rfl
@[simp] theorem Dev.putSlot_reclaim (d : Dev) (s : Seq) (x : Slot) : (d.putSlot s x).reclaim = d.reclaim := rfl
@[simp] theorem Dev.putSlot_guard (d : Dev) (s : Seq) (x : Slot) : (d.putSlot s x).guard = d.guard := rfl
@[simp] theorem Dev.putSlot_ports (d : Dev) (s : Seq) (x : Slot) : (d.putSlot s x).ports = d.ports := rfl
@[simp] theorem Dev.putSlot_partLost (d : Dev) (s : Seq) (x : Slot) : (d.putSlot s x).partLost = d.partLost := rfl
@[simp] theorem Dev.putSlot_intake (d : Dev) (s : Seq) (x : Slot) : (d.putSlot s x).intake = d.intake := rfl
@[simp] theorem Dev.putSlot_journalMedia (d : Dev) (s : Seq) (x : Slot) : (d.putSlot s x).journalMedia = d.journalMedia := rfl
@[simp] theorem Dev.putSlot_retentionLost (d : Dev) (s : Seq) (x : Slot) : (d.putSlot s x).retentionLost = d.retentionLost := rfl

@[simp] theorem Dev.freeSlot_now (d : Dev) (s : Seq) : (d.freeSlot s).now = d.now := rfl
@[simp] theorem Dev.freeSlot_examined (d : Dev) (s : Seq) : (d.freeSlot s).examined = d.examined := rfl
@[simp] theorem Dev.freeSlot_nextToken (d : Dev) (s : Seq) : (d.freeSlot s).nextToken = d.nextToken := rfl
@[simp] theorem Dev.freeSlot_part (d : Dev) (s : Seq) : (d.freeSlot s).part = d.part := rfl
@[simp] theorem Dev.freeSlot_power (d : Dev) (s : Seq) : (d.freeSlot s).power = d.power := rfl
@[simp] theorem Dev.freeSlot_settings (d : Dev) (s : Seq) : (d.freeSlot s).settings = d.settings := rfl
@[simp] theorem Dev.freeSlot_journal (d : Dev) (s : Seq) : (d.freeSlot s).journal = d.journal := rfl
@[simp] theorem Dev.freeSlot_array (d : Dev) (s : Seq) : (d.freeSlot s).array = d.array := rfl
@[simp] theorem Dev.freeSlot_index (d : Dev) (s : Seq) : (d.freeSlot s).index = d.index := rfl
@[simp] theorem Dev.freeSlot_held (d : Dev) (s : Seq) : (d.freeSlot s).held = d.held := rfl
@[simp] theorem Dev.freeSlot_sites (d : Dev) (s : Seq) : (d.freeSlot s).sites = d.sites := rfl
@[simp] theorem Dev.freeSlot_span (d : Dev) (s : Seq) : (d.freeSlot s).span = d.span := rfl
@[simp] theorem Dev.freeSlot_foreign (d : Dev) (s : Seq) : (d.freeSlot s).foreign = d.foreign := rfl
@[simp] theorem Dev.freeSlot_gens (d : Dev) (s : Seq) : (d.freeSlot s).gens = d.gens := rfl
@[simp] theorem Dev.freeSlot_fetch (d : Dev) (s : Seq) : (d.freeSlot s).fetch = d.fetch := rfl
@[simp] theorem Dev.freeSlot_inbound (d : Dev) (s : Seq) : (d.freeSlot s).inbound = d.inbound := rfl
@[simp] theorem Dev.freeSlot_dma (d : Dev) (s : Seq) : (d.freeSlot s).dma = d.dma := rfl
@[simp] theorem Dev.freeSlot_reclaim (d : Dev) (s : Seq) : (d.freeSlot s).reclaim = d.reclaim := rfl
@[simp] theorem Dev.freeSlot_guard (d : Dev) (s : Seq) : (d.freeSlot s).guard = d.guard := rfl
@[simp] theorem Dev.freeSlot_ports (d : Dev) (s : Seq) : (d.freeSlot s).ports = d.ports := rfl
@[simp] theorem Dev.freeSlot_partLost (d : Dev) (s : Seq) : (d.freeSlot s).partLost = d.partLost := rfl
@[simp] theorem Dev.freeSlot_intake (d : Dev) (s : Seq) : (d.freeSlot s).intake = d.intake := rfl
@[simp] theorem Dev.freeSlot_journalMedia (d : Dev) (s : Seq) : (d.freeSlot s).journalMedia = d.journalMedia := rfl
@[simp] theorem Dev.freeSlot_retentionLost (d : Dev) (s : Seq) : (d.freeSlot s).retentionLost = d.retentionLost := rfl

@[simp] theorem Dev.tick_nextToken (d : Dev) (t : Time) : (d.tick t).nextToken = d.nextToken := rfl
@[simp] theorem Dev.tick_part (d : Dev) (t : Time) : (d.tick t).part = d.part := rfl
@[simp] theorem Dev.tick_power (d : Dev) (t : Time) : (d.tick t).power = d.power := rfl
@[simp] theorem Dev.tick_settings (d : Dev) (t : Time) : (d.tick t).settings = d.settings := rfl
@[simp] theorem Dev.tick_journal (d : Dev) (t : Time) : (d.tick t).journal = d.journal := rfl
@[simp] theorem Dev.tick_array (d : Dev) (t : Time) : (d.tick t).array = d.array := rfl
@[simp] theorem Dev.tick_index (d : Dev) (t : Time) : (d.tick t).index = d.index := rfl
@[simp] theorem Dev.tick_held (d : Dev) (t : Time) : (d.tick t).held = d.held := rfl
@[simp] theorem Dev.tick_status (d : Dev) (t : Time) : (d.tick t).status = d.status := rfl
@[simp] theorem Dev.tick_sites (d : Dev) (t : Time) : (d.tick t).sites = d.sites := rfl
@[simp] theorem Dev.tick_span (d : Dev) (t : Time) : (d.tick t).span = d.span := rfl
@[simp] theorem Dev.tick_foreign (d : Dev) (t : Time) : (d.tick t).foreign = d.foreign := rfl
@[simp] theorem Dev.tick_gens (d : Dev) (t : Time) : (d.tick t).gens = d.gens := rfl
@[simp] theorem Dev.tick_fetch (d : Dev) (t : Time) : (d.tick t).fetch = d.fetch := rfl
@[simp] theorem Dev.tick_inbound (d : Dev) (t : Time) : (d.tick t).inbound = d.inbound := rfl
@[simp] theorem Dev.tick_dma (d : Dev) (t : Time) : (d.tick t).dma = d.dma := rfl
@[simp] theorem Dev.tick_reclaim (d : Dev) (t : Time) : (d.tick t).reclaim = d.reclaim := rfl
@[simp] theorem Dev.tick_guard (d : Dev) (t : Time) : (d.tick t).guard = d.guard := rfl
@[simp] theorem Dev.tick_ports (d : Dev) (t : Time) : (d.tick t).ports = d.ports := rfl
@[simp] theorem Dev.tick_partLost (d : Dev) (t : Time) : (d.tick t).partLost = d.partLost := rfl
@[simp] theorem Dev.tick_intake (d : Dev) (t : Time) : (d.tick t).intake = d.intake := rfl
@[simp] theorem Dev.tick_journalMedia (d : Dev) (t : Time) : (d.tick t).journalMedia = d.journalMedia := rfl
@[simp] theorem Dev.tick_retentionLost (d : Dev) (t : Time) : (d.tick t).retentionLost = d.retentionLost := rfl

@[simp] theorem Dev.place_now (d : Dev) (x : Staged) : (d.place x).1.now = d.now := rfl
@[simp] theorem Dev.place_examined (d : Dev) (x : Staged) : (d.place x).1.examined = d.examined := rfl
@[simp] theorem Dev.place_nextToken (d : Dev) (x : Staged) : (d.place x).1.nextToken = d.nextToken := rfl
@[simp] theorem Dev.place_part (d : Dev) (x : Staged) : (d.place x).1.part = d.part := rfl
@[simp] theorem Dev.place_power (d : Dev) (x : Staged) : (d.place x).1.power = d.power := rfl
@[simp] theorem Dev.place_settings (d : Dev) (x : Staged) : (d.place x).1.settings = d.settings := rfl
@[simp] theorem Dev.place_array (d : Dev) (x : Staged) : (d.place x).1.array = d.array := rfl
@[simp] theorem Dev.place_index (d : Dev) (x : Staged) : (d.place x).1.index = d.index := rfl
@[simp] theorem Dev.place_held (d : Dev) (x : Staged) : (d.place x).1.held = d.held := rfl
@[simp] theorem Dev.place_status (d : Dev) (x : Staged) : (d.place x).1.status = d.status := rfl
@[simp] theorem Dev.place_sites (d : Dev) (x : Staged) : (d.place x).1.sites = d.sites := rfl
@[simp] theorem Dev.place_span (d : Dev) (x : Staged) : (d.place x).1.span = d.span := rfl
@[simp] theorem Dev.place_foreign (d : Dev) (x : Staged) : (d.place x).1.foreign = d.foreign := rfl
@[simp] theorem Dev.place_gens (d : Dev) (x : Staged) : (d.place x).1.gens = d.gens := rfl
@[simp] theorem Dev.place_fetch (d : Dev) (x : Staged) : (d.place x).1.fetch = d.fetch := rfl
@[simp] theorem Dev.place_inbound (d : Dev) (x : Staged) : (d.place x).1.inbound = d.inbound := rfl
@[simp] theorem Dev.place_dma (d : Dev) (x : Staged) : (d.place x).1.dma = d.dma := rfl
@[simp] theorem Dev.place_reclaim (d : Dev) (x : Staged) : (d.place x).1.reclaim = d.reclaim := rfl
@[simp] theorem Dev.place_guard (d : Dev) (x : Staged) : (d.place x).1.guard = d.guard := rfl
@[simp] theorem Dev.place_ports (d : Dev) (x : Staged) : (d.place x).1.ports = d.ports := rfl
@[simp] theorem Dev.place_partLost (d : Dev) (x : Staged) : (d.place x).1.partLost = d.partLost := rfl
@[simp] theorem Dev.place_intake (d : Dev) (x : Staged) : (d.place x).1.intake = d.intake := rfl
@[simp] theorem Dev.place_journalMedia (d : Dev) (x : Staged) : (d.place x).1.journalMedia = d.journalMedia := rfl
@[simp] theorem Dev.place_retentionLost (d : Dev) (x : Staged) : (d.place x).1.retentionLost = d.retentionLost := rfl

@[simp] theorem Dev.take_now (d : Dev) (p : PortId) (r : CmdRec) (rest : List CmdRec) : (d.take p r rest).now = d.now := rfl
@[simp] theorem Dev.take_examined (d : Dev) (p : PortId) (r : CmdRec) (rest : List CmdRec) : (d.take p r rest).examined = d.examined := rfl
@[simp] theorem Dev.take_part (d : Dev) (p : PortId) (r : CmdRec) (rest : List CmdRec) : (d.take p r rest).part = d.part := rfl
@[simp] theorem Dev.take_power (d : Dev) (p : PortId) (r : CmdRec) (rest : List CmdRec) : (d.take p r rest).power = d.power := rfl
@[simp] theorem Dev.take_settings (d : Dev) (p : PortId) (r : CmdRec) (rest : List CmdRec) : (d.take p r rest).settings = d.settings := rfl
@[simp] theorem Dev.take_journal (d : Dev) (p : PortId) (r : CmdRec) (rest : List CmdRec) : (d.take p r rest).journal = d.journal := rfl
@[simp] theorem Dev.take_array (d : Dev) (p : PortId) (r : CmdRec) (rest : List CmdRec) : (d.take p r rest).array = d.array := rfl
@[simp] theorem Dev.take_index (d : Dev) (p : PortId) (r : CmdRec) (rest : List CmdRec) : (d.take p r rest).index = d.index := rfl
@[simp] theorem Dev.take_held (d : Dev) (p : PortId) (r : CmdRec) (rest : List CmdRec) : (d.take p r rest).held = d.held := rfl
@[simp] theorem Dev.take_status (d : Dev) (p : PortId) (r : CmdRec) (rest : List CmdRec) : (d.take p r rest).status = d.status := rfl
@[simp] theorem Dev.take_sites (d : Dev) (p : PortId) (r : CmdRec) (rest : List CmdRec) : (d.take p r rest).sites = d.sites := rfl
@[simp] theorem Dev.take_span (d : Dev) (p : PortId) (r : CmdRec) (rest : List CmdRec) : (d.take p r rest).span = d.span := rfl
@[simp] theorem Dev.take_foreign (d : Dev) (p : PortId) (r : CmdRec) (rest : List CmdRec) : (d.take p r rest).foreign = d.foreign := rfl
@[simp] theorem Dev.take_gens (d : Dev) (p : PortId) (r : CmdRec) (rest : List CmdRec) : (d.take p r rest).gens = d.gens := rfl
@[simp] theorem Dev.take_fetch (d : Dev) (p : PortId) (r : CmdRec) (rest : List CmdRec) : (d.take p r rest).fetch = d.fetch := rfl
@[simp] theorem Dev.take_inbound (d : Dev) (p : PortId) (r : CmdRec) (rest : List CmdRec) : (d.take p r rest).inbound = d.inbound := rfl
@[simp] theorem Dev.take_dma (d : Dev) (p : PortId) (r : CmdRec) (rest : List CmdRec) : (d.take p r rest).dma = d.dma := rfl
@[simp] theorem Dev.take_reclaim (d : Dev) (p : PortId) (r : CmdRec) (rest : List CmdRec) : (d.take p r rest).reclaim = d.reclaim := rfl
@[simp] theorem Dev.take_guard (d : Dev) (p : PortId) (r : CmdRec) (rest : List CmdRec) : (d.take p r rest).guard = d.guard := rfl
@[simp] theorem Dev.take_partLost (d : Dev) (p : PortId) (r : CmdRec) (rest : List CmdRec) : (d.take p r rest).partLost = d.partLost := rfl
@[simp] theorem Dev.take_intake (d : Dev) (p : PortId) (r : CmdRec) (rest : List CmdRec) : (d.take p r rest).intake = d.intake := rfl
@[simp] theorem Dev.take_journalMedia (d : Dev) (p : PortId) (r : CmdRec) (rest : List CmdRec) : (d.take p r rest).journalMedia = d.journalMedia := rfl
@[simp] theorem Dev.take_retentionLost (d : Dev) (p : PortId) (r : CmdRec) (rest : List CmdRec) : (d.take p r rest).retentionLost = d.retentionLost := rfl

@[simp] theorem Dev.answer_now (d : Dev) (tok : Tok) (st : Status) (fl : Byte) (b : RespBody) : (d.answer tok st fl b).now = d.now := rfl
@[simp] theorem Dev.answer_examined (d : Dev) (tok : Tok) (st : Status) (fl : Byte) (b : RespBody) : (d.answer tok st fl b).examined = d.examined := rfl
@[simp] theorem Dev.answer_nextToken (d : Dev) (tok : Tok) (st : Status) (fl : Byte) (b : RespBody) : (d.answer tok st fl b).nextToken = d.nextToken := rfl
@[simp] theorem Dev.answer_part (d : Dev) (tok : Tok) (st : Status) (fl : Byte) (b : RespBody) : (d.answer tok st fl b).part = d.part := rfl
@[simp] theorem Dev.answer_power (d : Dev) (tok : Tok) (st : Status) (fl : Byte) (b : RespBody) : (d.answer tok st fl b).power = d.power := rfl
@[simp] theorem Dev.answer_settings (d : Dev) (tok : Tok) (st : Status) (fl : Byte) (b : RespBody) : (d.answer tok st fl b).settings = d.settings := rfl
@[simp] theorem Dev.answer_journal (d : Dev) (tok : Tok) (st : Status) (fl : Byte) (b : RespBody) : (d.answer tok st fl b).journal = d.journal := rfl
@[simp] theorem Dev.answer_array (d : Dev) (tok : Tok) (st : Status) (fl : Byte) (b : RespBody) : (d.answer tok st fl b).array = d.array := rfl
@[simp] theorem Dev.answer_index (d : Dev) (tok : Tok) (st : Status) (fl : Byte) (b : RespBody) : (d.answer tok st fl b).index = d.index := rfl
@[simp] theorem Dev.answer_held (d : Dev) (tok : Tok) (st : Status) (fl : Byte) (b : RespBody) : (d.answer tok st fl b).held = d.held := rfl
@[simp] theorem Dev.answer_status (d : Dev) (tok : Tok) (st : Status) (fl : Byte) (b : RespBody) : (d.answer tok st fl b).status = d.status := rfl
@[simp] theorem Dev.answer_sites (d : Dev) (tok : Tok) (st : Status) (fl : Byte) (b : RespBody) : (d.answer tok st fl b).sites = d.sites := rfl
@[simp] theorem Dev.answer_span (d : Dev) (tok : Tok) (st : Status) (fl : Byte) (b : RespBody) : (d.answer tok st fl b).span = d.span := rfl
@[simp] theorem Dev.answer_foreign (d : Dev) (tok : Tok) (st : Status) (fl : Byte) (b : RespBody) : (d.answer tok st fl b).foreign = d.foreign := rfl
@[simp] theorem Dev.answer_gens (d : Dev) (tok : Tok) (st : Status) (fl : Byte) (b : RespBody) : (d.answer tok st fl b).gens = d.gens := rfl
@[simp] theorem Dev.answer_fetch (d : Dev) (tok : Tok) (st : Status) (fl : Byte) (b : RespBody) : (d.answer tok st fl b).fetch = d.fetch := rfl
@[simp] theorem Dev.answer_inbound (d : Dev) (tok : Tok) (st : Status) (fl : Byte) (b : RespBody) : (d.answer tok st fl b).inbound = d.inbound := rfl
@[simp] theorem Dev.answer_dma (d : Dev) (tok : Tok) (st : Status) (fl : Byte) (b : RespBody) : (d.answer tok st fl b).dma = d.dma := rfl
@[simp] theorem Dev.answer_reclaim (d : Dev) (tok : Tok) (st : Status) (fl : Byte) (b : RespBody) : (d.answer tok st fl b).reclaim = d.reclaim := rfl
@[simp] theorem Dev.answer_guard (d : Dev) (tok : Tok) (st : Status) (fl : Byte) (b : RespBody) : (d.answer tok st fl b).guard = d.guard := rfl
@[simp] theorem Dev.answer_partLost (d : Dev) (tok : Tok) (st : Status) (fl : Byte) (b : RespBody) : (d.answer tok st fl b).partLost = d.partLost := rfl
@[simp] theorem Dev.answer_intake (d : Dev) (tok : Tok) (st : Status) (fl : Byte) (b : RespBody) : (d.answer tok st fl b).intake = d.intake := rfl
@[simp] theorem Dev.answer_journalMedia (d : Dev) (tok : Tok) (st : Status) (fl : Byte) (b : RespBody) : (d.answer tok st fl b).journalMedia = d.journalMedia := rfl
@[simp] theorem Dev.answer_retentionLost (d : Dev) (tok : Tok) (st : Status) (fl : Byte) (b : RespBody) : (d.answer tok st fl b).retentionLost = d.retentionLost := rfl

@[simp] theorem Dev.modTaken_now (d : Dev) (tok : Tok) (f : Taken → Taken) : (d.modTaken tok f).now = d.now := rfl
@[simp] theorem Dev.modTaken_examined (d : Dev) (tok : Tok) (f : Taken → Taken) : (d.modTaken tok f).examined = d.examined := rfl
@[simp] theorem Dev.modTaken_nextToken (d : Dev) (tok : Tok) (f : Taken → Taken) : (d.modTaken tok f).nextToken = d.nextToken := rfl
@[simp] theorem Dev.modTaken_part (d : Dev) (tok : Tok) (f : Taken → Taken) : (d.modTaken tok f).part = d.part := rfl
@[simp] theorem Dev.modTaken_power (d : Dev) (tok : Tok) (f : Taken → Taken) : (d.modTaken tok f).power = d.power := rfl
@[simp] theorem Dev.modTaken_settings (d : Dev) (tok : Tok) (f : Taken → Taken) : (d.modTaken tok f).settings = d.settings := rfl
@[simp] theorem Dev.modTaken_journal (d : Dev) (tok : Tok) (f : Taken → Taken) : (d.modTaken tok f).journal = d.journal := rfl
@[simp] theorem Dev.modTaken_array (d : Dev) (tok : Tok) (f : Taken → Taken) : (d.modTaken tok f).array = d.array := rfl
@[simp] theorem Dev.modTaken_index (d : Dev) (tok : Tok) (f : Taken → Taken) : (d.modTaken tok f).index = d.index := rfl
@[simp] theorem Dev.modTaken_held (d : Dev) (tok : Tok) (f : Taken → Taken) : (d.modTaken tok f).held = d.held := rfl
@[simp] theorem Dev.modTaken_status (d : Dev) (tok : Tok) (f : Taken → Taken) : (d.modTaken tok f).status = d.status := rfl
@[simp] theorem Dev.modTaken_sites (d : Dev) (tok : Tok) (f : Taken → Taken) : (d.modTaken tok f).sites = d.sites := rfl
@[simp] theorem Dev.modTaken_span (d : Dev) (tok : Tok) (f : Taken → Taken) : (d.modTaken tok f).span = d.span := rfl
@[simp] theorem Dev.modTaken_foreign (d : Dev) (tok : Tok) (f : Taken → Taken) : (d.modTaken tok f).foreign = d.foreign := rfl
@[simp] theorem Dev.modTaken_gens (d : Dev) (tok : Tok) (f : Taken → Taken) : (d.modTaken tok f).gens = d.gens := rfl
@[simp] theorem Dev.modTaken_fetch (d : Dev) (tok : Tok) (f : Taken → Taken) : (d.modTaken tok f).fetch = d.fetch := rfl
@[simp] theorem Dev.modTaken_inbound (d : Dev) (tok : Tok) (f : Taken → Taken) : (d.modTaken tok f).inbound = d.inbound := rfl
@[simp] theorem Dev.modTaken_dma (d : Dev) (tok : Tok) (f : Taken → Taken) : (d.modTaken tok f).dma = d.dma := rfl
@[simp] theorem Dev.modTaken_reclaim (d : Dev) (tok : Tok) (f : Taken → Taken) : (d.modTaken tok f).reclaim = d.reclaim := rfl
@[simp] theorem Dev.modTaken_guard (d : Dev) (tok : Tok) (f : Taken → Taken) : (d.modTaken tok f).guard = d.guard := rfl
@[simp] theorem Dev.modTaken_partLost (d : Dev) (tok : Tok) (f : Taken → Taken) : (d.modTaken tok f).partLost = d.partLost := rfl
@[simp] theorem Dev.modTaken_intake (d : Dev) (tok : Tok) (f : Taken → Taken) : (d.modTaken tok f).intake = d.intake := rfl
@[simp] theorem Dev.modTaken_journalMedia (d : Dev) (tok : Tok) (f : Taken → Taken) : (d.modTaken tok f).journalMedia = d.journalMedia := rfl
@[simp] theorem Dev.modTaken_retentionLost (d : Dev) (tok : Tok) (f : Taken → Taken) : (d.modTaken tok f).retentionLost = d.retentionLost := rfl

@[simp] theorem Dev.replied_now (d : Dev) (p : PortId) (cid : Word32) (kind : Nat) (st : Status) (fl : Byte) (b : RespBody) : (d.replied p cid kind st fl b).now = d.now := rfl
@[simp] theorem Dev.replied_examined (d : Dev) (p : PortId) (cid : Word32) (kind : Nat) (st : Status) (fl : Byte) (b : RespBody) : (d.replied p cid kind st fl b).examined = d.examined := rfl
@[simp] theorem Dev.replied_part (d : Dev) (p : PortId) (cid : Word32) (kind : Nat) (st : Status) (fl : Byte) (b : RespBody) : (d.replied p cid kind st fl b).part = d.part := rfl
@[simp] theorem Dev.replied_power (d : Dev) (p : PortId) (cid : Word32) (kind : Nat) (st : Status) (fl : Byte) (b : RespBody) : (d.replied p cid kind st fl b).power = d.power := rfl
@[simp] theorem Dev.replied_settings (d : Dev) (p : PortId) (cid : Word32) (kind : Nat) (st : Status) (fl : Byte) (b : RespBody) : (d.replied p cid kind st fl b).settings = d.settings := rfl
@[simp] theorem Dev.replied_journal (d : Dev) (p : PortId) (cid : Word32) (kind : Nat) (st : Status) (fl : Byte) (b : RespBody) : (d.replied p cid kind st fl b).journal = d.journal := rfl
@[simp] theorem Dev.replied_array (d : Dev) (p : PortId) (cid : Word32) (kind : Nat) (st : Status) (fl : Byte) (b : RespBody) : (d.replied p cid kind st fl b).array = d.array := rfl
@[simp] theorem Dev.replied_index (d : Dev) (p : PortId) (cid : Word32) (kind : Nat) (st : Status) (fl : Byte) (b : RespBody) : (d.replied p cid kind st fl b).index = d.index := rfl
@[simp] theorem Dev.replied_held (d : Dev) (p : PortId) (cid : Word32) (kind : Nat) (st : Status) (fl : Byte) (b : RespBody) : (d.replied p cid kind st fl b).held = d.held := rfl
@[simp] theorem Dev.replied_status (d : Dev) (p : PortId) (cid : Word32) (kind : Nat) (st : Status) (fl : Byte) (b : RespBody) : (d.replied p cid kind st fl b).status = d.status := rfl
@[simp] theorem Dev.replied_sites (d : Dev) (p : PortId) (cid : Word32) (kind : Nat) (st : Status) (fl : Byte) (b : RespBody) : (d.replied p cid kind st fl b).sites = d.sites := rfl
@[simp] theorem Dev.replied_span (d : Dev) (p : PortId) (cid : Word32) (kind : Nat) (st : Status) (fl : Byte) (b : RespBody) : (d.replied p cid kind st fl b).span = d.span := rfl
@[simp] theorem Dev.replied_foreign (d : Dev) (p : PortId) (cid : Word32) (kind : Nat) (st : Status) (fl : Byte) (b : RespBody) : (d.replied p cid kind st fl b).foreign = d.foreign := rfl
@[simp] theorem Dev.replied_gens (d : Dev) (p : PortId) (cid : Word32) (kind : Nat) (st : Status) (fl : Byte) (b : RespBody) : (d.replied p cid kind st fl b).gens = d.gens := rfl
@[simp] theorem Dev.replied_fetch (d : Dev) (p : PortId) (cid : Word32) (kind : Nat) (st : Status) (fl : Byte) (b : RespBody) : (d.replied p cid kind st fl b).fetch = d.fetch := rfl
@[simp] theorem Dev.replied_inbound (d : Dev) (p : PortId) (cid : Word32) (kind : Nat) (st : Status) (fl : Byte) (b : RespBody) : (d.replied p cid kind st fl b).inbound = d.inbound := rfl
@[simp] theorem Dev.replied_dma (d : Dev) (p : PortId) (cid : Word32) (kind : Nat) (st : Status) (fl : Byte) (b : RespBody) : (d.replied p cid kind st fl b).dma = d.dma := rfl
@[simp] theorem Dev.replied_reclaim (d : Dev) (p : PortId) (cid : Word32) (kind : Nat) (st : Status) (fl : Byte) (b : RespBody) : (d.replied p cid kind st fl b).reclaim = d.reclaim := rfl
@[simp] theorem Dev.replied_guard (d : Dev) (p : PortId) (cid : Word32) (kind : Nat) (st : Status) (fl : Byte) (b : RespBody) : (d.replied p cid kind st fl b).guard = d.guard := rfl
@[simp] theorem Dev.replied_partLost (d : Dev) (p : PortId) (cid : Word32) (kind : Nat) (st : Status) (fl : Byte) (b : RespBody) : (d.replied p cid kind st fl b).partLost = d.partLost := rfl
@[simp] theorem Dev.replied_intake (d : Dev) (p : PortId) (cid : Word32) (kind : Nat) (st : Status) (fl : Byte) (b : RespBody) : (d.replied p cid kind st fl b).intake = d.intake := rfl
@[simp] theorem Dev.replied_journalMedia (d : Dev) (p : PortId) (cid : Word32) (kind : Nat) (st : Status) (fl : Byte) (b : RespBody) : (d.replied p cid kind st fl b).journalMedia = d.journalMedia := rfl
@[simp] theorem Dev.replied_retentionLost (d : Dev) (p : PortId) (cid : Word32) (kind : Nat) (st : Status) (fl : Byte) (b : RespBody) : (d.replied p cid kind st fl b).retentionLost = d.retentionLost := rfl

@[simp] theorem Dev.granted_now (d : Dev) (p : PortId) (cid : Word32) (kind : Nat) (c : Cont) : (d.granted p cid kind c).now = d.now := rfl
@[simp] theorem Dev.granted_examined (d : Dev) (p : PortId) (cid : Word32) (kind : Nat) (c : Cont) : (d.granted p cid kind c).examined = d.examined := rfl
@[simp] theorem Dev.granted_part (d : Dev) (p : PortId) (cid : Word32) (kind : Nat) (c : Cont) : (d.granted p cid kind c).part = d.part := rfl
@[simp] theorem Dev.granted_power (d : Dev) (p : PortId) (cid : Word32) (kind : Nat) (c : Cont) : (d.granted p cid kind c).power = d.power := rfl
@[simp] theorem Dev.granted_settings (d : Dev) (p : PortId) (cid : Word32) (kind : Nat) (c : Cont) : (d.granted p cid kind c).settings = d.settings := rfl
@[simp] theorem Dev.granted_journal (d : Dev) (p : PortId) (cid : Word32) (kind : Nat) (c : Cont) : (d.granted p cid kind c).journal = d.journal := rfl
@[simp] theorem Dev.granted_array (d : Dev) (p : PortId) (cid : Word32) (kind : Nat) (c : Cont) : (d.granted p cid kind c).array = d.array := rfl
@[simp] theorem Dev.granted_index (d : Dev) (p : PortId) (cid : Word32) (kind : Nat) (c : Cont) : (d.granted p cid kind c).index = d.index := rfl
@[simp] theorem Dev.granted_held (d : Dev) (p : PortId) (cid : Word32) (kind : Nat) (c : Cont) : (d.granted p cid kind c).held = d.held := rfl
@[simp] theorem Dev.granted_status (d : Dev) (p : PortId) (cid : Word32) (kind : Nat) (c : Cont) : (d.granted p cid kind c).status = d.status := rfl
@[simp] theorem Dev.granted_sites (d : Dev) (p : PortId) (cid : Word32) (kind : Nat) (c : Cont) : (d.granted p cid kind c).sites = d.sites := rfl
@[simp] theorem Dev.granted_span (d : Dev) (p : PortId) (cid : Word32) (kind : Nat) (c : Cont) : (d.granted p cid kind c).span = d.span := rfl
@[simp] theorem Dev.granted_foreign (d : Dev) (p : PortId) (cid : Word32) (kind : Nat) (c : Cont) : (d.granted p cid kind c).foreign = d.foreign := rfl
@[simp] theorem Dev.granted_gens (d : Dev) (p : PortId) (cid : Word32) (kind : Nat) (c : Cont) : (d.granted p cid kind c).gens = d.gens := rfl
@[simp] theorem Dev.granted_fetch (d : Dev) (p : PortId) (cid : Word32) (kind : Nat) (c : Cont) : (d.granted p cid kind c).fetch = d.fetch := rfl
@[simp] theorem Dev.granted_inbound (d : Dev) (p : PortId) (cid : Word32) (kind : Nat) (c : Cont) : (d.granted p cid kind c).inbound = d.inbound := rfl
@[simp] theorem Dev.granted_dma (d : Dev) (p : PortId) (cid : Word32) (kind : Nat) (c : Cont) : (d.granted p cid kind c).dma = d.dma := rfl
@[simp] theorem Dev.granted_reclaim (d : Dev) (p : PortId) (cid : Word32) (kind : Nat) (c : Cont) : (d.granted p cid kind c).reclaim = d.reclaim := rfl
@[simp] theorem Dev.granted_guard (d : Dev) (p : PortId) (cid : Word32) (kind : Nat) (c : Cont) : (d.granted p cid kind c).guard = d.guard := rfl
@[simp] theorem Dev.granted_partLost (d : Dev) (p : PortId) (cid : Word32) (kind : Nat) (c : Cont) : (d.granted p cid kind c).partLost = d.partLost := rfl
@[simp] theorem Dev.granted_journalMedia (d : Dev) (p : PortId) (cid : Word32) (kind : Nat) (c : Cont) : (d.granted p cid kind c).journalMedia = d.journalMedia := rfl
@[simp] theorem Dev.granted_retentionLost (d : Dev) (p : PortId) (cid : Word32) (kind : Nat) (c : Cont) : (d.granted p cid kind c).retentionLost = d.retentionLost := rfl

/-! ## The field that an update changes -/

@[simp] theorem Dev.modPort_ports (d : Dev) (p : PortId) (f : Port → Port) :
    (d.modPort p f).ports = d.ports.set p (f d.ports[p]) := rfl

@[simp] theorem Dev.modSite_sites (d : Dev) (j : SlotId) (f : Site → Site) :
    (d.modSite j f).sites = d.sites.set j (f d.sites[j]) := rfl

@[simp] theorem Dev.modSpan_span (d : Dev) (sp : SpanId) (f : SpanPort → SpanPort) :
    (d.modSpan sp f).span = d.span.set sp (f d.span[sp]) := rfl

@[simp] theorem Dev.modConfig_settings (d : Dev) (j : SlotId) (f : SiteConfig → SiteConfig) :
    (d.modConfig j f).settings = { d.settings with sites := d.settings.sites.set j (f d.settings.sites[j]) } := rfl

@[simp] theorem Dev.modSettings_settings (d : Dev) (f : Settings → Settings) :
    (d.modSettings f).settings = f d.settings := rfl

@[simp] theorem Dev.modFetch_fetch (d : Dev) (f : FetchUnit → FetchUnit) : (d.modFetch f).fetch = f d.fetch := rfl

@[simp] theorem Dev.modInbound_inbound (d : Dev) (f : Inbound → Inbound) : (d.modInbound f).inbound = f d.inbound := rfl

@[simp] theorem Dev.modReclaim_reclaim (d : Dev) (f : Reclaim → Reclaim) : (d.modReclaim f).reclaim = f d.reclaim := rfl

@[simp] theorem Dev.modSeg_array (d : Dev) (n : Nat) (f : Segment → Segment) :
    (d.modSeg n f).array = d.array.putSeg n (f (d.array.seg n)) := rfl

@[simp] theorem Dev.tick_now (d : Dev) (t : Time) : (d.tick t).now = max d.now t := rfl

@[simp] theorem Dev.tick_examined (d : Dev) (t : Time) : (d.tick t).examined = false := rfl

@[simp] theorem Dev.take_nextToken (d : Dev) (p : PortId) (r : CmdRec) (rest : List CmdRec) :
    (d.take p r rest).nextToken = d.nextToken + 1 := rfl

/-- R176, R177: the latches that the end of a start clears, and what else it leaves. -/
@[simp] theorem Dev.clearLatches_port (d : Dev) (p : PortId) :
    d.clearLatches.ports[p] = { d.ports[p] with overrun := false } := by simp [Dev.clearLatches]

@[simp] theorem Dev.clearLatches_site (d : Dev) (j : SlotId) : d.clearLatches.sites[j] = d.sites[j].clearFlags := by
  simp [Dev.clearLatches]

@[simp] theorem Dev.clearLatches_journalMedia (d : Dev) : d.clearLatches.journalMedia = false := rfl

theorem Dev.clearLatches_rest (d : Dev) :
    { d.clearLatches with journalMedia := d.journalMedia, ports := d.ports, sites := d.sites } = d := rfl

/-- A port that an update names, read back. -/
theorem Dev.modPort_self (d : Dev) (p : PortId) (f : Port → Port) : (d.modPort p f).ports[p] = f d.ports[p] := by
  simp

theorem Dev.modPort_other (d : Dev) (p q : PortId) (f : Port → Port) (h : q ≠ p) :
    (d.modPort p f).ports[q] = d.ports[q] := by
  simp only [Dev.modPort_ports, Fin.getElem_fin]
  rw [Vector.getElem_set_ne]
  exact fun e => h (Fin.ext e.symm)

/-- Two updates of one port are one. -/
theorem Dev.modPort_modPort (d : Dev) (p : PortId) (f g : Port → Port) :
    (d.modPort p f).modPort p g = d.modPort p fun q => g (f q) := by
  simp [Dev.modPort]

theorem Dev.modSite_self (d : Dev) (j : SlotId) (f : Site → Site) : (d.modSite j f).sites[j] = f d.sites[j] := by
  simp

theorem Dev.modSite_other (d : Dev) (j k : SlotId) (f : Site → Site) (h : k ≠ j) :
    (d.modSite j f).sites[k] = d.sites[k] := by
  simp only [Dev.modSite_sites, Fin.getElem_fin]
  rw [Vector.getElem_set_ne]
  exact fun e => h (Fin.ext e.symm)

theorem Dev.modSite_modSite (d : Dev) (j : SlotId) (f g : Site → Site) :
    (d.modSite j f).modSite j g = d.modSite j fun x => g (f x) := by
  simp [Dev.modSite]

end Sys2Proof.Machine
end

