-- ==== Sys2Proof/Laws/Staging.lean ====
section
/-!
SUPPORT. Staging (R12): when a record is placed, that a SETTINGS record and a SITE-EVENT record that together find room are both
placed, and what a closing that a quiesce has put off keeps.
-/

namespace Sys2Proof.Machine

theorem Journal.place_snd (j : Journal) (now : Time) (delay : Nat) (s : Staged) :
    (j.place now delay s).2 = (j.target s.item.size).isSome := by
  unfold Journal.place
  cases j.target s.item.size <;> simp

/-- Placing changes the journal alone. -/
theorem Dev.place_fst (s : Staged) (d : Dev) : (d.place s).1 = { d with journal := (d.place s).1.journal } := rfl

/-- R3: while a program waits for a BLANK segment, no record is placed. -/
theorem Dev.place_stalled {d : Dev} (s : Staged) (h : d.programStalled = true) : d.place s = (d, false) := by
  simp [Dev.place, h]

/-- R12: else the journal places it. -/
theorem Dev.place_running {d : Dev} (s : Staged) (h : d.programStalled = false) :
    d.place s = ({ d with journal := (d.journal.place d.now d.settings.commitDelay s).1 }, (d.journal.target s.item.size).isSome) := by
  simp [Dev.place, h, Journal.place_snd]

theorem Dev.place_journal {d : Dev} (s : Staged) (h : d.programStalled = false) :
    (d.place s).1.journal = (d.journal.place d.now d.settings.commitDelay s).1 := by
  rw [Dev.place_running s h]

theorem Dev.canPlace_iff (d : Dev) (s : Staged) : d.canPlace s.item.size ↔ (d.place s).2 = true := by
  unfold Dev.canPlace
  cases h : d.programStalled
  · simp [Dev.place_running s h]
  · simp [Dev.place_stalled s h]

/-- A record that finds room is placed; `tryPlace` then goes on. -/
theorem Dev.tryPlace_ok {d : Dev} {s : Staged} (next : Dev → Dev) (h : d.canPlace s.item.size) :
    d.tryPlace s next = some (next (d.place s).1) := by
  have h2 := (Dev.canPlace_iff d s).1 h
  unfold Dev.tryPlace
  rcases hp : d.place s with ⟨e, ok⟩
  rw [hp] at h2
  simp_all

/-! ## The journal after a placing -/

@[simp] theorem Journal.putBuf_buf (id : BufId) (b : Buffer) (j : Journal) : (j.putBuf id b).buf id = b := by cases id <;> rfl

theorem Journal.target_some_of_fits {j : Journal} {id : BufId} {size : Nat} (hf : j.fillingBuf = some id)
    (hs : (j.buf id).fits size = true) : j.target size = some id := by
  simp [Journal.target, Journal.makeRoom, hf, hs]

theorem Journal.fillingBuf_some {j : Journal} {id : BufId} (h : j.fillingBuf = some id) : (j.buf id).state = .filling := by
  unfold Journal.fillingBuf at h
  split at h
  · cases h; assumption
  · split at h
    · cases h; assumption
    · cases h

theorem Journal.place_buf {j : Journal} {now : Time} {delay : Nat} {s : Staged} {id : BufId}
    (ht : j.target s.item.size = some id) :
    (j.place now delay s).1.buf id = { state := .filling, recs := ((j.makeRoom s.item.size).buf id).recs ++ [s] } := by
  unfold Journal.place
  simp only [ht]
  cases id <;> rfl

/-- A closing leaves no FILLING buffer, when at most one was FILLING. -/
theorem Journal.close_fillingBuf {j : Journal} (h : j.buffersOk = true) : j.close.fillingBuf = none := by
  unfold Journal.buffersOk at h
  cases ha : j.bufA.state <;> cases hb : j.bufB.state <;>
    simp_all [Journal.close, Journal.fillingBuf, Journal.putBuf, Journal.buf]

/-- The buffer that takes the record: the FILLING one when the record fits in it, else an EMPTY one, which then is the
only one FILLING. -/
theorem Journal.target_cases {j : Journal} (h : j.buffersOk = true) {size : Nat} {id : BufId} (ht : j.target size = some id) :
    (j.fillingBuf = some id ∧ (j.buf id).fits size = true ∧ j.makeRoom size = j) ∨
      ((j.makeRoom size).fillingBuf = none ∧ (j.makeRoom size).emptyBuf = some id) := by
  unfold Journal.target at ht
  cases hf : (j.makeRoom size).fillingBuf with
  | none => exact .inr ⟨rfl, by simpa [hf] using ht⟩
  | some k =>
    have hk : k = id := by simpa [hf] using ht
    subst hk
    left
    unfold Journal.makeRoom at hf ⊢
    cases h1 : j.fillingBuf with
    | none => simp [h1] at hf
    | some i =>
      simp only [h1] at hf ⊢
      by_cases h2 : (j.buf i).fits size = true
      · simp only [h2, if_true] at hf ⊢
        rw [h1] at hf
        cases hf
        exact ⟨rfl, h2, by simp⟩
      · simp only [h2, Bool.false_eq_true, if_false] at hf
        rw [Journal.close_fillingBuf h] at hf
        cases hf

theorem Journal.buffersOk_close {j : Journal} (h : j.buffersOk = true) : j.close.buffersOk = true := by
  unfold Journal.buffersOk at h
  cases ha : j.bufA.state <;> cases hb : j.bufB.state <;>
    simp_all [Journal.close, Journal.fillingBuf, Journal.putBuf, Journal.buf, Journal.buffersOk]

theorem Journal.buffersOk_makeRoom {j : Journal} (size : Nat) (h : j.buffersOk = true) :
    (j.makeRoom size).buffersOk = true := by
  unfold Journal.makeRoom
  split
  · split
    · exact h
    · exact Journal.buffersOk_close h
  · exact h

theorem Journal.close_ctrlQ (j : Journal) : j.close.ctrlQ = j.ctrlQ := by
  unfold Journal.close
  split
  · rfl
  · rename_i id _; cases id <;> rfl

theorem Journal.makeRoom_ctrlQ (j : Journal) (size : Nat) : (j.makeRoom size).ctrlQ = j.ctrlQ := by
  unfold Journal.makeRoom
  split
  · split
    · rfl
    · exact Journal.close_ctrlQ j
  · rfl

/-- Placing leaves the control queue. -/
theorem Journal.place_ctrlQ (j : Journal) (now : Time) (delay : Nat) (s : Staged) :
    (j.place now delay s).1.ctrlQ = j.ctrlQ := by
  unfold Journal.place
  split
  · exact Journal.makeRoom_ctrlQ j _
  · rename_i id _
    rw [← Journal.makeRoom_ctrlQ j s.item.size]
    cases id <;> rfl

/-- R12: placing keeps the staging buffers in order. -/
theorem Journal.buffersOk_place {j : Journal} (now : Time) (delay : Nat) (s : Staged) (h : j.buffersOk = true) :
    (j.place now delay s).1.buffersOk = true := by
  unfold Journal.place
  have hk := Journal.buffersOk_makeRoom s.item.size h
  cases ht : j.target s.item.size with
  | none => exact hk
  | some id =>
    have hst : ((j.makeRoom s.item.size).buf id).state = .filling ∨
        ((j.makeRoom s.item.size).fillingBuf = none ∧ (j.makeRoom s.item.size).emptyBuf = some id) := by
      rcases Journal.target_cases h ht with ⟨h1, _, h3⟩ | h4
      · exact .inl (by rw [h3]; exact Journal.fillingBuf_some h1)
      · exact .inr h4
    generalize j.makeRoom s.item.size = k at hk hst ⊢
    unfold Journal.buffersOk at hk
    cases id <;> cases ha : k.bufA.state <;> cases hb : k.bufB.state <;>
      simp_all [Journal.fillingBuf, Journal.emptyBuf, Journal.putBuf, Journal.buf, Journal.buffersOk]

/-- R12: when a record finds room. -/
theorem Journal.target_isSome {j : Journal} (h : j.buffersOk = true) (size : Nat) :
    (j.target size).isSome = true ↔ (∃ id, j.fillingBuf = some id ∧ (j.buf id).fits size = true) ∨
      j.bufA.state = .empty ∨ j.bufB.state = .empty := by
  unfold Journal.buffersOk at h
  cases ha : j.bufA.state <;> cases hb : j.bufB.state <;> by_cases fa : (j.buf .a).fits size = true <;>
    by_cases fb : (j.buf .b).fits size = true <;> by_cases hl : j.lastProg = some .a <;>
    simp_all [Journal.target, Journal.makeRoom, Journal.close, Journal.fillingBuf, Journal.emptyBuf, Journal.putBuf,
      Journal.buf]

theorem Journal.fillingBuf_of_state {j : Journal} (h : j.buffersOk = true) {id : BufId}
    (hs : (j.buf id).state = .filling) : j.fillingBuf = some id := by
  unfold Journal.buffersOk at h
  cases id <;> cases ha : j.bufA.state <;> cases hb : j.bufB.state <;> simp_all [Journal.fillingBuf, Journal.buf]

theorem Journal.putBuf_progQ (id : BufId) (b : Buffer) (j : Journal) : (j.putBuf id b).progQ = j.progQ := by cases id <;> rfl

/-- Placing queues no buffer for a program but the one that closes to make room. -/
theorem Journal.place_progQ (j : Journal) (now : Time) (delay : Nat) (s : Staged) :
    (j.place now delay s).1.progQ = (j.makeRoom s.item.size).progQ := by
  unfold Journal.place
  split
  · rfl
  · simp [Journal.putBuf_progQ]

/-- A record of 1,536 bytes and then one of 32 find room, when one of 1,568 does. -/
theorem Journal.target_two {j : Journal} (now : Time) (delay : Nat) {r : Staged} (h : j.buffersOk = true)
    (hr : (j.target 1568).isSome = true) (h1 : r.item.size = 1536) :
    (j.target r.item.size).isSome = true ∧ ((j.place now delay r).1.target 32).isSome = true := by
  have hsome : (j.target r.item.size).isSome = true := by
    rw [Journal.target_isSome h] at hr ⊢
    rcases hr with ⟨id, h2, h3⟩ | h2
    · refine .inl ⟨id, h2, ?_⟩
      simp only [Buffer.fits, decide_eq_true_eq] at h3 ⊢
      omega
    · exact .inr h2
  refine ⟨hsome, ?_⟩
  obtain ⟨id, ht⟩ := Option.isSome_iff_exists.1 hsome
  have hb := Journal.place_buf (now := now) (delay := delay) ht
  have hk := Journal.buffersOk_place now delay r h
  have hf := Journal.fillingBuf_of_state hk (id := id) (by rw [hb])
  rw [Journal.target_isSome hk]
  have hu : ((j.place now delay r).1.buf id).used = ((j.makeRoom r.item.size).buf id).used + 1536 := by
    rw [hb]; simp [Buffer.used, h1]
  by_cases hroom : ((j.makeRoom r.item.size).buf id).used + 1568 ≤ pageRoom
  · exact .inl ⟨id, hf, by simp only [Buffer.fits, decide_eq_true_eq]; omega⟩
  · right
    rcases Journal.target_cases h ht with ⟨h2, h3, h4⟩ | ⟨h2, h3⟩
    · rw [h4] at hroom
      rw [Journal.target_isSome h] at hr
      rcases hr with ⟨i, h5, h6⟩ | h5
      · rw [h2] at h5
        cases h5
        simp only [Buffer.fits, decide_eq_true_eq] at h6
        exact absurd h6 hroom
      · unfold Journal.place
        simp only [ht, h4]
        have h7 := Journal.fillingBuf_some h2
        cases id <;> simp_all [Journal.putBuf, Journal.buf]
    · exfalso
      apply hroom
      have hm := Journal.buffersOk_makeRoom r.item.size h
      unfold Journal.buffersOk at hm
      have : ((j.makeRoom r.item.size).buf id).recs = [] := by
        generalize j.makeRoom r.item.size = k at *
        cases id <;> cases ha : k.bufA.state <;> cases hb : k.bufB.state <;>
          simp_all [Journal.fillingBuf, Journal.emptyBuf, Journal.buf]
      simp [Buffer.used, this, pageRoom]

/-- R12, R3: a SETTINGS record and then a SITE-EVENT record are both placed at once. -/
theorem Dev.canPlace_two {d : Dev} {r : Staged} (hb : d.journal.buffersOk = true) (hs : d.canPlaceBoth)
    (h1 : r.item.size = 1536) :
    d.canPlace r.item.size ∧ (d.place r).1.canPlace 32 := by
  obtain ⟨⟨hst, ht⟩, hp⟩ := hs
  obtain ⟨k1, k2⟩ := Journal.target_two d.now d.settings.commitDelay hb ht h1
  refine ⟨⟨hst, k1⟩, ?_⟩
  unfold Dev.canPlace
  rw [Dev.place_journal r hst]
  refine ⟨?_, k2⟩
  simp only [Dev.programStalled, Dev.place_journal r hst, Dev.place_array, Journal.place_progQ, h1]
  rcases hp with hp | hp
  · cases h : d.array.programTarget
    · simp [h] at hp
    · simp
  · simp [hp]

/-! ## The closing that a quiesce has put off (R187, R189) -/

theorem Journal.closeOwed_ctrlQ (j : Journal) : j.closeOwed.ctrlQ = j.ctrlQ := by
  unfold Journal.closeOwed
  split
  · exact j.close_ctrlQ
  · rfl

theorem Journal.buffersOk_closeOwed {j : Journal} (h : j.buffersOk = true) : j.closeOwed.buffersOk = true := by
  unfold Journal.closeOwed
  split
  · exact Journal.buffersOk_close h
  · exact h

/-- R187: outside a quiesce a FLUSH and the commit timer close the FILLING buffer. -/
theorem Dev.quiescePlaces_of_part {d : Dev} (h : d.part ≠ .quiescing) : d.quiescePlaces = false := by
  simp [Dev.quiescePlaces, h]

end Sys2Proof.Machine
end

