-- ==== Sys2Proof/Laws/Engine.lean ====
section
/-!
SUPPORT. What the shared operations of an event can do: a command posted to a free port is taken, or granted, at once; an
answer; a placing; the end of `settle`.
-/

namespace Sys2Proof.Machine

/-! ## Events -/

theorem Dev.event_powered (d : Dev) (t : Time) (f : Dev → Dev) (h : d.power.powered = true) :
    d.event t f = (f (d.tick t)).settle := by
  simp [Dev.event, h]

theorem Dev.event_unpowered (d : Dev) (t : Time) (f : Dev → Dev) (h : d.power.powered = false) :
    d.event t f = d.tick t := by
  simp [Dev.event, h]

theorem Dev.expiry_running (d : Dev) (t : Time) (g : Bool) (f : Dev → Dev) (hg : g = true) (h : d.power.powered = true) :
    d.expiry (some t) g f = (f (d.tick t)).settle := by
  simp [Dev.expiry, hg, h]

theorem Dev.expiry_stopped (d : Dev) (g : Bool) (f : Dev → Dev) : d.expiry none g f = d := rfl

theorem State.goOn_next (s : State) (f : Dev → Dev) : s.goOn f = .next { s with dev := f s.dev } := rfl

/-- When no engine can act, the engines change nothing but what every event brings up to date. -/
theorem Dev.settle_of_rest (d : Dev) (h : d.refresh.internalStep = none) : d.settle = d.refresh := by
  unfold Dev.settle
  rw [show (1099511627776 : Nat) = 1099511627775 + 1 from rfl, settleN, h]

/-! ## The situations survive the clock -/

theorem Dev.up_tick {d : Dev} (t : Time) (h : d.up) : (d.tick t).up := h

theorem Dev.portFree_tick {d : Dev} {p : PortId} (t : Time) (h : d.portFree p) : (d.tick t).portFree p := h

theorem Dev.intakeFree_tick {d : Dev} (t : Time) (h : d.intakeFree) : (d.tick t).intakeFree := h

/-! ## Ports -/

theorem Dev.ports_get_set (d : Dev) (p : PortId) (x : Port) : (d.ports.set p x)[p] = x := by simp

theorem Port.outstanding_free {q : Port} (hc : q.cmdQ = []) (ht : q.taken = []) : q.outstanding = q.respQ.length := by
  simp [Port.outstanding, hc, ht]

theorem Port.isHeld_free {q : Port} (ht : q.taken = []) : q.isHeld = false := by simp [Port.isHeld, ht]

/-- The command that a free port has just received, taken. -/
theorem Dev.take_enqueued (d : Dev) (p : PortId) (r : CmdRec) :
    (d.modPort p fun q => { q with cmdQ := q.cmdQ ++ [r] }).take p r [] = d.take p r [] := by
  simp [Dev.take, Dev.modPort]

theorem Dev.takeStep_free {d : Dev} {p : PortId} {r : CmdRec} {rest : List CmdRec} (hup : d.up)
    (ho : d.ports[p].state = .online) (ht : d.ports[p].taken = []) (hc : d.ports[p].cmdQ = r :: rest) :
    d.takeStep p = if usesArbiter r.body then none else some ((d.take p r rest).act (d.nextTok p) .none r.body) := by
  obtain ⟨_, hr⟩ := hup
  have hh : d.ports[p].isHeld = false := Port.isHeld_free ht
  unfold Dev.takeStep
  rw [hr, hh, hc, ho]
  simp only [answerOf]
  by_cases ha : usesArbiter r.body = true <;> simp [ha]

/-- A command that does not use the arbiter, posted to a free port, is taken and acts in the same event. -/
theorem Dev.postCommand_acts {d : Dev} {p : PortId} (cid : Word32) (b : CmdBody) (hup : d.up) (hf : d.portFree p)
    (ha : usesArbiter b = false) :
    d.postCommand p ⟨cid, b⟩ = (d.take p ⟨cid, b⟩ []).act (d.nextTok p) .none b := by
  obtain ⟨ho, hc, ht, hl, hr⟩ := hf
  have hout : ¬ 64 ≤ d.ports[p].outstanding := by rw [Port.outstanding_free hc ht]; omega
  unfold Dev.postCommand Dev.serve
  rw [if_neg hout]
  have e1 : (d.modPort p fun q => { q with cmdQ := q.cmdQ ++ [⟨cid, b⟩] }).ports[p]
      = { d.ports[p] with cmdQ := [⟨cid, b⟩] } := by
    rw [Dev.modPort_self, hc]; rfl
  have h := Dev.takeStep_free (d := d.modPort p fun q => { q with cmdQ := q.cmdQ ++ [⟨cid, b⟩] }) (p := p)
    (r := ⟨cid, b⟩) (rest := []) hup (by rw [e1]; exact ho) (by rw [e1]; exact ht) (by rw [e1])
  rw [h, ha]
  simp only [Bool.false_eq_true, if_false]
  rw [Dev.take_enqueued]
  rfl

/-! ## The intake arbiter (R170) -/

theorem Dev.readyCommand_empty {d : Dev} {q : PortId} (h : d.ports[q].cmdQ = []) : d.readyCommand q = false := by
  simp only [Dev.readyCommand, h]; simp

theorem find_portsAfter (l p : PortId) : (portsAfter l).find? (fun q => decide (q = p)) = some p := by
  revert l p
  decide

/-- A port that alone has a command, which is ready, is granted. -/
theorem Dev.grantChoice_only {d : Dev} {p : PortId} (hp : d.part = .ready) (hg : d.intake.grant = none)
    (hc : d.journal.ctrlQ = []) (hr : d.readyCommand p = true) (ho : ∀ q, q ≠ p → d.ports[q].cmdQ = []) :
    d.grantChoice = some p := by
  unfold Dev.grantChoice
  rw [if_pos ⟨hp, hg, hc⟩]
  have key : ∀ q : PortId, d.readyCommand q = decide (q = p) := by
    intro q
    by_cases h : q = p
    · simp [h, hr]
    · simp [h, Dev.readyCommand_empty (ho q h)]
  have : d.readyCommand = fun q => decide (q = p) := funext key
  rw [this]
  exact find_portsAfter d.intake.last p

/-- A command, other than an APPEND, that uses the arbiter, posted to a free port while nothing competes for the arbiter, is
granted and taken, and acts, in the same event. -/
theorem Dev.postCommand_granted {d : Dev} {p : PortId} (cid : Word32) (b : CmdBody) (hup : d.up) (hf : d.portFree p)
    (hi : d.intakeFree) (ha : usesArbiter b = true) (hn : ∀ x, b ≠ .append x) :
    d.postCommand p ⟨cid, b⟩ =
      ((Dev.take p ⟨cid, b⟩ [] { d with intake := { d.intake with last := p } }).act (d.nextTok p) .none b).grantedNow := by
  obtain ⟨ho, hc, ht, hl, hr⟩ := hf
  obtain ⟨hg, hq, hall⟩ := hi
  have hout : ¬ 64 ≤ d.ports[p].outstanding := by rw [Port.outstanding_free hc ht]; omega
  unfold Dev.postCommand Dev.serve
  rw [if_neg hout]
  generalize he : (d.modPort p fun q => { q with cmdQ := q.cmdQ ++ [⟨cid, b⟩] }) = e
  have e1 : e.ports[p] = { d.ports[p] with cmdQ := [⟨cid, b⟩] } := by
    rw [← he, Dev.modPort_self, hc]; rfl
  have eo : ∀ q, q ≠ p → e.ports[q] = d.ports[q] := by
    intro q h; rw [← he, Dev.modPort_other _ _ _ _ h]
  have h1 := Dev.takeStep_free (d := e) (p := p) (r := ⟨cid, b⟩) (rest := []) (by rw [← he]; exact hup)
    (by rw [e1]; exact ho) (by rw [e1]; exact ht) (by rw [e1])
  rw [h1, ha]
  have h2 : e.lookupStep p = none := by
    unfold Dev.lookupStep
    rw [e1]
    cases b <;> first | rfl | exact absurd rfl (hn _)
  have h3 : e.grantChoice = some p := by
    apply Dev.grantChoice_only
    · rw [← he]; exact hup.2
    · rw [← he]; exact hg
    · rw [← he]; exact hq
    · simp only [Dev.readyCommand, e1, ho, Port.isHeld, ht]
      cases b <;> first | rfl | exact absurd rfl (hn _) | simp_all [usesArbiter]
    · intro q h; rw [eo q h]; exact hall q
  simp only [if_true, h2, Option.getD_none, h3]
  congr 1
  unfold Dev.grantPort
  rw [e1]
  simp only [Port.outcome, hl]
  rw [← he]
  have h4 := Dev.take_enqueued { d with intake := { d.intake with last := p } } p ⟨cid, b⟩
  rw [← h4]
  rfl

/-! ## The placing of the granted command's records (R11, R12) -/

theorem Dev.grantedNow_idle {d : Dev} (h : d.intake.grant = none) : d.grantedNow = d := by
  simp [Dev.grantedNow, Dev.grantedSteps, Dev.grantedStep, h]

/-- Nothing is left to place: the grant ends. -/
theorem Dev.grantedSteps_end {d : Dev} {tok : Tok} (n : Nat) (hp : d.part = .ready) (hc : d.journal.ctrlQ = [])
    (hg : d.intake.grant = some ⟨tok, .place [] false⟩) :
    Dev.grantedSteps (n + 1) d = { d with intake := { d.intake with grant := none } } := by
  have h1 : d.grantedStep = some d.endGrant := by
    unfold Dev.grantedStep
    rw [hg]
    simp [Dev.placesGranted, hp, hc]
  rw [Dev.grantedSteps, h1]
  cases n <;> simp [Dev.grantedSteps, Dev.grantedStep, Dev.endGrant]

/-- The first record of a granted command is placed. -/
theorem Dev.grantedSteps_place {d : Dev} {tok : Tok} {s : Staged} {l : List Staged} {fl : Bool} (n : Nat)
    (hp : d.part = .ready) (hc : d.journal.ctrlQ = []) (hg : d.intake.grant = some ⟨tok, .place (s :: l) fl⟩)
    (hs : d.canPlace s.item.size) :
    Dev.grantedSteps (n + 1) d =
      Dev.grantedSteps n { (d.place s).1 with intake := { d.intake with grant := some ⟨tok, .place l fl⟩ } } := by
  have h1 : d.grantedStep =
      some { (d.place s).1 with intake := { d.intake with grant := some ⟨tok, .place l fl⟩ } } := by
    unfold Dev.grantedStep
    rw [hg]
    simp only [Dev.placesGranted, hp, hc, Dev.tryPlace_ok _ hs]
    rfl
  rw [Dev.grantedSteps, h1]

theorem Dev.place_ctrlQ (s : Staged) (d : Dev) : (d.place s).1.journal.ctrlQ = d.journal.ctrlQ := by
  cases h : d.programStalled
  · rw [Dev.place_journal s h]; exact Journal.place_ctrlQ _ _ _ _
  · rw [Dev.place_stalled s h]

/-- A granted command with one record. -/
theorem Dev.grantedNow_one {d : Dev} {tok : Tok} {s : Staged} (hp : d.part = .ready) (hc : d.journal.ctrlQ = [])
    (hg : d.intake.grant = some ⟨tok, .place [s] false⟩) (hs : d.canPlace s.item.size) :
    d.grantedNow = { (d.place s).1 with intake := { d.intake with grant := none } } := by
  unfold Dev.grantedNow
  rw [Dev.grantedSteps_place 3 hp hc hg hs, Dev.grantedSteps_end 2 (tok := tok)]
  · exact hp
  · exact (Dev.place_ctrlQ s d).trans hc
  · rfl

/-- A granted command with two records. -/
theorem Dev.grantedNow_two {d : Dev} {tok : Tok} {s t : Staged} (hp : d.part = .ready) (hc : d.journal.ctrlQ = [])
    (hg : d.intake.grant = some ⟨tok, .place [s, t] false⟩) (hs : d.canPlace s.item.size)
    (ht : (d.place s).1.canPlace t.item.size) :
    d.grantedNow = { ((d.place s).1.place t).1 with intake := { d.intake with grant := none } } := by
  unfold Dev.grantedNow
  rw [Dev.grantedSteps_place 3 hp hc hg hs, Dev.grantedSteps_place 2 (tok := tok) (s := t) (l := []) (fl := false),
    Dev.grantedSteps_end 1 (tok := tok)]
  · rfl
  · exact hp
  · exact ((Dev.place_ctrlQ t _).trans (Dev.place_ctrlQ s d)).trans hc
  · rfl
  · exact hp
  · exact (Dev.place_ctrlQ s d).trans hc
  · rfl
  · exact ht

/-- The answer of the one command that a port has taken. -/
theorem Dev.answer_only {d : Dev} {p : PortId} (x : Taken) (st : Status) (fl : Byte) (b : RespBody)
    (ht : d.ports[p].taken = [x]) (hd : x.discard = false) :
    d.answer ⟨p, x.id⟩ st fl b =
      d.modPort p fun q => { q with taken := [], respQ := q.respQ ++ [⟨x.kind, st, fl, x.cid, b⟩] } := by
  have ht' : d.ports[p.val].taken = [x] := ht
  simp [Dev.answer, Dev.modPort, Port.answer, ht', hd]

/-- A command of an idle port that is taken and answered in one event. -/
theorem Dev.take_answer {d : Dev} {p : PortId} (r : CmdRec) (st : Status) (fl : Byte) (b : RespBody) (h : d.portIdle p) :
    (d.take p r []).answer (d.nextTok p) st fl b = d.replied p r.cid (kindCode r.body) st fl b := by
  obtain ⟨hc, ht, hl, _⟩ := h
  simp only [Fin.getElem_fin] at hc ht hl
  simp [Dev.take, Dev.answer, Dev.nextTok, Dev.replied, Dev.modPort, Port.answer, hc, ht, hl]

/-- The same, when the command's rule refuses it with a status alone. -/
theorem Dev.take_refuse {d : Dev} {p : PortId} (r : CmdRec) (st : Status) (h : d.portIdle p) :
    (d.take p r []).refuse (d.nextTok p) st = d.replied p r.cid (kindCode r.body) st 0 .none := Dev.take_answer r st 0 .none h

/-- A command of an idle port that the arbiter grants, and what its answer will be made from. -/
theorem Dev.take_granted {d : Dev} {p : PortId} (r : CmdRec) (c : Cont) (h : d.portIdle p) :
    (Dev.take p r [] { d with intake := { d.intake with last := p } }).setCont (d.nextTok p) c =
      d.granted p r.cid (kindCode r.body) c := by
  obtain ⟨hc, ht, hl, _⟩ := h
  simp only [Fin.getElem_fin] at hc ht hl
  simp [Dev.take, Dev.setCont, Dev.modTaken, Dev.nextTok, Dev.granted, Dev.modPort, hc, ht, hl]

/-- A granted command of an idle port that is answered without a record. -/
theorem Dev.take_answer_granted {d : Dev} {p : PortId} (r : CmdRec) (st : Status) (fl : Byte) (b : RespBody)
    (h : d.portIdle p) :
    (Dev.take p r [] { d with intake := { d.intake with last := p } }).answer (d.nextTok p) st fl b =
      { d.replied p r.cid (kindCode r.body) st fl b with intake := { d.intake with last := p } } :=
  Dev.take_answer (d := { d with intake := { d.intake with last := p } }) r st fl b h

end Sys2Proof.Machine
end

