-- ==== Sys2Proof/Laws/Tables.lean ====
section
/-!
SUPPORT. The sparse tables: what get reads after put and del, and that both keep the one form, in which the keys rise
strictly. With them, the same for the tables of the part: segments, key index ways, status array slots.
-/

namespace Sys2Proof.Machine

variable {α : Type}

theorem Tbl.get_put_self (l : List (Nat × α)) (x : Nat) (a : α) : Tbl.get (Tbl.put l x a) x = some a := by
  induction l with
  | nil => simp [Tbl.put, Tbl.get]
  | cons e t ih =>
    obtain ⟨k, v⟩ := e
    simp only [Tbl.put]
    split
    · simp [Tbl.get]
    · split
      · simp [Tbl.get]
      · rename_i h1 h2
        simp [Tbl.get, h2, ih]

theorem Tbl.get_put_other (l : List (Nat × α)) (x y : Nat) (a : α) (h : y ≠ x) :
    Tbl.get (Tbl.put l x a) y = Tbl.get l y := by
  induction l with
  | nil => simp [Tbl.put, Tbl.get, h]
  | cons e t ih =>
    obtain ⟨k, v⟩ := e
    simp only [Tbl.put]
    split
    · simp [Tbl.get, h]
    · split
      · rename_i h1 h2
        subst h2
        simp [Tbl.get, h]
      · simp [Tbl.get, ih]

theorem Tbl.get_del_other (l : List (Nat × α)) (x y : Nat) (h : y ≠ x) : Tbl.get (Tbl.del l x) y = Tbl.get l y := by
  induction l with
  | nil => rfl
  | cons e t ih =>
    obtain ⟨k, v⟩ := e
    simp only [Tbl.del]
    split
    · rename_i h1
      subst h1
      simp [Tbl.get, h]
    · simp [Tbl.get, ih]

/-- No number of a run of keys is free. -/
theorem Tbl.firstFree_full (l : List (Nat × α)) (fuel a : Nat) (h : ∀ x, a ≤ x → x < a + fuel → (Tbl.get l x).isSome = true) :
    Tbl.firstFree l fuel a = a + fuel := by
  induction fuel generalizing a with
  | zero => rfl
  | succ n ih =>
    rw [Tbl.firstFree, if_pos (h a (by omega) (by omega)), ih (a + 1) (fun x h1 h2 => h x (by omega) (by omega))]
    omega

theorem Tbl.get_isSome_of_mem (l : List (Nat × α)) (x : Nat) (h : ∃ e ∈ l, e.1 = x) : (Tbl.get l x).isSome = true := by
  induction l with
  | nil => simp at h
  | cons e t ih =>
    rw [Tbl.get]
    by_cases hx : x = e.1
    · simp [hx]
    · simp only [hx, if_false]
      obtain ⟨f, hf, rfl⟩ := h
      rcases List.mem_cons.1 hf with rfl | hf
      · exact absurd rfl hx
      · exact ih ⟨f, hf, rfl⟩

theorem Tbl.ascending_cons (k : Nat) (v : α) (t : List (Nat × α)) :
    Tbl.ascending ((k, v) :: t) = true ↔ (∀ e ∈ t, k < e.1) ∧ Tbl.ascending t = true := by
  simp [Tbl.ascending, List.all_eq_true]

theorem Tbl.mem_put {l : List (Nat × α)} {x : Nat} {a : α} {e : Nat × α} (h : e ∈ Tbl.put l x a) :
    e = (x, a) ∨ e ∈ l := by
  induction l with
  | nil => simpa [Tbl.put] using h
  | cons f t ih =>
    obtain ⟨k, v⟩ := f
    simp only [Tbl.put] at h
    split at h
    · simpa using h
    · split at h
      · rcases List.mem_cons.1 h with h | h
        · exact .inl h
        · exact .inr (List.mem_cons_of_mem _ h)
      · rcases List.mem_cons.1 h with h | h
        · exact .inr (by simp [h])
        · rcases ih h with h | h
          · exact .inl h
          · exact .inr (List.mem_cons_of_mem _ h)

theorem Tbl.mem_del {l : List (Nat × α)} {x : Nat} {e : Nat × α} (h : e ∈ Tbl.del l x) : e ∈ l := by
  induction l with
  | nil => simp [Tbl.del] at h
  | cons f t ih =>
    obtain ⟨k, v⟩ := f
    simp only [Tbl.del] at h
    split at h
    · exact List.mem_cons_of_mem _ h
    · rcases List.mem_cons.1 h with h | h
      · simp [h]
      · exact List.mem_cons_of_mem _ (ih h)

/-- put keeps the one form. -/
theorem Tbl.ascending_put (l : List (Nat × α)) (x : Nat) (a : α) (h : Tbl.ascending l = true) :
    Tbl.ascending (Tbl.put l x a) = true := by
  induction l with
  | nil => simp [Tbl.put, Tbl.ascending]
  | cons e t ih =>
    obtain ⟨k, v⟩ := e
    rw [Tbl.ascending_cons] at h
    simp only [Tbl.put]
    split
    · rename_i hx
      rw [Tbl.ascending_cons]
      refine ⟨fun f hf => ?_, (Tbl.ascending_cons _ _ _).2 h⟩
      rcases List.mem_cons.1 hf with rfl | hf
      · exact hx
      · exact hx.trans (h.1 f hf)
    · split
      · rename_i hx
        subst hx
        exact (Tbl.ascending_cons _ _ _).2 h
      · rename_i h1 h2
        rw [Tbl.ascending_cons]
        refine ⟨fun f hf => ?_, ih h.2⟩
        rcases Tbl.mem_put hf with rfl | hf
        · exact lt_of_le_of_ne (Nat.le_of_not_lt h1) (Ne.symm h2)
        · exact h.1 f hf

/-- del keeps the one form. -/
theorem Tbl.ascending_del (l : List (Nat × α)) (x : Nat) (h : Tbl.ascending l = true) :
    Tbl.ascending (Tbl.del l x) = true := by
  induction l with
  | nil => rfl
  | cons e t ih =>
    obtain ⟨k, v⟩ := e
    rw [Tbl.ascending_cons] at h
    simp only [Tbl.del]
    split
    · exact h.2
    · exact (Tbl.ascending_cons _ _ _).2 ⟨fun f hf => h.1 f (Tbl.mem_del hf), ih h.2⟩

/-- Taking entries away keeps the one form. -/
theorem Tbl.ascending_filter (l : List (Nat × α)) (f : Nat × α → Bool) (h : Tbl.ascending l = true) :
    Tbl.ascending (l.filter f) = true := by
  induction l with
  | nil => rfl
  | cons e t ih =>
    obtain ⟨k, v⟩ := e
    rw [Tbl.ascending_cons] at h
    rw [List.filter_cons]
    split
    · exact (Tbl.ascending_cons _ _ _).2 ⟨fun g hg => h.1 g (List.mem_of_mem_filter hg), ih h.2⟩
    · exact ih h.2

/-- Changing entries under their keys keeps the one form. -/
theorem Tbl.ascending_map {β : Type} (l : List (Nat × α)) (f : Nat × α → β) (h : Tbl.ascending l = true) :
    Tbl.ascending (l.map fun e => (e.1, f e)) = true := by
  induction l with
  | nil => rfl
  | cons e t ih =>
    obtain ⟨k, v⟩ := e
    rw [Tbl.ascending_cons] at h
    rw [List.map_cons, Tbl.ascending_cons]
    refine ⟨fun g hg => ?_, ih h.2⟩
    obtain ⟨b, hb, rfl⟩ := List.mem_map.1 hg
    exact h.1 b hb

/-! ## The part's tables -/

theorem ArrayBlk.ascending_putSeg (a : ArrayBlk) (n : Nat) (s : Segment) (h : Tbl.ascending a.segs = true) :
    Tbl.ascending (a.putSeg n s).segs = true := by
  unfold ArrayBlk.putSeg
  dsimp only
  split
  · exact Tbl.ascending_del _ _ h
  · exact Tbl.ascending_put _ _ _ h

theorem KeyIndex.ascending_put (k : KeyIndex) (w : Nat) (e : KeyEntry) (h : Tbl.ascending k.ways = true) :
    Tbl.ascending (k.put w e).ways = true := Tbl.ascending_put _ _ _ h

theorem KeyIndex.ascending_release (k : KeyIndex) (w : Nat) (h : Tbl.ascending k.ways = true) :
    Tbl.ascending (k.release w).ways = true := by
  unfold KeyIndex.release
  split
  · exact h
  · split
    · exact Tbl.ascending_del _ _ h
    · exact Tbl.ascending_put _ _ _ h

theorem Dev.ascending_putSlot (d : Dev) (s : Seq) (x : Slot) (h : Tbl.ascending d.status.slots = true) :
    Tbl.ascending (d.putSlot s x).status.slots = true := Tbl.ascending_put _ _ _ h

theorem Dev.ascending_freeSlot (d : Dev) (s : Seq) (h : Tbl.ascending d.status.slots = true) :
    Tbl.ascending (d.freeSlot s).status.slots = true := Tbl.ascending_del _ _ h

theorem Dev.ascending_fillSlot (d : Dev) (r : IntentRec) (c : Decided) (h : Tbl.ascending d.status.slots = true) :
    Tbl.ascending (d.fillSlot r c).status.slots = true := Tbl.ascending_put _ _ _ (Tbl.ascending_filter _ _ h)

end Sys2Proof.Machine
end

