-- ==== Sys2Proof/Laws/Ports.lean ====
section
/-!
SUPPORT. What a change of one port or slot, a notice to every ONLINE port, a FAULT notice, a probe and the taking of a command do to
each port or slot, and that they do nothing else.
-/

namespace Sys2Proof.Machine

theorem Dev.modPort_port (d : Dev) (p q : PortId) (f : Port → Port) :
    (d.modPort p f).ports[q] = if q = p then f d.ports[q] else d.ports[q] := by
  by_cases h : q = p
  · subst h; rw [if_pos rfl, Dev.modPort_self]
  · rw [if_neg h, Dev.modPort_other _ _ _ _ h]

theorem Dev.modSite_site (d : Dev) (j k : SlotId) (f : Site → Site) :
    (d.modSite j f).sites[k] = if k = j then f d.sites[k] else d.sites[k] := by
  by_cases h : k = j
  · subst h; rw [if_pos rfl, Dev.modSite_self]
  · rw [if_neg h, Dev.modSite_other _ _ _ _ h]

/-! ## Notices -/

/-- A change of ports, one after another, each at most once. -/
theorem Dev.foldl_modPort_ports (f : PortId → Port → Port) (l : List PortId) (h : l.Nodup) (d : Dev) (q : PortId) :
    (l.foldl (fun d p => d.modPort p (f p)) d).ports[q] = if q ∈ l then f q d.ports[q] else d.ports[q] := by
  induction l generalizing d with
  | nil => simp
  | cons p t ih =>
    rw [List.nodup_cons] at h
    rw [List.foldl_cons, ih h.2]
    by_cases hq : q = p
    · subst hq
      rw [if_neg h.1, if_pos (by simp), Dev.modPort_self]
    · rw [Dev.modPort_other _ _ _ _ hq]
      simp [hq]

theorem Dev.foldl_modPort_rest (f : PortId → Port → Port) (l : List PortId) (d : Dev) :
    { l.foldl (fun d p => d.modPort p (f p)) d with ports := d.ports } = d := by
  induction l generalizing d with
  | nil => rfl
  | cons p t ih =>
    rw [List.foldl_cons]
    have := congrArg (fun e : Dev => { e with ports := d.ports }) (ih (d.modPort p (f p)))
    exact this

theorem allPorts_nodup : allPorts.Nodup := by decide

theorem mem_allPorts (p : PortId) : p ∈ allPorts := by revert p; decide

theorem Dev.onlinePorts_nodup (d : Dev) : d.onlinePorts.Nodup := allPorts_nodup.filter _

theorem Dev.mem_onlinePorts (d : Dev) (p : PortId) : p ∈ d.onlinePorts ↔ d.ports[p].state = .online := by
  simp [Dev.onlinePorts, Dev.online, mem_allPorts]

/-- R165, R169: a notice that goes to every ONLINE port. -/
theorem Dev.broadcast_port (d : Dev) (b : NoticeBody) (q : PortId) :
    (d.broadcast b).ports[q] = if d.ports[q].state = .online then d.ports[q].addNotice false b else d.ports[q] := by
  have h := Dev.foldl_modPort_ports (fun _ => Port.addNotice false b) d.onlinePorts d.onlinePorts_nodup d q
  simp only [Dev.mem_onlinePorts] at h
  exact h

theorem Dev.broadcast_rest (d : Dev) (b : NoticeBody) : { d.broadcast b with ports := d.ports } = d :=
  Dev.foldl_modPort_rest (fun _ => Port.addNotice false b) d.onlinePorts d

theorem Dev.foldl_fault (k : FaultKind) (sc : FaultScope) (l : List PortId) (d e : Dev) (h : e.settings = d.settings) :
    l.foldl (fun d p => if d.settings.masks[p].getLsbD k.index then d.notify p false (.fault k sc) else d) e =
      l.foldl (fun e p => e.modPort p fun x =>
        if d.settings.masks[p].getLsbD k.index then Port.addNotice false (.fault k sc) x else x) e := by
  induction l generalizing e with
  | nil => rfl
  | cons p t ih =>
    rw [List.foldl_cons, List.foldl_cons]
    have h2 : (if e.settings.masks[p].getLsbD k.index then e.notify p false (.fault k sc) else e) =
        e.modPort p fun x => if d.settings.masks[p].getLsbD k.index then Port.addNotice false (.fault k sc) x else x := by
      rw [h]
      split
      · rfl
      · simp [Dev.modPort]
    rw [h2]
    exact ih _ h

/-- R176: a FAULT notice goes to each ONLINE port whose mask admits the kind. -/
theorem Dev.faultNotice_port (d : Dev) (k : FaultKind) (sc : FaultScope) (q : PortId) :
    (d.faultNotice k sc).ports[q] =
      if d.ports[q].state = .online ∧ d.settings.masks[q].getLsbD k.index = true then
        d.ports[q].addNotice false (.fault k sc)
      else d.ports[q] := by
  unfold Dev.faultNotice
  rw [Dev.foldl_fault k sc d.onlinePorts d d rfl, Dev.foldl_modPort_ports _ _ d.onlinePorts_nodup]
  simp only [Dev.mem_onlinePorts]
  by_cases h1 : d.ports[q].state = .online <;> by_cases h2 : d.settings.masks[q].getLsbD k.index = true <;>
    simp only [Fin.getElem_fin] at h1 h2 <;> simp [h1, h2]

theorem Dev.faultNotice_rest (d : Dev) (k : FaultKind) (sc : FaultScope) :
    { d.faultNotice k sc with ports := d.ports } = d := by
  unfold Dev.faultNotice
  rw [Dev.foldl_fault k sc d.onlinePorts d d rfl]
  exact Dev.foldl_modPort_rest _ _ _

/-! ## STALL and probing (R66, R78) -/

theorem Dev.latchStall_site (d : Dev) (j k : SlotId) :
    (d.latchSlot .stall j).sites[k] = if k = j then { d.sites[k] with stall := true } else d.sites[k] := by
  have h := congrArg Dev.sites
    (Dev.faultNotice_rest (d.modSite j fun x => { x with stall := true }) .stall (.slot j (d.config j).site))
  by_cases hs : d.sites[j].stall = true
  · have e : d.latchSlot .stall j = d := if_pos hs
    rw [e]
    by_cases hk : k = j
    · subst hk; rw [if_pos rfl, ← hs]
    · rw [if_neg hk]
  · have e : d.latchSlot .stall j =
        (d.modSite j fun x => { x with stall := true }).faultNotice .stall (.slot j (d.config j).site) := if_neg hs
    rw [e, ← Dev.modSite_site d j k fun x => { x with stall := true }]
    exact congrArg (fun v : Vector Site 8 => v[k]) h

/-- R66: a HELLO is counted, the period begins, and the thirtieth latches STALL. -/
theorem Dev.probe_site (d : Dev) (j k : SlotId) :
    (d.probe j).sites[k] =
      if k = j then
        let n := sat16 (d.sites[k].probeCount + 1)
        { d.sites[k] with
          probeCount := n, probeDue := some (d.now + 1000000), stall := if n = 30 then true else d.sites[k].stall }
      else d.sites[k] := by
  unfold Dev.probe
  dsimp only
  split
  · rename_i h
    rw [Dev.latchStall_site, Dev.modSite_site]
    by_cases hk : k = j
    · subst hk
      simp only [if_true]
      have : sat16 (d.sites[k].probeCount + 1) = 30 := h
      simp only [this, if_true]
      rfl
    · simp only [if_neg hk]
      rfl
  · rename_i h
    rw [Dev.modSite_site]
    by_cases hk : k = j
    · subst hk
      simp only [if_true]
      rw [if_neg h]
      rfl
    · simp only [if_neg hk]
      rfl

/-! ## A taken command -/

theorem Dev.take_port_self (d : Dev) (p : PortId) (r : CmdRec) (rest : List CmdRec) :
    (d.take p r rest).ports[p] =
      { d.ports[p] with
        cmdQ := rest, lookup := none
        taken := d.ports[p].taken ++ [{ id := d.nextToken, cid := r.cid, kind := kindCode r.body }] } :=
  Dev.modPort_self _ _ _

theorem Dev.take_port_other (d : Dev) (p q : PortId) (r : CmdRec) (rest : List CmdRec) (h : q ≠ p) :
    (d.take p r rest).ports[q] = d.ports[q] := Dev.modPort_other _ _ _ _ h

theorem Dev.take_rest (d : Dev) (p : PortId) (r : CmdRec) (rest : List CmdRec) :
    { d.take p r rest with nextToken := d.nextToken, ports := d.ports } = d := rfl

end Sys2Proof.Machine
end

