-- ==== Sys2Proof/Laws/Arrivals.lean ====
section
/-!
SUPPORT. What the clearing of FETCH-BLOCKED, the finishing and returning of arrivals, the moving of reads and a port's leaving ONLINE
do, and that they do nothing else.
-/

namespace Sys2Proof.Machine

/-- What every step of a fold keeps, the fold keeps. -/
theorem foldl_keeps {α β γ : Type} (keep : β → γ) (f : β → α → β) (h : ∀ b a, keep (f b a) = keep b) (l : List α) (b : β) :
    keep (l.foldl f b) = keep b := by
  induction l generalizing b with
  | nil => rfl
  | cons a t ih => rw [List.foldl_cons, ih, h]

theorem Dev.offer_rest (s : Seq) (d : Dev) : { d.offer s with sites := d.sites } = d := by
  unfold Dev.offer
  split
  · rfl
  · refine foldl_keeps (fun e : Dev => { e with sites := d.sites }) _ (fun e a => ?_) _ d
    rfl

theorem Dev.offer_status (s : Seq) (d : Dev) : (d.offer s).status = d.status := (congrArg Dev.status (d.offer_rest s) :)

theorem Dev.unblockFetches_rest (d : Dev) : { d.unblockFetches with sites := d.sites, status := d.status } = d := by
  unfold Dev.unblockFetches
  refine foldl_keeps (fun e : Dev => { e with sites := d.sites, status := d.status }) _ (fun e s => ?_) _ d
  split
  · exact congrArg (fun x : Dev => { x with sites := d.sites, status := d.status }) (Dev.offer_rest s (e.putSlot s _))
  · rfl

theorem Dev.putSlot_slot (s q : Seq) (x : Slot) (d : Dev) :
    (d.putSlot s x).slot? q = if q = s then some x else d.slot? q := by
  by_cases h : q = s
  · subst h; rw [if_pos rfl]; exact Tbl.get_put_self _ _ _
  · rw [if_neg h]; exact Tbl.get_put_other _ _ _ _ h

theorem Dev.offer_slot (s q : Seq) (d : Dev) : (d.offer s).slot? q = d.slot? q := by
  unfold Dev.slot?; rw [Dev.offer_status]

/-- One step of `unblockFetches`. -/
def Dev.unblock (d : Dev) (s : Seq) : Dev :=
  match d.slot? s with
  | some x => (d.putSlot s { x with fetchBlocked := false }).offer s
  | none => d

theorem Dev.unblock_slot (d : Dev) (s q : Seq) :
    (d.unblock s).slot? q = if q = s then (d.slot? q).map (fun x => { x with fetchBlocked := false }) else d.slot? q := by
  unfold Dev.unblock
  by_cases h : q = s
  · subst h
    rw [if_pos rfl]
    split
    · rename_i x hx; rw [Dev.offer_slot, Dev.putSlot_slot, if_pos rfl, hx]; rfl
    · rename_i hx; rw [hx]; rfl
  · rw [if_neg h]
    split
    · rw [Dev.offer_slot, Dev.putSlot_slot, if_neg h]
    · rfl

theorem Dev.unblock_foldl_slot (l : List Seq) (d : Dev) (q : Seq) :
    (l.foldl Dev.unblock d).slot? q =
      if q ∈ l then (d.slot? q).map (fun x => { x with fetchBlocked := false }) else d.slot? q := by
  induction l generalizing d with
  | nil => simp
  | cons s t ih =>
    rw [List.foldl_cons, ih, Dev.unblock_slot]
    by_cases h1 : q = s <;> by_cases h2 : q ∈ t <;> simp [h1, h2]
    all_goals (try subst h1) <;> simp [h2]
    all_goals cases d.slot? q <;> rfl

theorem Tbl.get_mem {α : Type} {l : List (Nat × α)} {x : Nat} {a : α} (h : Tbl.get l x = some a) : (x, a) ∈ l := by
  induction l with
  | nil => cases h
  | cons e t ih =>
    obtain ⟨k, v⟩ := e
    rw [Tbl.get] at h
    split at h
    · rename_i hk; cases h; subst hk; exact .head _
    · exact .tail _ (ih h)

theorem Dev.unblockFetches_slot (d : Dev) (q : Seq) :
    d.unblockFetches.slot? q = (d.slot? q).map fun x => { x with fetchBlocked := false } := by
  have h := Dev.unblock_foldl_slot (d.status.slots.filterMap fun e => if e.2.fetchBlocked then some e.1 else none) d q
  refine Eq.trans h ?_
  split
  · rfl
  · rename_i hq
    cases hx : d.slot? q with
    | none => rfl
    | some x =>
      have : x.fetchBlocked = false := by
        by_contra hb
        apply hq
        rw [List.mem_filterMap]
        refine ⟨(q, x), Tbl.get_mem hx, ?_⟩
        simp only [Bool.not_eq_false] at hb
        simp [hb]
      rw [Option.map_some, ← this]

theorem Dev.offer_site (s : Seq) (d : Dev) (j : SlotId) :
    { (d.offer s).sites[j] with cursor := d.sites[j].cursor, candidates := d.sites[j].candidates } = d.sites[j] := by
  unfold Dev.offer
  split
  · rfl
  · refine foldl_keeps
      (fun e : Dev => ({ e.sites[j] with cursor := d.sites[j].cursor, candidates := d.sites[j].candidates } : Site)) _
      (fun e a => ?_) _ d
    simp only [Dev.lowerCursor, Dev.modSite_site]
    split <;> rfl

theorem Dev.unblockFetches_site (d : Dev) (j : SlotId) :
    { d.unblockFetches.sites[j] with cursor := d.sites[j].cursor, candidates := d.sites[j].candidates } = d.sites[j] := by
  unfold Dev.unblockFetches
  refine foldl_keeps
      (fun e : Dev => ({ e.sites[j] with cursor := d.sites[j].cursor, candidates := d.sites[j].candidates } : Site)) _
      (fun e s => ?_) _ d
  split
  · exact congrArg (fun x : Site => { x with cursor := d.sites[j].cursor, candidates := d.sites[j].candidates })
      (Dev.offer_site s (e.putSlot s _) j)
  · rfl

/-- The four flags of a slot (R78). -/
def Site.flags (x : Site) : Bool × Bool × Bool × Bool := (x.stall, x.overrun, x.digest, x.protocol)

/-- R176: what the latched faults are read from. -/
theorem Dev.latchedFaults_congr {d e : Dev} (hs : d.settings = e.settings) (hm : d.journalMedia = e.journalMedia)
    (hr : d.retentionLost = e.retentionLost) (hp : ∀ q : PortId, d.ports[q].overrun = e.ports[q].overrun)
    (hj : ∀ j : SlotId, d.sites[j].flags = e.sites[j].flags) : d.latchedFaults = e.latchedFaults := by
  unfold Dev.latchedFaults
  congr 1
  funext k
  have h1 : d.scopes k = e.scopes k := by cases k <;> simp [Dev.scopes, Dev.slotScope, Dev.config, hs]
  rw [h1]
  congr 2
  funext sc
  simp only [Site.flags, Prod.mk.injEq] at hj
  cases k <;> cases sc <;> simp only [Dev.latched, hm, hr, hp, hj]

/-! ## A port that leaves ONLINE (R137, R174) -/

/-- Every arrival that the second list holds comes from one of the first, with its number, and with the delivery that it had
there, or with none. -/
def ArrivalsFrom (l m : List Arrival) : Prop :=
  ∀ a ∈ m, ∃ b ∈ l, b.id = a.id ∧ (a.delivery = b.delivery ∨ a.delivery = none)

theorem ArrivalsFrom.refl (l : List Arrival) : ArrivalsFrom l l := fun a h => ⟨a, h, rfl, .inl rfl⟩

theorem ArrivalsFrom.trans {l m n : List Arrival} (h : ArrivalsFrom l m) (k : ArrivalsFrom m n) : ArrivalsFrom l n := by
  intro a ha
  obtain ⟨b, hb, h1, h2⟩ := k a ha
  obtain ⟨c, hc, h3, h4⟩ := h b hb
  refine ⟨c, hc, h3.trans h1, ?_⟩
  rcases h2 with h2 | h2
  · rw [h2]; exact h4
  · exact .inr h2

theorem Dev.raiseReceipt_rest (j : SlotId) (s : Seq) (o : ReceiptOutcome) (d : Dev) :
    { d.raiseReceipt j s o with inbound := d.inbound } = d := by
  unfold Dev.raiseReceipt
  dsimp only
  split <;> rfl

theorem Dev.raiseReceipt_arrivals (j : SlotId) (s : Seq) (o : ReceiptOutcome) (d : Dev) :
    (d.raiseReceipt j s o).inbound.arrivals = d.inbound.arrivals := by
  unfold Dev.raiseReceipt
  dsimp only
  split <;> rfl

theorem Dev.settlePair_rest (j : SlotId) (s : Seq) (o : ReceiptOutcome) (d : Dev) :
    { d.settlePair j s o with inbound := d.inbound } = d := by
  have h := Dev.raiseReceipt_rest j s o d
  unfold Dev.settlePair
  generalize d.raiseReceipt j s o = e at *
  rw [← h]
  rfl

theorem Dev.finish_rest (a : Arrival) (o : ReceiptOutcome) (d : Dev) : { d.finish a o with inbound := d.inbound } = d := by
  unfold Dev.finish
  have h1 := Dev.settlePair_rest a.slot a.desc.seq o d
  generalize d.settlePair a.slot a.desc.seq o = e at *
  cases a.heldReceipt with
  | none => exact h1
  | some x =>
    dsimp only
    have h2 := Dev.settlePair_rest x.1 x.2 (heldOutcome o) e
    generalize e.settlePair x.1 x.2 (heldOutcome o) = f at *
    rw [← h1, ← h2]
    rfl

theorem Dev.finish_arrivals (a : Arrival) (o : ReceiptOutcome) (d : Dev) :
    (d.finish a o).inbound.arrivals = d.inbound.arrivals.filter fun x => x.id != a.id := by
  unfold Dev.finish Dev.settlePair
  cases a.heldReceipt with
  | none =>
    show List.filter _ (d.raiseReceipt a.slot a.desc.seq o).inbound.arrivals = _
    rw [Dev.raiseReceipt_arrivals]
  | some e =>
    show List.filter _ (Dev.raiseReceipt e.1 e.2 (heldOutcome o)
      ((d.raiseReceipt a.slot a.desc.seq o).addDone a.slot a.desc.seq o)).inbound.arrivals = _
    rw [Dev.raiseReceipt_arrivals]
    show List.filter _ (d.raiseReceipt a.slot a.desc.seq o).inbound.arrivals = _
    rw [Dev.raiseReceipt_arrivals]

/-- R137: a comparison changes nothing, or takes the older of the two entries. -/
theorem Dev.compareWith_eq (id other : Nat) (d : Dev) :
    d.compareWith id other = d ∨ ∃ a, d.compareWith id other = d.finish a .supersededAtPeer := by
  unfold Dev.compareWith
  split
  · exact .inr ⟨_, rfl⟩
  · exact .inl rfl

theorem Dev.compareWith_rest (id other : Nat) (d : Dev) : { d.compareWith id other with inbound := d.inbound } = d := by
  rcases d.compareWith_eq id other with h | ⟨a, h⟩ <;> rw [h]
  exact Dev.finish_rest a _ d

theorem Dev.compareWith_arrivals (id other : Nat) (d : Dev) :
    ArrivalsFrom d.inbound.arrivals (d.compareWith id other).inbound.arrivals := by
  rcases d.compareWith_eq id other with h | ⟨a, h⟩ <;> rw [h]
  · exact .refl _
  · rw [Dev.finish_arrivals]
    exact fun a ha => ⟨a, List.mem_of_mem_filter ha, rfl, .inl rfl⟩

theorem Dev.compareReturned_rest (id : Nat) (d : Dev) : { d.compareReturned id with inbound := d.inbound } = d := by
  unfold Dev.compareReturned
  split
  · rfl
  · refine foldl_keeps (fun e : Dev => { e with inbound := d.inbound }) _ (fun e b => ?_) _ d
    exact congrArg (fun x : Dev => { x with inbound := d.inbound }) (Dev.compareWith_rest id b.id e)

theorem Dev.compareFold_arrivals (id : Nat) (l : List Arrival) (d : Dev) :
    ArrivalsFrom d.inbound.arrivals (l.foldl (fun d b => d.compareWith id b.id) d).inbound.arrivals := by
  induction l generalizing d with
  | nil => exact .refl _
  | cons x t ih => exact (Dev.compareWith_arrivals id x.id d).trans (ih _)

theorem Dev.compareReturned_arrivals (id : Nat) (d : Dev) :
    ArrivalsFrom d.inbound.arrivals (d.compareReturned id).inbound.arrivals := by
  unfold Dev.compareReturned
  split
  · exact .refl _
  · exact Dev.compareFold_arrivals id _ d

theorem Dev.returnArrival_rest (id : Nat) (d : Dev) : { d.returnArrival id with inbound := d.inbound } = d := rfl

theorem Dev.returnArrival_arrivals (id : Nat) (d : Dev) :
    ArrivalsFrom d.inbound.arrivals (d.returnArrival id).inbound.arrivals ∧
      ∀ a ∈ (d.returnArrival id).inbound.arrivals, a.id = id → a.delivery = none := by
  have h : ∀ a ∈ (d.returnArrival id).inbound.arrivals,
      ∃ b ∈ d.inbound.arrivals, b.id = a.id ∧ (a.delivery = b.delivery ∨ a.delivery = none) ∧
        (a.id = id → a.delivery = none) := by
    intro a ha
    obtain ⟨b, hb, rfl⟩ := List.mem_map.1 ha
    refine ⟨b, hb, ?_⟩
    by_cases hi : b.id = id <;> simp [hi]
  exact ⟨fun a ha => let ⟨b, hb, h1, h2, _⟩ := h a ha; ⟨b, hb, h1, h2⟩, fun a ha => let ⟨_, _, _, _, h3⟩ := h a ha; h3⟩

theorem Dev.returnAll_rest (l : List Arrival) (d : Dev) :
    { l.foldl (fun d a => d.returnArrival a.id) d with inbound := d.inbound } = d := by
  refine foldl_keeps (fun e : Dev => { e with inbound := d.inbound }) _ (fun e a => ?_) l d
  exact congrArg (fun x : Dev => { x with inbound := d.inbound }) (Dev.returnArrival_rest a.id e)

theorem Dev.returnAll_arrivals (l : List Arrival) (d : Dev) :
    ArrivalsFrom d.inbound.arrivals (l.foldl (fun d a => d.returnArrival a.id) d).inbound.arrivals ∧
      ∀ a ∈ (l.foldl (fun d a => d.returnArrival a.id) d).inbound.arrivals, (∃ b ∈ l, b.id = a.id) → a.delivery = none := by
  induction l generalizing d with
  | nil => exact ⟨.refl _, fun a _ h => by simp at h⟩
  | cons x t ih =>
    obtain ⟨h1, h2⟩ := ih (d.returnArrival x.id)
    obtain ⟨h3, h4⟩ := Dev.returnArrival_arrivals x.id d
    refine ⟨h3.trans h1, ?_⟩
    rintro a ha ⟨b, hb, hba⟩
    rcases List.mem_cons.1 hb with rfl | hb
    · obtain ⟨c, hc, h5, h6⟩ := h1 a ha
      rcases h6 with h6 | h6
      · rw [h6]; exact h4 c hc (h5.trans hba.symm)
      · exact h6
    · exact h2 a ha ⟨b, hb, hba⟩

theorem Dev.compareAll_rest (l : List Arrival) (d : Dev) :
    { l.foldl (fun d a => d.compareReturned a.id) d with inbound := d.inbound } = d := by
  refine foldl_keeps (fun e : Dev => { e with inbound := d.inbound }) _ (fun e a => ?_) l d
  exact congrArg (fun x : Dev => { x with inbound := d.inbound }) (Dev.compareReturned_rest a.id e)

theorem Dev.compareAll_arrivals (l : List Arrival) (d : Dev) :
    ArrivalsFrom d.inbound.arrivals (l.foldl (fun d a => d.compareReturned a.id) d).inbound.arrivals := by
  induction l generalizing d with
  | nil => exact .refl _
  | cons x t ih => exact (Dev.compareReturned_arrivals x.id d).trans (ih _)

theorem mem_insertOrder (a b : Arrival) (l : List Arrival) : b ∈ insertOrder a l ↔ b = a ∨ b ∈ l := by
  induction l with
  | nil => simp [insertOrder]
  | cons c t ih =>
    rw [insertOrder]
    split
    · simp
    · rw [List.mem_cons, ih, List.mem_cons]; tauto

theorem mem_inOrder (b : Arrival) (l : List Arrival) : b ∈ inOrder l ↔ b ∈ l := by
  induction l with
  | nil => simp [inOrder]
  | cons c t ih =>
    show b ∈ insertOrder c (inOrder t) ↔ _
    rw [mem_insertOrder, ih, List.mem_cons]

/-- R137: what a port that leaves ONLINE changes, but for the arrivals. -/
theorem Dev.returnDeliveries_inbound (p : PortId) (d : Dev) :
    { d.returnDeliveries p with inbound := d.inbound } =
      (d.stopLanding p).modPort p fun q => { q with landings := [] } :=
  let e := (d.stopLanding p).modPort p fun q => { q with landings := [] }
  let back := inOrder (d.inbound.arrivals.filter fun a => (a.delivery.map (·.1)) == some p)
  (congrArg (fun x : Dev => { x with inbound := d.inbound })
    (Dev.compareAll_rest back (back.foldl (fun d a => d.returnArrival a.id) e))).trans (Dev.returnAll_rest back e)

/-- R137: its landing list is empty, and nothing is delivered to it. -/
theorem Dev.returnDeliveries_ports (p q : PortId) (d : Dev) :
    (d.returnDeliveries p).ports[q] = if q = p then { d.ports[q] with landings := [] } else d.ports[q] := by
  have h : (d.returnDeliveries p).ports = ((d.stopLanding p).modPort p fun q => { q with landings := [] }).ports :=
    (congrArg Dev.ports (Dev.returnDeliveries_inbound p d) :)
  rw [h, Dev.modPort_port]
  rfl

theorem Dev.returnDeliveries_rest (p : PortId) (d : Dev) :
    { d.returnDeliveries p with ports := d.ports, inbound := d.inbound, dma := d.dma } = d :=
  congrArg (fun x : Dev => { x with ports := d.ports, inbound := d.inbound, dma := d.dma }) (Dev.returnDeliveries_inbound p d)

theorem Dev.returnDeliveries_arrivals (p : PortId) (d : Dev) (a : Arrival) (h : a ∈ (d.returnDeliveries p).inbound.arrivals) :
    a.delivery.map (·.1) ≠ some p := by
  obtain ⟨h1, h2⟩ := Dev.returnAll_arrivals
    (inOrder (d.inbound.arrivals.filter fun a => (a.delivery.map (·.1)) == some p))
    ((d.stopLanding p).modPort p fun q => { q with landings := [] })
  intro hp
  have hn : a.delivery ≠ none := by intro e; rw [e] at hp; cases hp
  obtain ⟨c, hc, hca, hd⟩ := Dev.compareAll_arrivals
    (inOrder (d.inbound.arrivals.filter fun a => (a.delivery.map (·.1)) == some p)) _ a h
  obtain ⟨b, hb, h3, h4⟩ := h1 c hc
  have hd : a.delivery = c.delivery := hd.resolve_right hn
  have h4 : c.delivery = b.delivery := h4.resolve_right (hd ▸ hn)
  refine hn (hd.trans (h2 c hc ⟨b, ?_, h3⟩))
  rw [mem_inOrder, List.mem_filter]
  exact ⟨hb, by rw [← h4, ← hd, hp]; simp⟩

/-- R174: what a moved fetch changes. -/
theorem Dev.moveFetch_rest (s : Seq) (p : PortId) (d : Dev) :
    { d.moveFetch s p with fetch := d.fetch, status := d.status, sites := d.sites } = d := by
  unfold Dev.moveFetch Dev.blockFetch
  split
  · dsimp only
    split <;> rfl
  · rfl

theorem Dev.moveReads_rest (p : PortId) (d : Dev) :
    { d.moveReads p with fetch := d.fetch, status := d.status, sites := d.sites } = d := by
  unfold Dev.moveReads
  refine foldl_keeps (fun e : Dev => { e with fetch := d.fetch, status := d.status, sites := d.sites }) _ (fun e a => ?_) _ d
  exact congrArg (fun x : Dev => { x with fetch := d.fetch, status := d.status, sites := d.sites }) (Dev.moveFetch_rest a p e)

theorem Dev.nextOnline_ne {p q : PortId} {d : Dev} (h : d.nextOnline p = some q) (hp : d.ports[p].state ≠ .online) : q ≠ p := by
  rintro rfl
  have := List.find?_some h
  simp only [Dev.online, beq_iff_eq] at this
  exact hp this

/-- R174: the fetches that are moved read from another port; the others stay. -/
theorem Dev.moveFetch_active (s : Seq) (p : PortId) (d : Dev) (hp : d.ports[p].state ≠ .online) (f : Fetch)
    (h : f ∈ (d.moveFetch s p).fetch.active) :
    (f.port ≠ p ∧ f.req.seq = s) ∨ (f ∈ d.fetch.active ∧ f.req.seq ≠ s) := by
  unfold Dev.moveFetch at h
  split at h
  · right
    unfold Dev.blockFetch at h
    dsimp only at h
    split at h
    all_goals
      obtain ⟨h1, h2⟩ := List.mem_filter.1 h
      exact ⟨h1, by simpa using h2⟩
  · rename_i q hq
    obtain ⟨g, hg, rfl⟩ := List.mem_map.1 h
    by_cases hs : g.req.seq = s
    · left; simp [hs, Dev.nextOnline_ne hq hp]
    · right; simp [hs, hg]

theorem Dev.moveReads_active (p : PortId) (d : Dev) (hp : d.ports[p].state ≠ .online) (f : Fetch)
    (h : f ∈ (d.moveReads p).fetch.active) : f.reading = true → f.port ≠ p := by
  have key : ∀ (l : List Seq) (d : Dev), d.ports[p].state ≠ .online → f ∈ (l.foldl (fun d s => d.moveFetch s p) d).fetch.active →
      f.port ≠ p ∨ (f ∈ d.fetch.active ∧ f.req.seq ∉ l) := by
    intro l
    induction l with
    | nil => intro d _ h; exact .inr ⟨h, by simp⟩
    | cons s t ih =>
      intro d hd h
      have hports : (d.moveFetch s p).ports = d.ports := (congrArg Dev.ports (Dev.moveFetch_rest s p d) :)
      rcases ih (d.moveFetch s p) (by rw [hports]; exact hd) h with h1 | ⟨h1, h2⟩
      · exact .inl h1
      · rcases Dev.moveFetch_active s p d hd f h1 with h3 | h3
        · exact .inl h3.1
        · exact .inr ⟨h3.1, by simp [h2, h3.2]⟩
  intro hr hfp
  rcases key _ d hp h with h1 | ⟨h1, h2⟩
  · exact h1 hfp
  · apply h2
    rw [List.mem_map]
    exact ⟨f, List.mem_filter.2 ⟨h1, by simp [hfp, hr]⟩, rfl⟩

/-- R165: what a port that leaves ONLINE changes. -/
theorem Dev.leftOnline_rest (p : PortId) (d : Dev) :
    { d.leftOnline p with
      ports := d.ports, inbound := d.inbound, dma := d.dma, fetch := d.fetch, status := d.status, sites := d.sites } = d :=
  (congrArg (fun x : Dev => { x with
      ports := d.ports, inbound := d.inbound, dma := d.dma, fetch := d.fetch, status := d.status, sites := d.sites })
    (Dev.moveReads_rest p (d.returnDeliveries p))).trans
  (congrArg (fun x : Dev => { x with fetch := d.fetch, status := d.status, sites := d.sites }) (Dev.returnDeliveries_rest p d))

theorem Dev.leftOnline_port (p q : PortId) (d : Dev) :
    (d.leftOnline p).ports[q] = if q = p then { d.ports[q] with landings := [] } else d.ports[q] := by
  have : (d.leftOnline p).ports = (d.returnDeliveries p).ports :=
    (congrArg Dev.ports (Dev.moveReads_rest p (d.returnDeliveries p)) :)
  rw [this, Dev.returnDeliveries_ports]

theorem Dev.leftOnline_arrivals (p : PortId) (d : Dev) (a : Arrival) (h : a ∈ (d.leftOnline p).inbound.arrivals) :
    a.delivery.map (·.1) ≠ some p := by
  have : (d.leftOnline p).inbound = (d.returnDeliveries p).inbound :=
    (congrArg Dev.inbound (Dev.moveReads_rest p (d.returnDeliveries p)) :)
  rw [this] at h
  exact Dev.returnDeliveries_arrivals p d a h

theorem Dev.leftOnline_active (p : PortId) (d : Dev) (hp : d.ports[p].state ≠ .online) (f : Fetch)
    (h : f ∈ (d.leftOnline p).fetch.active) : f.reading = true → f.port ≠ p := by
  refine Dev.moveReads_active p (d.returnDeliveries p) ?_ f h
  rw [Dev.returnDeliveries_ports, if_pos rfl]
  exact hp

/-- R165: of the other ports, those that are ONLINE are told that a port has closed, and nothing else changes. -/
theorem Dev.closePort_other (d : Dev) (p q : PortId) (new : PortState) (c : PortCause) (h : q ≠ p) :
    (d.closePort p new c).ports[q] =
      if d.ports[q].state = .online then d.ports[q].addNotice false (.portState p d.ports[p].state new c) else d.ports[q] := by
  have hm : ∀ e : Dev, (e.leftOnline p).ports[q] = e.ports[q] := fun e => by rw [Dev.leftOnline_port, if_neg h]
  unfold Dev.closePort
  dsimp only
  rw [Dev.portNotice, Dev.broadcast_port]
  split <;> simp only [hm, Dev.modPort_other _ _ _ _ h]

/-- R165, R177: what a function reset of a port tells the other ports. -/
theorem Dev.functionReset_other (d : Dev) (p q : PortId) (h : q ≠ p) :
    (d.functionReset p).ports[q] =
      if (d.ports[p].state = .online ∨ d.ports[p].state = .lost) ∧ d.ports[q].state = .online then
        d.ports[q].addNotice false (.portState p d.ports[p].state .offline .functionReset)
      else d.ports[q] := by
  have hl : ∀ e : Dev, (e.returnDeliveries p).ports[q] = e.ports[q] := fun e => by
    rw [Dev.returnDeliveries_ports, if_neg h]
  have hm : ∀ e : Dev, (e.leftOnline p).ports[q] = e.ports[q] := fun e => by rw [Dev.leftOnline_port, if_neg h]
  unfold Dev.functionReset
  dsimp only
  split
  · rename_i ho
    rw [show d.ports[p].state = .online from ho]
    simp only [Dev.portNotice, Dev.broadcast_port, hm, Dev.modPort_other _ _ _ _ h]
    simp
  · rename_i ho
    rw [show d.ports[p].state = .lost from ho]
    simp only [Dev.portNotice, Dev.broadcast_port, hm, Dev.modPort_other _ _ _ _ h]
    simp
  · rename_i h1 h2
    rw [hl, Dev.modPort_other _ _ _ _ h, if_neg]
    rintro ⟨h3 | h3, _⟩
    · exact h1 h3
    · exact h2 h3

end Sys2Proof.Machine
end

