-- ==== Sys2Proof/Laws/Grants.lean ====
section
/-!
SUPPORT. What a command that acts at once, and a granted one that is refused, answered, or places one or two records, leaves.
-/

namespace Sys2Proof.Machine

/-- R167: on a free port a command that does not use the arbiter acts in the event of its posting. -/
theorem Dev.posted_acts {s : State} {t : Time} {p : PortId} (cid : Word32) (b : CmdBody) (hup : s.dev.up) (hf : s.dev.portFree p)
    (ha : usesArbiter b = false) :
    s.goOn (Dev.posted t p cid b) =
      .next { s with dev := (((s.dev.tick t).take p ⟨cid, b⟩ []).act (s.dev.nextTok p) .none b).settle } := by
  rw [State.goOn_next]
  unfold Dev.posted
  rw [Dev.event_powered _ _ _ hup.1, Dev.postCommand_acts cid b (Dev.up_tick t hup) (Dev.portFree_tick t hf) ha]
  rfl

/-- R170: on a free port, with nothing that competes, a command that uses the arbiter is granted in the event of its posting. -/
theorem Dev.posted_granted {s : State} {t : Time} {p : PortId} (cid : Word32) (b : CmdBody) (hup : s.dev.up) (hf : s.dev.portFree p)
    (hi : s.dev.intakeFree) (ha : usesArbiter b = true) (hn : ∀ x, b ≠ .append x) :
    s.goOn (Dev.posted t p cid b) = .next { s with dev :=
      (((Dev.take p ⟨cid, b⟩ [] { s.dev.tick t with intake := { s.dev.intake with last := p } }).act
        (s.dev.nextTok p) .none b).grantedNow).settle } := by
  rw [State.goOn_next]
  unfold Dev.posted
  rw [Dev.event_powered _ _ _ hup.1,
    Dev.postCommand_granted cid b (Dev.up_tick t hup) (Dev.portFree_tick t hf) (Dev.intakeFree_tick t hi) ha hn]
  rfl

/-- A granted command that is answered at once. -/
theorem Dev.answered_granted {d : Dev} {p : PortId} (r : CmdRec) (st : Status) (fl : Byte) (b : RespBody)
    (h : d.portIdle p) (hi : d.intakeFree) :
    ((Dev.take p r [] { d with intake := { d.intake with last := p } }).answer (d.nextTok p) st fl b).grantedNow =
      d.grantedReply p r.cid (kindCode r.body) st fl b := by
  rw [Dev.take_answer_granted r st fl b h, Dev.grantedNow_idle]
  · rfl
  · exact hi.1

theorem Dev.refused_granted {d : Dev} {p : PortId} (r : CmdRec) (st : Status)
    (h : d.portIdle p) (hi : d.intakeFree) :
    ((Dev.take p r [] { d with intake := { d.intake with last := p } }).refuse (d.nextTok p) st).grantedNow =
      d.grantedReply p r.cid (kindCode r.body) st 0 .none :=
  Dev.answered_granted r st 0 .none h hi

/-- R8, R12: a granted command that changes the settings and places its SETTINGS record. -/
theorem Dev.settings_granted {d : Dev} {p : PortId} (r : CmdRec) (c : Settings) (cont : Cont) (hp : d.part = .ready)
    (h : d.portIdle p) (hi : d.intakeFree) (hs : d.canPlace 1536) :
    (Dev.raiseSettings (d.nextTok p) cont { Dev.take p r [] { d with intake := { d.intake with last := p } } with settings := c }).grantedNow =
      ({ d with settings := c }.recorded p (.settings c)).granted p r.cid (kindCode r.body) cont := by
  have h1 := Dev.take_granted (d := { d with settings := c }) (p := p) r cont h
  generalize hx : Dev.raiseSettings (d.nextTok p) cont { Dev.take p r [] { d with intake := { d.intake with last := p } } with settings := c } = x
  have hx' : x = (({ d with settings := c } : Dev).granted p r.cid (kindCode r.body) cont).grantRecords (d.nextTok p) [⟨.settings c, some (d.nextTok p)⟩] false := by
    rw [← h1, ← hx]; rfl
  rw [hx', Dev.grantedNow_one (tok := d.nextTok p) (s := ⟨.settings c, some (d.nextTok p)⟩)]
  · obtain ⟨hg, _⟩ := hi
    have hst := hs.1
    simp only [Dev.recorded, Dev.place, Dev.programStalled, Dev.granted, Dev.grantRecords, Dev.nextTok, hg] at hst ⊢
    simp only [hst, Bool.false_eq_true, if_false]
  · exact hp
  · exact hi.2.1
  · rfl
  · exact hs

/-- R79: the SETTINGS and SITE-EVENT records of a granted command are placed one after the other. -/
theorem Dev.two_records {e : Dev} {tok : Tok} {c : Cont} {r1 r2 : Rec} (h1 : r1.size = 1536) (h2 : r2.size = 32) (hp : e.part = .ready)
    (hc : e.journal.ctrlQ = []) (hb : e.journal.buffersOk = true) (hs : e.canPlaceBoth) :
    (e.raiseOwn tok c [r1, r2]).grantedNow =
      { e.setCont tok c with
        journal := ((e.place ⟨r1, some tok⟩).1.place ⟨r2, some tok⟩).1.journal
        intake := { e.intake with grant := none } } := by
  obtain ⟨k1, k2⟩ := Dev.canPlace_two (r := ⟨r1, some tok⟩) hb hs h1
  unfold Dev.raiseOwn
  rw [Dev.grantedNow_two (tok := tok) (s := ⟨r1, some tok⟩) (t := ⟨r2, some tok⟩)]
  · rfl
  · exact hp
  · exact hc
  · rfl
  · exact k1
  · show Dev.canPlace _ r2.size
    rw [h2]
    exact k2

/-- A granted command that places one record. -/
theorem Dev.one_record {e : Dev} {tok : Tok} {c : Cont} {r : Rec} (hp : e.part = .ready)
    (hc : e.journal.ctrlQ = []) (hs : e.canPlace r.size) :
    (e.raiseOwn tok c [r]).grantedNow =
      { e.setCont tok c with
        journal := (e.place ⟨r, some tok⟩).1.journal
        intake := { e.intake with grant := none } } := by
  unfold Dev.raiseOwn
  rw [Dev.grantedNow_one (tok := tok) (s := ⟨r, some tok⟩)]
  · rfl
  · exact hp
  · exact hc
  · rfl
  · exact hs

end Sys2Proof.Machine
end

