-- ==== Sys2Proof/Laws/Marks.lean ====
section
/-!
SUPPORT. What a route, a verdict, an evaluation and a transition of marks change: the slot's marks, the notices, the key index; and
that they do nothing else.
-/

namespace Sys2Proof.Machine

/-! ## Notices change nothing else of a port -/

/-- The second port is the first but for its notice queue, its notice number and its lost count. -/
def Port.SameButNotices (a b : Port) : Prop :=
  { b with noticeQ := a.noticeQ, noticeNumber := a.noticeNumber, lost := a.lost } = a

theorem Port.SameButNotices.refl (a : Port) : a.SameButNotices a := rfl

theorem Port.SameButNotices.trans {a b c : Port} (h : a.SameButNotices b) (k : b.SameButNotices c) : a.SameButNotices c := by
  unfold Port.SameButNotices at *
  rw [← h, ← k]

theorem Port.addNotice_same (q : Port) (r : Bool) (b : NoticeBody) : q.SameButNotices (q.addNotice r b) := by
  unfold Port.addNotice
  split <;> rfl

/-- Every port is as before but for its notices. -/
def Dev.PortsKept (d e : Dev) : Prop := ∀ q : PortId, d.ports[q].SameButNotices e.ports[q]

theorem Dev.PortsKept.refl (d : Dev) : d.PortsKept d := fun _ => rfl

theorem Dev.PortsKept.of_eq {d e : Dev} (h : e.ports = d.ports) : d.PortsKept e := fun q => by
  unfold Port.SameButNotices; rw [h]

theorem Dev.PortsKept.trans {d e f : Dev} (h : d.PortsKept e) (k : e.PortsKept f) : d.PortsKept f :=
  fun q => (h q).trans (k q)

theorem Dev.notify_kept (d : Dev) (p : PortId) (r : Bool) (b : NoticeBody) : d.PortsKept (d.notify p r b) := by
  intro q
  unfold Dev.notify
  rw [Dev.modPort_port]
  split
  · exact Port.addNotice_same _ _ _
  · rfl

theorem Dev.broadcast_kept (d : Dev) (b : NoticeBody) : d.PortsKept (d.broadcast b) := by
  intro q
  rw [Dev.broadcast_port]
  split
  · exact Port.addNotice_same _ _ _
  · rfl

theorem Dev.faultNotice_kept (d : Dev) (k : FaultKind) (sc : FaultScope) : d.PortsKept (d.faultNotice k sc) := by
  intro q
  rw [Dev.faultNotice_port]
  split
  · exact Port.addNotice_same _ _ _
  · rfl

theorem Dev.route_kept (d : Dev) (p : PortId) (b : NoticeBody) : d.PortsKept (d.route p b) := by
  unfold Dev.route
  split
  · exact Dev.notify_kept _ _ _ _
  · exact .refl _

theorem Dev.route_rest (d : Dev) (p : PortId) (b : NoticeBody) :
    { d.route p b with ports := d.ports, partLost := d.partLost } = d := by
  unfold Dev.route
  split <;> rfl

/-! ## A slot of the status array that changes, and its evaluation (R113 to R116) -/

/-- The second slot is the first but for its link and its verdict. -/
def Slot.SameButVerdict (x y : Slot) : Prop := { y with link := x.link, verdict := x.verdict } = x

theorem Slot.SameButVerdict.refl (x : Slot) : x.SameButVerdict x := rfl

theorem Slot.SameButVerdict.trans {x y z : Slot} (h : x.SameButVerdict y) (k : y.SameButVerdict z) : x.SameButVerdict z := by
  unfold Slot.SameButVerdict at *
  rw [← h, ← k]

theorem Slot.SameButVerdict.marks {x y : Slot} (h : x.SameButVerdict y) : y.marks = x.marks := (congrArg Slot.marks h :)

/-- Every slot is as before but for its link and its verdict; the slots but s are as before. -/
def Dev.SlotsKept (s : Seq) (d e : Dev) : Prop :=
  (∀ q, q ≠ s → e.slot? q = d.slot? q) ∧ (d.slot? s = none → e.slot? s = none) ∧
    ∀ x, d.slot? s = some x → ∃ y, e.slot? s = some y ∧ x.SameButVerdict y

theorem Dev.SlotsKept.refl (s : Seq) (d : Dev) : d.SlotsKept s d := ⟨fun _ _ => rfl, fun h => h, fun x h => ⟨x, h, rfl⟩⟩

theorem Dev.SlotsKept.of_eq {s : Seq} {d e : Dev} (h : e.status.slots = d.status.slots) : d.SlotsKept s e := by
  have : ∀ q, e.slot? q = d.slot? q := fun q => by unfold Dev.slot?; rw [h]
  exact ⟨fun q _ => this q, fun h => (this s).trans h, fun x h => ⟨x, (this s).trans h, rfl⟩⟩

theorem Dev.SlotsKept.trans {s : Seq} {d e f : Dev} (h : d.SlotsKept s e) (k : e.SlotsKept s f) : d.SlotsKept s f := by
  refine ⟨fun q hq => (k.1 q hq).trans (h.1 q hq), fun hn => k.2.1 (h.2.1 hn), fun x hx => ?_⟩
  obtain ⟨y, hy, h1⟩ := h.2.2 x hx
  obtain ⟨z, hz, h2⟩ := k.2.2 y hy
  exact ⟨z, hz, h1.trans h2⟩

theorem Dev.SlotsKept.putSlot {s : Seq} {d : Dev} {x y : Slot} (hx : d.slot? s = some x) (h : x.SameButVerdict y) :
    d.SlotsKept s (d.putSlot s y) := by
  refine ⟨fun q hq => ?_, fun hn => ?_, fun z hz => ⟨y, ?_, ?_⟩⟩
  · rw [Dev.putSlot_slot, if_neg hq]
  · rw [hn] at hx; cases hx
  · rw [Dev.putSlot_slot, if_pos rfl]
  · rw [hx] at hz; cases hz; exact h

theorem StatusArray.countVerdict_slots (v : Verdict) (a : StatusArray) : (a.countVerdict v).slots = a.slots := by
  cases v <;> rfl

theorem Dev.setVerdict_slot (s q : Seq) (x : Slot) (v : Verdict) (d : Dev) :
    (d.setVerdict s x v).slot? q = if q = s then some { x with verdict := some v } else d.slot? q := by
  unfold Dev.setVerdict Dev.slot?
  dsimp only
  rw [StatusArray.countVerdict_slots]
  exact Dev.putSlot_slot s q _ d

theorem Dev.SlotsKept.setVerdict {s : Seq} {d : Dev} {x y : Slot} (v : Verdict) (hx : d.slot? s = some x)
    (h : x.SameButVerdict y) : d.SlotsKept s (d.setVerdict s y v) := by
  refine ⟨fun q hq => ?_, fun hn => ?_, fun z hz => ⟨{ y with verdict := some v }, ?_, ?_⟩⟩
  · rw [Dev.setVerdict_slot, if_neg hq]
  · rw [hn] at hx; cases hx
  · rw [Dev.setVerdict_slot, if_pos rfl]
  · rw [hx] at hz; cases hz; exact h

theorem Dev.route_slots (s : Seq) (d : Dev) (p : PortId) (b : NoticeBody) : d.SlotsKept s (d.route p b) :=
  .of_eq (congrArg (fun x : Dev => x.status.slots) (Dev.route_rest d p b) :)

/-- What the evaluation of an intent may change. -/
def Dev.EvalKept (d e : Dev) : Prop :=
  { e with ports := d.ports, partLost := d.partLost, status := d.status, index := d.index } = d

theorem Dev.EvalKept.refl (d : Dev) : d.EvalKept d := rfl

theorem Dev.EvalKept.trans {d e f : Dev} (h : d.EvalKept e) (k : e.EvalKept f) : d.EvalKept f := by
  unfold Dev.EvalKept at *
  rw [← h, ← k]

theorem Dev.route_eval (d : Dev) (p : PortId) (b : NoticeBody) : d.EvalKept (d.route p b) := by
  unfold Dev.route
  split <;> rfl

theorem Dev.testVerdict_kept (s : Seq) (d : Dev) :
    d.EvalKept (d.testVerdict s) ∧ d.PortsKept (d.testVerdict s) ∧ d.SlotsKept s (d.testVerdict s) ∧
      (d.testVerdict s).index = d.index := by
  unfold Dev.testVerdict
  split
  · exact ⟨.refl _, .refl _, .refl _ _, rfl⟩
  · rename_i x hx
    have key : ∀ (v : Verdict) (p : PortId) (b : NoticeBody),
        d.EvalKept ((d.setVerdict s x v).route p b) ∧ d.PortsKept ((d.setVerdict s x v).route p b) ∧
          d.SlotsKept s ((d.setVerdict s x v).route p b) ∧ ((d.setVerdict s x v).route p b).index = d.index := by
      intro v p b
      refine ⟨?_, ?_, ?_, ?_⟩
      · exact Dev.EvalKept.trans (e := d.setVerdict s x v) rfl (Dev.route_eval _ _ _)
      · exact Dev.PortsKept.trans (e := d.setVerdict s x v) (.of_eq rfl) (Dev.route_kept _ _ _)
      · exact (Dev.SlotsKept.setVerdict v hx rfl).trans (Dev.route_slots _ _ _ _)
      · exact (congrArg Dev.index (Dev.route_rest (d.setVerdict s x v) p b) :)
    split
    · exact ⟨.refl _, .refl _, .refl _ _, rfl⟩
    · split
      · exact key _ _ _
      · split
        · exact key _ _ _
        · exact ⟨.refl _, .refl _, .refl _ _, rfl⟩

theorem Dev.resolve_kept (s : Seq) (x : Slot) (d : Dev) (hx : d.slot? s = some x) :
    d.EvalKept (d.resolve s x) ∧ d.PortsKept (d.resolve s x) ∧ d.SlotsKept s (d.resolve s x) := by
  have h : ∀ e : Dev, e.status = d.status → d.SlotsKept s
      { e.putSlot s { x with link := none } with status :=
        { (e.putSlot s { x with link := none }).status with resolutions := e.status.resolutions + 1 } } := by
    intro e he
    have h1 : e.slot? s = some x := by unfold Dev.slot?; rw [he]; exact hx
    exact ((Dev.SlotsKept.of_eq (by rw [he])).trans (Dev.SlotsKept.putSlot (y := { x with link := none }) h1 rfl)).trans (.of_eq rfl)
  unfold Dev.resolve
  cases x.link with
  | none => exact ⟨rfl, .of_eq rfl, h d rfl⟩
  | some w => exact ⟨rfl, .of_eq rfl, h { d with index := d.index.release w } rfl⟩

/-- R113: an evaluation changes of the status array the intent's link and verdict, the index and the notices, and
nothing else. -/
theorem Dev.evaluate_kept (s : Seq) (was : Bool) (d : Dev) :
    d.EvalKept (d.evaluate s was) ∧ d.PortsKept (d.evaluate s was) ∧ d.SlotsKept s (d.evaluate s was) := by
  unfold Dev.evaluate
  split
  · exact ⟨.refl _, .refl _, .refl _ _⟩
  · rename_i x hx
    split
    · exact ⟨.refl _, .refl _, .refl _ _⟩
    · split
      · obtain ⟨h1, h2, h3⟩ := Dev.resolve_kept s x d hx
        obtain ⟨k1, k2, k3, _⟩ := Dev.testVerdict_kept s (d.resolve s x)
        exact ⟨h1.trans k1, h2.trans k2, h3.trans k3⟩
      · obtain ⟨k1, k2, k3, _⟩ := Dev.testVerdict_kept s d
        exact ⟨k1, k2, k3⟩

/-- R113: an evaluation that finds the intent unresolved leaves the key index. -/
theorem Dev.evaluate_index (s : Seq) (was : Bool) (d : Dev) (h : ∀ x, d.slot? s = some x → (x.resolved && !was) = false) :
    (d.evaluate s was).index = d.index := by
  unfold Dev.evaluate
  split
  · rfl
  · rename_i x hx
    split
    · rfl
    · rw [h x hx]
      exact (Dev.testVerdict_kept s d).2.2.2

/-- A slot changes and is evaluated. -/
theorem Dev.updateSlot_kept (s : Seq) (f : Slot → Slot) (d : Dev) :
    d.EvalKept (d.updateSlot s f) ∧ d.PortsKept (d.updateSlot s f) ∧
      (∀ q, q ≠ s → (d.updateSlot s f).slot? q = d.slot? q) ∧ (d.slot? s = none → (d.updateSlot s f).slot? s = none) ∧
      ∀ x, d.slot? s = some x → ∃ y, (d.updateSlot s f).slot? s = some y ∧ (f x).SameButVerdict y := by
  unfold Dev.updateSlot
  split
  · rename_i hx
    exact ⟨.refl _, .refl _, fun _ _ => rfl, fun h => h, fun x h => by rw [hx] at h; cases h⟩
  · rename_i x hx
    obtain ⟨k1, k2, k3⟩ := Dev.evaluate_kept s x.resolved (d.putSlot s (f x))
    refine ⟨Dev.EvalKept.trans (e := d.putSlot s (f x)) rfl k1, Dev.PortsKept.trans (e := d.putSlot s (f x)) (.of_eq rfl) k2,
      fun q hq => ?_, fun h => ?_, fun z hz => ?_⟩
    · rw [k3.1 q hq, Dev.putSlot_slot, if_neg hq]
    · rw [hx] at h; cases h
    · rw [hx] at hz; cases hz
      exact k3.2.2 (f x) (by rw [Dev.putSlot_slot, if_pos rfl])

/-! ## The marks of one site slot (R111) -/

theorem mark_map_self (l : List (SlotId × Mark)) (j : SlotId) (f : Mark → Mark) :
    ((l.map fun e => if e.1 == j then (e.1, f e.2) else e).find? fun e => e.1 == j).map (·.2) =
      ((l.find? fun e => e.1 == j).map (·.2)).map f := by
  induction l with
  | nil => rfl
  | cons e t ih =>
    obtain ⟨k, m⟩ := e
    simp only [List.map_cons, List.find?_cons]
    by_cases h : k = j
    · subst h; simp only [beq_self_eq_true, if_true, Option.map_some]
    · have h1 : (k == j) = false := by simpa using h
      simp only [h1, Bool.false_eq_true, if_false, ih]

theorem mark_map_other (l : List (SlotId × Mark)) (j k : SlotId) (f : Mark → Mark) (h : k ≠ j) :
    ((l.map fun e => if e.1 == j then (e.1, f e.2) else e).find? fun e => e.1 == k).map (·.2) =
      (l.find? fun e => e.1 == k).map (·.2) := by
  induction l with
  | nil => rfl
  | cons e t ih =>
    obtain ⟨i, m⟩ := e
    simp only [List.map_cons, List.find?_cons]
    by_cases h1 : i = j
    · subst h1
      have h2 : (i == k) = false := by simpa using fun e : i = k => h e.symm
      simp only [beq_self_eq_true, if_true, h2, ih]
    · have h2 : (i == j) = false := by simpa using h1
      simp only [h2, Bool.false_eq_true, if_false]
      by_cases h3 : (i == k) = true
      · simp only [h3, Option.map_some]
      · simp only [Bool.not_eq_true] at h3
        simp only [h3, ih]

theorem Slot.move_marks (x : Slot) (j : SlotId) (from_ : Mark → Bool) (new : Mark) :
    (x.move j from_ new).marks = x.marks.map fun e => if e.1 == j then (e.1, if from_ e.2 then new else e.2) else e := by
  unfold Slot.move
  refine List.map_congr_left fun e _ => ?_
  by_cases h1 : (e.1 == j) = true
  · have := LawfulBEq.eq_of_beq h1
    by_cases h2 : from_ e.2 = true
    · simp [h2, ← this]
    · simp only [Bool.not_eq_true] at h2
      simp [h2]
  · simp only [Bool.not_eq_true] at h1
    simp [h1]

theorem Slot.move_mark_self (x : Slot) (j : SlotId) (from_ : Mark → Bool) (new : Mark) :
    (x.move j from_ new).mark j = (x.mark j).map fun m => if from_ m then new else m := by
  unfold Slot.mark
  rw [Slot.move_marks]
  exact mark_map_self x.marks j fun m => if from_ m then new else m

theorem Slot.move_mark_other (x : Slot) (j k : SlotId) (from_ : Mark → Bool) (new : Mark) (h : k ≠ j) :
    (x.move j from_ new).mark k = x.mark k := by
  unfold Slot.mark
  rw [Slot.move_marks]
  exact mark_map_other x.marks j k (fun m => if from_ m then new else m) h

theorem Slot.setMark_marks (x : Slot) (j : SlotId) (m : Mark) :
    (x.setMark j m).marks = x.marks.map fun e => if e.1 == j then (e.1, m) else e := by
  unfold Slot.setMark
  refine List.map_congr_left fun e _ => ?_
  by_cases h1 : (e.1 == j) = true
  · have := LawfulBEq.eq_of_beq h1
    simp [← this]
  · simp only [Bool.not_eq_true] at h1
    simp [h1]

theorem Slot.setMark_mark_self (x : Slot) (j : SlotId) (m : Mark) : (x.setMark j m).mark j = (x.mark j).map fun _ => m := by
  unfold Slot.mark
  rw [Slot.setMark_marks]
  exact mark_map_self x.marks j fun _ => m

theorem Slot.setMark_mark_other (x : Slot) (j k : SlotId) (m : Mark) (h : k ≠ j) : (x.setMark j m).mark k = x.mark k := by
  unfold Slot.mark
  rw [Slot.setMark_marks]
  exact mark_map_other x.marks j k (fun _ => m) h

theorem Slot.SameButVerdict.mark {x y : Slot} (h : x.SameButVerdict y) (k : SlotId) : y.mark k = x.mark k := by
  unfold Slot.mark; rw [h.marks]

/-- Every mark of slot j of an intent of the list goes through `f`, which does nothing the second time; no other mark
changes. -/
theorem Dev.foldl_marks (j : SlotId) (g : Slot → Slot) (f : Mark → Mark) (hf : ∀ m, f (f m) = f m)
    (hg : ∀ x, (g x).mark j = (x.mark j).map f) (ho : ∀ x k, k ≠ j → (g x).mark k = x.mark k) (l : List Seq) (d : Dev) :
    d.EvalKept (l.foldl (fun d s => d.updateSlot s g) d) ∧ d.PortsKept (l.foldl (fun d s => d.updateSlot s g) d) ∧
      (∀ q, d.slot? q = none → (l.foldl (fun d s => d.updateSlot s g) d).slot? q = none) ∧
      ∀ q x, d.slot? q = some x → ∃ y, (l.foldl (fun d s => d.updateSlot s g) d).slot? q = some y ∧
        y.mark j = (if q ∈ l then (x.mark j).map f else x.mark j) ∧ ∀ k, k ≠ j → y.mark k = x.mark k := by
  induction l generalizing d with
  | nil => exact ⟨.refl _, .refl _, fun _ h => h, fun q x h => ⟨x, h, by simp, fun _ _ => rfl⟩⟩
  | cons s t ih =>
    obtain ⟨h1, h2, h3, h4, h5⟩ := Dev.updateSlot_kept s g d
    obtain ⟨k1, k2, k3, k4⟩ := ih (d.updateSlot s g)
    refine ⟨h1.trans k1, h2.trans k2, fun q hq => ?_, fun q x hx => ?_⟩
    · by_cases he : q = s
      · subst he; exact k3 q (h4 hq)
      · exact k3 q ((h3 q he).trans hq)
    · by_cases he : q = s
      · subst he
        obtain ⟨y, hy, hxy⟩ := h5 x hx
        obtain ⟨z, hz, h6, h7⟩ := k4 q y hy
        refine ⟨z, hz, ?_, fun k hk => ?_⟩
        · rw [h6, hxy.mark, hg, if_pos (List.mem_cons_self : q ∈ q :: t)]
          have hff : ((x.mark j).map f).map f = (x.mark j).map f := by
            rw [Option.map_map]
            exact congrFun (congrArg Option.map (funext hf)) (x.mark j)
          rw [hff, ite_self]
        · rw [h7 k hk, hxy.mark, ho x k hk]
      · obtain ⟨z, hz, h6, h7⟩ := k4 q x ((h3 q he).trans hx)
        refine ⟨z, hz, ?_, h7⟩
        rw [h6]
        simp [he]

/-- R111: a transition of the marks of slot j of the intents of the list. -/
theorem Dev.foldl_moveMark (j : SlotId) (from_ : Mark → Bool) (new : Mark) (hn : from_ new = false) (l : List Seq) (d : Dev) :
    let e := l.foldl (fun d s => d.moveMark j s from_ new) d
    d.EvalKept e ∧ d.PortsKept e ∧ (∀ q, d.slot? q = none → e.slot? q = none) ∧
      ∀ q x, d.slot? q = some x → ∃ y, e.slot? q = some y ∧
        y.mark j = (if q ∈ l then (x.mark j).map (fun m => if from_ m then new else m) else x.mark j) ∧
        ∀ k, k ≠ j → y.mark k = x.mark k :=
  Dev.foldl_marks j (fun x => x.move j from_ new) (fun m => if from_ m then new else m)
    (fun m => by by_cases h : from_ m = true <;> simp [h, hn]) (fun x => Slot.move_mark_self x j from_ new)
    (fun x k hk => Slot.move_mark_other x j k from_ new hk) l d

end Sys2Proof.Machine
end

