-- ==== Sys2Proof/Laws/PerInstr.lean ====
section
/-!
SUPPORT. The family `Family`: a row that posts a command record is well formed exactly when its record is. One lemma for each
constructor of Instr.
-/

namespace Sys2Proof.Laws.Family

def Statement (i : Instr) : Prop := ∀ t p r, i.posts = some (t, p, r) → i.wf = r.body.wf

theorem commandPosted (at_ : Time) (p : PortId) (r : CmdRec) :
    Statement (.commandPosted at_ p r) := by rintro _ _ _ ⟨⟩; rfl

theorem responseRemoved (at_ : Time) (p : PortId) : Statement (.responseRemoved at_ p) := by rintro _ _ _ ⟨⟩

theorem unknownCommandKind (at_ : Time) (p : PortId) (cid : Word32) (code : Nat) :
    Statement (.unknownCommandKind at_ p cid code) := by rintro _ _ _ ⟨⟩; rfl

theorem append (at_ : Time) (p : PortId) (cid : Word32) (b : AppendBody) :
    Statement (.append at_ p cid b) := by rintro _ _ _ ⟨⟩; rfl

theorem flush (at_ : Time) (p : PortId) (cid : Word32) (delay : Nat) :
    Statement (.flush at_ p cid delay) := by rintro _ _ _ ⟨⟩; rfl

theorem readJournal (at_ : Time) (p : PortId) (cid : Word32) (seq addr : Nat) :
    Statement (.readJournal at_ p cid seq addr) := by rintro _ _ _ ⟨⟩; rfl

theorem journalRecordWriteDone (at_ : Time) (p : PortId) :
    Statement (.journalRecordWriteDone at_ p) := by rintro _ _ _ ⟨⟩

theorem commitTimerExpiry : Statement .commitTimerExpiry := by rintro _ _ _ ⟨⟩

theorem pageProgramComplete (at_ : Time) (ok : Bool) : Statement (.pageProgramComplete at_ ok) := by rintro _ _ _ ⟨⟩

theorem checkpointTimerExpiry : Statement .checkpointTimerExpiry := by rintro _ _ _ ⟨⟩

theorem pageReadComplete (at_ : Time) (ok : Bool) : Statement (.pageReadComplete at_ ok) := by rintro _ _ _ ⟨⟩

theorem eraseSuspendComplete (at_ : Time) : Statement (.eraseSuspendComplete at_) := by rintro _ _ _ ⟨⟩

theorem eraseComplete (at_ : Time) (ok : Bool) : Statement (.eraseComplete at_ ok) := by rintro _ _ _ ⟨⟩

theorem holdDeadlineExpiry (seq : Nat) : Statement (.holdDeadlineExpiry seq) := by rintro _ _ _ ⟨⟩

theorem setPlacement (at_ : Time) (p : PortId) (cid : Word32) (b : SetPlacementBody) :
    Statement (.setPlacement at_ p cid b) := by rintro _ _ _ ⟨⟩; rfl

theorem readPlacement (at_ : Time) (p : PortId) (cid : Word32) (b : ReadPlacementBody) :
    Statement (.readPlacement at_ p cid b) := by rintro _ _ _ ⟨⟩; rfl

theorem setPlacementMode (at_ : Time) (p : PortId) (cid : Word32) (b : SetModeBody) :
    Statement (.setPlacementMode at_ p cid b) := by rintro _ _ _ ⟨⟩; rfl

theorem release (at_ : Time) (p : PortId) (cid : Word32) (seq : Nat) :
    Statement (.release at_ p cid seq) := by rintro _ _ _ ⟨⟩; rfl

theorem deny (at_ : Time) (p : PortId) (cid : Word32) (seq : Nat) :
    Statement (.deny at_ p cid seq) := by rintro _ _ _ ⟨⟩; rfl

theorem queryKey (at_ : Time) (p : PortId) (cid : Word32) (q : KeyQuery) :
    Statement (.queryKey at_ p cid q) := by rintro _ _ _ ⟨⟩; rfl

theorem attachSite (at_ : Time) (p : PortId) (cid : Word32) (b : AttachSiteBody) :
    Statement (.attachSite at_ p cid b) := by rintro _ _ _ ⟨⟩; rfl

theorem detachSite (at_ : Time) (p : PortId) (cid : Word32) (slot : Nat) :
    Statement (.detachSite at_ p cid slot) := by rintro _ _ _ ⟨⟩; rfl

theorem fenceSite (at_ : Time) (p : PortId) (cid : Word32) (slot : Nat) :
    Statement (.fenceSite at_ p cid slot) := by rintro _ _ _ ⟨⟩; rfl

theorem unfenceSite (at_ : Time) (p : PortId) (cid : Word32) (slot : Nat) :
    Statement (.unfenceSite at_ p cid slot) := by rintro _ _ _ ⟨⟩; rfl

theorem rejoinSite (at_ : Time) (p : PortId) (cid : Word32) (slot : Nat) :
    Statement (.rejoinSite at_ p cid slot) := by rintro _ _ _ ⟨⟩; rfl

theorem rewindSite (at_ : Time) (p : PortId) (cid : Word32) (slot target : Nat) :
    Statement (.rewindSite at_ p cid slot target) := by rintro _ _ _ ⟨⟩; rfl

theorem readSite (at_ : Time) (p : PortId) (cid : Word32) (slot : Option Nat) :
    Statement (.readSite at_ p cid slot) := by rintro _ _ _ ⟨⟩; rfl

theorem helloReceived (at_ : Time) (sp : SpanId) (h : FrameHdr) (expected : Nat) :
    Statement (.helloReceived at_ sp h expected) := by rintro _ _ _ ⟨⟩

theorem helloAckReceived (at_ : Time) (sp : SpanId) (h : FrameHdr) (answered : Nat) :
    Statement (.helloAckReceived at_ sp h answered) := by rintro _ _ _ ⟨⟩

theorem probeTimerExpiry (j : SlotId) : Statement (.probeTimerExpiry j) := by rintro _ _ _ ⟨⟩

theorem openReceived (at_ : Time) (sp : SpanId) (h : FrameHdr) (frameLen : Nat) (desc : OpenDesc) :
    Statement (.openReceived at_ sp h frameLen desc) := by rintro _ _ _ ⟨⟩

theorem carryReceived (at_ : Time) (sp : SpanId) (h : FrameHdr) (seq chunk : Nat) (data : List Byte) :
    Statement (.carryReceived at_ sp h seq chunk data) := by rintro _ _ _ ⟨⟩

theorem receiptReceived (at_ : Time) (sp : SpanId) (h : FrameHdr) (entries : List (Nat × Nat)) :
    Statement (.receiptReceived at_ sp h entries) := by rintro _ _ _ ⟨⟩

theorem gapReceived (at_ : Time) (sp : SpanId) (h : FrameHdr) (seq : Nat) (ranges : List (Nat × Nat)) :
    Statement (.gapReceived at_ sp h seq ranges) := by rintro _ _ _ ⟨⟩

theorem busyReceived (at_ : Time) (sp : SpanId) (h : FrameHdr) (seq : Nat) :
    Statement (.busyReceived at_ sp h seq) := by rintro _ _ _ ⟨⟩

theorem busyPauseExpiry (j : SlotId) : Statement (.busyPauseExpiry j) := by rintro _ _ _ ⟨⟩

theorem retryDeadlineExpiry (j : SlotId) (seq : Nat) : Statement (.retryDeadlineExpiry j seq) := by rintro _ _ _ ⟨⟩

theorem frameTransmitted (at_ : Time) (sp : SpanId) : Statement (.frameTransmitted at_ sp) := by rintro _ _ _ ⟨⟩

theorem pacingGrant (g : GenId) : Statement (.pacingGrant g) := by rintro _ _ _ ⟨⟩

theorem setGenerator (at_ : Time) (p : PortId) (cid : Word32) (b : SetGeneratorBody) :
    Statement (.setGenerator at_ p cid b) := by rintro _ _ _ ⟨⟩; rfl

theorem setSitePacing (at_ : Time) (p : PortId) (cid : Word32) (b : SetSitePacingBody) :
    Statement (.setSitePacing at_ p cid b) := by rintro _ _ _ ⟨⟩; rfl

theorem queryIntent (at_ : Time) (p : PortId) (cid : Word32) (seq : Nat) :
    Statement (.queryIntent at_ p cid seq) := by rintro _ _ _ ⟨⟩; rfl

theorem silenceTimerExpiry (arrival : Nat) : Statement (.silenceTimerExpiry arrival) := by rintro _ _ _ ⟨⟩

theorem postLanding (at_ : Time) (p : PortId) (cid : Word32) (id addr capacity : Nat) :
    Statement (.postLanding at_ p cid id addr capacity) := by rintro _ _ _ ⟨⟩; rfl

theorem landingWriteComplete (at_ : Time) (p : PortId) : Statement (.landingWriteComplete at_ p) := by rintro _ _ _ ⟨⟩

theorem stored (at_ : Time) (p : PortId) (cid : Word32) (arrival outcome : Nat) :
    Statement (.stored at_ p cid arrival outcome) := by rintro _ _ _ ⟨⟩; rfl

theorem readInbound (at_ : Time) (p : PortId) (cid : Word32) (arrival : Nat) :
    Statement (.readInbound at_ p cid arrival) := by rintro _ _ _ ⟨⟩; rfl

theorem guardLineChange (at_ : Time) (asserted : Bool) : Statement (.guardLineChange at_ asserted) := by rintro _ _ _ ⟨⟩

theorem guardSettlingExpiry : Statement .guardSettlingExpiry := by rintro _ _ _ ⟨⟩

theorem guardOn (at_ : Time) (p : PortId) (cid : Word32) : Statement (.guardOn at_ p cid) := by rintro _ _ _ ⟨⟩; rfl

theorem guardOff (at_ : Time) (p : PortId) (cid : Word32) : Statement (.guardOff at_ p cid) := by rintro _ _ _ ⟨⟩; rfl

theorem setGuardMap (at_ : Time) (p : PortId) (cid : Word32) (map : Word64) :
    Statement (.setGuardMap at_ p cid map) := by rintro _ _ _ ⟨⟩; rfl

theorem setPressureLimits (at_ : Time) (p : PortId) (cid : Word32) (lowWatermark criticalReserve : Nat) :
    Statement (.setPressureLimits at_ p cid lowWatermark criticalReserve) := by rintro _ _ _ ⟨⟩; rfl

theorem readSegments (at_ : Time) (p : PortId) (cid : Word32) (segment : Option Nat) :
    Statement (.readSegments at_ p cid segment) := by rintro _ _ _ ⟨⟩; rfl

theorem attachPort (at_ : Time) (p : PortId) (cid : Word32) :
    Statement (.attachPort at_ p cid) := by rintro _ _ _ ⟨⟩; rfl

theorem detachPort (at_ : Time) (p : PortId) (cid : Word32) :
    Statement (.detachPort at_ p cid) := by rintro _ _ _ ⟨⟩; rfl

theorem fencePort (at_ : Time) (p : PortId) (cid : Word32) (port : Nat) :
    Statement (.fencePort at_ p cid port) := by rintro _ _ _ ⟨⟩; rfl

theorem unfencePort (at_ : Time) (p : PortId) (cid : Word32) (port : Nat) :
    Statement (.unfencePort at_ p cid port) := by rintro _ _ _ ⟨⟩; rfl

theorem readStatus (at_ : Time) (p : PortId) (cid : Word32) :
    Statement (.readStatus at_ p cid) := by rintro _ _ _ ⟨⟩; rfl

theorem clearFaults (at_ : Time) (p : PortId) (cid : Word32) (kinds : Byte) :
    Statement (.clearFaults at_ p cid kinds) := by rintro _ _ _ ⟨⟩; rfl

theorem setNoticeMask (at_ : Time) (p : PortId) (cid : Word32) (settings : List Nat) :
    Statement (.setNoticeMask at_ p cid settings) := by rintro _ _ _ ⟨⟩; rfl

theorem functionReset (at_ : Time) (p : PortId) : Statement (.functionReset at_ p) := by rintro _ _ _ ⟨⟩

theorem fetchReadComplete (at_ : Time) (read : ReadName) (data : List Byte) :
    Statement (.fetchReadComplete at_ read data) := by rintro _ _ _ ⟨⟩

theorem fetchTimeout (seq : Nat) : Statement (.fetchTimeout seq) := by rintro _ _ _ ⟨⟩

theorem setLocalSite (at_ : Time) (p : PortId) (cid : Word32) (site : Nat) :
    Statement (.setLocalSite at_ p cid site) := by rintro _ _ _ ⟨⟩; rfl

theorem powerWarnAssert (at_ : Time) : Statement (.powerWarnAssert at_) := by rintro _ _ _ ⟨⟩

theorem resetLineAssert (at_ : Time) : Statement (.resetLineAssert at_) := by rintro _ _ _ ⟨⟩

theorem powerWarnDeassert (at_ : Time) : Statement (.powerWarnDeassert at_) := by rintro _ _ _ ⟨⟩

theorem resetLineDeassert (at_ : Time) : Statement (.resetLineDeassert at_) := by rintro _ _ _ ⟨⟩

theorem backupCellLow (at_ : Time) : Statement (.backupCellLow at_) := by rintro _ _ _ ⟨⟩

theorem powerUp (at_ : Time) (media : StartMedia) : Statement (.powerUp at_ media) := by rintro _ _ _ ⟨⟩

theorem startEnd (at_ : Time) : Statement (.startEnd at_) := by rintro _ _ _ ⟨⟩

theorem noticeRemoved (at_ : Time) (p : PortId) : Statement (.noticeRemoved at_ p) := by rintro _ _ _ ⟨⟩

theorem powerLoss (at_ : Time) : Statement (.powerLoss at_) := by rintro _ _ _ ⟨⟩

theorem badFrame (at_ : Time) (sp : SpanId) (bytes : List Byte) :
    Statement (.badFrame at_ sp bytes) := by rintro _ _ _ ⟨⟩

end Sys2Proof.Laws.Family
end

