-- ==== Sys2Proof/Laws/Rebuild.lean ====
section
/-!
SUPPORT. The replay of a COLD start (R39, R195): what each record does to the slots of the status array, and that it changes
nothing of the journal, the array or the settings.
-/

namespace Sys2Proof.Machine

/-! ## A slot that is filled keeps its intent, and only a PENDING mark changes -/

/-- The mark is the same, or was PENDING and is SKIPPED. -/
def markSkips (a b : SlotId × Mark) : Prop := b.1 = a.1 ∧ (b.2 = a.2 ∨ (a.2 = .pending ∧ ∃ why, b.2 = .skipped why))

theorem markSkips.trans {a b c : SlotId × Mark} (h : markSkips a b) (k : markSkips b c) : markSkips a c := by
  obtain ⟨h1, h2⟩ := h
  obtain ⟨k1, k2⟩ := k
  refine ⟨k1.trans h1, ?_⟩
  rcases h2 with h2 | ⟨h2, w, h3⟩
  · rcases k2 with k2 | ⟨k2, k3⟩
    · exact .inl (k2.trans h2)
    · exact .inr ⟨h2 ▸ k2, k3⟩
  · rcases k2 with k2 | ⟨k2, _⟩
    · exact .inr ⟨h2, w, k2.trans h3⟩
    · rw [h3] at k2; cases k2

/-- The second slot is of the same intent as the first, and each mark is the same or was PENDING and is SKIPPED. -/
def Slot.Skips (x y : Slot) : Prop :=
  y.origin = x.origin ∧ y.tag = x.tag ∧ y.quorum = x.quorum ∧ (x.written = true → y.written = true) ∧
    List.Forall₂ markSkips x.marks y.marks

theorem marks_skip_self (l : List (SlotId × Mark)) : List.Forall₂ markSkips l l :=
  List.forall₂_same.2 fun _ _ => ⟨rfl, .inl rfl⟩

theorem marks_skip_map (l : List (SlotId × Mark)) (f : SlotId × Mark → SlotId × Mark) (h : ∀ e, markSkips e (f e)) :
    List.Forall₂ markSkips l (l.map f) := by
  induction l with
  | nil => exact .nil
  | cons e t ih => exact .cons (h e) ih

theorem marks_skip_trans {a b c : List (SlotId × Mark)} (h : List.Forall₂ markSkips a b) (k : List.Forall₂ markSkips b c) :
    List.Forall₂ markSkips a c := by
  induction h generalizing c with
  | nil => cases k; exact .nil
  | cons h _ ih => cases k with
    | cons k1 k2 => exact .cons (h.trans k1) (ih k2)

theorem Slot.Skips.refl (x : Slot) : x.Skips x := ⟨rfl, rfl, rfl, fun h => h, marks_skip_self _⟩

theorem Slot.Skips.trans {x y z : Slot} (h : x.Skips y) (k : y.Skips z) : x.Skips z := by
  obtain ⟨h1, h2, h3, h4, h5⟩ := h
  obtain ⟨k1, k2, k3, k4, k5⟩ := k
  exact ⟨k1.trans h1, k2.trans h2, k3.trans h3, fun h => k4 (h4 h), marks_skip_trans h5 k5⟩

/-- Fields other than those of the intent and its marks do not matter. -/
theorem Slot.Skips.of_marks {x y : Slot} (h1 : y.origin = x.origin) (h2 : y.tag = x.tag) (h3 : y.quorum = x.quorum)
    (h4 : x.written = true → y.written = true) (h5 : y.marks = x.marks) : x.Skips y :=
  ⟨h1, h2, h3, h4, h5 ▸ marks_skip_self _⟩

theorem Slot.SameButVerdict.skips {x y : Slot} (h : x.SameButVerdict y) : x.Skips y :=
  .of_marks (congrArg Slot.origin h :) (congrArg Slot.tag h :) (congrArg Slot.quorum h :)
    (fun w => ((congrArg Slot.written h :) : y.written = x.written).trans w) h.marks

/-- R31, R52: every PENDING mark becomes SKIPPED. -/
theorem Slot.skips_moveAll (x : Slot) (why : SkipReason) : x.Skips (x.moveAll (· == .pending) (.skipped why)) := by
  refine ⟨rfl, rfl, rfl, fun h => h, marks_skip_map _ _ fun e => ?_⟩
  by_cases h : e.2 = .pending
  · simp only [h, beq_self_eq_true, if_true]; exact ⟨rfl, .inr ⟨h, why, rfl⟩⟩
  · have : (e.2 == .pending) = false := by simpa using h
    simp only [this]; exact ⟨rfl, .inl rfl⟩

/-- R109, step 1. -/
theorem Slot.skips_applyOutcome (held : Bool) (x : Slot) : x.Skips (x.applyOutcome held) := by
  have h0 : x.Skips
      { x with written := true, holdOverflow := held && x.outcome != .held } :=
    .of_marks rfl rfl rfl (fun _ => rfl) rfl
  unfold Slot.applyOutcome
  split
  · exact h0
  · exact .of_marks rfl rfl rfl (fun _ => rfl) rfl
  · exact .of_marks rfl rfl rfl (fun _ => rfl) rfl
  · exact h0.trans (Slot.skips_moveAll _ _)
  · exact h0.trans (Slot.skips_moveAll _ _)

theorem Slot.applyOutcome_written (held : Bool) (x : Slot) : (x.applyOutcome held).written = true := by
  unfold Slot.applyOutcome
  split <;> rfl

/-- The mark of one site slot. -/
theorem Slot.Skips.mark {x y : Slot} (h : x.Skips y) (j : SlotId) (m : Mark) (hm : x.mark j = some m) :
    y.mark j = some m ∨ (m = .pending ∧ ∃ why, y.mark j = some (.skipped why)) := by
  obtain ⟨_, _, _, _, h⟩ := h
  unfold Slot.mark at *
  generalize x.marks = a at *
  generalize y.marks = b at *
  induction h with
  | nil => simp at hm
  | @cons a b l k hab _ ih =>
    obtain ⟨h1, h2⟩ := hab
    by_cases ha : a.1 = j
    · have hb : b.1 = j := h1.trans ha
      simp only [List.find?_cons, ha, beq_self_eq_true, Option.map_some, Option.some.injEq] at hm
      simp only [List.find?_cons, hb, beq_self_eq_true, Option.map_some, Option.some.injEq]
      subst hm
      exact h2
    · have ha' : (a.1 == j) = false := by simpa using ha
      have hb' : (b.1 == j) = false := by rw [h1]; exact ha'
      simp only [List.find?_cons, ha'] at hm
      simp only [List.find?_cons, hb']
      exact ih hm

theorem Slot.Skips.sites {x y : Slot} (h : x.Skips y) : y.marks.map (fun m => m.1) = x.marks.map (fun m => m.1) := by
  obtain ⟨_, _, _, _, h⟩ := h
  generalize x.marks = a at *
  generalize y.marks = b at *
  induction h with
  | nil => rfl
  | cons h _ ih => simp only [List.map_cons, ih, h.1]

/-! ## The slots of the part -/

/-- No slot is filled or freed, and each keeps its intent. -/
def Dev.Skips (d e : Dev) : Prop :=
  ∀ q, (d.slot? q = none → e.slot? q = none) ∧ ∀ x, d.slot? q = some x → ∃ y, e.slot? q = some y ∧ x.Skips y

theorem Dev.Skips.refl (d : Dev) : d.Skips d := fun _ => ⟨fun h => h, fun x h => ⟨x, h, .refl x⟩⟩

theorem Dev.Skips.trans {d e f : Dev} (h : d.Skips e) (k : e.Skips f) : d.Skips f := fun q => by
  refine ⟨fun hn => (k q).1 ((h q).1 hn), fun x hx => ?_⟩
  obtain ⟨y, hy, h1⟩ := (h q).2 x hx
  obtain ⟨z, hz, h2⟩ := (k q).2 y hy
  exact ⟨z, hz, h1.trans h2⟩

theorem Dev.Skips.of_slots {d e : Dev} (h : ∀ q, e.slot? q = d.slot? q) : d.Skips e := fun q =>
  ⟨fun hn => (h q).trans hn, fun x hx => ⟨x, (h q).trans hx, .refl x⟩⟩

theorem Dev.Skips.of_kept {s : Seq} {d e : Dev} (h : d.SlotsKept s e) : d.Skips e := fun q => by
  by_cases hq : q = s
  · subst hq
    refine ⟨h.2.1, fun x hx => ?_⟩
    obtain ⟨y, hy, k⟩ := h.2.2 x hx
    exact ⟨y, hy, k.skips⟩
  · exact ⟨fun hn => (h.1 q hq).trans hn, fun x hx => ⟨x, (h.1 q hq).trans hx, .refl x⟩⟩

theorem Dev.Skips.putSlot {s : Seq} {d : Dev} {x y : Slot} (hx : d.slot? s = some x) (h : x.Skips y) :
    d.Skips (d.putSlot s y) := fun q => by
  rw [Dev.putSlot_slot]
  by_cases hq : q = s
  · subst hq
    rw [if_pos rfl]
    refine ⟨fun hn => ?_, fun z hz => ⟨y, rfl, ?_⟩⟩
    · rw [hx] at hn; cases hn
    · rw [hx] at hz; cases hz; exact h
  · rw [if_neg hq]
    exact ⟨fun h => h, fun z hz => ⟨z, hz, .refl z⟩⟩

theorem Dev.Skips.setVerdict {s : Seq} {d : Dev} {x y : Slot} (v : Verdict) (hx : d.slot? s = some x) (h : x.Skips y) :
    d.Skips (d.setVerdict s y v) := fun q => by
  have hy : x.Skips { y with verdict := some v } := h.trans (.of_marks rfl rfl rfl (fun h => h) rfl)
  rw [Dev.setVerdict_slot]
  by_cases hq : q = s
  · subst hq
    rw [if_pos rfl]
    refine ⟨fun hn => ?_, fun z hz => ⟨_, rfl, ?_⟩⟩
    · rw [hx] at hn; cases hn
    · rw [hx] at hz; cases hz; exact hy
  · rw [if_neg hq]
    exact ⟨fun h => h, fun z hz => ⟨z, hz, .refl z⟩⟩

/-- What the replay may change. -/
def Dev.ReplayKept (d e : Dev) : Prop :=
  { e with ports := d.ports, partLost := d.partLost, status := d.status, index := d.index, sites := d.sites } = d

theorem Dev.ReplayKept.refl (d : Dev) : d.ReplayKept d := rfl

theorem Dev.ReplayKept.trans {d e f : Dev} (h : d.ReplayKept e) (k : e.ReplayKept f) : d.ReplayKept f := by
  unfold Dev.ReplayKept at *
  rw [← h, ← k]

theorem Dev.EvalKept.replay {d e : Dev} (h : d.EvalKept e) : d.ReplayKept e := by
  unfold Dev.EvalKept at h
  unfold Dev.ReplayKept
  rw [← h]

/-- A step of the replay, on slots that are filled. -/
def Dev.Replays (d e : Dev) : Prop := d.Skips e ∧ d.ReplayKept e

theorem Dev.Replays.refl (d : Dev) : d.Replays d := ⟨.refl d, .refl d⟩

theorem Dev.Replays.trans {d e f : Dev} (h : d.Replays e) (k : e.Replays f) : d.Replays f :=
  ⟨h.1.trans k.1, h.2.trans k.2⟩

theorem Dev.replays_evaluate (s : Seq) (was : Bool) (d : Dev) : d.Replays (d.evaluate s was) := by
  obtain ⟨h1, _, h2⟩ := Dev.evaluate_kept s was d
  exact ⟨.of_kept h2, h1.replay⟩

theorem Dev.replays_route (d : Dev) (p : PortId) (b : NoticeBody) : d.Replays (d.route p b) :=
  ⟨.of_kept (Dev.route_slots 0 d p b), (Dev.route_eval d p b).replay⟩

theorem Dev.replays_putSlot {s : Seq} {d : Dev} {x y : Slot} (hx : d.slot? s = some x) (h : x.Skips y) :
    d.Replays (d.putSlot s y) := ⟨.putSlot hx h, rfl⟩

theorem Dev.replays_setVerdict {s : Seq} {d : Dev} {x y : Slot} (v : Verdict) (hx : d.slot? s = some x) (h : x.Skips y) :
    d.Replays (d.setVerdict s y v) := ⟨.setVerdict v hx h, rfl⟩

theorem Dev.replays_offer (s : Seq) (d : Dev) : d.Replays (d.offer s) := by
  refine ⟨.of_slots fun q => Dev.offer_slot s q d, ?_⟩
  unfold Dev.offer
  split
  · exact .refl _
  · rename_i x _
    have key : ∀ (l : List (SlotId × Mark)) (e : Dev), e.ReplayKept (l.foldl (fun d m => d.lowerCursor m.1 s) e) := by
      intro l
      induction l with
      | nil => exact fun e => .refl e
      | cons m t ih => exact fun e => Dev.ReplayKept.trans (e := e.lowerCursor m.1 s) rfl (ih _)
    exact key _ _

/-- R33, R34: the marks and the verdict of a superseded intent. -/
theorem Dev.replays_markSuperseded (l n : Seq) (set : List SlotId) {x : Slot} {d : Dev} (hx : d.slot? l = some x) :
    d.Replays (d.markSuperseded l n set x) := by
  have hy : x.Skips { x with
      marks := x.marks.map fun e => if set.contains e.1 && e.2 == .pending then (e.1, .skipped .superseded) else e
      supersededBy := some n } := by
    refine ⟨rfl, rfl, rfl, fun h => h, marks_skip_map _ _ fun e => ?_⟩
    split
    · rename_i h
      simp only [Bool.and_eq_true, beq_iff_eq] at h
      exact ⟨rfl, .inr ⟨h.2, _, rfl⟩⟩
    · exact ⟨rfl, .inl rfl⟩
  unfold Dev.markSuperseded
  dsimp only
  split
  · exact (Dev.replays_setVerdict _ hx hy).trans (Dev.replays_route _ _ _)
  · exact Dev.replays_putSlot hx hy

/-- R33, R34. -/
theorem Dev.replays_supersede (l n : Seq) (set : List SlotId) (d : Dev) : d.Replays (d.supersede l n set) := by
  unfold Dev.supersede
  split
  · exact .refl _
  · rename_i x hx
    exact (Dev.replays_markSuperseded l n set hx).trans (Dev.replays_evaluate _ _ _)

theorem Dev.replays_updateSlot (s : Seq) (f : Slot → Slot) (d : Dev) (hf : ∀ x : Slot, x.Skips (f x)) :
    d.Replays (d.updateSlot s f) := by
  unfold Dev.updateSlot
  split
  · exact .refl _
  · rename_i x hx
    exact (Dev.replays_putSlot hx (hf x)).trans (Dev.replays_evaluate _ _ _)

/-- R52: a denial. -/
theorem Dev.replays_denyHeld (s : Seq) (d : Dev) : d.Replays (d.denyHeld s) :=
  Dev.replays_updateSlot s _ d fun x => (Slot.skips_moveAll x _).trans (.of_marks rfl rfl rfl (fun h => h) rfl)

/-- R36: a release. -/
theorem Dev.replays_releaseHeld (s : Seq) (stamp : Word64) (d : Dev) : d.Replays (d.releaseHeld s stamp).1 := by
  have hidx : ∀ (k : KeyIndex) (e : Dev), e.Replays { e with index := k } := fun k e => ⟨.of_slots fun _ => rfl, rfl⟩
  unfold Dev.releaseHeld
  split
  · exact .refl _
  · rename_i x hx
    have h0 : x.Skips { x with held := false } := .of_marks rfl rfl rfl (fun h => h) rfl
    have hput := Dev.replays_putSlot hx h0
    have plain : d.Replays (((d.putSlot s { x with held := false }).evaluate s false).offer s) :=
      (hput.trans (Dev.replays_evaluate _ _ _)).trans (Dev.replays_offer _ _)
    dsimp only
    split
    · exact plain
    · split
      · exact plain
      · rename_i w e _
        split
        · rename_i l lt _
          split
          · have hy : x.Skips { Slot.moveAll { x with held := false } (· == .pending) (.skipped .stale) with supersededBy := some l } :=
              (h0.trans (Slot.skips_moveAll _ _)).trans (.of_marks rfl rfl rfl (fun h => h) rfl)
            dsimp only
            split
            · exact ((Dev.replays_setVerdict _ hx hy).trans (Dev.replays_route _ _ _)).trans (Dev.replays_evaluate _ _ _)
            · exact (Dev.replays_putSlot hx hy).trans (Dev.replays_evaluate _ _ _)
          · have h1 := (hidx (d.index.put w { e with live := some (s, stamp) }) d).trans
              (Dev.replays_putSlot (d := { d with index := d.index.put w { e with live := some (s, stamp) } }) hx h0)
            exact ((h1.trans (Dev.replays_supersede _ _ _ _)).trans (Dev.replays_evaluate _ _ _)).trans (Dev.replays_offer _ _)
        · have h1 := (hidx (d.index.put w { e with live := some (s, stamp) }) d).trans
            (Dev.replays_putSlot (d := { d with index := d.index.put w { e with live := some (s, stamp) } }) hx h0)
          exact (h1.trans (Dev.replays_evaluate _ _ _)).trans (Dev.replays_offer _ _)

theorem Dev.replays_decision (s : Seq) (dn : Decision) (d : Dev) : d.Replays (d.replayDecision s dn) := by
  unfold Dev.replayDecision
  split
  · cases dn
    · exact Dev.replays_releaseHeld _ _ _
    · exact Dev.replays_denyHeld _ _
  · exact .refl _

/-- R109: the write of a filled slot, which is WRITTEN then. -/
theorem Dev.replays_writeSlot (r : IntentRec) (d : Dev) {x : Slot} (hx : d.slot? r.seq = some x) :
    d.Replays (d.writeSlot r) ∧ ∃ y, (d.writeSlot r).slot? r.seq = some y ∧ x.Skips y ∧ y.written = true := by
  have hy := Slot.skips_applyOutcome r.held x
  have hw := Slot.applyOutcome_written r.held x
  -- the first change, then steps that keep what it wrote
  have first : ∀ e : Dev, d.Replays e → (∃ y, e.slot? r.seq = some y ∧ x.Skips y ∧ y.written = true) → ∀ f : Dev, e.Replays f →
      d.Replays f ∧ ∃ y, f.slot? r.seq = some y ∧ x.Skips y ∧ y.written = true := by
    intro e h1 ⟨y, h2, h3, h4⟩ f h5
    obtain ⟨z, hz, h6⟩ := (h5.1 r.seq).2 y h2
    exact ⟨h1.trans h5, z, hz, h3.trans h6, h6.2.2.2.1 h4⟩
  -- step 2 and the evaluation
  have older : ∀ e : Dev, e.Replays
      (match x.pendingSup with
        | none => e
        | some l =>
          let d := e.supersede l r.seq (x.applyOutcome r.held).sites
          match d.slot? r.seq with
          | none => d
          | some z => d.putSlot r.seq { z with pendingSup := none }) := by
    intro e
    split
    · exact .refl _
    · rename_i l _
      refine Dev.Replays.trans (Dev.replays_supersede l r.seq (x.applyOutcome r.held).sites e) ?_
      dsimp only
      split
      · exact .refl _
      · rename_i z hz
        exact Dev.replays_putSlot hz (.of_marks rfl rfl rfl (fun h => h) rfl)
  have rest := fun e : Dev => (older e).trans (Dev.replays_evaluate r.seq false _)
  unfold Dev.writeSlot
  simp only [hx]
  by_cases ho : x.outcome = .stale
  · simp only [if_pos ho]
    refine first _ (Dev.replays_setVerdict .superseded hx hy)
      ⟨{ x.applyOutcome r.held with verdict := some .superseded }, ?_, ?_, hw⟩ _ (rest _)
    · rw [Dev.setVerdict_slot, if_pos rfl]
    · exact hy.trans (.of_marks rfl rfl rfl (fun h => h) rfl)
  · simp only [if_neg ho]
    refine first _ (Dev.replays_putSlot hx hy) ⟨x.applyOutcome r.held, ?_, hy, hw⟩ _ (rest _)
    rw [Dev.putSlot_slot, if_pos rfl]

/-- R195: an intent of the scan: its slot is filled with the rebuilt marks, of which the replay can make a PENDING one SKIPPED;
the other slots keep their intents. -/
theorem Dev.replayIntent_slots (marks : List (SlotId × Mark)) (r : IntentRec) (d : Dev) :
    (∀ q, q ≠ r.seq → (d.slot? q = none → (d.replayIntent marks r).slot? q = none) ∧
      ∀ x, d.slot? q = some x → ∃ y, (d.replayIntent marks r).slot? q = some y ∧ x.Skips y) ∧
    (∃ y, (d.replayIntent marks r).slot? r.seq = some y ∧ y.written = true ∧ y.origin = r.origin ∧ y.tag = r.tag ∧
      y.quorum = r.quorum ∧ List.Forall₂ markSkips marks y.marks) ∧
    d.ReplayKept (d.replayIntent marks r) := by
  unfold Dev.replayIntent
  dsimp only
  generalize (if !r.held && !marks.any fun e => e.2.isOpen then (d.index, ({ outcome := .live } : Decided))
    else if r.held then d.index.countHeld r.seq r.bucket r.keyHash r.key.length (d.replayCheck r)
    else d.index.decide r.seq r.bucket r.keyHash r.key.length r.stamp (d.replayCheck r)) = c
  obtain ⟨k, dec⟩ := c
  dsimp only
  generalize he : Dev.putSlot r.seq { stagedSlot r dec with marks := marks } { d with index := k } = e
  have hslot : e.slot? r.seq = some { stagedSlot r dec with marks := marks } := by
    rw [← he, Dev.putSlot_slot, if_pos rfl]
  have hother : ∀ q, q ≠ r.seq → e.slot? q = d.slot? q := by
    intro q hq; rw [← he, Dev.putSlot_slot, if_neg hq]; rfl
  obtain ⟨⟨h1, h2⟩, y, hy, h3, h4⟩ := Dev.replays_writeSlot r e hslot
  refine ⟨fun q hq => ⟨fun hn => (h1 q).1 ((hother q hq).trans hn), fun x hx => (h1 q).2 x ((hother q hq).trans hx)⟩,
    ⟨y, hy, h4, h3.1, h3.2.1, h3.2.2.1, h3.2.2.2.2⟩, ?_⟩
  refine Dev.ReplayKept.trans (e := e) ?_ h2
  rw [← he]; rfl

/-! ## The whole replay -/

theorem Dev.replay_kept (slots : SlotId → Rebuilt) (scan : Seq) (e : (Nat × Nat) × Rec) (d : Dev) :
    d.ReplayKept (d.replay slots scan e) := by
  unfold Dev.replay
  split
  · split
    · exact (Dev.replayIntent_slots _ _ _).2.2
    · exact .refl _
  · exact (Dev.replays_decision _ _ _).2
  · exact .refl _

/-- A record of another intent keeps a filled slot, and fills none below the scan start. -/
theorem Dev.replay_other (slots : SlotId → Rebuilt) (scan : Seq) (e : (Nat × Nat) × Rec) (d : Dev) (q : Seq)
    (hq : e.2.intentSeq ≠ some q ∨ q < scan) :
    (d.slot? q = none → (d.replay slots scan e).slot? q = none) ∧
      ∀ x, d.slot? q = some x → ∃ y, (d.replay slots scan e).slot? q = some y ∧ x.Skips y := by
  unfold Dev.replay
  split
  · rename_i r hr
    split
    · rename_i hs
      refine (Dev.replayIntent_slots _ _ _).1 q fun h => ?_
      subst h
      rcases hq with hq | hq
      · exact hq (by rw [hr]; rfl)
      · exact absurd hs (Nat.not_le.2 hq)
    · exact Dev.Skips.refl d q
  · exact (Dev.replays_decision _ _ _).1 q
  · exact Dev.Skips.refl d q

theorem Dev.replayAll_kept (slots : SlotId → Rebuilt) (scan : Seq) (l : List ((Nat × Nat) × Rec)) (d : Dev) :
    d.ReplayKept (l.foldl (fun d e => d.replay slots scan e) d) := by
  induction l generalizing d with
  | nil => exact .refl d
  | cons e t ih => exact (Dev.replay_kept slots scan e d).trans (ih _)

theorem Dev.replayAll_other (slots : SlotId → Rebuilt) (scan : Seq) (q : Seq) (l : List ((Nat × Nat) × Rec))
    (h : ∀ e ∈ l, e.2.intentSeq ≠ some q ∨ q < scan) (d : Dev) :
    (d.slot? q = none → (l.foldl (fun d e => d.replay slots scan e) d).slot? q = none) ∧
      ∀ x, d.slot? q = some x → ∃ y, (l.foldl (fun d e => d.replay slots scan e) d).slot? q = some y ∧ x.Skips y := by
  induction l generalizing d with
  | nil => exact Dev.Skips.refl d q
  | cons e t ih =>
    have h1 := Dev.replay_other slots scan e d q (h e List.mem_cons_self)
    have h2 := ih (fun a ha => h a (List.mem_cons_of_mem _ ha)) (d.replay slots scan e)
    refine ⟨fun hn => h2.1 (h1.1 hn), fun x hx => ?_⟩
    obtain ⟨y, hy, k1⟩ := h1.2 x hx
    obtain ⟨z, hz, k2⟩ := h2.2 y hy
    exact ⟨z, hz, k1.trans k2⟩

/-- R195: no intent below the scan start has a slot. -/
theorem Dev.replayAll_below (slots : SlotId → Rebuilt) (scan q : Seq) (hq : q < scan) (l : List ((Nat × Nat) × Rec)) (d : Dev)
    (hn : d.slot? q = none) : (l.foldl (fun d e => d.replay slots scan e) d).slot? q = none :=
  (Dev.replayAll_other slots scan q l (fun _ _ => .inr hq) d).1 hn

/-- R195: the slot of an intent at or above the scan start, by the last record of its sequence. -/
theorem Dev.replayAll_slot (slots : SlotId → Rebuilt) (scan : Seq) (at_ : Nat × Nat) (r : IntentRec)
    (before after : List ((Nat × Nat) × Rec)) (hlast : ∀ e ∈ after, e.2.intentSeq ≠ some r.seq) (hs : scan ≤ r.seq) (d : Dev) :
    ∃ y, ((before ++ (at_, Rec.intent r) :: after).foldl (fun d e => d.replay slots scan e) d).slot? r.seq = some y ∧
      y.written = true ∧ y.origin = r.origin ∧ y.tag = r.tag ∧ y.quorum = r.quorum ∧
      List.Forall₂ markSkips ((slotsOf r.siteSet).map fun j => (j, (slots j).markOf at_ r.seq)) y.marks := by
  rw [List.foldl_append, List.foldl_cons]
  generalize before.foldl (fun d e => d.replay slots scan e) d = e
  obtain ⟨_, ⟨x, hx, h1, h2, h3, h4, h5⟩, _⟩ :=
    Dev.replayIntent_slots ((slotsOf r.siteSet).map fun j => (j, (slots j).markOf at_ r.seq)) r e
  have hstep : e.replay slots scan (at_, .intent r) =
      e.replayIntent ((slotsOf r.siteSet).map fun j => (j, (slots j).markOf at_ r.seq)) r := by
    simp [Dev.replay, hs]
  rw [hstep]
  obtain ⟨y, hy, k⟩ := (Dev.replayAll_other slots scan r.seq after (fun a ha => .inl (hlast a ha)) _).2 x hx
  exact ⟨y, hy, k.2.2.2.1 h1, k.1.trans h2, k.2.1.trans h3, k.2.2.1.trans h4, marks_skip_trans h5 k.2.2.2.2⟩

/-! ## The rebuilt slots (R194) -/

/-- The state that a SITE-EVENT record of the slot gives; a REWIND gives none. -/
def Rec.movesTo (j : SlotId) (r : Rec) : Option SiteState :=
  match r.siteEvent? j with
  | some (.state st, _) => some st
  | _ => none

/-- Whether a record counts after the one from which a slot is rebuilt. -/
def countsAfter (from_ : Option (Nat × Nat)) (at_ : Nat × Nat) : Bool :=
  match from_ with
  | some f => later f at_
  | none => true

theorem Rebuilt.apply_state (l : List ((Nat × Nat) × Rec)) (next : Seq) (at_ : Nat × Nat) (st : SiteState) (q : Seq) (x : Rebuilt) :
    (x.apply l next at_ (.state st) q).state = st := by
  cases st with
  | probing => simp only [Rebuilt.apply]; split <;> rfl
  | _ => rfl

theorem Rebuilt.applyAll_eq (l : List ((Nat × Nat) × Rec)) (next : Seq) (from_ : Option (Nat × Nat)) (j : SlotId) (x : Rebuilt) :
    x.applyAll l next from_ j =
      l.foldl (fun x e => match e.2.siteEvent? j with
        | some (st, q) => if countsAfter from_ e.1 then x.apply l next e.1 st q else x
        | none => x) x := rfl

/-- R194: the state of a rebuilt slot is that of the newest SITE-EVENT record that counts, else the one it starts from. -/
theorem Rebuilt.applyAll_state (l : List ((Nat × Nat) × Rec)) (next : Seq) (from_ : Option (Nat × Nat)) (j : SlotId) (x : Rebuilt) :
    (x.applyAll l next from_ j).state =
      ((l.filterMap fun e => if countsAfter from_ e.1 then e.2.movesTo j else none).getLast?).getD x.state := by
  rw [Rebuilt.applyAll_eq]
  have key : ∀ (m : List ((Nat × Nat) × Rec)) (x : Rebuilt),
      (m.foldl (fun x e => match e.2.siteEvent? j with
        | some (st, q) => if countsAfter from_ e.1 then x.apply l next e.1 st q else x
        | none => x) x).state =
      ((m.filterMap fun e => if countsAfter from_ e.1 then e.2.movesTo j else none).getLast?).getD x.state := by
    intro m
    induction m with
    | nil => exact fun _ => rfl
    | cons e t ih =>
      intro x
      rw [List.foldl_cons, ih, List.filterMap_cons]
      unfold Rec.movesTo
      cases e.2.siteEvent? j with
      | none => simp
      | some p =>
        obtain ⟨st, q⟩ := p
        cases hc : countsAfter from_ e.1 with
        | false => simp
        | true => cases st with
          | rewind => simp [Rebuilt.apply]
          | state s => simp [Rebuilt.apply_state, List.getLast?_cons]
  exact key l x

/-- R194: a slot that no SITE-EVENT record counts for stays as it starts. -/
theorem Rebuilt.applyAll_none (l : List ((Nat × Nat) × Rec)) (next : Seq) (from_ : Option (Nat × Nat)) (j : SlotId) (x : Rebuilt)
    (h : ∀ e ∈ l, countsAfter from_ e.1 = true → e.2.siteEvent? j = none) : x.applyAll l next from_ j = x := by
  rw [Rebuilt.applyAll_eq]
  have key : ∀ (m : List ((Nat × Nat) × Rec)), (∀ e ∈ m, countsAfter from_ e.1 = true → e.2.siteEvent? j = none) →
      m.foldl (fun x e => match e.2.siteEvent? j with
        | some (st, q) => if countsAfter from_ e.1 then x.apply l next e.1 st q else x
        | none => x) x = x := by
    intro m
    induction m with
    | nil => exact fun _ => rfl
    | cons e t ih =>
      intro hm
      have h1 := hm e List.mem_cons_self
      have h2 := ih fun a ha => hm a (List.mem_cons_of_mem _ ha)
      rw [List.foldl_cons]
      cases hc : countsAfter from_ e.1 with
      | true => rw [h1 hc]; exact h2
      | false => cases e.2.siteEvent? j with
        | none => exact h2
        | some p => simpa using h2
  exact key l h

/-- R194: a SITE-EVENT record that counts adds to the changes that closed a slot's marks, and takes none away. -/
theorem Rebuilt.applyAll_closings (l : List ((Nat × Nat) × Rec)) (next : Seq) (from_ : Option (Nat × Nat)) (j : SlotId)
    (x : Rebuilt) : x.closings <+: (x.applyAll l next from_ j).closings := by
  rw [Rebuilt.applyAll_eq]
  have step : ∀ (at_ : Nat × Nat) (st : EventState) (q : Seq) (y : Rebuilt), y.closings <+: (y.apply l next at_ st q).closings := by
    intro at_ st q y
    cases st with
    | rewind => exact List.prefix_refl _
    | state s =>
      cases s with
      | probing => simp only [Rebuilt.apply]; split <;> exact List.prefix_refl _
      | detached => exact List.prefix_append _ _
      | evicted => exact List.prefix_append _ _
      | _ => exact List.prefix_refl _
  have key : ∀ (m : List ((Nat × Nat) × Rec)) (y : Rebuilt),
      y.closings <+: (m.foldl (fun x e => match e.2.siteEvent? j with
        | some (st, q) => if countsAfter from_ e.1 then x.apply l next e.1 st q else x
        | none => x) y).closings := by
    intro m
    induction m with
    | nil => exact fun y => List.prefix_refl _
    | cons e t ih =>
      intro y
      rw [List.foldl_cons]
      refine List.IsPrefix.trans ?_ (ih _)
      split
      · split
        · exact step _ _ _ _
        · exact List.prefix_refl _
      · exact List.prefix_refl _
  exact key l x

/-- The first change after a place, of those before the FRONTIER record. -/
theorem closedBefore_first {j : SlotId} {from_ at_ : Nat × Nat} {e : (Nat × Nat) × Rec} {why : SkipReason}
    {before after : List ((Nat × Nat) × Rec)} (ha : later at_ e.1 = true) (hf : later e.1 from_ = true)
    (hc : e.2.closes? j = some why) (hb : ∀ x ∈ before, later at_ x.1 = true → x.2.closes? j = none) :
    (closedBefore (before ++ e :: after) from_ j).find? (fun c => later at_ c.1) = some (e.1, why, none) := by
  induction before with
  | nil => simp [closedBefore, hf, hc, ha]
  | cons x t ih =>
    have ih := ih fun y hy => hb y (List.mem_cons_of_mem _ hy)
    have hx := hb x List.mem_cons_self
    simp only [closedBefore, List.cons_append, List.filterMap_cons] at ih ⊢
    split
    · exact ih
    · rename_i c hcx
      rw [List.find?_cons]
      have : later at_ c.1 = false := by
        by_contra h
        simp only [Bool.not_eq_false] at h
        split at hcx
        · cases hxc : x.2.closes? j with
          | none => rw [hxc] at hcx; cases hcx
          | some r =>
            rw [hxc] at hcx
            obtain rfl : (x.1, r, none) = c := Option.some.inj hcx
            rw [hx h] at hxc
            cases hxc
        · cases hcx
      rw [this]
      exact ih

theorem closedBefore_none {j : SlotId} {at_ : Nat × Nat} (from_ : Nat × Nat) {l : List ((Nat × Nat) × Rec)}
    (h : ∀ x ∈ l, later at_ x.1 = true → x.2.closes? j = none) :
    (closedBefore l from_ j).find? (fun c => later at_ c.1) = none := by
  rw [List.find?_eq_none]
  intro c hc
  obtain ⟨x, hx, hxc⟩ := List.mem_filterMap.1 hc
  intro ha
  split at hxc
  · cases hr : x.2.closes? j with
    | none => rw [hr] at hxc; cases hxc
    | some r =>
      rw [hr] at hxc
      obtain rfl : (x.1, r, none) = c := Option.some.inj hxc
      rw [h x hx ha] at hr
      cases hr
  · cases hxc

/-- R195: the first change that closed the slot's marks after an intent, when it stands before the newest FRONTIER record,
gives SKIPPED. -/
theorem Dev.rebuilt_closedBefore (d : Dev) (j : SlotId) (s : Seq) {at_ : Nat × Nat} {e : (Nat × Nat) × Rec} {why : SkipReason}
    {v : (Nat × Nat) × Vector (SiteState × Option Seq) 8} {before after : List ((Nat × Nat) × Rec)}
    (hn : lastMatch Rec.frontier? (before ++ e :: after) = some v) (ha : later at_ e.1 = true) (hf : later e.1 v.1 = true)
    (hc : e.2.closes? j = some why) (hb : ∀ x ∈ before, later at_ x.1 = true → x.2.closes? j = none) :
    (d.rebuilt (before ++ e :: after) j).markOf at_ s = .skipped why := by
  unfold Dev.rebuilt
  rw [hn]
  obtain ⟨more, hm⟩ := Rebuilt.applyAll_closings (before ++ e :: after) d.journal.nextSeq (some v.1) j
    { rebuildFrom (d.config j) v.2[j] with closings := closedBefore (before ++ e :: after) v.1 j }
  dsimp only at hm ⊢
  unfold Rebuilt.markOf
  rw [← hm, List.find?_append, closedBefore_first ha hf hc hb]
  rfl

end Sys2Proof.Machine
end

