-- ==== Sys2Proof/Machine/Records.lean ====
section
/-!
DEFINITION. The command, response and notice records that controllers see (11.2, R198, R199), in bytes.

A record is a header and a list of fields; `putField` alone decides where a field stands. The fields of a body stand in the
order in which its rule lists them. Where R199 leaves a coding open, log 61 says what is taken here.
-/

namespace Sys2Proof.Machine

/-! ## Fields -/

/-- A field: the size to which it is aligned, and its bytes. -/
structure Field where
  align : Nat
  bytes : List Byte

/-- A number of w bytes. -/
def num (w n : Nat) : Field := ⟨w, leBytes w n⟩

/-- A number of w bytes that may be below 0, in two's complement (log 61). -/
def int (w : Nat) (n : Int) : Field := num w (n % (256 ^ w : Nat)).toNat

/-- R198: an absent field is coded as zero. -/
def opt (w : Nat) (n : Option Nat) : Field := num w (n.getD 0)

/-- A setting that is on or off: 1 on, 2 off (log 7). -/
def onOff (b : Bool) : Field := num 1 (if b then 1 else 2)

/-- R199: a set of flags, the first flag in bit 0. -/
def flagSet (l : List Bool) : Field := num 1 (l.foldr (fun b n => 2 * n + b.toNat) 0)

/-- R199: a set of slots. -/
def slotSet (s : SlotSet) : Field := ⟨1, [s]⟩

/-- R199: a key takes the room of its largest size. It is aligned to 1 byte (log 84). -/
def keyField (k : List Byte) : Field := ⟨1, padTo 240 k⟩

/-- R199: each field is aligned to its own size. -/
def putField (out : List Byte) (f : Field) : List Byte :=
  out ++ zeros ((f.align - out.length % f.align) % f.align) ++ f.bytes

/-- A record of n bytes: a header, fields and fill. -/
def recordBytes (n : Nat) (header : List Byte) (fs : List Field) : List Byte := padTo n (fs.foldl putField header)

/-- R199: a list takes the room of its largest size, n items; the places of items that it does not have are zero. -/
def listFields {α : Type} (n : Nat) (none : List Field) (item : α → List Field) (l : List α) : List Field :=
  (l.flatMap item) ++ (List.replicate (n - l.length) none).flatten

/-! ## Codes: positions in the tables that list the values (R198) -/

/-- R199: the position of a status in the table of statuses. -/
def statusCode : Status → Nat
  | .starting => 1
  | .fenced => 2
  | .notAttached => 3
  | .done => 4
  | .accepted => 5
  | .stale => 6
  | .held => 7
  | .notPlaced => 8
  | .journalFull => 9
  | .badStamp => 10
  | .badField => 11
  | .notFound => 12
  | .wrongState => 13
  | .guardLine => 14

/-- R2. -/
def segStateCode : SegState → Nat
  | .blank => 1
  | .filling => 2
  | .full => 3
  | .reclaiming => 4
  | .suspended => 5
  | .damaged => 6
  | .retired => 7

/-- R12. -/
def bufStateCode : BufState → Nat
  | .empty => 1
  | .filling => 2
  | .programming => 3

/-- R52, R58. -/
def releaseCode : ReleaseOutcome → Nat
  | .live => 1
  | .unindexed => 2
  | .stale => 3

/-- R60. -/
def paceModeCode : PaceMode → Nat
  | .paced => 1
  | .unpaced => 2

/-- R111. -/
def markCode : Mark → Nat
  | .pending => 1
  | .inFlight => 2
  | .acked => 3
  | .skipped _ => 4
  | .failed => 5

/-- R111. -/
def skipCode : SkipReason → Nat
  | .superseded => 1
  | .stale => 2
  | .evicted => 3
  | .detached => 4
  | .denied => 5

def markReason : Mark → Nat
  | .skipped r => skipCode r
  | _ => 0

/-- R107: LIVE, UNINDEXED, STALE, HELD, OVERFLOW-DENIED. -/
def stagedOutcomeCode : StagedOutcome → Nat
  | .live => 1
  | .unindexed => 2
  | .stale => 3
  | .held => 4
  | .overflowDenied => 5

/-- R32. -/
def unindexedCode : Unindexed → Nat
  | .setFull => 1
  | .countFull => 2
  | .collision => 3
  | .unreadable => 4
  | .race => 5

/-- R107. -/
def verdictCode : Verdict → Nat
  | .durable => 1
  | .superseded => 2
  | .shortfall => 3

/-- R124. -/
def arrivalStateCode : ArrivalState → Nat
  | .assembling => 1
  | .waitingLanding => 2
  | .delivering => 3
  | .delivered => 4

/-- R156, in the order of the table. -/
def levelCode : PressureLevel → Nat
  | .critical => 1
  | .low => 2
  | .normal => 3

/-- R158: GUARD, HELD, NOT_EVICTABLE. -/
def blockCauseCode : BlockCause → Nat
  | .guard => 1
  | .held => 2
  | .notEvictable => 3

/-- R163: eligible, then what holds a segment back, in the order of the rule. -/
def heldBackCode : HeldBack → Nat
  | .eligible => 1
  | .guard => 2
  | .held => 3
  | .unresolved => 4
  | .control => 5

/-- R146. -/
def engineCode : Engine → Nat
  | .idle => 1
  | .waiting _ => 2
  | .erasing _ => 3

/-- R164. -/
def portStateCode : PortState → Nat
  | .offline => 1
  | .online => 2
  | .fenced => 3
  | .lost => 4

/-- R165. -/
def portCauseCode : PortCause → Nat
  | .command => 1
  | .fence => 2
  | .fetchTimeout => 3
  | .functionReset => 4

/-- R79. -/
def siteCauseCode : SiteCause → Nat
  | .command => 1
  | .probeAnswered => 2
  | .retriesExhausted => 3
  | .eviction => 4
  | .peerRestart => 5

/-- R184. -/
def partStateCode : PartState → Nat
  | .starting => 1
  | .ready => 2
  | .quiescing => 3

/-- R184. -/
def startKindCode : StartKind → Nat
  | .first => 1
  | .warm => 2
  | .cold => 3

/-! ## Command records -/

/-- R42, the six fields. -/
def placementFields (enabled : Bool) (bucket mask : Word32) (allSites : Bool) (slots : SlotSet) (quorum : Nat)
    (hold : Bool) : List Field :=
  [onOff enabled, num 4 bucket.toNat, num 4 mask.toNat, slotSet slots, onOff allSites, num 1 quorum, onOff hold]

/-- The code of ALL in a field of w bytes: its largest value (log 61). -/
def orAll (w : Nat) (n : Option Nat) : Field := num w (n.getD (256 ^ w - 1))

/-- The fields of a command body, in the order in which the command's description lists them (the APPEND body as 11.2). The
guard map is one 8-byte bit map, with bit g for group g (log 61); the entry number and the bucket ID of READ PLACEMENT have a
place each (log 84). -/
def commandFields : CmdBody → List Field
  | .append b =>
    [num 1 b.kind, num 1 b.keyLen, num 4 b.tag.toNat, num 4 b.bucket.toNat, num 4 b.payloadLen, num 8 b.keyHash.toNat,
      num 8 b.stamp.toNat, num 8 b.locator, num 4 b.digest.toNat, num 4 0, keyField b.key]
  | .flush n => [num 2 n]
  | .readJournal s a => [num 8 s, num 4 a]
  | .queryKey q => [num 4 q.bucket.toNat, num 8 q.keyHash.toNat, num 1 q.keyLen, keyField q.key]
  | .setPlacement b => num 1 b.entry :: placementFields b.enabled b.bucket b.mask b.allSites b.slots b.quorum b.hold
  | .readPlacement b => [num 1 b.selector, num 1 b.entry, num 4 b.bucket.toNat]
  | .setPlacementMode b =>
    [onOff b.strict, onOff b.mirrorAll, num 1 b.defaultQuorum, num 2 b.holdLimit, num 1 b.expiryAction]
  | .release s | .deny s | .queryIntent s => [num 8 s]
  | .attachSite b =>
    [num 1 b.slot, num 1 b.site, num 1 b.spanPort, num 1 b.generator, num 2 b.share, num 1 b.mode, onOff b.lend,
      num 4 b.maxWindow, onOff b.evictable]
  | .detachSite n | .fenceSite n | .unfenceSite n | .rejoinSite n => [num 1 n]
  | .rewindSite n q => [num 1 n, num 8 q]
  | .readSite n => [orAll 1 n]
  | .setGenerator b => [num 1 b.generator, num 1 b.enable, num 2 b.rate, num 2 b.period]
  | .setSitePacing b =>
    [num 1 b.slot, num 1 b.generator, num 2 b.share, num 1 b.mode, num 1 b.lend, num 4 b.maxWindow]
  | .postLanding i a c => [num 2 i, num 4 a, num 4 c]
  | .stored i o => [num 4 i, num 1 o]
  | .readInbound i => [num 4 i]
  | .setGuardMap m => [num 8 m.toNat]
  | .setPressureLimits l c => [num 2 l, num 2 c]
  | .readSegments n => [orAll 2 n]
  | .fencePort n | .unfencePort n | .setLocalSite n => [num 1 n]
  | .clearFaults k => [num 1 k.toNat]
  | .setNoticeMask l => l.map (num 1)
  | .guardOn | .guardOff | .attachPort | .detachPort | .readStatus | .unknown _ => []

/-- A command record, 320 bytes. -/
def commandBytes (r : CmdRec) : List Byte :=
  recordBytes 320 (leBytes 2 (kindCode r.body) ++ zeros 2 ++ leBytes 4 r.cid.toNat ++ zeros 8) (commandFields r.body)

/-- A setting for which no rule names a bad value is on for the code 1 (log 7, log 61). -/
def isOn (n : Nat) : Bool := n == 1

/-- A field that holds a number or ALL. -/
def numOrAll (w n : Nat) : Option Nat := if n + 1 = 256 ^ w then none else some n

/-- The body of a command record, by its kind code. The key is the bytes that the key length names. -/
def commandBody (code : Nat) (l : List Byte) : CmdBody :=
  let f (w off : Nat) : Nat := fieldAt off w l
  match code with
  | 1 =>
    .append
      { kind := f 1 16, keyLen := f 1 17, tag := BitVec.ofNat 32 (f 4 20), bucket := BitVec.ofNat 32 (f 4 24)
        payloadLen := f 4 28, keyHash := BitVec.ofNat 64 (f 8 32), stamp := BitVec.ofNat 64 (f 8 40), locator := f 8 48
        digest := BitVec.ofNat 32 (f 4 56), key := slice 64 (min (f 1 17) 240) l }
  | 2 => .flush (f 2 16)
  | 3 => .readJournal (f 8 16) (f 4 24)
  | 4 => .queryKey ⟨BitVec.ofNat 32 (f 4 16), BitVec.ofNat 64 (f 8 24), f 1 32, slice 33 (min (f 1 32) 240) l⟩
  | 5 =>
    .setPlacement ⟨f 1 16, isOn (f 1 17), BitVec.ofNat 32 (f 4 20), BitVec.ofNat 32 (f 4 24), isOn (f 1 29),
      BitVec.ofNat 8 (f 1 28), f 1 30, isOn (f 1 31)⟩
  | 6 => .readPlacement ⟨f 1 16, f 1 17, BitVec.ofNat 32 (f 4 20)⟩
  | 7 => .setPlacementMode ⟨isOn (f 1 16), isOn (f 1 17), f 1 18, f 2 20, f 1 22⟩
  | 8 => .release (f 8 16)
  | 9 => .deny (f 8 16)
  | 10 =>
    .attachSite ⟨f 1 16, f 1 17, f 1 18, f 1 19, f 2 20, f 1 22, isOn (f 1 23), f 4 24, isOn (f 1 28)⟩
  | 11 => .detachSite (f 1 16)
  | 12 => .fenceSite (f 1 16)
  | 13 => .unfenceSite (f 1 16)
  | 14 => .rejoinSite (f 1 16)
  | 15 => .rewindSite (f 1 16) (f 8 24)
  | 16 => .readSite (numOrAll 1 (f 1 16))
  | 17 => .setGenerator ⟨f 1 16, f 1 17, f 2 18, f 2 20⟩
  | 18 => .setSitePacing ⟨f 1 16, f 1 17, f 2 18, f 1 20, f 1 21, f 4 24⟩
  | 19 => .queryIntent (f 8 16)
  | 20 => .postLanding (f 2 16) (f 4 20) (f 4 24)
  | 21 => .stored (f 4 16) (f 1 20)
  | 22 => .readInbound (f 4 16)
  | 23 => .guardOn
  | 24 => .guardOff
  | 25 => .setGuardMap (BitVec.ofNat 64 (f 8 16))
  | 26 => .setPressureLimits (f 2 16) (f 2 18)
  | 27 => .readSegments (numOrAll 2 (f 2 16))
  | 28 => .attachPort
  | 29 => .detachPort
  | 30 => .fencePort (f 1 16)
  | 31 => .unfencePort (f 1 16)
  | 32 => .readStatus
  | 33 => .clearFaults (BitVec.ofNat 8 (f 1 16))
  | 34 => .setNoticeMask ((List.range 7).map fun k => f 1 (16 + k))
  | 35 => .setLocalSite (f 1 16)
  | c => .unknown c

/-- The command that a command record holds. -/
def commandOfBytes (l : List Byte) : CmdRec := ⟨BitVec.ofNat 32 (fieldAt 4 4 l), commandBody (fieldAt 0 2 l) l⟩

/-! ## Response records -/

/-- R198: "mirror" is FFh; "none" is absent. -/
def decidingField : Option (Option Nat) → Field
  | none => num 1 0
  | some none => num 1 255
  | some (some n) => num 1 n

def modeFields (m : PlacementMode) : List Field :=
  [onOff m.strict, onOff m.mirrorAll, num 1 m.defaultQuorum, num 2 m.holdLimit, num 1 (decisionCode m.expiryAction)]

def FaultScope.member : FaultScope → Nat
  | .part => 0
  | .port p => p.val
  | .slot j _ => j.val

/-- The site number of slot j in a list of latches. -/
def faultSite (l : List (FaultKind × FaultScope)) (j : SlotId) : Option Nat :=
  l.findSome? fun e =>
    match e.2 with
    | .slot k s => if k = j then s else none
    | _ => none

/-- Latched faults: for each kind of R176 the set of its scopes (the part is bit 0), then each slot's site number (log 61). -/
def faultFields (l : List (FaultKind × FaultScope)) : List Field :=
  (faultKinds.map fun k => flagSet ((List.range 8).map fun n => l.any fun e => e.1 == k && e.2.member == n))
    ++ allSlots.map fun j => opt 1 (faultSite l j)

/-- R60: the configuration of a slot. -/
def configFields (c : SiteConfig) : List Field :=
  [opt 1 c.site, num 1 (c.spanPort.val + 1), num 1 c.generator.val, num 2 c.share, num 1 (paceModeCode c.mode),
    onOff c.lend, num 4 c.maxWindow, onOff c.evictable]

/-- R22. The seven segment counts have one size, that of the largest (log 61). -/
def JournalSummary.fields (s : JournalSummary) : List Field :=
  [int 8 s.tail, num 8 s.next, num 8 s.lowest, opt 2 (s.filling.map (·.1)), opt 1 (s.filling.map (·.2))]
    ++ s.segCounts.map (num 2)
    ++ [num 1 (bufStateCode s.bufA.1), num 2 s.bufA.2, num 1 (bufStateCode s.bufB.1), num 2 s.bufB.2, num 2 s.ctrl,
      num 2 s.progFails, flagSet [s.media]]

/-- R88, one slot. -/
def SiteReport.fields (r : SiteReport) : List Field :=
  configFields r.config
    ++ [num 1 (siteStateCode r.state), num 8 r.cursor, opt 8 r.frontier, num 1 r.candidates, num 2 r.inFlight,
      num 4 r.inFlightBytes, num 4 r.window, int 4 r.credit, int 4 ((r.rtt.map (·.1)).getD 0),
      int 4 ((r.rtt.map (·.2.1)).getD 0), int 4 ((r.rtt.map (·.2.2)).getD 0), num 2 r.busyCount, opt 8 r.busyEnd,
      num 2 r.probeCount, opt 8 r.peerStart, flagSet [r.stall, r.overrun, r.digest, r.protocol], num 8 r.duplicates,
      num 8 r.stale, num 8 r.framesSent, num 8 r.bytesSent, opt 8 (r.oldest.map (·.1)), opt 1 (r.oldest.map (·.2.1)),
      opt 8 (r.oldest.bind (·.2.2))]

/-- R88, ALL, one slot. -/
def SiteLine.fields (x : SiteLine) : List Field :=
  [opt 1 x.site, num 1 (siteStateCode x.state), opt 8 x.frontier, flagSet [x.stall, x.overrun, x.digest, x.protocol]]

/-- R104. -/
def GenReport.fields (r : GenReport) : List Field :=
  [onOff r.settings.enable, num 2 r.settings.rate, num 2 r.settings.period, num 4 r.grant, num 1 r.members, num 2 r.w,
    num 2 r.d, int 4 r.lastPool, int 4 r.lastDiscarded]

/-- The frontier of slot j in a list of frontiers. -/
def frontierIn (l : List (SlotId × Seq)) (j : SlotId) : Option Seq := (l.find? fun e => e.1 = j).map (·.2)

/-- R122. The frontiers have eight places, by slot number; that of a DETACHED slot is zero (log 92). -/
def StatusSummary.fields (s : StatusSummary) : List Field :=
  [num 8 s.lowest, int 8 s.tail, num 8 s.next, num 4 s.staged, num 4 s.written, num 4 s.unresolved, num 4 s.unresolvedHeld,
    num 4 s.unresolvedBlocked]
    ++ (allSlots.map fun j => opt 8 (frontierIn s.frontiers j))
    ++ [num 8 s.verdicts.1, num 8 s.verdicts.2.1, num 8 s.verdicts.2.2, num 4 s.resolutions, flagSet [s.frontierChanged],
      opt 8 s.sinceFrontier]

/-- R123, case 4. The slot states are FREE, STAGED and WRITTEN (R107), so STAGED is 2. -/
def IntentReport.fields (r : IntentReport) : List Field :=
  [num 1 (if r.written then 3 else 2), num 1 r.origin.val, num 4 r.tag.toNat]
    ++ listFields 8 [num 1 0, num 1 0, num 1 0]
      (fun e => [num 1 e.1.val, num 1 (markCode e.2), num 1 (markReason e.2)]) r.marks
    ++ [num 1 r.quorum, num 1 r.acked, num 1 r.openMarks, num 1 (stagedOutcomeCode r.outcome),
      flagSet [r.held, r.unindexed.isSome, r.fetchBlocked, r.digestRetried, r.holdOverflow],
      opt 1 (r.unindexed.map unindexedCode), flagSet [r.resolved],
      opt 1 (r.verdict.map verdictCode), opt 8 r.supersededBy]

/-- R142: the counts, in the order of the rule. -/
def InboundCounts.fields (c : InboundCounts) : List Field :=
  [num 8 c.doneHits, num 8 c.repeats, num 8 c.displaced, num 8 c.answeredAtOnce, num 8 c.listFull, num 8 c.arenaFull,
    num 8 c.pressureNotices, num 8 c.gapReports, num 8 c.dropped, num 8 c.orphans, num 8 c.duplicates,
    num 8 c.digestRefusals, num 8 c.deliveries, num 8 c.returned, num 8 c.raised, num 8 c.withheld, num 8 c.notReady]

/-- R142, the summary. -/
def InboundSummary.fields (s : InboundSummary) : List Field :=
  [num 2 s.assembling, num 2 s.waiting, num 2 s.delivering, num 2 s.delivered, num 2 s.freePlaces, num 4 s.freeBlocks,
    num 2 s.done]
    ++ s.landings.map (num 2) ++ [num 1 s.lastPort.val] ++ s.counts.fields

/-- R124, the lookup result: 1 pending, 2 NONE, 3 a way with its creation sequence (log 61). The way is one
number of 4 bytes, the set number times 8 plus the way of the set (log 97). -/
def lookupFields : ArrivalLookup → List Field
  | .absent => [num 1 0, num 4 0, num 8 0]
  | .pending => [num 1 1, num 4 0, num 8 0]
  | .none => [num 1 2, num 4 0, num 8 0]
  | .found w c => [num 1 3, num 4 w, num 8 c]

/-- R124, R142. Of the completion order the low 4 bytes are reported (log 83). -/
def ArrivalReport.fields (r : ArrivalReport) : List Field :=
  [num 4 r.id, num 1 r.slot.val, num 8 r.seq, num 1 (intentKindCode r.kind), num 4 r.bucket.toNat, num 8 r.keyHash.toNat,
    num 1 r.keyLen, num 8 r.stamp.toNat, num 4 r.payloadLen, num 4 r.digest.toNat, num 4 r.tag.toNat, num 2 r.blocks,
    num 2 r.chunks, opt 2 r.lowestMissing, num 1 r.gaps, opt 8 r.silenceDue, num 1 (arrivalStateCode r.state)]
    ++ lookupFields r.lookup
    ++ [opt 1 (r.compare.map compareCode), num 4 r.order, opt 1 (r.delivery.map (·.1.val)),
      opt 2 (r.delivery.map (·.2.id)), opt 4 (r.delivery.map (·.2.addr)), opt 4 (r.delivery.map (·.2.capacity)),
      num 4 r.attempt, opt 1 (r.heldReceipt.bind (·.1)), opt 8 (r.heldReceipt.map (·.2))]

/-- R163, ALL. The counts of R148 stay below 65,536; the others take 4 bytes (log 18). The software guard is a flag bit, 1 for
ON (log 61). The armed flag is a field of the body, and not a response flag (log 54). -/
def SegmentsReport.fields (r : SegmentsReport) : List Field :=
  [num 2 r.f, int 4 r.h, num 8 r.u, num 8 r.next, num 1 (levelCode r.level), num 2 r.lowWatermark, num 2 r.criticalReserve,
    flagSet [r.armed], opt 1 (r.lastBlocked.map fun b => blockCauseCode b.1), opt 2 (r.lastBlocked.bind (·.2)),
    num 1 (engineCode r.engine), opt 2 r.engine.target, opt 1 (r.targetState.map segStateCode), num 8 r.floor,
    num 4 r.topGap, opt 2 r.floorSegment, num 8 r.guardMap.toNat, flagSet [r.software], flagSet [r.raw],
    flagSet [r.filtered]]
    ++ (r.counts.zip [2, 4, 4, 2, 2, 4, 4]).map fun c => num c.2 c.1

/-- R163, one segment. -/
def SegmentReport.fields (r : SegmentReport) : List Field :=
  [num 1 (segStateCode r.state), num 2 r.eraseCount, num 1 r.group, flagSet [r.guarded], num 1 r.programmed,
    num 1 r.failed, opt 4 (r.positions.map (·.1)), opt 4 (r.positions.map (·.2)), opt 8 (r.intents.map (·.1)),
    opt 8 (r.intents.map (·.2)), opt 1 (r.heldBack.map heldBackCode)]

/-- R181, one port. The notice mask is one byte of bits, with a bit for each kind, in R176's order (log 61). -/
def PortReport.fields (r : PortReport) : List Field :=
  [num 1 (portStateCode r.state), flagSet [r.fence], num 1 r.outstanding, num 2 r.notices, num 4 r.noticeNumber,
    num 2 r.lost, num 1 r.timeouts, num 1 r.mask.toNat]

/-- R181. -/
def StatusReport.fields (r : StatusReport) : List Field :=
  [num 1 (partStateCode r.part), num 1 (startKindCode r.kind), num 8 r.count, opt 1 r.localSite]
    ++ r.ports.flatMap PortReport.fields
    ++ [num 2 r.partLost, num 1 r.lastGranted.val, num 1 r.fetching, num 1 r.queued, num 4 r.cacheUsed, num 4 r.cachePinned,
      num 4 r.blocked, num 8 r.timeouts, num 8 r.mismatches, num 8 r.fetchFailed]
    ++ faultFields r.faults

/-- The fields of a response body, in the order of the rule that answers. The held counts of R56 have one size, that of the
largest; the guard map is one 8-byte bit map; the answer of SET NOTICE MASK has an on-or-off byte for each kind (log 61). R23: a
flag behind the record size says that the record is programmed (log 82). -/
def responseFields : RespBody → List Field
  | .none => []
  | .appendTag tag => [num 8 0, num 4 tag.toNat]
  | .append s tag set q => [num 8 s, num 4 tag.toNat, slotSet set, num 1 q]
  | .journalSummary s => s.fields
  | .journalRecord size programmed => [num 2 size, flagSet [programmed]]
  | .placementEntry e => placementFields e.enabled e.bucket e.mask e.allSites e.slots e.quorum e.hold
  | .placementMode m staged waiting deciding earliest overflow =>
    modeFields m ++ [num 2 staged, num 2 waiting, num 2 deciding, opt 8 earliest, num 2 overflow]
  | .probe deciding set q held => [decidingField deciding, slotSet set, num 1 q, flagSet [held]]
  | .modeSettings m => modeFields m
  | .release o => [opt 1 (o.map releaseCode)]
  | .keySummary used full a b c d e unwritten =>
    [num 4 used, num 4 full, num 2 a, num 2 b, num 2 c, num 2 d, num 2 e, num 1 unwritten]
  | .keyEntry set way creation live n =>
    [num 2 set, num 1 way, num 8 creation, opt 8 (live.map (·.1)), opt 8 (live.map (·.2.toNat)), num 1 n]
  | .count n => [num 4 n]
  | .site r => r.fields
  | .sites l b0 b1 f => l.flatMap SiteLine.fields ++ [num 4 b0, num 4 b1, num 4 f]
  | .gen r => r.fields
  | .sitePacing g share m lend w credit window =>
    [num 1 g.val, num 2 share, num 1 (paceModeCode m), onOff lend, num 4 w, int 4 credit, num 4 window]
  | .statusSummary s => s.fields
  | .intent r => r.fields
  | .landings n => [num 2 n]
  | .inboundSummary s => s.fields
  | .arrival r => r.fields
  | .guardOn filtered marked => [flagSet [filtered], num 1 marked]
  | .guardMap m => [num 8 m.toNat]
  | .pressure lw cr l => [num 2 lw, num 2 cr, num 1 (levelCode l)]
  | .segments r => r.fields
  | .segment r => r.fields
  | .attach kind n site faults =>
    [num 1 (startKindCode kind), num 8 n, opt 1 site, flagSet (faultKinds.map fun k => faults.any fun e => e.1 == k)]
  | .status r => r.fields
  | .cleared done left => faultFields done ++ faultFields left
  | .mask m => (List.range 7).map fun k => onOff (m.getLsbD k)

/-- A response record, 256 bytes. -/
def responseBytes (r : Response) : List Byte :=
  recordBytes 256 (leBytes 2 r.kind ++ leBytes 1 (statusCode r.status) ++ [r.flags] ++ leBytes 4 r.cid.toNat)
    (responseFields r.body)

/-! ## Notice records -/

/-- The codes of the notice kinds. -/
def noticeCode : NoticeBody → Nat
  | .durable .. => 1
  | .superseded .. => 2
  | .shortfall .. => 3
  | .held .. => 4
  | .holdExpired .. => 5
  | .delivered .. => 6
  | .fetchFailed .. => 7
  | .siteState .. => 8
  | .portState .. => 9
  | .lowWatermark .. | .blocked .. => 10
  | .inboundPressure .. => 11
  | .fault .. => 12
  | .start .. => 13

/-- The code of a closed mark. -/
def closedCode : Mark → Nat
  | .failed => 1
  | .skipped .superseded => 2
  | .skipped .stale => 3
  | .skipped .evicted => 4
  | .skipped .detached => 5
  | .skipped .denied => 6
  | _ => 0

/-- The body of a verdict notice, as 11.2 lays it out. -/
def verdictFields (r : NoticeRoute) (acked quorum : Nat) (by_ : Seq) (closed : List (SlotId × Mark)) : List Field :=
  [num 8 r.seq, num 4 r.tag.toNat, num 1 r.origin.val, num 1 acked, num 1 quorum, num 8 by_]
    ++ listFields 8 [num 1 0, num 1 0] (fun e => [num 1 e.1.val, num 1 (closedCode e.2)]) closed

/-- R158, the fields of both reasons: 1 LOW_WATERMARK, 2 BLOCKED. -/
def pressureFields (reason : Nat) (f h : Int) (level : PressureLevel) (lw cr : Nat) : List Field :=
  [num 1 reason, int 2 f, int 4 h, num 1 (levelCode level), num 2 lw, num 2 cr]

def scopeFields : FaultScope → List Field
  | .part => [num 1 1, num 1 0, num 1 0]
  | .port p => [num 1 2, num 1 p.val, num 1 0]
  | .slot j site => [num 1 3, num 1 j.val, opt 1 site]

/-- R196. -/
def StartInfo.fields (i : StartInfo) : List Field :=
  [opt 1 i.site, num 2 i.damaged, flagSet [i.retentionLost], opt 8 i.scanStart, opt 8 i.scannedTail,
    opt 8 (i.passedOver.map (·.1)), opt 8 (i.passedOver.map (·.2)), num 4 i.badPages, num 2 i.heldAgain,
    num 2 i.noticesDropped]

/-- The fields of a notice body, in the order of the rule that raises it. -/
def noticeFields : NoticeBody → List Field
  | .durable r a q => verdictFields r a q 0 []
  | .superseded r a q s => verdictFields r a q s []
  | .shortfall r a q c => verdictFields r a q 0 c
  | .held r bucket entry limit =>
    [num 8 r.seq, num 4 r.tag.toNat, num 4 bucket.toNat, num 1 (entry.getD 255), num 2 limit]
  | .holdExpired r d => [num 8 r.seq, num 4 r.tag.toNat, num 1 (decisionCode d)]
  | .delivered arrival attempt landing site s kind bucket len c =>
    [num 4 arrival, num 4 attempt, num 2 landing, num 1 site, num 8 s, num 1 (intentKindCode kind), num 4 bucket.toNat,
      num 4 len, num 1 (compareCode c)]
  | .fetchFailed r p q => [num 8 r.seq, num 4 r.tag.toNat, num 1 r.origin.val, num 1 p.val, num 1 q.val]
  | .siteState j site old new c =>
    [num 1 j.val, opt 1 site, num 1 (siteStateCode old), num 1 (siteStateCode new), num 1 (siteCauseCode c)]
  | .portState p old new c => [num 1 p.val, num 1 (portStateCode old), num 1 (portStateCode new), num 1 (portCauseCode c)]
  | .lowWatermark f h l lw cr => pressureFields 1 f h l lw cr
  | .blocked f h l lw cr cause seg group heldSeq slot =>
    pressureFields 2 f h l lw cr
      ++ [num 1 (blockCauseCode cause), opt 2 seg, opt 1 group, opt 8 heldSeq, opt 1 (slot.map Fin.val)]
  | .inboundPressure listFull arenaFull refusals places blocks =>
    [flagSet [listFull, arenaFull], num 4 refusals, num 2 places, num 4 blocks]
  | .fault k sc => num 1 (k.index + 1) :: scopeFields sc
  | .start kind n info => [num 1 (startKindCode kind), num 8 n] ++ info.fields

/-- A notice record, 128 bytes. -/
def noticeBytes (n : Notice) : List Byte :=
  recordBytes 128
    (leBytes 1 (noticeCode n.body) ++ leBytes 1 (if n.redirected then 1 else 0) ++ zeros 2 ++ leBytes 4 n.number)
    (noticeFields n.body)

end Sys2Proof.Machine
end

