-- ==== Sys2Proof/Laws/Records.lean ====
section
/-!
SUPPORT. A command record, written as its bytes, is read back (R198, R199): what `fieldAt` finds of a field that `putField`
has put.
-/

namespace Sys2Proof.Machine

/-! ## Bytes -/

theorem leBytes_length (w n : Nat) : (leBytes w n).length = w := by
  induction w generalizing n with
  | zero => rfl
  | succ w ih => simp [leBytes, ih]

theorem zeros_length (n : Nat) : (zeros n).length = n := List.length_replicate

theorem zeros_zero : zeros 0 = [] := rfl

theorem padTo_eq (n : Nat) (l : List Byte) : padTo n l = l ++ zeros (n - l.length) := rfl

theorem padTo_length (n : Nat) (l : List Byte) (h : l.length ≤ n) : (padTo n l).length = n := by
  simp [padTo, zeros_length, h]

theorem ofLe_leBytes (w n : Nat) (h : n < 256 ^ w) : ofLe (leBytes w n) = n := by
  induction w generalizing n with
  | zero => simp [leBytes, ofLe]; omega
  | succ w ih =>
    have h2 : n / 256 < 256 ^ w := by rw [pow_succ] at h; omega
    simp only [leBytes, ofLe, ih _ h2, BitVec.toNat_ofNat]
    omega

/-! ## Reading a field -/

theorem slice_skip (off w k : Nat) (a b : List Byte) (h : a.length = k) (hk : k ≤ off) :
    slice off w (a ++ b) = slice (off - k) w b := by
  simp only [slice, List.drop_append, h]
  rw [List.drop_eq_nil_of_le (by omega), List.nil_append]

theorem slice_leBytes (off w k n : Nat) (b : List Byte) (hk : k ≤ off) :
    slice off w (leBytes k n ++ b) = slice (off - k) w b := slice_skip _ _ _ _ _ (leBytes_length k n) hk

theorem slice_zeros (off w k : Nat) (b : List Byte) (hk : k ≤ off) :
    slice off w (zeros k ++ b) = slice (off - k) w b := slice_skip _ _ _ _ _ (zeros_length k) hk

theorem fieldAt_leBytes (off w k n : Nat) (b : List Byte) (hk : k ≤ off) :
    fieldAt off w (leBytes k n ++ b) = fieldAt (off - k) w b := congrArg ofLe (slice_leBytes _ _ _ _ _ hk)

theorem fieldAt_zeros (off w k : Nat) (b : List Byte) (hk : k ≤ off) :
    fieldAt off w (zeros k ++ b) = fieldAt (off - k) w b := congrArg ofLe (slice_zeros _ _ _ _ hk)

theorem fieldAt_byte (off w : Nat) (x : Byte) (b : List Byte) (hk : 1 ≤ off) :
    fieldAt off w (x :: b) = fieldAt (off - 1) w b := congrArg ofLe (slice_skip _ _ 1 [x] b rfl hk)

theorem fieldAt_num (w n : Nat) (b : List Byte) (h : n < 256 ^ w) : fieldAt 0 w (leBytes w n ++ b) = n := by
  simp only [fieldAt, slice, List.drop_zero]
  rw [List.take_append_of_le_length (by rw [leBytes_length]), List.take_of_length_le (by rw [leBytes_length])]
  exact ofLe_leBytes w n h

theorem fieldAt_fits {w n : Nat} (b : List Byte) (h : fits w n = true) : fieldAt 0 w (leBytes w n ++ b) = n :=
  fieldAt_num w n b (by simpa [fits] using h)

theorem fieldAt_word8 (x : Byte) (b : List Byte) : fieldAt 0 1 (leBytes 1 x.toNat ++ b) = x.toNat := fieldAt_num 1 _ b x.isLt

theorem fieldAt_word32 (x : Word32) (b : List Byte) : fieldAt 0 4 (leBytes 4 x.toNat ++ b) = x.toNat := fieldAt_num 4 _ b x.isLt

theorem fieldAt_word64 (x : Word64) (b : List Byte) : fieldAt 0 8 (leBytes 8 x.toNat ++ b) = x.toNat := fieldAt_num 8 _ b x.isLt

theorem fieldAt_set (x : Byte) (b : List Byte) : fieldAt 0 1 (x :: b) = x.toNat := by simp [fieldAt, slice, ofLe]

theorem fieldAt_onOff (c : Bool) (b : List Byte) :
    fieldAt 0 1 (leBytes 1 (if c = true then 1 else 2) ++ b) = if c = true then 1 else 2 :=
  fieldAt_num 1 _ b (by cases c <;> decide)

theorem isOn_onOff (c : Bool) : isOn (if c = true then 1 else 2) = c := by cases c <;> rfl

/-- A key is read back by its length. -/
theorem slice_key (n : Nat) (k b : List Byte) (h : k.length = n) : slice 0 n (padTo 240 k ++ b) = k := by
  simp [slice, padTo, ← h]

/-- A number or ALL is read back. -/
theorem orAll_back (w : Nat) (n : Option Nat) (h : optFits w n = true) :
    fits w (n.getD (256 ^ w - 1)) = true ∧ numOrAll w (n.getD (256 ^ w - 1)) = n := by
  have hp : 0 < 256 ^ w := Nat.pow_pos (by decide)
  cases n with
  | none =>
    simp only [Option.getD_none, fits, numOrAll, decide_eq_true_eq]
    exact ⟨by omega, if_pos (by omega)⟩
  | some n =>
    have : n + 1 < 256 ^ w := by simpa [optFits, fits] using h
    simp only [Option.getD_some, fits, numOrAll, decide_eq_true_eq]
    exact ⟨by omega, if_neg (by omega)⟩

/-! ## Command records -/

/-- The key bytes of a body are those that its key length names. -/
def keyFits : CmdBody → Prop
  | .append b => b.key.length = min b.keyLen 240
  | .queryKey q => q.key.length = min q.keyLen 240
  | _ => True

theorem commandBody_unknown (c : Nat) (l : List Byte) (h : c = 0 ∨ 35 < c) : commandBody c l = .unknown c := by
  rcases h with rfl | h
  · rfl
  · obtain ⟨k, rfl⟩ := Nat.exists_eq_add_of_le' h
    rfl

/-- R199: the bytes of a command record give the command back. -/
theorem commandOfBytes_commandBytes (r : CmdRec) (h : r.body.wf = true) (hk : keyFits r.body) :
    commandOfBytes (commandBytes r) = r := by
  obtain ⟨cid, body⟩ := r
  have hn : ∀ n : Nat, n < 36 → ∀ b, fieldAt 0 2 (leBytes 2 n ++ b) = n := fun n hn b => fieldAt_num 2 n b (by omega)
  cases body
  case unknown c =>
    simp only [CmdBody.wf, unknownCode, Bool.and_eq_true, Bool.or_eq_true, beq_iff_eq, decide_eq_true_eq] at h
    simp only [commandOfBytes, commandBytes, recordBytes, commandFields, kindCode, padTo, List.foldl_nil, List.append_assoc,
      fieldAt_leBytes, Nat.reduceSub, Nat.reduceLeDiff, fieldAt_zeros, fieldAt_word32, fieldAt_fits _ h.1,
      commandBody_unknown _ _ h.2, BitVec.ofNat_toNat, BitVec.setWidth_eq]
  case setNoticeMask l =>
    simp only [CmdBody.wf, Bool.and_eq_true, beq_iff_eq] at h
    obtain ⟨hl, h⟩ := h
    match l, hl with
    | [a, b, c, d, e, f, g], _ =>
      simp only [List.all_cons, List.all_nil, Bool.and_eq_true] at h
      have hr : List.range 7 = [0, 1, 2, 3, 4, 5, 6] := rfl
      simp only [commandOfBytes, commandBytes, recordBytes, commandFields, kindCode, putField, num, padTo, List.map_cons,
        List.map_nil, List.foldl_cons, List.foldl_nil, List.append_assoc, List.length_append, leBytes_length, zeros_length,
        zeros_zero, List.nil_append, Nat.reduceAdd, Nat.reduceSub, Nat.reduceMod, Nat.reduceLeDiff, Nat.reduceLT,
        fieldAt_leBytes, fieldAt_zeros, fieldAt_word32, hn, commandBody, hr, fieldAt_fits, h, BitVec.ofNat_toNat,
        BitVec.setWidth_eq]
  case readSite n =>
    have hv : fits 1 (n.getD 255) = true ∧ numOrAll 1 (n.getD 255) = n := orAll_back 1 n h
    simp only [commandOfBytes, commandBytes, recordBytes, commandFields, orAll, kindCode, putField, num, padTo, List.foldl_cons,
      List.foldl_nil, List.append_assoc, List.length_append, leBytes_length, zeros_length, zeros_zero, List.nil_append,
      Nat.reduceAdd, Nat.reduceSub, Nat.reduceMod, Nat.reduceLeDiff, Nat.reduceLT, Nat.reducePow, fieldAt_leBytes,
      fieldAt_zeros, fieldAt_word32, hn, commandBody, fieldAt_fits, hv, BitVec.ofNat_toNat, BitVec.setWidth_eq]
  case readSegments n =>
    have hv : fits 2 (n.getD 65535) = true ∧ numOrAll 2 (n.getD 65535) = n := orAll_back 2 n h
    simp only [commandOfBytes, commandBytes, recordBytes, commandFields, orAll, kindCode, putField, num, padTo, List.foldl_cons,
      List.foldl_nil, List.append_assoc, List.length_append, leBytes_length, zeros_length, zeros_zero, List.nil_append,
      Nat.reduceAdd, Nat.reduceSub, Nat.reduceMod, Nat.reduceLeDiff, Nat.reduceLT, Nat.reducePow, fieldAt_leBytes,
      fieldAt_zeros, fieldAt_word32, hn, commandBody, fieldAt_fits, hv, BitVec.ofNat_toNat, BitVec.setWidth_eq]
  case append b =>
    simp only [CmdBody.wf, AppendBody.wf, Bool.and_eq_true, decide_eq_true_eq] at h
    simp only [commandOfBytes, commandBytes, recordBytes, commandFields, kindCode, putField, num, keyField, padTo_eq 320,
      List.foldl_cons, List.foldl_nil, List.append_assoc, List.length_append, leBytes_length, zeros_length, zeros_zero,
      List.nil_append, padTo_length 240 b.key h.2, Nat.reduceAdd, Nat.reduceSub, Nat.reduceMod, Nat.reduceLeDiff, Nat.reduceLT,
      fieldAt_leBytes, fieldAt_zeros, fieldAt_word32, fieldAt_word64, hn, commandBody, fieldAt_fits, h, slice_leBytes,
      slice_zeros, slice_key _ _ _ hk, BitVec.ofNat_toNat, BitVec.setWidth_eq]
  case queryKey q =>
    simp only [CmdBody.wf, KeyQuery.wf, Bool.and_eq_true, decide_eq_true_eq] at h
    simp only [commandOfBytes, commandBytes, recordBytes, commandFields, kindCode, putField, num, keyField, padTo_eq 320,
      List.foldl_cons, List.foldl_nil, List.append_assoc, List.length_append, leBytes_length, zeros_length, zeros_zero,
      List.nil_append, padTo_length 240 q.key h.2, Nat.reduceAdd, Nat.reduceSub, Nat.reduceMod, Nat.reduceLeDiff, Nat.reduceLT,
      fieldAt_leBytes, fieldAt_zeros, fieldAt_word32, fieldAt_word64, hn, commandBody, fieldAt_fits, h, slice_leBytes,
      slice_zeros, slice_key _ _ _ hk, BitVec.ofNat_toNat, BitVec.setWidth_eq]
  all_goals
    simp only [CmdBody.wf, SetPlacementBody.wf, ReadPlacementBody.wf, SetModeBody.wf, AttachSiteBody.wf, SetGeneratorBody.wf,
      SetSitePacingBody.wf, Bool.and_eq_true] at h
    simp only [commandOfBytes, commandBytes, recordBytes, commandFields, placementFields, kindCode, putField, num, onOff, slotSet, padTo,
      List.foldl_cons, List.foldl_nil, List.append_assoc, List.length_append, List.length_cons, List.length_nil, leBytes_length, zeros_length, zeros_zero,
      List.nil_append, List.cons_append, Nat.reduceAdd, Nat.reduceSub, Nat.reduceMod, Nat.reduceLeDiff, fieldAt_leBytes, fieldAt_zeros,
      fieldAt_byte, fieldAt_word8, fieldAt_word32, fieldAt_word64, fieldAt_set, fieldAt_onOff, hn, Nat.reduceLT, commandBody, fieldAt_fits, h,
      isOn_onOff, BitVec.ofNat_toNat, BitVec.setWidth_eq]

/-- R199: a command record has 320 bytes. -/
theorem commandBytes_length (r : CmdRec) (h : r.body.wf = true) : (commandBytes r).length = 320 := by
  obtain ⟨cid, body⟩ := r
  refine padTo_length 320 _ ?_
  cases body
  case setNoticeMask l =>
    simp only [CmdBody.wf, Bool.and_eq_true, beq_iff_eq] at h
    match l, h.1 with
    | [a, b, c, d, e, f, g], _ =>
      simp [commandFields, putField, num, kindCode, leBytes_length, zeros_length]
  case append b =>
    simp only [CmdBody.wf, AppendBody.wf, Bool.and_eq_true, decide_eq_true_eq] at h
    simp [commandFields, putField, num, keyField, kindCode, leBytes_length, zeros_length, padTo_length 240 b.key h.2]
  case queryKey q =>
    simp only [CmdBody.wf, KeyQuery.wf, Bool.and_eq_true, decide_eq_true_eq] at h
    simp [commandFields, putField, num, keyField, kindCode, leBytes_length, zeros_length, padTo_length 240 q.key h.2]
  all_goals
    simp [commandFields, placementFields, orAll, putField, num, onOff, slotSet, kindCode, leBytes_length, zeros_length]

end Sys2Proof.Machine
end

