-- ==== Sys2Proof/Tests/Slice0.lean ====
section
/-!
SUPPORT. Tests: the checks of WellFormed on terms that fail them, the byte layouts, one step of the commands on small parts,
and for every statement of Certificates/Slice0 with hypotheses a state and operands that meet them.
-/

namespace Sys2Proof.Tests

open Sys2Proof Sys2Proof.Machine

-- One theorem after another: many short evaluations at once would each want a thread.
set_option Elab.async false

/-! ## WellFormed refuses what no format can spell -/

def anAppend : AppendBody := ⟨1, 4, 7, 1, 16, 5, 0x104, 32, 0, [1, 2, 3, 4]⟩
def anAttach : AttachSiteBody := ⟨0, 3, 1, 0, 1024, 2, false, 65536, true⟩
def aHeader : FrameHdr := ⟨3, 4, 7⟩
def anOpen : OpenDesc := ⟨9, 1, 4, [1, 2, 3, 4], 0, 1, 5, 0x103, 4, 0⟩

theorem test_wf_append : anAppend.wf = true ∧ AppendBody.wf { anAppend with kind := 256 } = false ∧
    AppendBody.wf { anAppend with keyLen := 256 } = false ∧ AppendBody.wf { anAppend with payloadLen := 4294967296 } = false ∧
    AppendBody.wf { anAppend with locator := 18446744073709551616 } = false ∧
    AppendBody.wf { anAppend with key := List.replicate 241 0 } = false := by decide +kernel

theorem test_wf_flush : (Instr.flush 0 0 0 65535).wf = true ∧ (Instr.flush 0 0 0 65536).wf = false := by decide +kernel

theorem test_wf_read_journal : (Instr.readJournal 0 0 0 18446744073709551616 0).wf = false ∧
    (Instr.readJournal 0 0 0 0 4294967296).wf = false ∧ (Instr.readJournal 0 0 0 0 4294967295).wf = true := by
  decide +kernel

theorem test_wf_query_key : (Instr.queryKey 0 0 0 ⟨0, 0, 256, []⟩).wf = false ∧
    (Instr.queryKey 0 0 0 ⟨0, 0, 240, List.replicate 241 0⟩).wf = false := by decide +kernel

theorem test_wf_placement : (Instr.setPlacement 0 0 0 ⟨256, true, 0, 0, true, 0, 1, false⟩).wf = false ∧
    (Instr.setPlacement 0 0 0 ⟨0, true, 0, 0, true, 0, 256, false⟩).wf = false ∧
    (Instr.readPlacement 0 0 0 ⟨256, 0, 0⟩).wf = false ∧ (Instr.readPlacement 0 0 0 ⟨0, 256, 0⟩).wf = false ∧
    (Instr.setPlacementMode 0 0 0 ⟨true, true, 256, 0, 1⟩).wf = false ∧
    (Instr.setPlacementMode 0 0 0 ⟨true, true, 0, 65536, 1⟩).wf = false ∧
    (Instr.setPlacementMode 0 0 0 ⟨true, true, 0, 0, 256⟩).wf = false := by decide +kernel

theorem test_wf_sequences : (Instr.release 0 0 0 18446744073709551616).wf = false ∧
    (Instr.deny 0 0 0 18446744073709551616).wf = false ∧ (Instr.queryIntent 0 0 0 18446744073709551616).wf = false := by
  decide +kernel

theorem test_wf_attach_site : anAttach.wf = true ∧ AttachSiteBody.wf { anAttach with slot := 256 } = false ∧
    AttachSiteBody.wf { anAttach with site := 256 } = false ∧ AttachSiteBody.wf { anAttach with spanPort := 256 } = false ∧
    AttachSiteBody.wf { anAttach with generator := 256 } = false ∧ AttachSiteBody.wf { anAttach with share := 65536 } = false ∧
    AttachSiteBody.wf { anAttach with mode := 256 } = false ∧
    AttachSiteBody.wf { anAttach with maxWindow := 4294967296 } = false := by decide +kernel

theorem test_wf_site_commands : (Instr.detachSite 0 0 0 256).wf = false ∧ (Instr.fenceSite 0 0 0 256).wf = false ∧
    (Instr.unfenceSite 0 0 0 256).wf = false ∧ (Instr.rejoinSite 0 0 0 256).wf = false ∧
    (Instr.rewindSite 0 0 0 256 0).wf = false ∧ (Instr.rewindSite 0 0 0 0 18446744073709551616).wf = false ∧
    (Instr.readSite 0 0 0 (some 255)).wf = false ∧ (Instr.readSite 0 0 0 none).wf = true := by decide +kernel

theorem test_wf_pacing : (Instr.setGenerator 0 0 0 ⟨256, 1, 1, 250⟩).wf = false ∧
    (Instr.setGenerator 0 0 0 ⟨0, 256, 1, 250⟩).wf = false ∧ (Instr.setGenerator 0 0 0 ⟨0, 1, 65536, 250⟩).wf = false ∧
    (Instr.setGenerator 0 0 0 ⟨0, 1, 1, 65536⟩).wf = false ∧ (Instr.setSitePacing 0 0 0 ⟨256, 0, 0, 1, 1, 0⟩).wf = false ∧
    (Instr.setSitePacing 0 0 0 ⟨0, 256, 0, 1, 1, 0⟩).wf = false ∧
    (Instr.setSitePacing 0 0 0 ⟨0, 0, 65536, 1, 1, 0⟩).wf = false ∧
    (Instr.setSitePacing 0 0 0 ⟨0, 0, 0, 256, 1, 0⟩).wf = false ∧
    (Instr.setSitePacing 0 0 0 ⟨0, 0, 0, 1, 256, 0⟩).wf = false ∧
    (Instr.setSitePacing 0 0 0 ⟨0, 0, 0, 1, 1, 4294967296⟩).wf = false := by decide +kernel

theorem test_wf_inbound : (Instr.postLanding 0 0 0 65536 0 0).wf = false ∧
    (Instr.postLanding 0 0 0 0 18446744073709551616 0).wf = false ∧ (Instr.postLanding 0 0 0 0 0 4294967296).wf = false ∧
    (Instr.stored 0 0 0 4294967296 1).wf = false ∧ (Instr.stored 0 0 0 1 256).wf = false ∧
    (Instr.readInbound 0 0 0 4294967296).wf = false := by decide +kernel

theorem test_wf_limits : (Instr.setPressureLimits 0 0 0 65536 0).wf = false ∧
    (Instr.setPressureLimits 0 0 0 0 65536).wf = false ∧ (Instr.readSegments 0 0 0 (some 65536)).wf = false ∧
    (Instr.readSegments 0 0 0 none).wf = true := by decide +kernel

theorem test_wf_ports : (Instr.fencePort 0 0 0 256).wf = false ∧ (Instr.unfencePort 0 0 0 256).wf = false ∧
    (Instr.clearFaults 0 0 0 0x80).wf = false ∧ (Instr.clearFaults 0 0 0 0x7F).wf = true ∧
    (Instr.setNoticeMask 0 0 0 [1, 1, 1, 1, 1, 1]).wf = false ∧ (Instr.setNoticeMask 0 0 0 [1, 1, 1, 1, 1, 1, 256]).wf = false ∧
    (Instr.setLocalSite 0 0 0 256).wf = false := by decide +kernel

theorem test_wf_unknown_code : unknownCode 0 = true ∧ unknownCode 1 = false ∧ unknownCode 35 = false ∧
    unknownCode 36 = true ∧ unknownCode 65535 = true ∧ unknownCode 65536 = false ∧
    (Instr.unknownCommandKind 0 0 0 35).wf = false ∧ (Instr.commandPosted 0 0 ⟨0, .unknown 1⟩).wf = false := by decide +kernel

theorem test_wf_frames : aHeader.wf = true ∧ anOpen.wf = true ∧ FrameHdr.wf ⟨256, 0, 0⟩ = false ∧
    FrameHdr.wf ⟨0, 256, 0⟩ = false ∧ FrameHdr.wf ⟨0, 0, 18446744073709551616⟩ = false ∧
    (Instr.helloReceived 0 0 aHeader 256).wf = false ∧ (Instr.helloAckReceived 0 0 aHeader 18446744073709551616).wf = false ∧
    OpenDesc.wf { anOpen with keyLen := 5 } = false ∧ OpenDesc.wf { anOpen with seq := 18446744073709551616 } = false ∧
    OpenDesc.wf { anOpen with kind := 256 } = false ∧ OpenDesc.wf { anOpen with payloadLen := 4294967296 } = false ∧
    OpenDesc.wf { anOpen with keyLen := 256, key := List.replicate 256 0 } = false ∧
    (Instr.openReceived 0 0 aHeader 8257 anOpen).wf = false ∧
    (Instr.carryReceived 0 0 aHeader 0 4294967296 []).wf = false ∧
    (Instr.carryReceived 0 0 aHeader 18446744073709551616 0 []).wf = false ∧
    (Instr.carryReceived 0 0 aHeader 0 0 (List.replicate 8193 0)).wf = false ∧
    (Instr.receiptReceived 0 0 aHeader [(18446744073709551616, 1)]).wf = false ∧
    (Instr.receiptReceived 0 0 aHeader [(1, 256)]).wf = false ∧
    (Instr.gapReceived 0 0 aHeader 18446744073709551616 []).wf = false ∧
    (Instr.gapReceived 0 0 aHeader 1 [(4294967296, 0)]).wf = false ∧
    (Instr.gapReceived 0 0 aHeader 1 [(0, 4294967296)]).wf = false ∧
    (Instr.busyReceived 0 0 aHeader 18446744073709551616).wf = false := by decide +kernel

theorem test_wf_start_media : (Instr.powerUp 0 ⟨[(2047, 63)], [2047]⟩).wf = true ∧
    (Instr.powerUp 0 ⟨[(2048, 0)], []⟩).wf = false ∧ (Instr.powerUp 0 ⟨[(0, 64)], []⟩).wf = false ∧
    (Instr.powerUp 0 ⟨[], [2048]⟩).wf = false := by decide +kernel

/-! ## Layouts -/

/-- R198: the CRC-32 of the digits 1 to 9. -/
theorem test_crc_check_value : crc32 [0x31, 0x32, 0x33, 0x34, 0x35, 0x36, 0x37, 0x38, 0x39] = 0xCBF43926 := by decide +kernel

/-- R63: a HELLO to site 3 is 72 bytes, with magic, version 1, kind 1 and the two site numbers in their places. -/
theorem test_hello_bytes : (Frame.bytes ⟨4, 3, 7, .hello 3⟩).length = 72 ∧
    (Frame.bytes ⟨4, 3, 7, .hello 3⟩).take 16 =
      [0x17, 0x9E, 0x3C, 0x5A, 1, 1, 4, 3, 7, 0, 0, 0, 0, 0, 0, 0] := by decide +kernel

/-- R199: the fields of SET SITE PACING (18) stand in the order of its description, each aligned to its own size. -/
theorem test_command_bytes :
    (commandBytes ⟨6, .setSitePacing ⟨7, 3, 1024, 2, 1, 65536⟩⟩).take 28 =
      [18, 0, 0, 0, 6, 0, 0, 0, 0, 0, 0, 0, 0, 0, 0, 0, 7, 3, 0, 4, 2, 1, 0, 0, 0, 0, 1, 0] := by decide +kernel

/-- 11.2: a SHORTFALL of intent 9 with one FAILED mark is 128 bytes; its fields stand at the offsets that 11.2 gives them. -/
theorem test_notice_bytes :
    let l := noticeBytes ⟨5, true, .shortfall ⟨9, 7, 2⟩ 1 3 [(4, .failed)]⟩
    l.length = 128 ∧ l.take 24 = [3, 1, 0, 0, 5, 0, 0, 0, 9, 0, 0, 0, 0, 0, 0, 0, 7, 0, 0, 0, 2, 1, 3, 0] ∧
      slice 24 12 l = [0, 0, 0, 0, 0, 0, 0, 0, 4, 1, 0, 0] := by decide +kernel

/-- 11.2: the response to an APPEND: the fields of the body stand at the offsets that 11.2 gives them. -/
theorem test_append_response_bytes :
    let l := responseBytes ⟨1, .accepted, 3, 6, .append 9 7 5 2⟩
    l.length = 256 ∧ l.take 24 = [1, 0, 5, 3, 6, 0, 0, 0, 9, 0, 0, 0, 0, 0, 0, 0, 7, 0, 0, 0, 5, 2, 0, 0] := by decide +kernel

/-- R123, R199: the fields of the report of an intent: its state at 8, the quorum at 40, the flags with the UNINDEXED reason at
44, whether it is resolved at 46, the verdict at 47 and the superseded-by sequence at 48. -/
theorem test_intent_response_bytes :
    let x : Slot :=
      { written := true, origin := 1, tag := 7, marks := [(4, .failed)], quorum := 2, outcome := .unindexed
        unindexed := some .setFull, digestRetried := some 3, verdict := some .superseded, supersededBy := some 9 }
    let l := responseBytes ⟨19, .done, 0, 1, .intent x.report⟩
    l.length = 256 ∧ slice 8 12 l = [3, 1, 0, 0, 7, 0, 0, 0, 4, 5, 0, 0] ∧
      slice 40 16 l = [2, 0, 0, 2, 10, 1, 1, 2, 9, 0, 0, 0, 0, 0, 0, 0] := by decide +kernel

/-- R198: the largest reports fit in a response record. -/
theorem test_reports_fit :
    (responseBytes ⟨32, .done, 0, 1, .status Dev.reset.statusReport⟩).length = 256 ∧
      (responseBytes ⟨16, .done, 0, 1, Dev.reset.sitesReport⟩).length = 256 ∧
      (responseBytes ⟨16, .done, 0, 1, .site (Dev.reset.siteReport 0)⟩).length = 256 ∧
      (responseBytes ⟨22, .done, 0, 1, .inboundSummary Dev.reset.inboundSummary⟩).length = 256 ∧
      (responseBytes ⟨27, .done, 0, 1, .segments Dev.reset.segmentsReport⟩).length = 256 ∧
      (responseBytes ⟨19, .done, 0, 1, .statusSummary Dev.reset.statusSummary⟩).length = 256 := by decide +kernel

/-- R4: the header of the page at position 258 that holds a RESUME record: position, count, first kind, fill and CRC. -/
theorem test_page_header :
    pageHeader 258 [.resume 3] 0x04030201 =
      [2, 1, 0, 0, 0, 0, 0, 0, 1, 7] ++ List.replicate 18 0 ++ [1, 2, 3, 4] ∧
    slice 32 16 (pageImage 258 [.resume 3] 0) = [7, 0, 32, 0, 0, 0, 0, 0, 3, 0, 0, 0, 0, 0, 0, 0] ∧
    (pageImage 258 [.resume 3] 0).length = 4096 := by decide +kernel

theorem test_no_table_word : decodeTableWord 32 0 = none ∧ State.reset.withFetchWord 32 0 = State.reset := by
  decide +kernel

/-! ## Steps on small parts -/

/-- The part that one step leaves. -/
def after (c : Instr) (d : Dev) : Dev :=
  match step ⟨[c], d⟩ with
  | .next s => s.dev
  | _ => d

def statuses (d : Dev) : List (Nat × Status) := d.ports[(0 : PortId)].respQ.map fun r => (r.kind, r.status)

def told (d : Dev) : List NoticeBody := d.ports[(0 : PortId)].noticeQ.map fun n => n.body

/-- CP0 is ONLINE and the local site number is 4. -/
def ready : Dev := { Dev.reset with settings := { localSite := some 4 }, ports := #v[{ state := .online }, {}, {}, {}] }

def siteConf : SiteConfig := { site := some 3, share := 1024, mode := .unpaced, maxWindow := 67108864 }

/-- The part has a peer, site 3, at slot 0, and MIRROR-ALL is on. -/
def peered : Dev :=
  { ready with
    settings := { localSite := some 4, sites := #v[siteConf, {}, {}, {}, {}, {}, {}, {}], mode := { mirrorAll := true } }
    sites :=
      #v[{ state := .active, cursor := 1, frontier := some 1, peerStart := some 7 }, {}, {}, {}, {}, {}, {}, {}] }

theorem test_attach_port : statuses (after (.attachPort 5 0 1) Dev.reset) = [(28, .done)] ∧
    told (after (.attachPort 5 0 1) Dev.reset) =
      [.start .first 1 {}, .portState 0 .offline .online .command] := by decide +kernel

theorem test_not_attached : statuses (after (.flush 5 0 1 0) Dev.reset) = [(2, .notAttached)] := by decide +kernel

theorem test_unknown_kind : statuses (after (.unknownCommandKind 5 0 1 36) ready) = [(36, .badField)] := by decide +kernel

theorem test_set_local_site : statuses (after (.setLocalSite 5 0 1 4) ready) = [(35, .wrongState)] ∧
    (after (.setLocalSite 5 0 1 4) { ready with settings := {} }).settings.localSite = some 4 := by decide +kernel

theorem test_commit_timer :
    let d := after (.setLocalSite 5 0 1 4) { ready with settings := {} }
    d.journal.commitDue = some 205 ∧ (after .commitTimerExpiry d).array.op = some (.program .a 0 0 1) := by decide +kernel

theorem test_page_program :
    let d := after .commitTimerExpiry (after (.setLocalSite 5 0 1 4) { ready with settings := {} })
    statuses (after (.pageProgramComplete 900 true) d) = [(35, .done)] ∧
      statuses (after (.pageProgramComplete 900 false) d) = [] ∧
      (after (.pageProgramComplete 900 false) d).array.op = some (.program .a 0 1 2) := by decide +kernel

theorem test_append : statuses (after (.append 5 0 1 anAppend) ready) = [(1, .notPlaced)] ∧
    statuses (after (.append 5 0 1 { anAppend with stamp := 0x103 }) ready) = [(1, .badStamp)] ∧
    ((after (.append 5 0 1 anAppend) peered).slot? 1).map (fun x => (x.marks, x.written)) = some ([(0, .pending)], false) := by
  decide +kernel

theorem test_set_placement :
    let d := after (.setPlacement 5 0 1 ⟨3, true, 9, 0, false, 0x05, 4, false⟩) ready
    d.settings.placement[3].quorum = 2 ∧ statuses (after (.setPlacement 5 0 1 ⟨48, true, 9, 0, true, 0, 1, false⟩) ready) =
      [(5, .badField)] := by decide +kernel

theorem test_attach_site :
    let d := after (.attachSite 5 0 1 anAttach) ready
    d.sites[0].state = .probing ∧ d.span[0].sending.map (fun f => f.body) = some (.hello 3) ∧ d.journal.bufA.recs.length = 2 ∧
      told d = [.siteState 0 (some 3) .detached .probing .command] := by decide +kernel

theorem test_hello_ack :
    let d : Dev := peered.modSite 0 fun x => { x with state := .probing, probeDue := some 9 }
    (after (.helloAckReceived 5 0 aHeader 1) d).sites[0].state = .active ∧
      (after (.helloAckReceived 5 0 aHeader 2) d).sites[0].stale = 1 ∧ (after (.probeTimerExpiry 0) d).sites[0].probeCount = 1 := by
  decide +kernel

theorem test_hello_from_new_peer :
    told (after (.helloReceived 5 0 { aHeader with start := 8 } 4) peered) = [.siteState 0 (some 3) .active .active .peerRestart] ∧
      (after (.helloReceived 5 0 { aHeader with sender := 9 } 4) peered).foreign = 1 ∧
      (after (.badFrame 5 1 [1, 2, 3]) peered).span[(1 : SpanId)].badFrames = 1 := by decide +kernel

theorem test_open_and_carry :
    let o : OpenDesc := { anOpen with digest := 0xB63CFBCD }
    let d := after (.openReceived 5 0 aHeader 192 o) peered
    d.inbound.arrivals.map (fun a => (a.id, a.state, a.blocks)) = [(1, .assembling, 1)] ∧
      (after (.carryReceived 6 0 aHeader 9 0 [1, 2, 3, 4]) d).inbound.arrivals.map (fun a => a.state) = [.waitingLanding] ∧
      (after (.carryReceived 6 0 aHeader 9 0 [1, 2, 3, 5]) d).inbound.counts.digestRefusals = 1 := by decide +kernel

theorem test_silence :
    let d := after (.openReceived 5 0 aHeader 192 anOpen) peered
    (after (.silenceTimerExpiry 1) d).inbound.counts.gapReports = 1 ∧
      (after (.silenceTimerExpiry 1) d).now = 20005 := by decide +kernel

theorem test_guard_line :
    let d := after (.guardLineChange 3 true) Dev.reset
    d.guard = ⟨false, true, true, none⟩ ∧ (after (.guardLineChange 8 false) d).guard = ⟨false, true, false, some 10008⟩ ∧
      (after .guardSettlingExpiry Dev.reset).guard.filtered = false := by decide +kernel

theorem test_pressure_limits : (after (.setPressureLimits 5 0 1 2000 4) ready).settings.lowWatermark = 1024 ∧
    (after (.setPressureLimits 5 0 1 2000 4) ready).settings.criticalReserve = 8 := by decide +kernel

theorem test_generator :
    let d := after (.setGenerator 5 0 1 ⟨0, 1, 40, 1000⟩) ready
    d.gens[0].due = some 1005 ∧ (after (.pacingGrant 0) d).gens[0] = ⟨some 2005, 0, 500000⟩ := by decide +kernel

theorem test_clear_faults :
    let d : Dev := { ready with journalMedia := true }
    (after (.clearFaults 5 0 1 1) d).journalMedia = false ∧ (after (.clearFaults 5 0 1 2) d).journalMedia = true := by
  decide +kernel

theorem test_function_reset :
    let d := after (.functionReset 5 0) (after (.readStatus 4 0 1) ready)
    d.ports[0].state = .offline ∧ d.ports[0].respQ = [] := by decide +kernel

theorem test_first_start :
    let d := after (.powerUp 9 ⟨[], [7]⟩) (after (.powerLoss 5) Dev.reset)
    d.part = .starting ∧ d.power.kind = .first ∧ d.free = 2047 ∧ (d.seg 7).state = .retired ∧
      (after (.startEnd 10) d).power.startCount = 2 := by decide +kernel

/-- R176, R177: at the end of a start every latch is clear but RETENTION_LOST. -/
theorem test_startEndClearsTheLatches :
    let d : Dev := { ready with part := .starting, journalMedia := true, retentionLost := true }
    let e := (d.modPort 1 fun q => { q with overrun := true }).modSite 2 fun x => { x with protocol := true }
    e.latchedFaults.length = 4 ∧ (after (.startEnd 10) e).latchedFaults = [(.retentionLost, .part)] := by decide +kernel

theorem test_quiesce :
    let d := after (.powerWarnAssert 5) Dev.reset
    d.part = .quiescing ∧ d.power.phase = .shutdownPlaced ∧ (after (.powerWarnDeassert 6) d).power.phase = .returning ∧
      (after (.pageProgramComplete 9 true) d).power.latch = true := by decide +kernel

/-- R187: a FLUSH's SETTINGS record stands in A while B is programmed; neither its commit timer nor the FLUSH closes A, which takes
FRONTIER and SHUTDOWN too, and a power-warn that ends closes it. -/
theorem test_quiesceFillsOnePage :
    let d : Dev :=
      { ready with
        part := .quiescing, power := { warn := true, causePower := true, phase := .placing }
        journal :=
          { bufA := { state := .filling, recs := [⟨.settings {}, none⟩] }, commitDue := some 9
            bufB := { state := .programming, recs := [⟨.resume 1, none⟩] }, progQ := [.b] }
        array := { segs := [(0, { state := .filling })], baseErase := 1, op := some (.program .b 0 0 1) } }.flushNow ⟨0, 3⟩
    d.journal.progQ = [.b] ∧ (after .commitTimerExpiry d).journal.progQ = [.b] ∧
      (after (.powerWarnDeassert 5) d).journal.progQ = [.b, .a] ∧
      (let u := after (.pageProgramComplete 20 true) (after .commitTimerExpiry d)
       u.journal.progQ = [.a] ∧ u.journal.bufA.recs.length = 3 ∧ u.power.phase = .shutdownPlaced) := by decide +kernel

/-- R61: a HELLO that waits for a slot that has been evicted is dropped; a RECEIPT for it is sent. -/
theorem test_frames_of_an_evicted_slot :
    let d (b : FrameBody) : Dev := (peered.modSite 0 fun x => { x with state := .evicted }).modSpan 0 fun x =>
      { x with ctrlQ := [⟨4, 3, 1, b⟩] }
    (after (.functionReset 5 1) (d (.hello 3))).span[(0 : SpanId)] = {} ∧
      (after (.functionReset 5 1) (d (.busy 9))).span[(0 : SpanId)].sending = some ⟨4, 3, 1, .busy 9⟩ := by decide +kernel

/-- R160: GUARD ON while the software guard is ON leaves the engine as it is. -/
theorem test_guard_on_again :
    (∀ software : Bool,
      let d : Dev := { ready with
        settings := { guardMap := 2 }, reclaim := { engine := .waiting 32 }, guard := { software := software } }
      (d.turnGuardOn.reclaim.engine = .idle ↔ software = false)) := by decide +kernel


/-! ## The hypotheses of the statements are met

`Meets d` is what most statements about a command ask for: the part is up, CP0 is free, nothing competes for the intake
arbiter, and a record of each size that a command places finds room. -/

def Meets (d : Dev) : Prop :=
  d.up ∧ d.portFree 0 ∧ d.intakeFree ∧ d.canPlace 32 ∧ d.canPlace 1536 ∧ d.canPlaceBoth ∧ d.journal.buffersOk = true ∧
    d.tablesOk = true

def meetsCheck (d : Dev) : Bool :=
  d.power.powered && d.part == .ready && d.ports[(0 : PortId)].state == .online && d.ports[(0 : PortId)].cmdQ == []
    && d.ports[(0 : PortId)].taken == [] && d.ports[(0 : PortId)].lookup == none
    && decide (d.ports[(0 : PortId)].respQ.length < 64) && d.intake.grant == none && d.journal.ctrlQ == []
    && decide (∀ q : PortId, d.ports[q].cmdQ = []) && (d.journal.target 32).isSome && (d.journal.target 1536).isSome
    && (d.journal.target 1568).isSome && d.array.programTarget.isSome && d.journal.buffersOk && d.tablesOk

theorem meets_of {d : Dev} (h : meetsCheck d = true) : Meets d := by
  simp only [meetsCheck, Bool.and_eq_true, beq_iff_eq, decide_eq_true_eq] at h
  obtain ⟨⟨⟨⟨⟨⟨⟨⟨⟨⟨⟨⟨⟨⟨⟨h1, h2⟩, h3⟩, h4⟩, h5⟩, h6⟩, h7⟩, h8⟩, h9⟩, h10⟩, h11⟩, h12⟩, h13⟩, h14⟩, h15⟩, h16⟩ := h
  have hp : d.programStalled = false := by
    unfold Dev.programStalled
    cases hn : d.array.programTarget <;> simp_all
  exact ⟨⟨h1, h2⟩, ⟨h3, h4, h5, h6, h7⟩, ⟨h8, h9, h10⟩, ⟨hp, h11⟩, ⟨hp, h12⟩, ⟨⟨hp, h13⟩, .inl h14⟩, h15, h16⟩

/-- CP0 holds n responses. -/
def holding (n : Nat) : Dev :=
  { ready with ports := #v[{ state := .online, respQ := List.replicate n ⟨32, .done, 0, 0, .none⟩ }, {}, {}, {}] }

/-- An intent of peered, sequence 1. -/
def record : IntentRec :=
  { seq := 1, kind := .put, origin := 0, tag := 7, bucket := 1, keyHash := 5, key := [1, 2, 3, 4], stamp := 0x104
    payloadLen := 16, locator := 32, digest := 0, entry := none, siteSet := 1, quorum := 1, held := false }

def markedSlot : Slot :=
  { written := true, origin := 0, tag := 7, marks := [(0, .pending)], quorum := 1, outcome := .live, link := some 40 }

def keyEntry : KeyEntry := ⟨1, 5, 4, 1, some (1, 0x104), 1⟩

/-- The intent stands in segment 0, its page cached or not, and its slot and key entry are filled. -/
def stored (cache : List Nat) : Dev :=
  { peered with
    journal := { nextSeq := 2, nextPos := 2, tailCache := cache }
    array := { segs := [(0, { state := .filling, pages := [⟨0, 1, [.intent record], true⟩] })], baseErase := 1 }
    index := { ways := [(40, keyEntry)] }
    status := { slots := [(1, markedSlot)] } }

/-- The intent stands in a staging buffer. -/
def staged : Dev :=
  { peered with
    journal := { nextSeq := 2, bufA := { state := .filling, recs := [⟨.intent record, none⟩] }, commitDue := some 200 }
    index := { ways := [(40, keyEntry)] }
    status := { slots := [(1, { markedSlot with written := false })] } }

theorem witness_CommandRowsPostTheirRecord :
    (Instr.flush 5 0 1 0).posts = some (5, 0, ⟨1, .flush 0⟩) ∧ (Instr.guardOn 5 3 1).posts = some (5, 3, ⟨1, .guardOn⟩) := by
  decide +kernel

/-- A command waits at the 64th place, behind a command that holds the port or in a quiesce; the 65th is an overrun. -/
theorem witness_PostedCommandWaitsOrOverruns :
    (let d : Dev := (holding 62).modPort 0 fun q => { q with taken := [{ id := 0, cid := 1, kind := 2 }] }
     d.power.powered = true ∧ d.ports[(0 : PortId)].outstanding = 63 ∧ d.ports[(0 : PortId)].isHeld = true ∧
       d.ports[(0 : PortId)].cmdQ = []) ∧
    (let d : Dev := { holding 63 with part := .quiescing }
     d.part = .quiescing ∧ d.ports[(0 : PortId)].outstanding = 63 ∧ d.ports[(0 : PortId)].cmdQ = []) ∧
    (∀ b, CmdBody.guardOn ≠ .append b) ∧ (holding 64).power.powered = true ∧ (holding 64).ports[(0 : PortId)].outstanding = 64 :=
  ⟨by decide +kernel, by decide +kernel, (fun _ => CmdBody.noConfusion), by decide +kernel⟩

/-- An idle port in each state, in a part that is STARTING or READY; the 63rd response leaves room. -/
theorem witness_AnswersBeforeTheCommandsRule :
    (∀ (part : PartState) (st : PortState),
      let d : Dev := { (holding 63).modPort 0 fun q => { q with state := st } with part := part }
      d.power.powered = true ∧ d.portIdle 0 ∧ d.part = part ∧ d.ports[(0 : PortId)].state = st) ∧
    CmdBody.guardOn ≠ .readStatus ∧ CmdBody.guardOn ≠ .attachPort ∧ Meets (holding 63) := by
  refine ⟨fun part st => ⟨rfl, ⟨rfl, rfl, rfl, ?_⟩, rfl, rfl⟩, by decide, by decide, meets_of (by decide +kernel)⟩
  exact (by decide : (63 : Nat) < 64)

/-- A quiesce that the lines hold, and a part that is not in one. -/
theorem witness_RecordsLeaveTheQueuesInOrder : ready.power.powered = true ∧ ready.part ≠ .quiescing ∧
    (let d : Dev := { ready with part := .quiescing, power := { causeReset := true, resetLine := true } }
     d.part = .quiescing ∧ d.power.causeReset = true ∧ d.power.resetLine = true) := by decide +kernel

theorem witness_ReadStatusReports :
    (ready.power.powered = true ∧ ready.portIdle 0 ∧ ready.part = .ready ∧ ready.ports[(0 : PortId)].state ≠ .fenced) ∧
    (let d : Dev := { ready.modPort 0 fun q => { q with state := .fenced } with part := .starting }
     d.power.powered = true ∧ d.portIdle 0 ∧ d.part = .starting) := by
  simp only [Dev.portIdle]; decide +kernel

theorem witness_ClearFaultsClears : Meets { ready with journalMedia := true } := meets_of (by decide +kernel)

/-- ATTACH PORT at an ONLINE port and at one that is not, where an intent holds the FETCH-BLOCKED flag; DETACH PORT with a payload
read through the port, with another ONLINE port and without one. -/
theorem witness_PortsAttachAndDetach : Meets ready ∧
    (∀ st : PortState, st = .offline ∨ st = .lost →
      let d : Dev := ready.modPort 0 fun q => { q with state := st }
      d.up ∧ d.portIdle 0 ∧ d.ports[(0 : PortId)].state = st) ∧
    (let x : Slot := { markedSlot with fetchBlocked := true }
     let d : Dev := { (stored []).modPort 0 fun q => { q with state := .offline } with status := { slots := [(1, x)] } }
     d.tablesOk = true ∧ d.slot? 1 = some x ∧ x.fetchBlocked = true ∧ (0, .pending) ∈ x.marks ∧ ∀ q, ready.slot? q = none) ∧
    (let f : Fetch := ⟨⟨1, 0, 4, 32, 0xB63CFBCD⟩, 0, 100, true, none, 5⟩
     let d : Dev := { stored [] with fetch := { active := [f] } }
     Meets d ∧ f.port = 0 ∧ f.reading = true ∧ (d.fetch.active.map fun f => f.req.seq).Nodup ∧
       (∀ q, ¬ (q ≠ (0 : PortId) ∧ d.ports[q].state = .online)) ∧
       (let e : Dev := d.modPort 1 fun q => { q with state := .online }
        Meets e ∧ (1 : PortId) ≠ 0 ∧ e.ports[(1 : PortId)].state = .online ∧
          ∀ k : PortId, k ≠ 0 ∧ e.ports[k].state = .online → (1 + 3 - 0) % 4 ≤ (k.val + 3 - 0) % 4)) :=
  ⟨meets_of (by decide +kernel), fun _ _ => ⟨⟨rfl, rfl⟩, ⟨rfl, rfl, rfl, (by decide : (0 : Nat) < 64)⟩, rfl⟩,
    ⟨rfl, rfl, rfl, by decide, fun _ => rfl⟩, meets_of (by decide +kernel), by decide +kernel, by decide +kernel,
    by decide +kernel, by decide +kernel, meets_of (by decide +kernel), by decide +kernel⟩

theorem witness_FunctionResetClearsThePort : ready.power.powered = true := rfl

/-- FENCE PORT of CP1, UNFENCE PORT of it; and the refusals: port 4, the commanding port, a port in the wrong state. -/
theorem witness_FencePortAndUnfencePort :
    (let d : Dev := ready.modPort 1 fun q => { q with state := .fenced }
     Meets ready ∧ ready.ports[(1 : PortId)].state ≠ .fenced ∧ Meets d ∧ d.ports[(1 : PortId)].state = .fenced) ∧
    (1 : PortId) ≠ 0 ∧ 3 < 4 ∧ (0 : Nat) = (0 : PortId).val :=
  ⟨⟨meets_of (by decide +kernel), by decide +kernel, meets_of (by decide +kernel), by decide +kernel⟩, by decide, by decide, rfl⟩

theorem witness_SetNoticeMaskAndSetLocalSite :
    Meets ready ∧ ([1, 1, 1, 1, 1, 2, 3].length = 7 ∧ ∃ k ∈ [1, 1, 1, 1, 1, 2, 3], k ≠ 1 ∧ k ≠ 2) ∧
    (127 : BitVec 7) = ready.settings.masks[(0 : PortId)] ∧ (126 : BitVec 7) ≠ ready.settings.masks[(0 : PortId)] ∧
    15 < 16 ∧ ready.settings.localSite ≠ none ∧
    (let d : Dev := { ready with settings := {} }
     Meets d ∧ d.settings.localSite = none) :=
  ⟨meets_of (by decide +kernel), by decide, by decide, by decide, by decide, by decide, meets_of (by decide +kernel), by decide⟩

/-- The guard line filtered ASSERTED and DEASSERTED, and an erase waiting in a group that is MARKED or not. The raw
level against the filtered level, in each combination that the clauses name; a settling timer; no power. -/
theorem witness_GuardsAndGuardLine :
    ((Meets ready ∧ ready.guard.filtered = true ∧ ∀ n, ready.reclaim.engine ≠ .waiting n) ∧
     (let d : Dev := { ready with guard := { filtered := false } }
      Meets d ∧ d.guard.filtered = false) ∧
     (let d : Dev := { ready with settings := { guardMap := 2 }, reclaim := { engine := .waiting 32 } }
      Meets d ∧ d.guard.software = false ∧ d.reclaim.engine = .waiting 32 ∧ d.settings.guardMap.getLsbD (32 / 32) = true) ∧
     (let d : Dev := { ready with guard := { software := true } }
      Meets d ∧ d.guard.software = true) ∧
     (let d : Dev := { ready with settings := { guardMap := 2 }, reclaim := { engine := .waiting 31 } }
      Meets d ∧ d.reclaim.engine = .waiting 31 ∧ d.settings.guardMap.getLsbD (31 / 32) = false)) ∧
    (let d (f r : Bool) : Dev := { ready with guard := ⟨false, f, r, some 10⟩ }
     ((d true false).power.powered = true ∧ true = (d true false).guard.filtered) ∧
     (false ≠ (d true true).guard.filtered ∧ false ≠ (d true true).guard.raw) ∧
     (false ≠ (d true false).guard.filtered ∧ false = (d true false).guard.raw) ∧ (d true false).guard.settleDue = some 10 ∧
     ({ ready with power := { powered := false } } : Dev).power.powered = false) :=
  ⟨⟨⟨meets_of (by decide +kernel), rfl, fun _ h => nomatch h⟩, ⟨meets_of (by decide +kernel), rfl⟩,
    ⟨meets_of (by decide +kernel), rfl, rfl, by decide⟩, ⟨meets_of (by decide +kernel), rfl⟩,
    ⟨meets_of (by decide +kernel), rfl, by decide⟩⟩, by decide +kernel⟩

theorem witness_GuardMapAndPressureLimitsStore :
    (Meets ready ∧ ready.guard.filtered = true) ∧
    (let d : Dev := { ready with guard := { filtered := false } }
     Meets d ∧ d.guard.filtered = false ∧ (0 : Word64) = d.settings.guardMap ∧ (1 : Word64) ≠ d.settings.guardMap) ∧
    (max (max 8 (min 256 32) + 1) (min 1024 128) = ready.settings.lowWatermark ∧
      max 8 (min 256 32) = ready.settings.criticalReserve) ∧
    (max (max 8 (min 256 32) + 1) (min 1024 129) ≠ ready.settings.lowWatermark) :=
  ⟨⟨meets_of (by decide +kernel), rfl⟩, ⟨meets_of (by decide +kernel), rfl, by decide, by decide⟩, by decide, by decide⟩

/-- Entry 48 is bad and entry 47 is not; an entry as it stands, and one that changes; a mode as it stands. -/
theorem witness_PlacementSettingsAreStored :
    Meets ready ∧ 47 < 48 ∧ ((47 : Nat) = (47 : Fin 48).val ∧ ¬ (47 < 47 ∨ (1 : Nat) = 0)) ∧
    ready.settings.placement[(47 : Fin 48)] = {} ∧ (3 ≠ 1 ∧ 3 ≠ 2) ∧
    ({ strict := true, mirrorAll := false, defaultQuorum := 1, holdLimit := 30, expiryAction := .denied } : PlacementMode) =
      ready.settings.mode :=
  ⟨meets_of (by decide +kernel), by decide, by decide, by decide +kernel, by decide, by decide⟩

/-- A bucket that an entry decides, one that MIRROR-ALL decides, and one that nothing decides. -/
theorem witness_PlacementIsDecidedAndReported :
    (let d : Dev := { ready with settings := { placement := (Vector.replicate 48 {}).set 47 { enabled := true, bucket := 9 } } }
     d.settings.deciding 9 = some 47 ∧ Meets d) ∧
    (peered.settings.deciding 9 = none ∧ peered.settings.mode.mirrorAll = true) ∧
    (ready.settings.deciding 9 = none ∧ ready.settings.mode.mirrorAll = false) ∧ 47 < 48 :=
  ⟨⟨by decide +kernel, meets_of (by decide +kernel)⟩, by decide +kernel, by decide +kernel, by decide⟩

theorem witness_DecidingEntryIsTheFirstMatch :
    (let e : PlacementEntry := { enabled := true, bucket := 9 }
     e.enabled = true ∧ e.mask = 0) ∧
    (let e : PlacementEntry := { enabled := true, mask := 0xFFFFFFFF }
     e.enabled = true ∧ e.mask = 0xFFFFFFFF) ∧
    (let d : Dev := { ready with settings := { placement := (Vector.replicate 48 {}).set 0 { enabled := true, bucket := 9 } } }
     d.settings.deciding 9 = some 0 ∧ d.settings.deciding 8 = none) ∧
    (peered.settings.deciding 9 = none ∧ peered.settings.mode.mirrorAll = true) := by decide +kernel

/-- Generator 0 runs, and slot 0 is PACED by it. -/
def paced : Dev :=
  { peered with
    settings := { peered.settings with
      sites := #v[{ siteConf with mode := .paced }, {}, {}, {}, {}, {}, {}, {}]
      gens := (Vector.replicate 8 {}).set 0 ⟨true, 40, 1000⟩ }
    gens := (Vector.replicate 8 {}).set 0 { due := some 1000 } }

/-- SET GENERATOR and SET SITE PACING: a field out of range at its boundary; nothing changed; a change; a slot that is
DETACHED, ACTIVE and not ACTIVE, with and without a change of mode. -/
theorem witness_PacingSettingsAreStored :
    (7 < 8 ∧ ¬ (7 < 7 ∨ (1 : Nat) = 0)) ∧ Meets ready ∧ Meets peered ∧
    (⟨false, min 1 1000, 1000⟩ : GenSettings) = ready.settings.gens[(7 : GenId)] ∧
    (⟨true, min 1 1000, 1000⟩ : GenSettings) ≠ ready.settings.gens[(7 : GenId)] ∧
    ready.sites[(7 : SlotId)].state = .detached ∧ peered.sites[(0 : SlotId)].state = .active ∧
    ({ peered.settings.sites[(0 : SlotId)] with share := min 1024 1024 } : SiteConfig) = peered.settings.sites[(0 : SlotId)] ∧
    peered.settings.sites[(0 : SlotId)].mode ≠ .paced ∧
    (let d : Dev := peered.modSite 0 fun x => { x with state := .stalled }
     Meets d ∧ d.sites[(0 : SlotId)].state ≠ .active ∧ d.sites[(0 : SlotId)].state ≠ .detached) ∧
    (paced.isMember 0 0 = true ∧ paced.sites[(0 : SlotId)].state = .active) :=
  ⟨by decide, meets_of (by decide +kernel), meets_of (by decide +kernel), by decide +kernel, by decide +kernel, by decide +kernel,
    by decide +kernel, by decide +kernel, by decide +kernel, ⟨meets_of (by decide +kernel), by decide +kernel⟩, by decide +kernel⟩

theorem witness_PacingGrantDividesTheGrant : paced.up ∧ paced.gens[(0 : GenId)].due = some 1000 ∧ paced.members 0 = [0] :=
  ⟨⟨rfl, rfl⟩, by decide +kernel, by decide +kernel⟩

theorem witness_GrantOfAGenerator :
    (1 ≤ 1000 ∧ 1000 ≤ 1000) ∧
    (let d : Dev := { ready with gens := (Vector.replicate 8 {}).set 0 { due := some 1000 } }
     d.up ∧ d.gens[(0 : GenId)].due = some 1000 ∧
       ∀ j : SlotId, d.sites[j].state = .active → (d.config j).mode = .paced → (d.config j).gen ≠ 0) :=
  ⟨by decide, ⟨rfl, rfl⟩, by decide +kernel, by decide +kernel⟩

theorem witness_RoundTripEstimateAndIntervals :
    ((0 : Int) ≤ 0 ∧ (4000000 : Int) ≤ 4000000 ∧ (100 : Int) ≤ 100) ∧ (1 ≤ 8 ∧ 8 ≤ 8) ∧
    ((paced.config 0).mode = .paced ∧ paced.sites[(0 : SlotId)].rtt = none ∧ 0 < paced.settings.gens[(paced.config 0).gen].period) ∧
    (peered.config 0).mode = .unpaced := by decide +kernel

theorem witness_JournalAndKeySummaries : Meets ready ∧ (⟨0, 0, 0, []⟩ : KeyQuery).keyLen = 0 ∧ 240 < (⟨0, 0, 241, []⟩ : KeyQuery).keyLen :=
  ⟨meets_of (by decide +kernel), rfl, by decide⟩

/-- The key has no entry; its source stands in a buffer, in a cached page, in the array, nowhere. -/
theorem witness_ReadJournalAndQueryKeyAnswer :
    ((24 % 16 ≠ 0 ∧ 32 % 16 = 0) ∧ (Meets ready ∧ ready.journal.nextSeq ≤ 1) ∧
     (Meets staged ∧ ¬ staged.journal.nextSeq ≤ 1 ∧ staged.journal.passedOver = [] ∧ staged.locate 1 = .buffer record) ∧
     (Meets (stored [1]) ∧ (stored [1]).locate 1 = .cache record) ∧ (Meets (stored []) ∧ (stored []).locate 1 = .array 0 0) ∧
     (let w : DmaWrite := ⟨0, 32, [], some (⟨0, 5⟩, 128, true)⟩
      let x : Taken := { id := 5, cid := 1, kind := 3 }
      let d : Dev := { ready.modPort 0 fun q => { q with taken := [x] } with dma := [w] }
      d.power.powered = true ∧ (d.dma.find? fun e => e.port = 0 ∧ e.journal ≠ none) = some w ∧
        d.ports[(0 : PortId)].taken = [x] ∧ x.id = 5)) ∧
    ((1 ≤ 1 ∧ 240 ≤ 240) ∧ (Meets ready ∧ ready.index.find 1 5 4 = none) ∧
     (Meets staged ∧ staged.index.find 1 5 4 = some 40 ∧ Tbl.get staged.index.ways 40 = some keyEntry ∧
       staged.locate 1 = .buffer record) ∧
     (Meets (stored [1]) ∧ (stored [1]).index.find 1 5 4 = some 40 ∧ (stored [1]).locate 1 = .cache record) ∧
     (Meets (stored []) ∧ (stored []).index.find 1 5 4 = some 40 ∧ (stored []).locate 1 = .array 0 0) ∧
     (let d : Dev := { stored [] with array := {} }
      Meets d ∧ d.index.find 1 5 4 = some 40 ∧ d.locate 1 = .absent)) :=
  ⟨⟨by decide, ⟨meets_of (by decide +kernel), by decide⟩, ⟨meets_of (by decide +kernel), by decide +kernel⟩,
    ⟨meets_of (by decide +kernel), by decide +kernel⟩, ⟨meets_of (by decide +kernel), by decide +kernel⟩, by decide +kernel⟩,
    ⟨by decide, ⟨meets_of (by decide +kernel), by decide +kernel⟩, ⟨meets_of (by decide +kernel), by decide +kernel⟩,
    ⟨meets_of (by decide +kernel), by decide +kernel⟩, ⟨meets_of (by decide +kernel), by decide +kernel⟩,
    ⟨meets_of (by decide +kernel), by decide +kernel⟩⟩⟩

/-- The five conditions that refuse an APPEND, each as the first that holds: no local site number; a malformed field, with the
key length at 0, 240 and 241; a stamp of another site; a headroom of 1,024; no placement. -/
theorem witness_AppendRefusals :
    (let d : Dev := { ready with settings := {} }
     Meets d ∧ d.canPlace 128 ∧ d.settings.localSite = none ∧ d.lookup 1 5 4 [1, 2, 3, 4] = .known .none) ∧
    (Meets ready ∧ ready.canPlace (recordSize (min 0 255)) ∧ ready.canPlace (recordSize (min 241 255)) ∧
      ready.canPlace (recordSize (min 240 255)) ∧ (0 < 1 ∧ 240 < 241) ∧ anAppend.stamp.toNat % 16 = 4 ∧
      ready.lookup 1 5 4 [1, 2, 3, 4] = .known .none ∧ (ready.placement 1).deciding = none) ∧
    (0x103 : Word64).toNat % 16 ≠ 4 ∧
    (let d : Dev := { stored [] with journal := { nextSeq := 4193281 } }
     Meets d ∧ d.canPlace 128 ∧ d.headroom = 1024) := by
  refine ⟨⟨meets_of (by decide +kernel), ?_⟩, ⟨meets_of (by decide +kernel), ?_⟩, by decide, meets_of (by decide +kernel), ?_⟩
  all_goals simp only [Dev.canPlace]
  all_goals decide +kernel

/-- The key of anAppend has the entry e. Its placement holds it or not, and a number of intents are held. -/
def keyed (e : KeyEntry) (held : Bool) (entries : Nat) (action : Decision) : Dev :=
  { stored [1] with
    settings := { peered.settings with
      placement := (Vector.replicate 48 {}).set 0 { enabled := true, bucket := 1, allSites := true, quorum := 1, hold := held }
      mode := { mirrorAll := true, expiryAction := action } }
    index := { ways := [(40, e)] }
    held := { entries := List.replicate entries ⟨9, .waiting none⟩ } }

theorem witness_AppendStagesANewKey :
    (Meets peered ∧ peered.canPlace (recordSize anAppend.keyLen) ∧ peered.appendRefusal anAppend = none ∧
      intentKindOf anAppend.kind = some .put ∧ anAppend.key.length = anAppend.keyLen ∧
      (peered.placement anAppend.bucket).held = false ∧
      peered.index.find anAppend.bucket anAppend.keyHash anAppend.keyLen = none) ∧
    (∀ (full : Bool) (action : Decision),
      let d := keyed keyEntry full (if full then 4096 else 0) action
      let o : Outcome27 := .found 40 1 .matched
      let g : Dev := { (d.tick 5).granted 0 1 1 .none with intake := ⟨0, some ⟨⟨0, 0⟩, .examine anAppend o⟩⟩ }
      Meets d ∧ d.canPlace 128 ∧ d.appendRefusal anAppend = none ∧ d.lookup 1 5 4 [1, 2, 3, 4] = .known o ∧ d.nextToken = 0 ∧
        (g.examineAppend ⟨0, 0⟩ anAppend o).intake.grant =
          if full then some ⟨⟨0, 0⟩, .second ⟨.decision 2 action, some ⟨0, 0⟩⟩⟩ else none) ∧
    (Meets (stored []) ∧ (1 ≤ 1 ∧ 240 ≤ 240) ∧ (stored []).lookup 1 5 4 [1, 2, 3, 4] = .read 0 0 1 40 1) ∧
    (∀ (held : Bool) (e : KeyEntry),
        e = keyEntry ∨ e = { keyEntry with live := some (1, 0x105) } ∨ e = { keyEntry with count := 255 } →
      let d := keyed e held 4095 .denied
      d.appendRefusal anAppend = none ∧ (d.placement 1).held = held ∧ ¬ 4096 ≤ d.held.entries.length ∧
        d.index.find 1 5 4 = some 40 ∧ Tbl.get d.index.ways 40 = some e) ∧
    ((0x104 : Word64) < 0x105 ∧ ¬ (0x104 : Word64) < 0x104 ∧ keyEntry.count ≠ 255 ∧ keyEntry.count < 255) ∧
    (∀ action, (keyed keyEntry true 4096 action).settings.mode.expiryAction = action ∧
      ((keyed keyEntry true 4096 action).placement 1).held = true ∧
      4096 ≤ (keyed keyEntry true 4096 action).held.entries.length) ∧
    (∀ (c : LookupResult), Outcome27.none ≠ .found 40 1 c) ∧
    (let d : Dev := { peered with index := { ways := (List.range 8).map fun i => (40 + i, { keyEntry with keyHash := 65541 }) } }
     d.appendRefusal anAppend = none ∧ d.index.find 1 5 4 = none ∧ d.index.freeWay 5 = none) ∧
    (peered.index.find 1 5 4 = none ∧ peered.index.freeWay 5 = some 40) := by
  refine ⟨⟨meets_of (by decide +kernel), ?_⟩, ?_, ⟨meets_of (by decide +kernel), by decide +kernel⟩, ?_, by decide, ?_,
    (fun _ => Outcome27.noConfusion), by decide +kernel, by decide +kernel⟩
  · simp only [Dev.canPlace]; decide +kernel
  · intro full action
    refine ⟨meets_of (by cases full <;> cases action <;> decide +kernel), ?_⟩
    simp only [Dev.canPlace]
    cases full <;> cases action <;> decide +kernel
  · rintro held e (h | h | h) <;> subst h <;> cases held <;> decide +kernel
  · intro action; cases action <;> decide +kernel

theorem witness_FlushClosesTheFillingBuffer :
    (Meets ready ∧ ready.settings.commitDelay = 200 ∧ ready.journal.bufA.state = .empty ∧ ready.journal.bufB.state = .empty) ∧
    (Meets staged ∧ staged.journal.bufA.state = .filling) ∧ max 50 (min 2000 2001) ≠ ready.settings.commitDelay :=
  ⟨⟨meets_of (by decide +kernel), by decide +kernel⟩, ⟨meets_of (by decide +kernel), by decide +kernel⟩, by decide⟩

/-- The intent of `stored` is held and waits. -/
def heldDev : Dev := { stored [] with held := { entries := [⟨1, .waiting (some 900)⟩] } }

theorem witness_ReleaseAndDenyDecide :
    (Meets ready ∧ ready.journal.nextSeq ≤ 1) ∧
    (Meets (stored []) ∧ (stored []).inJournal 1 = true ∧ (stored []).journal.passedOver = [] ∧ ¬ (stored []).journal.nextSeq ≤ 1 ∧
      (stored []).heldEntry 1 = none) ∧
    (Meets heldDev ∧ heldDev.inJournal 1 = true ∧ heldDev.heldEntry 1 = some ⟨1, .waiting (some 900)⟩) :=
  ⟨⟨meets_of (by decide +kernel), by decide⟩, ⟨meets_of (by decide +kernel), by decide +kernel⟩,
    ⟨meets_of (by decide +kernel), by decide +kernel⟩⟩

theorem witness_AttachSiteBeginsProbing :
    (let d : Dev := { ready with settings := {} }
     Meets d ∧ d.settings.localSite = none) ∧
    (Meets ready ∧ ready.settings.localSite = some 4 ∧ ready.sites[(7 : SlotId)].state = .detached) ∧
    (7 < 8 ∧ 15 < 16 ∧ (7 : Nat) = (7 : SlotId).val ∧ (2 : Nat) = (1 : SpanId).val + 1 ∧ (3 : Nat) = (3 : Fin 4).val) ∧
    ¬ (7 < 7 ∨ (2 ≠ 1 ∧ 2 ≠ 2) ∨ 3 < 3 ∨ (1 ≠ 1 ∧ 1 ≠ 2)) ∧
    (Meets peered ∧ peered.sites[(0 : SlotId)].state ≠ .detached ∧ peered.settings.sites[(0 : SlotId)].site = some 3) :=
  ⟨⟨meets_of (by decide +kernel), rfl⟩, ⟨meets_of (by decide +kernel), by decide +kernel⟩, by decide, by decide,
    meets_of (by decide +kernel), by decide +kernel⟩

theorem witness_DetachSiteClearsTheSlot :
    Meets peered ∧ peered.settings.localSite ≠ none ∧ peered.sites[(0 : SlotId)].state ≠ .detached :=
  ⟨meets_of (by decide +kernel), by decide +kernel⟩

theorem witness_FenceUnfenceAndRejoinSite :
    (∀ st ∈ ([.probing, .active, .stalled, .fenced, .evicted] : List SiteState),
      let d : Dev := peered.modSite 0 fun x => { x with state := st }
      Meets d ∧ d.settings.localSite = some 4 ∧ d.settings.sites[(0 : SlotId)].site = some 3 ∧ d.sites[(0 : SlotId)].state = st) ∧
    (Meets ready ∧ ready.settings.localSite ≠ none ∧ 7 < 8 ∧ ready.sites[(7 : SlotId)].state = .detached) ∧
    Meets { ready with settings := {} } :=
  ⟨fun st _ => ⟨meets_of (by cases st <;> decide +kernel), rfl, rfl, rfl⟩,
    ⟨meets_of (by decide +kernel), by decide +kernel⟩, meets_of (by decide +kernel)⟩

/-- The floor of `stored` is 1: a target of 0 lies below it, 1 does not, 2 is the next sequence and 3 lies beyond it. -/
theorem witness_RewindSiteReturnsMarks :
    (Meets (stored []) ∧ (stored []).settings.localSite ≠ none ∧ (stored []).rewindFloor = 1 ∧ (stored []).journal.nextSeq = 2 ∧
      (stored []).sites[(0 : SlotId)].state = .active ∧ (stored []).sites[(7 : SlotId)].state = .detached) ∧
    (7 < 8 ∧ 0 < 1 ∧ 2 < 3) ∧
    (let d : Dev := { stored [] with settings := {} }
     Meets d ∧ d.settings.localSite = none) :=
  ⟨⟨meets_of (by decide +kernel), by decide +kernel⟩, by decide, meets_of (by decide +kernel), rfl⟩

/-- An arrival of peered, with one chunk of 4 bytes that is missing. -/
def arrival : Arrival := { id := 1, slot := 0, desc := anOpen, kind := .put, blocks := 1, silenceDue := some 20000 }

def arriving (a : Arrival) : Dev := { peered with inbound := { arrivals := [a], nextId := 2 } }

theorem witness_SiteInboundAndSegmentReports :
    (Meets ready ∧ ready.settings.localSite ≠ none ∧ 7 < 8 ∧ 2047 < 2048 ∧ 2047 ≤ 2047 ∧
      (ready.inbound.arrivals.find? fun a => a.id == 1) = none) ∧
    (Meets (arriving arrival) ∧ ((arriving arrival).inbound.arrivals.find? fun a => a.id == 1) = some arrival) ∧
    (let d : Dev := { ready with settings := {} }
     Meets d ∧ d.settings.localSite = none) :=
  ⟨⟨meets_of (by decide +kernel), by decide +kernel⟩, ⟨meets_of (by decide +kernel), by decide +kernel⟩,
    ⟨meets_of (by decide +kernel), rfl⟩⟩

theorem witness_QueryIntentReports :
    (Meets ready ∧ ready.journal.nextSeq ≤ 1) ∧
    (Meets (stored []) ∧ ¬ (stored []).journal.nextSeq ≤ 1 ∧ (stored []).inJournal 1 = true ∧ (stored []).slot? 1 = some markedSlot) ∧
    (let d : Dev := { stored [] with status := {} }
     Meets d ∧ d.inJournal 1 = true ∧ d.slot? 1 = none) :=
  ⟨⟨meets_of (by decide +kernel), by decide⟩, ⟨meets_of (by decide +kernel), by decide +kernel⟩,
    ⟨meets_of (by decide +kernel), by decide +kernel⟩⟩

/-- A slot that is STAGED; one whose marks reach the quorum; one whose marks cannot; with its origin ONLINE or not. -/
theorem witness_EvaluationGivesOneVerdict :
    (staged.slot? 1).map (fun x => x.written) = some false ∧ (stored []).slot? 1 = some markedSlot ∧
    (let x : Slot := { markedSlot with marks := [(0, .acked)] }
     x.written = true ∧ x.verdict = none ∧ x.held = false ∧ x.quorum ≤ (x.marks.filter fun e => e.2 = .acked).length) ∧
    (let x : Slot := { markedSlot with marks := [(0, .failed)] }
     (x.marks.filter fun e => e.2 = .acked).length + (x.marks.filter fun e => e.2 = .pending ∨ e.2 = .inFlight).length < x.quorum) ∧
    peered.ports[(0 : PortId)].state = .online ∧ peered.ports[(1 : PortId)].state ≠ .online ∧
    (∀ p : PortId, Dev.reset.ports[p].state ≠ .online) := by decide +kernel

/-- POST LANDING with a capacity of 4,095 and 4,096, with the list full and with one place left; a delivery that completes. -/
theorem witness_LandingsAreDeliveredAndFinished :
    ((Meets ready ∧ 4095 < 4096 ∧ ready.ports[(0 : PortId)].landings = [] ∧ ready.inbound.arrivals = []) ∧
     (let d (n : Nat) : Dev := ready.modPort 0 fun q => { q with landings := List.replicate n ⟨7, 0, 4096⟩ }
      Meets (d 256) ∧ 256 ≤ (d 256).ports[(0 : PortId)].landings.length ∧ Meets (d 255) ∧
        (d 255).ports[(0 : PortId)].landings.length < 256 ∧ ∀ x ∈ (d 256).ports[(0 : PortId)].landings, x.id ≠ 8) ∧
     (let a : Arrival := { arrival with state := .delivering, delivery := some (0, ⟨7, 0, 4096⟩) }
      let d := arriving a
      d.power.powered = true ∧
        (d.inbound.arrivals.filter fun x => x.state = .delivering ∧ (x.delivery.map (·.1)) = some 0) = [a] ∧
        d.settings.sites[a.slot].site = some 3)) ∧
    ((let a : Arrival := { arrival with state := .delivered, delivery := some (0, ⟨7, 0, 4096⟩) }
      let d := arriving a
      Meets d ∧ (d.inbound.arrivals.find? fun a => a.id == 1) = some a ∧ a.state = .delivered ∧
        (d.inbound.arrivals.find? fun a => a.id == 2) = none ∧ d.inbound.done.length + 1 ≤ 4096) ∧
     (Meets (arriving arrival) ∧ ¬ arrival.state = .delivered) ∧ (3 ≠ 1 ∧ 3 ≠ 2)) :=
  ⟨⟨⟨meets_of (by decide +kernel), by decide +kernel⟩,
    ⟨meets_of (by decide +kernel), by decide +kernel, meets_of (by decide +kernel), by decide +kernel⟩, by decide +kernel⟩,
    ⟨⟨meets_of (by decide +kernel), by decide +kernel⟩, ⟨meets_of (by decide +kernel), by decide +kernel⟩, by decide⟩⟩

theorem hears_peered (d : Dev) (hs : d.sites = peered.sites) (hc : d.settings.sites = peered.settings.sites) :
    d.hearsAt 0 3 := by
  have h : (peered.siteState 0).hears = true ∧ (peered.config 0).site = some 3 ∧
      ∀ k : SlotId, k ≠ 0 → ¬ ((peered.siteState k).hears = true ∧ (peered.config k).site = some 3) := by decide +kernel
  simpa only [Dev.hearsAt, Dev.siteState, Dev.config, hs, hc] using h

/-- The frame comes from site 3, at slot 0, with the start count that is recorded. -/
def Hears (d : Dev) : Prop :=
  d.up ∧ d.settings.localSite = some aHeader.receiver ∧ d.hearsAt 0 aHeader.sender ∧ d.sites[(0 : SlotId)].state ≠ .probing ∧
    d.sites[(0 : SlotId)].peerStart = some aHeader.start

theorem peered_active : peered.sites[(0 : SlotId)].state ≠ .probing ∧ peered.sites[(0 : SlotId)].peerStart = some 7 := by
  decide +kernel

theorem hears_arriving (a : Arrival) : Hears (arriving a) :=
  ⟨⟨rfl, rfl⟩, rfl, hears_peered _ rfl rfl, peered_active.1, peered_active.2⟩

/-- Every fate of an OPEN and of a CARRY: malformed; in the done list; known; new, with the last free place and block or
without one; rivalled by an older and by a newer arrival; a CARRY of no arrival, malformed, present, adding a chunk, and
completing with the right digest and with a wrong one. -/
theorem witness_OpenAndCarryFillTheArrivalList :
    ((∀ a, Hears (arriving a)) ∧ Hears peered ∧
     ((192 : Nat) = 64 + recordSize 4 ∧ anOpen.seq ≠ 0 ∧ anOpen.stamp.toNat % 16 = aHeader.sender ∧ anOpen.kind = 1 ∧
       1 ≤ anOpen.payloadLen ∧ ({ anOpen with seq := 0 } : OpenDesc).seq = 0) ∧
     (let x : Inbound := { done := [⟨0, 9, .stored⟩] }
      (x.done.find? fun e => e.slot == 0 && e.seq == anOpen.seq) = some ⟨0, 9, .stored⟩) ∧
     (∃ a ∈ (arriving arrival).inbound.arrivals, a.slot = 0 ∧ a.desc.seq = anOpen.seq) ∧
     ((4 + 8191) / 8192 ≤ 131072 - (131071 : Nat) ∧ 131072 - (131072 : Nat) < (4 + 8191) / 8192 ∧
       intentKindOf anOpen.kind = some .put ∧ IntentKind.put ≠ .delete) ∧
     (let o : OpenDesc := { anOpen with seq := 10, stamp := 0x113 }
      ((arriving arrival).inbound.arrivals.find? fun a =>
         (a.state == .assembling || a.state == .waitingLanding) && a.desc.bucket == o.bucket && a.desc.keyLen == o.keyLen &&
           a.desc.key == o.key) = some arrival ∧ arrival.desc.stamp < o.stamp ∧ arrival.heldReceipt = none ∧
        (let other : Arrival := { arrival with id := 2, desc := { anOpen with seq := 8, key := [9, 9, 9, 9] }, blocks := 131071 }
         131072 - (([arrival, other] : List Arrival).map fun a => a.blocks).sum + arrival.blocks < (8193 + 8191) / 8192)) ∧
     ((arriving arrival).inbound.arrivals.find? fun a => a.slot == 0 && a.desc.seq == 8) = none ∧
     ((arriving arrival).inbound.arrivals.find? fun a => a.slot == 0 && a.desc.seq == 9) = some arrival ∧
     ((4 + 8191) / 8192 ≤ 1 ∧ ¬ (4 + 8191) / 8192 ≤ 0 ∧ ([1, 2, 3, 4] : List Byte).length = min 8192 (4 - 8192 * 0)) ∧
     arrival.chunks.length + 1 = (arrival.desc.payloadLen + 8191) / 8192 ∧
     crc32 [1, 2, 3, 4] = 0xB63CFBCD ∧ crc32 [1, 2, 3, 4] ≠ arrival.desc.digest ∧ peered.index.find 1 5 4 = none) ∧
    ((let a : Arrival := { arrival with gaps := 3 }
      let d := arriving a
      d.up ∧ (d.inbound.arrivals.find? fun x => x.id == 1) = some a ∧ a.silenceDue = some 20000 ∧ d.settings.localSite = some 4 ∧
        d.settings.sites[a.slot].site = some 3 ∧ a.gaps < 4) ∧
     4 ≤ ({ arrival with gaps := 4 } : Arrival).gaps) :=
  ⟨⟨hears_arriving, ⟨⟨rfl, rfl⟩, rfl, hears_peered _ rfl rfl, by decide +kernel, by decide +kernel⟩, by decide, by decide +kernel,
    by decide +kernel, by decide, by decide +kernel, by decide +kernel, by decide +kernel, by decide, by decide, by decide +kernel,
    by decide +kernel, by decide +kernel⟩, by simp only [Dev.up]; decide +kernel⟩

/-- The answer of the APPEND of `record`. -/
def recordAnswer : AppendAnswer := appendAnswer record { outcome := .live }

/-- A buffer is being programmed: it holds the intent of an APPEND of CP0. -/
def programming (num : Nat) : Dev :=
  { peered with
    journal :=
      { nextSeq := 2, nextPos := 2, bufA := { state := .programming, recs := [⟨.intent record, some ⟨0, 5⟩⟩] }, progQ := [.a] }
    array := { segs := [(0, { state := .filling })], baseErase := 1, op := some (.program .a 0 num 1) }
    index := { ways := [(40, keyEntry)] }
    status := { slots := [(1, { markedSlot with written := false })] }
    ports := #v[{ state := .online, taken := [{ id := 5, cid := 1, kind := 1, holds := false, cont := .append recordAnswer }] }, {}, {}, {}] }

/-- A buffer with one record of a command of CP0 is being programmed. -/
def answering (r : Rec) (c : Cont) : Dev :=
  { heldDev with
    journal := { nextSeq := 2, nextPos := 2, bufA := { state := .programming, recs := [⟨r, some ⟨0, 5⟩⟩] }, progQ := [.a] }
    array := { segs := [(0, { state := .filling })], baseErase := 1, op := some (.program .a 0 0 1) }
    ports := #v[{ state := .online, taken := [{ id := 5, cid := 1, kind := 1, cont := c }] }, {}, {}, {}] }

/-- A page of one live intent, at page 0 and at page 63. For each kind of answer: the port's one command owes no record but that
of the page, and has what it is to be answered with after the records have acted; a release acts on an entry that is DECIDING. -/
theorem witness_PassingPageIsValidAndAnswered :
    (let d := programming 0
     d.up ∧ d.array.op = some (.program .a 0 0 1) ∧ (d.journal.buf .a).recs = [⟨.intent record, some ⟨0, 5⟩⟩] ∧
       d.slot? 1 = some { markedSlot with written := false } ∧ d.intake.grant = none ∧
       (d.journal.bufA.recs.filter fun z => z.owner == some ⟨0, 5⟩).length +
         (d.journal.bufB.recs.filter fun z => z.owner == some ⟨0, 5⟩).length = 1 ∧
       (∀ e ∈ markedSlot.marks, e.2 = .pending) ∧ 1 ≤ markedSlot.quorum ∧ markedSlot.quorum ≤ markedSlot.marks.length ∧
       recordAnswer.outcome = .live ∧ recordAnswer.unindexed = false ∧ recordAnswer.overflow = false) ∧
    (programming 63).array.op = some (.program .a 0 63 1) ∧
    (∀ c ∈ ([.append recordAnswer, .done, .count 0, .setPlacement 47, .setMode, .setGenerator 7, .setSitePacing 0, .guardMap,
          .pressure, .mask, .release 1 none] : List Cont),
      let d := answering (.settings {}) c
      let v : Dev := ((d.tick 5).pageValid 0 0 1 [.settings {}] .a).recordPassed ⟨.settings {}, some ⟨0, 5⟩⟩
      d.up ∧ d.array.op = some (.program .a 0 0 1) ∧ (d.journal.buf .a).recs = [⟨.settings {}, some ⟨0, 5⟩⟩] ∧
        d.owesRecord .a ⟨0, 5⟩ = false ∧
        v.ports[(0 : PortId)].taken = [{ id := 5, cid := 1, kind := 1, cont := c }]) ∧
    (let r : Rec := .decision 1 .released
     let d : Dev := { answering r (.release 1 none) with
       held := { entries := [⟨1, .deciding .released .command⟩] }
       status := { slots := [(1, { markedSlot with held := true })] }, index := { ways := [(40, { keyEntry with live := none })] } }
     (((d.tick 5).pageValid 0 0 1 [r] .a).recordPassed ⟨r, some ⟨0, 5⟩⟩).ports[(0 : PortId)].taken =
       [{ id := 5, cid := 1, kind := 1, cont := .release 1 (some .live) }]) := by
  simp only [Dev.up]; decide +kernel

/-- An intent of each outcome, with and without a live intent that it is to supersede; a DECISION for an entry that is DECIDING by
a command and by its deadline, for one that waits and for none; a key with and without a live intent. -/
theorem witness_RecordsOfAPassingPageTakeEffect :
    (∀ (o : StagedOutcome) (sup : Option Seq),
      let x : Slot := { markedSlot with written := false, outcome := o, pendingSup := sup }
      let d : Dev := { staged with status := { slots := [(1, x), (9, markedSlot)] } }
      d.slot? record.seq = some x ∧ x.held = false ∧ x.outcome = o ∧ x.pendingSup = sup ∧ (9 ≠ record.seq ∧ 8 ≠ record.seq) ∧
        d.slot? 9 = some markedSlot ∧ d.slot? 8 = none) ∧
    (∀ (a : Decision) (cause : DecisionCause),
      let x : Slot := { markedSlot with held := true, outcome := .held }
      let k : KeyEntry := { keyEntry with live := some (9, 0x105), count := 2 }
      let d : Dev := { heldDev with
        held := { entries := [⟨1, .deciding a cause⟩] }, status := { slots := [(1, x), (9, markedSlot)] }
        index := { ways := [(40, k)] } }
      d.heldEntry 1 = some ⟨1, .deciding a cause⟩ ∧ d.slot? 1 = some x ∧ x.unindexed = none ∧ x.link = some 40 ∧
        Tbl.get d.index.ways 40 = some k ∧ d.stampOf 1 = 0x104 ∧ (0x104 : Word64) < 0x105 ∧ ¬ (0x104 : Word64) < 0x103 ∧
        9 ≠ 1 ∧ d.slot? 9 = some markedSlot ∧ d.heldEntry 8 = none) ∧
    heldDev.heldEntry 1 = some ⟨1, .waiting (some 900)⟩ ∧
    (let x : Slot := { markedSlot with held := true, unindexed := some .collision }
     x.unindexed ≠ none) ∧
    (∀ r, Rec.settings {} ≠ .intent r) ∧ ∀ q dn, Rec.settings {} ≠ .decision q dn := by
  refine ⟨?_, ?_, by decide +kernel, by decide, fun _ => Rec.noConfusion, fun _ _ => Rec.noConfusion⟩
  · intro o sup
    exact ⟨rfl, rfl, rfl, rfl, by decide, rfl, rfl⟩
  · intro a cause
    cases a <;> cases cause <;> decide +kernel

/-- R33, R34, R36: a release supersedes an intent that is WRITTEN in its own event. -/
theorem test_a_release_supersedes_a_written_intent :
    let d : Dev := { stored [] with
      index := { ways := [(40, { keyEntry with count := 2 })] }
      status := { slots := [(1, markedSlot), (2, { markedSlot with outcome := .held, held := true })] } }
    let e := (d.releaseHeld 2 0x204).1
    told e = [.superseded ⟨1, 7, 0⟩ 0 1 2] ∧ (e.slot? 1).map (·.marks) = some [(0, .skipped .superseded)] ∧
      e.index.ways = [(40, { keyEntry with live := some (2, 0x204) })] := by decide +kernel

/-- R36, R37, log 53: a release supersedes an intent that is still STAGED in its own event. The evaluation waits for the write,
which resolves the intent and answers its APPEND. -/
theorem test_a_release_supersedes_a_staged_intent :
    let d : Dev := (programming 0).putSlot 2 { markedSlot with outcome := .held, held := true }
    let e := (({ d with index := { ways := [(40, { keyEntry with count := 2 })] } } : Dev).releaseHeld 2 0x204).1
    let f := after (.pageProgramComplete 5 true) e
    told e = [.superseded ⟨1, 7, 0⟩ 0 1 2] ∧
      e.slot? 1 = some { markedSlot with
        written := false, marks := [(0, .skipped .superseded)], supersededBy := some 2, verdict := some .superseded } ∧
      e.index.ways = [(40, { keyEntry with count := 2, live := some (2, 0x204) })] ∧ e.status.resolutions = 0 ∧
      told f = told e ∧ f.status.resolutions = 1 ∧ f.index.ways = [(40, { keyEntry with live := some (2, 0x204) })] ∧
      statuses f = [(1, .accepted)] := by decide +kernel

theorem witness_FailingPageIsRetried :
    (programming 63).power.powered = true ∧ (programming 63).array.op = some (.program .a 0 63 1) := by decide +kernel

/-- A start has found the page of `stored` unreadable, and no read has met it yet. -/
def unread : Dev :=
  { stored [] with array := { segs := [(0, { state := .filling, pages := [⟨0, 1, [.intent record], false⟩] })], baseErase := 1 } }

/-- The lookup of a head APPEND waits for a page. -/
def looking (pages : List Page) (key : List Byte) : Dev :=
  { (stored []).modPort 0 fun p =>
      { p with cmdQ := [⟨1, .append { anAppend with key := key }⟩], lookup := some (.reading 5 40 1) } with
    array := { segs := [(0, { state := .filling, pages := pages })], baseErase := 1, op := some (.read ⟨0, 0, 1, .lookup 0 5⟩) } }

theorem witness_ReadsAndErasesComplete :
    (let q : ReadReq := ⟨0, 0, 1, .dispatch 0 1⟩
     let d : Dev := { stored [] with array := { (stored []).array with op := some (.read q) } }
     d.power.powered = true ∧ d.array.op = some (.read q) ∧ d.recordAt 0 0 1 = some record ∧ d.readsBack 0 0 = true ∧
       (d.seg 0).pages.find? (fun x => x.num == 0) = some ⟨0, 1, [.intent record], true⟩) ∧
    (let q : ReadReq := ⟨0, 0, 1, .readJournal ⟨0, 5⟩ 1 32⟩
     let y : Taken := { id := 5, cid := 1, kind := 3 }
     let d : Dev := { (stored []).modPort 0 fun p => { p with taken := [y] } with
       array := { (stored []).array with op := some (.read q) } }
     d.array.op = some (.read q) ∧ d.recordAt 0 0 1 = some record ∧ d.readsBack 0 0 = true ∧ d.ports[(0 : PortId)].taken = [y] ∧
       d.array.reads = []) ∧
    ((unread.seg 0).pages.find? fun x => x.num == 0) = some ⟨0, 1, [.intent record], false⟩ ∧
    (let d : Dev := { ready with array := { op := some (.suspending 5), segs := [(5, { state := .suspended })] } }
     d.power.powered = true ∧ d.array.op = some (.suspending 5)) ∧
    (let d : Dev := { ready with array := { op := some (.erase 5), segs := [(5, { state := .reclaiming, eraseCount := 29999 })] } }
     d.power.powered = true ∧ d.tablesOk = true ∧ d.array.op = some (.erase 5) ∧ 30000 ≤ (d.seg 5).eraseCount + 1) ∧
    (∀ key ∈ ([[1, 2, 3, 4], [1, 2, 3, 5]] : List (List Byte)), ∀ ok : Bool,
      let d := looking [⟨0, 1, [.intent record], ok⟩] key
      d.power.powered = true ∧ d.array.op = some (.read ⟨0, 0, 1, .lookup 0 5⟩) ∧ d.readsBack 0 0 = ok ∧
        d.recordAt 0 0 1 = some record ∧ d.ports[(0 : PortId)].lookup = some (.reading 5 40 1) ∧
        d.ports[(0 : PortId)].cmdQ = [⟨1, .append { anAppend with key := key }⟩] ∧ d.array.reads = []) := by
  decide +kernel

/-- A page that a start found unreadable is read, and the read fails it. -/
theorem test_unread_page :
    let d := after (.readJournal 5 0 1 1 32) unread
    unread.locate 1 = .array 0 0 ∧ (d.array.op.isSome && !d.journalMedia) = true ∧
      (let e := after (.pageReadComplete 6 true) d
       e.journalMedia = true ∧ (e.seg 0).failed = [0] ∧ e.locate 1 = .absent ∧
         e.ports[0].respQ.map (fun r => r.status) = [.notFound]) := by decide +kernel

/-- R50: the answer of an APPEND does not need the slot of its intent. -/
theorem test_answer_without_slot :
    let d : Dev := (ready.modPort 0 fun p => { p with taken := [{ id := 5, cid := 1, kind := 1 }] })
    ((d.answerCont ⟨0, 5⟩ (.append { recordAnswer with outcome := .stale, overflow := true })).ports[0].respQ.map
      fun r => (r.status, r.flags)) = [(.stale, 2)] := by decide +kernel

/-- R64: a control frame in the queue of a span port that is not its slot's own is not sent; R199: an OPEN of an unknown kind
fails check 5, before R65. -/
theorem test_frame_checks :
    (((peered.modSpan 1 fun x => { x with ctrlQ := [⟨4, 3, 1, .hello 3⟩] }).transmit 1).map fun d =>
      (d.span[1].ctrlQ, d.span[1].sending)) = some ([], none) ∧
    (after (.openReceived 5 0 { aHeader with start := 99 } 192 { anOpen with kind := 4 }) peered).sites[0].protocol = true := by
  decide +kernel

/-- Segment 0 is FULL and holds the record r, segment 40 has the state given; the next sequence gives the headroom. -/
def reclaiming (r : Rec) (second : SegState) (next : Nat) (guarded : Bool) (x : Slot) : Dev :=
  { stored [] with
    settings := { peered.settings with guardMap := if guarded then 1 else 0, criticalReserve := 256 }
    journal := { nextSeq := next, nextPos := 2 }
    array :=
      { segs := [(0, { state := .full, pages := [⟨0, 1, [r], true⟩] }), (40, { state := second })], baseErase := 1 }
    status := { slots := [(1, x)] } }

/-- A choice by each rule and none; the examined segment by each rule and none; and each case of the examination: a FILLING
segment; a guarded one; records that await a newer one alone; a held intent; all that is left awaits an EVICTABLE
slot; it awaits one that is not, or is a SETTINGS record. -/
theorem witness_ReclaimEngineChoosesAndExamines :
    (let d := reclaiming (.intent record) .damaged 2 false markedSlot
     d.tablesOk = true ∧ d.reclaim.engine = .idle ∧ d.reclaimChoice = some 40) ∧
    (let d := reclaiming (.intent record) .blank 2 false { markedSlot with marks := [(0, .acked)] }
     d.tablesOk = true ∧ d.reclaimChoice = some 0 ∧ (d.seg 0).state = .full) ∧
    (∀ guarded : Bool,
      let d := reclaiming (.intent record) .blank 2 guarded markedSlot
      d.reclaimChoice = none ∧ 65536 < d.headroom ∧ d.examinedSegment = (if guarded then none else some 0)) ∧
    ({ ready with reclaim := { engine := .erasing 3 } } : Dev).reclaim.engine ≠ .idle ∧
    (let d := reclaiming (.intent record) .blank 4128769 true markedSlot
     d.headroom = 65536 ∧ d.examinedSegment = some 0 ∧ d.guarded 0 = true ∧ (d.seg 0).state ≠ .filling) ∧
    (let d : Dev := { stored [] with journal := { nextSeq := 4128769 } }
     d.headroom = 65536 ∧ d.examinedSegment = some 0 ∧ (d.seg 0).state = .filling) ∧
    (let d := reclaiming (.resume 1) .blank 2 false markedSlot
     d.examinedSegment = some 0 ∧ d.guarded 0 = false ∧ d.unspent (d.seg 0) = [.resume 1]) ∧
    (let x : Slot := { markedSlot with held := true }
     let d := reclaiming (.decision 1 .denied) .blank 2 false x
     d.examinedSegment = some 0 ∧ d.unspent (d.seg 0) = [.decision 1 .denied] ∧ d.slot? 1 = some x ∧ x.held = true) ∧
    (∀ evictable : Bool,
      let d : Dev := reclaiming (.intent record) .blank 2 false markedSlot
      let e : Dev := { d with settings := { d.settings with
        sites := #v[{ siteConf with evictable := evictable }, {}, {}, {}, {}, {}, {}, {}] } }
      e.examinedSegment = some 0 ∧ e.unspent (e.seg 0) = [.intent record] ∧ e.slot? 1 = some markedSlot ∧
        markedSlot.mark 0 = some .pending ∧ (∀ j, j ≠ 0 → markedSlot.mark j = none) ∧ markedSlot.held = false ∧
        (e.config 0).evictable = evictable ∧ (Rec.intent record).about = some 1) ∧
    (let d := reclaiming (.settings {}) .blank 2 false markedSlot
     d.examinedSegment = some 0 ∧ d.unspent (d.seg 0) = [.settings {}] ∧ (Rec.settings {}).about = none) := by
  decide +kernel

/-- A slot of the status array whose mark is open and which is WRITTEN, STAGED or held; one whose mark is not open; none. -/
theorem witness_EvictionEndsASlot :
    (∀ written held : Bool,
      let y : Slot := { markedSlot with written := written, held := held }
      let d : Dev := { stored [] with status := { slots := [(1, y), (2, { y with marks := [(0, .acked)] })] } }
      d.tablesOk = true ∧ d.slot? 1 = some y ∧ y.mark 0 = some .pending ∧ y.written = written ∧
        d.slot? 2 = some { y with marks := [(0, .acked)] } ∧ ({ y with marks := [(0, .acked)] } : Slot).mark 0 = some .acked ∧
        d.slot? 3 = none) ∧
    paced.tablesOk = true ∧ paced.isMember 0 0 = true := by decide +kernel

/-- Ready commands at CP0 and CP1; an array that is free with a program, a read whose page is there or gone, a suspended erase, a
requested one whose target is eligible or not, and nothing; an array that erases, with a read waiting and without; one that
reads. -/
theorem witness_IntakeAndArrayArbitersChoose :
    (let q (r : Port) : Port := { r with state := .online, cmdQ := [⟨1, .flush 0⟩] }
     let d : Dev := (ready.modPort 0 q).modPort 1 q
     d.grantChoice = some 0 ∧ ({ d with intake := { last := 0 } } : Dev).grantChoice = some 1 ∧ ready.grantChoice = none) ∧
    (ready.array.chooseBlank = some 0 ∧ Tbl.ascending ready.array.segs = true) ∧
    (let d := programming 0
     let e : Dev := { d with array := { d.array with op := none } }
     e.array.op = none ∧ e.journal.progQ = [.a] ∧ e.array.filling = some 0 ∧
       ({ e with array := {} } : Dev).array.filling = none ∧ ({ e with array := {} } : Dev).array.chooseBlank = some 0) ∧
    (∀ n ∈ [0, 9],
      let r : ReadReq := ⟨n, 0, 1, .dispatch 0 1⟩
      let d : Dev := { stored [] with array := { (stored []).array with reads := [r] } }
      d.array.op = none ∧ d.journal.progQ = [] ∧ d.part = .ready ∧ d.array.reads = [r] ∧
        ((d.array.segs.any fun g => g.1 == n && g.2.pages.any fun p => p.num == 0) = (n == 0))) ∧
    (let d : Dev := { stored [] with array := { (stored []).array with suspended := some 5 } }
     d.array.reads = [] ∧ d.array.suspended = some 5) ∧
    (∀ st ∈ ([.damaged, .full] : List SegState), ∀ x ∈ ([.acked, .pending] : List Mark),
      let y : Slot := { markedSlot with marks := [(0, x)] }
      let d : Dev := { stored [] with
        array := { segs := [(0, { state := st, pages := [⟨0, 1, [.intent record], true⟩] })], baseErase := 1 }
        status := { slots := [(1, y)] }, reclaim := { engine := .waiting 0 } }
      d.array.op = none ∧ d.array.reads = [] ∧ d.array.suspended = none ∧ d.reclaim.engine = .waiting 0 ∧ d.tablesOk = true ∧
        d.eligible 0 (d.seg 0) = (st == .damaged || x == .acked)) ∧
    (∀ part : PartState,
      let r : ReadReq := ⟨0, 0, 1, .dispatch 0 1⟩
      let d : Dev := { stored [] with
        part := part, array := { segs := [(5, { state := .reclaiming })], baseErase := 1, op := some (.erase 5), reads := [r] } }
      d.array.op = some (.erase 5) ∧ d.part = part ∧ d.array.reads ≠ [] ∧ d.journal.progQ = []) ∧
    (let r : ReadReq := ⟨0, 0, 1, .dispatch 0 1⟩
     let o : ArrayOp := .read r
     ∀ n, o ≠ .erase n) := by
  refine ⟨by decide +kernel, by decide +kernel, by decide +kernel, by decide +kernel, by decide +kernel, by decide +kernel, ?_,
    fun _ => ArrayOp.noConfusion⟩
  intro part
  exact ⟨rfl, rfl, List.cons_ne_nil _ _, rfl⟩

theorem witness_JournalTimersExpire :
    (staged.power.powered = true ∧ staged.part ≠ .starting ∧ staged.journal.commitDue = some 200 ∧
      staged.journal.buffersOk = true ∧ staged.journal.bufA.state = .filling) ∧
    (let d : Dev := { ready with journal := { bufB := { state := .filling }, commitDue := some 200 } }
     d.journal.buffersOk = true ∧ d.journal.bufB.state = .filling ∧ d.journal.commitDue = some 200) ∧
    (∀ ph ∈ ([.placing, .frontierPlaced] : List QuiescePhase),
      let d : Dev := { staged with part := .quiescing, power := { phase := ph } }
      d.power.powered = true ∧ d.part ≠ .starting ∧ d.part = .quiescing ∧ d.power.phase = ph ∧ d.journal.commitDue = some 200 ∧
        d.journal.buffersOk = true) ∧
    (ready.up ∧ ready.status.checkpoint = .running 250000) ∧ heldDev.heldEntry 1 = some ⟨1, .waiting (some 900)⟩ ∧
    (let d : Dev := { ready with status := { frontierChanged := true, resolutions := 1024, checkpoint := .running 9 } }
     d.status.frontierChanged = true ∧ 1024 ≤ d.status.resolutions) ∧ ¬ ready.status.frontierChanged = true := by
  simp only [Dev.up]; decide +kernel

/-- A frame of 63 bytes; a HELLO as its bytes; a frame of an unknown kind; one for another site; one from a foreign site; one at
a PROBING slot; a HELLO that expects another site; each list at its limits. -/
theorem witness_FramesAreChecked :
    (let l := Frame.bytes ⟨3, 4, 7, .hello 4⟩
     (peered.power.powered = true ∧ (List.replicate 63 (0 : Byte)).length < 64) ∧
     (64 ≤ l.length ∧ fieldAt 0 4 l = 0x5A3C9E17 ∧ fieldAt 4 1 l = 1 ∧ fieldAt 16 4 l = l.length ∧
       fieldAt 20 4 l = (crc32 (l.take 20 ++ zeros 4 ++ l.drop 24)).toNat) ∧
     (parseFrame l = some (aHeader, .hello 4) ∧ arrives (.helloReceived 5 0 aHeader 4) = some (5, 0, aHeader, .hello 4)) ∧
     parseBody 8 [] = .malformed 8 ∧ peered.hearsAt 0 aHeader.sender ∧ peered.settings.localSite = some aHeader.receiver ∧
     peered.settings.localSite ≠ some 5 ∧
     (∀ j : SlotId, (peered.siteState j).hears = true → peered.settings.sites[j].site ≠ some 9) ∧
     (peered.modSite 0 fun x => { x with state := .probing }).sites[(0 : SlotId)].state = .probing ∧
     peered.sites[(0 : SlotId)].state ≠ .probing ∧ (5 ≠ aHeader.receiver) ∧
     (64 < (List.replicate 65 (1, 1)).length ∧ 32 < (List.replicate 33 (0, 0)).length ∧ 191 < 192 ∧ 416 < 417 ∧
       8192 < (List.replicate 8193 (0 : Byte)).length)) ∧
    ((peered.up ∧ arrives (.busyReceived 5 0 { aHeader with start := 8 } 1) = some (5, 0, { aHeader with start := 8 }, .busy 1) ∧
       (∀ n, InBody.busy 1 ≠ .hello n) ∧ (∀ n, InBody.busy 1 ≠ .helloAck n) ∧ peered.settings.localSite = some 4 ∧
       peered.hearsAt 0 3 ∧ peered.sites[(0 : SlotId)].state ≠ .probing ∧ (InBody.busy 1).badContents 4 = false) ∧
     (peered.sites[(0 : SlotId)].peerStart = some 7 ∧ 7 ≠ 8)) :=
  ⟨⟨by decide +kernel, by decide +kernel, by decide +kernel, by decide +kernel, hears_peered _ rfl rfl, rfl, by decide,
    by decide +kernel, by decide +kernel, by decide +kernel, by decide, by decide +kernel⟩,
    ⟨⟨⟨rfl, rfl⟩, rfl, (fun _ => InBody.noConfusion), (fun _ => InBody.noConfusion), rfl, hears_peered _ rfl rfl,
      by decide +kernel, rfl⟩,
    by decide +kernel, by decide⟩⟩

theorem witness_HelloAndHelloAckRecordThePeer :
    (peered.up ∧ peered.settings.localSite = some aHeader.receiver ∧ peered.hearsAt 0 aHeader.sender) ∧
    (peered.sites[(0 : SlotId)].state = .active ∧ peered.sites[(0 : SlotId)].peerStart = some 7 ∧ peered.power.startCount = 1) ∧
    (∀ st ∈ ([.probing, .stalled, .evicted] : List SiteState),
      let d : Dev := peered.modSite 0 fun x => { x with state := st }
      d.up ∧ d.hearsAt 0 3 ∧ d.sites[(0 : SlotId)].state = st) := by
  refine ⟨⟨⟨rfl, rfl⟩, rfl, hears_peered _ rfl rfl⟩, by decide +kernel, ?_⟩
  simp only [Dev.up, Dev.hearsAt]
  decide +kernel

/-- The intent of `stored` is in flight at slot 0. -/
def flight : InFlight := { seq := 1, size := 272, firstSend := 0, lastSend := some 10, deadline := some 900, record := record }

def flying (e : InFlight) : Dev :=
  { stored [] with
    status := { slots := [(1, { markedSlot with marks := [(0, .inFlight)] })] }
    sites :=
      #v[{ state := .active, cursor := 2, frontier := some 1, peerStart := some 7, inFlight := [e] }, {}, {}, {}, {}, {}, {}, {}] }

theorem hears_flying (e : InFlight) : Hears (flying e) := by
  refine ⟨⟨rfl, rfl⟩, rfl, ⟨rfl, rfl, ?_⟩, (by decide : SiteState.active ≠ .probing), rfl⟩
  have h : ∀ k : SlotId, k ≠ 0 → (peered.siteState k).hears = false := by decide +kernel
  intro k hk ⟨ha, _⟩
  have hp : (flying e).siteState k = peered.siteState k := by
    match k, hk with
    | 1, _ | 2, _ | 3, _ | 4, _ | 5, _ | 6, _ | 7, _ => rfl
  rw [hp, h k hk] at ha
  exact nomatch ha

theorem witness_ReceiptClosesTheMark :
    Hears (flying flight) ∧ (List.replicate 64 (1, 1)).length ≤ 64 ∧ List.replicate 64 ((1 : Nat), 1) ≠ [] ∧
    (flying flight).sites[(0 : SlotId)].entry 1 = some flight ∧ (flying flight).sites[(0 : SlotId)].entry 2 = none ∧
    ((flying flight).slot? 1).isSome = true ∧ ¬ (4 = 1 ∨ 4 = 2 ∨ 4 = 3) :=
  ⟨hears_flying _, by decide +kernel, by decide, by decide +kernel, by decide +kernel, by decide +kernel, by decide⟩

/-- A GAP of the one chunk, and of a chunk beyond it; a BUSY; both for an intent that is not in flight. -/
theorem witness_GapAndBusyActOnTheEntry :
    Hears (flying flight) ∧ (flying flight).sites[(0 : SlotId)].entry 1 = some flight ∧
    (flying flight).sites[(0 : SlotId)].entry 2 = none ∧
    ((16 + 8191) / 8192 = 1 ∧ ¬ (16 + 8191) / 8192 ≤ 0 ∧ (16 + 8191) / 8192 ≤ 1 ∧ ([0] : List Nat).Pairwise (· < ·)) ∧
    (flying flight).sites[(0 : SlotId)].resends = [] ∧ (flying flight).sites[(0 : SlotId)].send = none :=
  ⟨hears_flying _, by decide +kernel, by decide +kernel, by decide, by decide +kernel, by decide +kernel⟩

def queuedFrame : Frame := ⟨4, 3, 1, .hello 3⟩

/-- A control frame for a slot that may be sent to and for a FENCED one; an idle and a busy transmitter; a PACED slot without
credit; a send that is ready. -/
theorem witness_TransmitterTakesTheNextFrame :
    (let d : Dev := peered.modSpan 0 fun x => { x with ctrlQ := [queuedFrame] }
     d.power.powered = true ∧ d.span[(0 : SpanId)].sending = none ∧ d.span[(0 : SpanId)].ctrlQ = [queuedFrame] ∧
       (d.config 0).site = some queuedFrame.receiver ∧ d.sites[(0 : SlotId)].state ≠ .detached ∧
       d.sites[(0 : SlotId)].state = .active ∧
       (d.config 0).spanPort = 0 ∧
       ∀ k : SlotId, k ≠ 0 → (d.config k).site = some queuedFrame.receiver → d.sites[k].state = .detached) ∧
    (peered.modSite 0 fun x => { x with state := .fenced }).sites[(0 : SlotId)].state = .fenced ∧
    (peered.modSpan 0 fun x => { x with sending := some queuedFrame }).span[(0 : SpanId)].sending ≠ none ∧
    (paced.span[(0 : SpanId)].ctrlQ = [] ∧
      ∀ j : SlotId, (paced.config j).spanPort = 0 → (paced.config j).mode = .paced ∧ paced.sites[j].credit ≤ 0) ∧
    (let c : Candidate := { seq := 1, record := some record }
     let d : Dev := { (stored []).modSite 0 fun x => { x with candidates := [c] } with
       fetch := { cache := [⟨1, List.replicate 16 0⟩] } }
     d.nextSend 0 = some (⟨1, [.opening, .chunk 0]⟩, []) ∧ d.sites[(0 : SlotId)].sendRecord 1 = some record ∧ record.seq = 1 ∧
       d.sites[(0 : SlotId)].entry 1 = none ∧ d.slot? 1 = some markedSlot ∧ markedSlot.mark 0 = some .pending) ∧
    (let d : Dev := (flying { flight with deadline := none }).modSite 0 fun x => { x with send := some ⟨1, [.chunk 0]⟩ }
     d.nextSend 0 = some (⟨1, [.chunk 0]⟩, []) ∧ d.sites[(0 : SlotId)].sendRecord 1 = some record) := by decide +kernel

/-- An arrival that waits, with a port that qualifies and without one; a lookup that found the key's entry. A cursor at a
candidate, at a STAGED slot and at a slot with nothing to send; a send in progress; resends, of chunks and of a whole intent, with
a BUSY pause and without; a candidate that may be sent, and one without its record. -/
theorem witness_DeliveriesAndDispatchersChoose :
    (let a : Arrival := { arrival with state := .waitingLanding, lookup := .found 40 1, order := 1 }
     let l : Landing := ⟨7, 0, 4096⟩
     let d : Dev := { (arriving a).modPort 0 fun q => { q with landings := [⟨6, 0, 515⟩, l] } with index := { ways := [(40, keyEntry)] } }
     d.nextDelivery = some (a, 0) ∧ (arriving a).nextDelivery = none ∧ d.settings.sites[a.slot].site = some 3 ∧
       d.ports[(0 : PortId)].landings = [⟨6, 0, 515⟩] ++ l :: [] ∧ ¬ 512 + a.desc.payloadLen ≤ 515 ∧
       512 + a.desc.payloadLen ≤ l.capacity) ∧
    (let d := stored []
     d.canExamine 0 = true ∧ d.slot? d.sites[(0 : SlotId)].cursor = some markedSlot ∧ markedSlot.mark 0 = some .pending ∧
       markedSlot.held = false ∧ markedSlot.fetchBlocked = false ∧ staged.canExamine 0 = false ∧
       ({ d with status := {} } : Dev).slot? d.sites[(0 : SlotId)].cursor = none) ∧
    ready.sites[(0 : SlotId)].state ≠ .active ∧
    (let d := (flying flight).modSite 0 fun x => { x with send := some ⟨1, [.chunk 0]⟩ }
     d.sites[(0 : SlotId)].state = .active ∧ d.sites[(0 : SlotId)].send = some ⟨1, [.chunk 0]⟩) ∧
    (∀ busy ∈ ([none, some 900] : List (Option Time)),
      let d := (flying flight).modSite 0 fun x => { x with resends := [⟨1, none⟩, ⟨1, some [0]⟩], busyEnd := busy }
      let x := d.sites[(0 : SlotId)]
      x.state = .active ∧ x.send = none ∧ x.entry 1 = some flight ∧ x.busyEnd = busy ∧ d.now < 900 ∧
        x.resends = [⟨1, none⟩] ++ ⟨1, some [0]⟩ :: [] ∧ x.resends = [] ++ ⟨1, none⟩ :: [⟨1, some [0]⟩]) ∧
    (∀ r ∈ ([none, some record] : List (Option IntentRec)),
      let c : Candidate := { seq := 1, record := r }
      let d : Dev := { (stored []).modSite 0 fun x => { x with candidates := [c] } with
        fetch := { cache := [⟨1, List.replicate 16 0⟩] } }
      let x := d.sites[(0 : SlotId)]
      x.state = .active ∧ x.send = none ∧ x.resends = [] ∧ x.candidates = [c] ∧ x.busyEnd = none ∧ x.inFlight = [] ∧
        (∃ e ∈ d.fetch.cache, e.seq = c.seq)) ∧
    peered.sites[(0 : SlotId)].candidates = [] := by decide +kernel

/-- R70, R73: the OPEN of a first send and the last frame of a send. -/
theorem test_hand_over :
    (let c : Candidate := { seq := 1, record := some record }
     let d : Dev := { (stored []).modSite 0 fun x => { x with candidates := [c] } with
       now := 50, fetch := { cache := [⟨1, List.replicate 16 0⟩] } }
     let u := d.handOver 0
     u.sites[(0 : SlotId)].candidates = [] ∧
       u.sites[(0 : SlotId)].inFlight = [{ flight with firstSend := 50, lastSend := none, deadline := none, size := 272 }] ∧
       ((u.slot? 1).bind fun x => x.mark 0) = some .inFlight ∧
       (u.handOver 0).sites[(0 : SlotId)].inFlight =
         [{ flight with firstSend := 50, lastSend := some 50, deadline := some 1000050, size := 272 }]) := by decide +kernel

theorem witness_FramesReadBack :
    (255 < 256 ∧ 2 ^ 64 - 1 < 2 ^ 64) ∧ (List.replicate 240 (0 : Byte)).length = 240 ∧ List.replicate 8192 (0 : Byte) ≠ [] ∧
    (List.replicate 8192 (0 : Byte)).length ≤ 8192 ∧ (List.replicate 64 ((2 ^ 64 - 1 : Nat), ReceiptOutcome.refused)).length ≤ 64 ∧
    (List.replicate 32 ((0 : Nat), (2 ^ 32 - 1 : Nat))).length ≤ 32 := by decide +kernel

theorem witness_SiteTimersExpire :
    (∀ st ∈ ([.probing, .stalled] : List SiteState),
      let d : Dev := peered.modSite 0 fun x => { x with state := st, probeDue := some 900, probeCount := 29 }
      d.up ∧ d.sites[(0 : SlotId)].state = st ∧ d.sites[(0 : SlotId)].probeDue = some 900 ∧ d.settings.localSite = some 4 ∧
        d.settings.sites[(0 : SlotId)].site = some 3) ∧
    (peered.modSite 0 fun x => { x with busyEnd := some 900 }).sites[(0 : SlotId)].busyEnd = some 900 ∧
    (let e : InFlight := { flight with retries := 7 }
     (flying e).up ∧ (flying e).sites[(0 : SlotId)].entry 1 = some e ∧ e.deadline = some 900 ∧ e.retries < 8) ∧
    (let e : InFlight := { flight with retries := 8 }
     let d := flying e
     d.sites[(0 : SlotId)].entry 1 = some e ∧ 8 ≤ e.retries ∧ d.settings.localSite = some 4 ∧
       d.settings.sites[(0 : SlotId)].site = some 3 ∧ d.sites[(0 : SlotId)].stall = false ∧
       d.ports[(0 : PortId)].state = .online ∧ d.settings.masks[(0 : PortId)].getLsbD 3 = true ∧
       (let z : Slot := { markedSlot with marks := [(0, .inFlight)] }
        d.slot? 1 = some z ∧ z.acked < z.quorum ∧ z.quorum ≤ z.acked + z.openMarks)) ∧
    min (29 + 1) 65535 = 30 := by
  simp only [Dev.up]; decide +kernel

/-- A read of 4 bytes goes on through CP0 for the intent of `stored`. -/
def reading (f : Fetch) : Dev := { stored [] with fetch := { active := [f] } }

theorem witness_PayloadReadsEnd :
    let f : Fetch := ⟨⟨1, 0, 4, 32, 0xB63CFBCD⟩, 0, 100, true, none, 5⟩
    ((reading f).power.powered = true ∧ ((reading f).fetch.active.find? fun a => a.req.seq == 1) = some f) ∧
    (f.reading = true ∧ f.port = 0 ∧ f.read = 5 ∧ ((reading f).tick 50100).now ≤ f.started + 50000 ∧ ([1, 2, 3, 4] : List Byte).length = f.req.len) ∧
    ¬ ((reading f).tick 50101).now ≤ f.started + 50000 ∧ crc32 [1, 2, 3, 4] = f.req.digest ∧ crc32 [1, 2, 3, 5] ≠ f.req.digest ∧
    (reading f).slot? 1 = some markedSlot ∧ markedSlot.digestRetried = none ∧
    (portsAfter f.port).find? (fun p => (reading f).ports[p].state == .online) = some 0 ∧
    (reading { f with mismatch := some 0 }).slot? 1 = some markedSlot ∧
    ((reading f).ports[(0 : PortId)].timeouts + 1 ≠ 3 ∧ (reading f).ports[(0 : PortId)].state = .online) ∧
    (let d : Dev := { reading f with ports := Vector.replicate 4 {} }
     (∀ p : PortId, ¬ d.ports[p].state = .online) ∧ d.slot? 1 = some markedSlot) ∧
    (let d : Dev := (reading f).modPort 0 fun q => { q with timeouts := 2 }
     d.ports[(0 : PortId)].timeouts + 1 = 3 ∧ d.ports[(0 : PortId)].state = .online) := by decide +kernel

/-- Every one of n segments is RETIRED. -/
def worn (n : Nat) : ArrayBlk := { segs := (List.range n).map fun k => (k, { state := .retired }) }

theorem worn_none (n : Nat) (hn : segmentCount ≤ n) : (worn n).programTarget = none := by
  have hl : (worn n).segs.length = n := by simp [worn]
  have h1 : Tbl.firstFree (worn n).segs (worn n).segs.length 0 = n := by
    rw [hl, Tbl.firstFree_full _ _ _ fun x _ h => Tbl.get_isSome_of_mem _ _ ⟨(x, { state := .retired }), by simpa [worn] using h, rfl⟩,
      Nat.zero_add]
  have h2 : ((worn n).segs.filterMap fun e => if e.2.state = .blank then some (e.1, e.2.eraseCount) else none) = [] := by
    simp [worn]
  have h3 : (worn n).filling = none := by
    simp [worn, ArrayBlk.filling, List.find?_eq_none]
  simp only [ArrayBlk.programTarget, h3, ArrayBlk.chooseBlank, h1, h2, if_neg (Nat.not_lt.2 hn), Option.orElse]

/-- R3: the other buffer has room, but a program waits for a BLANK segment, so the record waits, and so does an APPEND. -/
theorem test_a_waiting_program_stalls_every_record (r : Staged) (a : ArrayBlk) (ha : a.programTarget = none) :
    let d : Dev := { ready with
      journal := { bufB := { state := .programming }, progQ := [.b] }, array := a
      intake := { grant := some ⟨⟨0, 5⟩, .examine anAppend .none⟩ } }
    (d.journal.target 32).isSome = true ∧ d.place r = (d, false) ∧ d.grantedStep = none := by
  have h : ({ ready with
      journal := { bufB := { state := .programming }, progQ := [.b] }, array := a
      intake := { grant := some ⟨⟨0, 5⟩, .examine anAppend .none⟩ } } : Dev).programStalled = true := by
    simp only [Dev.programStalled, ha]; rfl
  refine ⟨rfl, ?_, ?_⟩
  · simp only [Dev.place, h, if_true]
  · simp only [Dev.grantedStep, h, if_true, ite_self]

/-- R193: the newest page had failed before the loss of power: it is torn, and stands once in the failed-page list; the next
position is two above the last valid page. -/
theorem test_a_failed_newest_page_is_torn :
    let d : Dev := { ready with array :=
      { segs := [(0, { state := .filling, failed := [1], pages := [⟨0, 1, [.settings {}], true⟩, ⟨1, 2, [], false⟩] })] } }
    d.tornPage = some (0, ⟨1, 2, [], false⟩) ∧ (d.dropTorn.seg 0).failed = [1] ∧ d.dropTorn.journal.nextPos = 3 := by decide +kernel

/-- R148, R150: an erase that is abandoned leaves the erase count and the failed-page list. -/
theorem test_an_abandoned_erase_keeps_the_failed_pages :
    let d : Dev := { ready with
      reclaim := { engine := .erasing 5 }
      array := { segs := [(5, { state := .reclaiming, eraseCount := 9, failed := [3] })], op := some (.erase 5) } }
    d.stopReclaim.seg 5 = { state := .damaged, eraseCount := 9, failed := [3] } ∧
      Segment.foundAtStart (d.seg 5) = { state := .damaged, eraseCount := 9, failed := [3] } := by decide +kernel

theorem witness_LinesBeginAndEndAQuiesce :
    (ready.power.powered = true ∧ ready.part = .ready ∧ ready.power.warn = false ∧ ready.power.resetLine = false ∧
      ready.reclaim.engine = .idle) ∧
    (let d : Dev := { ready with part := .quiescing, power := { warn := true, causePower := true, phase := .placing } }
     d.power.warn = true ∧ d.part = .quiescing ∧ d.power.causeReset = false ∧ d.power.phase ≠ .returning ∧ d.programStalled = false) ∧
    (let d : Dev := { ready with
       part := .quiescing, power := { warn := true, phase := .placing }, journal := { bufA := { state := .programming }, progQ := [.a] }
       array := worn 2048 }
     d.power.warn = true ∧ d.programStalled = true) ∧
    (let d : Dev := { ready with
       part := .quiescing, power := { causeReset := true, phase := .placing }
       journal := { bufA := { state := .programming }, progQ := [.a] }, array := worn 2048 }
     d.part = .quiescing ∧ d.power.causeReset = true ∧ d.power.warn = false ∧ d.power.resetLine = false ∧
       d.journal.progQ ≠ [] ∧ d.array.programTarget = none) ∧
    (let d : Dev := { ready with part := .quiescing, power := { warn := true, phase := .returning } }
     d.part = .quiescing ∧ d.power.phase = .returning ∧ d.power.resetLine = false) ∧
    (let d : Dev := { ready with part := .quiescing, power := { warn := true, resetLine := true, causeReset := true, phase := .complete } }
     d.power.causeReset = true ∧ d.power.phase = .complete ∧ d.power.resetLine = true ∧ d.power.warn = true) ∧
    (∀ k : StartKind,
      let d : Dev := { ready with part := .starting, power := { kind := k } }
      d.part = .starting ∧ d.power.kind = k ∧ d.power.warn = false ∧ d.power.cellLow = false) ∧
    (let d : Dev := { ready with part := .starting, power := { stopped := true, warn := true } }
     d.part = .starting ∧ d.power.stopped = true ∧ d.power.warn = true ∧ d.power.resetLine = false) ∧
    ({ ready with reclaim := { engine := .waiting 5 } } : Dev).reclaim.engine = .waiting 5 ∧
    (let d : Dev := { ready with reclaim := { engine := .erasing 5 }, array := { op := some (.erase 5) } }
     d.reclaim.engine = .erasing 5 ∧ d.array.op = some (.erase 5)) :=
  ⟨by decide +kernel, by decide +kernel,
    ⟨rfl, by simp only [Dev.programStalled, worn_none 2048 (Nat.le_refl _)]; rfl⟩,
    ⟨rfl, rfl, rfl, rfl, by decide, worn_none 2048 (Nat.le_refl _)⟩, by decide +kernel, by decide +kernel,
    fun _ => ⟨rfl, rfl, rfl, rfl⟩, by decide +kernel, rfl, rfl, rfl⟩

/-- Power lost while a page is programmed and while none is; power applied with each kind of start: WARM, whose check word stands,
COLD, without the latch, and FIRST, without a SETTINGS record; a page of the journal that has become unreadable before a WARM
start. -/
theorem witness_PowerIsLostAndApplied :
    (programming 0).power.powered = true ∧ (programming 0).array.op = some (.program .a 0 0 1) ∧
    (ready.power.powered = true ∧ ready.array.op = none) ∧
    (let d : Dev := { ready with power := { powered := false } }
     d.power.powered = false ∧
       (Dev.readArray { d with power := { d.power with powered := true } }).newestSettings = none) ∧
    (let d : Dev :=
       { ready with
         array := { segs := [(0, { state := .filling, pages := [⟨0, 1, [.settings {}, .shutdown 1], true⟩] })], baseErase := 1 }
         power := { powered := false } }
     let w : Dev := { d with power := { powered := false, latch := true, checkWord := Config.checkWord d.retained } }
     (Dev.readArray { d with power := { d.power with powered := true } }).newestSettings ≠ none ∧ d.power.latch = false ∧
       w.power.latch = true ∧ w.power.checkWord = Config.checkWord w.retained ∧
       (Dev.readArray { w with power := { w.power with powered := true } }).cleanShutdown = true) ∧
    (let d : Dev :=
       { stored [] with
         array :=
           { segs := [(0, { state := .filling, pages := [⟨0, 1, [.intent record], true⟩, ⟨1, 2, [.settings {}, .shutdown 1], true⟩] })] }
         power := { powered := false } }
     let w : Dev := { d with power := { powered := false, latch := true, checkWord := Config.checkWord d.retained } }
     let found : Dev := Dev.readArray { d with power := { powered := true, media := ⟨[(0, 0)], []⟩ } }
     w.power.latch = true ∧ w.power.checkWord = Config.checkWord w.retained ∧ found.newestSettings ≠ none ∧
       found.cleanShutdown = true ∧
       ((found.seg 0).pages.find? fun x => x.num == 0) = some ⟨0, 1, [.intent record], false⟩) ∧
    (let conf : Settings := { localSite := some 4, sites := #v[siteConf, {}, {}, {}, {}, {}, {}, {}] }
     let v : Vector (SiteState × Option Seq) 8 := (Vector.replicate 8 (.detached, none)).set 0 (.active, some 1)
     let found : Dev := Dev.readArray { ready with
       power := { media := ⟨[], []⟩ }
       array := { segs := [(0, { state := .filling, pages := [⟨0, 1, [.settings conf, .frontier v, .intent record], true⟩, ⟨1, 2, [], false⟩] })] } }
     let u : Dev := found.beginStart
     let read : Dev := { u with array := found.dropTorn.array }
     found.newestSettings ≠ none ∧ found.power.latch = false ∧
       read.journalOrder = [((1, 0), .settings conf), ((1, 1), .frontier v)] ++ ((1, 2), .intent record) :: [] ∧
       read.scanStart read.journalOrder ≤ record.seq ∧ u.config 0 = siteConf ∧ u.sites[(0 : SlotId)].state = .probing ∧
       u.journal.nextSeq = 64 ∧ slotsOf record.siteSet = [0] ∧ ((u.slot? 1).bind fun x => x.mark 0) = some .pending) ∧
    (let conf : Settings := { localSite := some 4, sites := #v[siteConf, { siteConf with site := some 5 }, {}, {}, {}, {}, {}, {}] }
     let v : Vector (SiteState × Option Seq) 8 :=
       ((Vector.replicate 8 (.detached, none)).set 0 (.active, some 2)).set 1 (.active, some 1)
     let found : Dev := Dev.readArray { ready with
       power := { media := ⟨[], []⟩ }
       array := { segs := [(0, { state := .filling, pages := [⟨0, 1, [.settings conf, .intent record, .siteEvent 0 (.state .evicted) 0,
         .siteEvent 0 (.state .probing) 0, .frontier v], true⟩] })] } }
     let u : Dev := found.beginStart
     let read : Dev := { u with array := found.dropTorn.array }
     let e : (Nat × Nat) × Rec := ((1, 2), .siteEvent 0 (.state .evicted) 0)
     read.journalOrder = [((1, 0), .settings conf), ((1, 1), .intent record)] ++ e :: [((1, 3), .siteEvent 0 (.state .probing) 0),
         ((1, 4), .frontier v)] ∧
       lastMatch Rec.frontier? read.journalOrder = some ((1, 4), v) ∧ later (1, 1) e.1 = true ∧ later e.1 (1, 4) = true ∧
       e.2.closes? 0 = some .evicted ∧ read.scanStart read.journalOrder ≤ record.seq ∧
       ((u.slot? 1).bind fun x => x.mark 0) = some (.skipped .evicted)) :=
  ⟨rfl, rfl, ⟨rfl, rfl⟩, by decide +kernel, ⟨by decide +kernel, rfl, rfl, rfl, by decide +kernel⟩,
    ⟨rfl, rfl, by decide +kernel⟩, by decide +kernel, by decide +kernel⟩

/-- R137: 1 and 3, of one key, and 2, which meets 4, return together: 1 leaves by 3 before 2 leaves by 4. -/
theorem test_allReturnBeforeTheyAreCompared :
    let at_ (id : Nat) (key : List Byte) : Arrival :=
      { arrival with id := id, desc := { anOpen with seq := id, key := key, stamp := BitVec.ofNat 64 (256 * id) } }
    let sent (id : Nat) (key : List Byte) : Arrival :=
      { at_ id key with state := .delivered, order := id, delivery := some (0, ⟨id, 0, 4096⟩) }
    let l := [sent 1 [1, 2, 3, 4], sent 2 [9, 9, 9, 9], sent 3 [1, 2, 3, 4], at_ 4 [9, 9, 9, 9]]
    let d : Dev := { peered with inbound := { arrivals := l, nextId := 5 } }
    let u := d.returnDeliveries 0
    u.inbound.done.map (·.seq) = [1, 2] ∧ u.inbound.arrivals.map (·.id) = [3, 4] ∧ u.inbound.counts.returned = 3 := by
  decide +kernel

/-- R137, R129: 1 and 2 return to WAITING_LANDING beside 3, which is ASSEMBLING and whose stamp lies between theirs: one remains. -/
theorem test_oneEntryOfAKeyRemains :
    let at_ (id stamp : Nat) : Arrival :=
      { arrival with id := id, desc := { anOpen with seq := id, stamp := BitVec.ofNat 64 (256 * stamp) } }
    let sent (id stamp : Nat) : Arrival :=
      { at_ id stamp with state := .delivered, order := id, delivery := some (0, ⟨id, 0, 4096⟩) }
    let u := { peered with inbound := { arrivals := [sent 1 5, sent 2 3, at_ 3 4], nextId := 4 } }.returnDeliveries 0
    u.inbound.arrivals.map (·.id) = [1] ∧ u.inbound.done.map (·.seq) = [2, 3] := by decide +kernel

/-- R6: a failed page that has the position of a page of another segment leaves that page in the tail cache. -/
theorem test_failedPagesAreNotInTheCache :
    let d : Dev :=
      { stored [1, 2] with
        array := { segs := [(0, { state := .full, failed := [1], pages := [⟨0, 1, [], true⟩, ⟨1, 2, [], false⟩] })], baseErase := 1 } }
    (d.leaveChain 0).journal.tailCache = [2] := by decide +kernel

theorem witness_StartEndMakesThePartReady :
    (ready.power.powered = true ∧ ready.part ≠ .starting) ∧
    (let d : Dev := { peered with part := .starting }
     d.part = .starting ∧ d.power.stopped = false ∧ d.power.powered = true ∧ d.settings.localSite = some 4 ∧
       d.span[(0 : SpanId)].ctrlQ.length ≤ 4088) := by decide +kernel

theorem witness_EveryStepKeepsNoticeQueues : Dev.reset.noticesOk = true ∧ step ⟨[], Dev.reset⟩ = .next ⟨[], Dev.reset⟩ :=
  ⟨by decide +kernel, rfl⟩

theorem witness_EveryStepKeepsInactiveSlotsAtRest :
    (flying flight).restOk = true ∧ step ⟨[], flying flight⟩ = .next ⟨[], flying flight⟩ := ⟨by decide +kernel, rfl⟩

theorem witness_EveryStepKeepsBuffersAndTables :
    (stored []).journal.buffersOk = true ∧ (stored []).tablesOk = true ∧ step ⟨[], stored []⟩ = .next ⟨[], stored []⟩ :=
  ⟨by decide +kernel, by decide +kernel, rfl⟩

end Sys2Proof.Tests
end

section
/-!
SUPPORT and settlement of O10. What a function reset (R177) leaves in its port, and that it changes nothing but the ports, the
arrivals with their landing writes, and the reads in progress.
-/

open Sys2Proof Sys2Proof.Machine

namespace Sys2Proof.Machine

/-- R177: what a function reset clears in its port, before the port leaves ONLINE. -/
def Port.resetQueues (q : Port) : Port :=
  { q with
    cmdQ := [], respQ := [], noticeQ := [], lookup := none
    taken := q.taken.map fun t => { t with discard := true }
    timeouts := 0, lost := 0, noticeNumber := 1 }

/-- R165, R177: the two states that a port leaves at a function reset. -/
def PortState.openOrLost (st : PortState) : Prop := st = .online ∨ st = .lost

theorem Port.resetQueues_outstanding (q : Port) : q.resetQueues.outstanding = 0 := by
  simp [Port.outstanding, Port.resetQueues]

/-- R177: a function reset of a port that is ONLINE or LOST. -/
theorem Dev.functionReset_of_openOrLost {d : Dev} {p : PortId} (h : d.ports[p].state.openOrLost) :
    d.functionReset p =
      ((d.modPort p fun q => { q.resetQueues with state := .offline }).leftOnline p).portNotice p d.ports[p].state .offline
        .functionReset := by
  unfold Dev.functionReset
  rcases h with h | h <;> simp only [h, Dev.modPort_modPort] <;> rfl

/-- R177: a function reset of any other port. -/
theorem Dev.functionReset_of_not_openOrLost {d : Dev} {p : PortId} (h : ¬ d.ports[p].state.openOrLost) :
    d.functionReset p = (d.modPort p Port.resetQueues).returnDeliveries p := by
  unfold Dev.functionReset
  dsimp only
  split
  · rename_i ho; exact absurd (.inl ho) h
  · rename_i hl; exact absurd (.inr hl) h
  · rfl

/-- R177: the port after its function reset. PORT_STATE does not come to it, because it is not ONLINE any more. -/
theorem Dev.functionReset_self (d : Dev) (p : PortId) :
    (d.functionReset p).ports[p] =
      { d.ports[p].resetQueues with
        landings := []
        state := if d.ports[p].state = .online ∨ d.ports[p].state = .lost then .offline else d.ports[p].state } := by
  by_cases h : d.ports[p].state.openOrLost
  · have hstate : (if d.ports[p].state = .online ∨ d.ports[p].state = .lost then PortState.offline else d.ports[p].state) = .offline :=
      if_pos h
    rw [Dev.functionReset_of_openOrLost h, Dev.portNotice, Dev.broadcast_port, Dev.leftOnline_port, if_pos rfl,
      Dev.modPort_self, hstate]
    rfl
  · have hstate : (if d.ports[p].state = .online ∨ d.ports[p].state = .lost then PortState.offline else d.ports[p].state) =
        d.ports[p].state := if_neg h
    rw [Dev.functionReset_of_not_openOrLost h, Dev.returnDeliveries_ports, if_pos rfl, Dev.modPort_self, hstate]
    rfl

/-- R137, R177: after a function reset nothing is delivered to the port. -/
theorem Dev.functionReset_arrivals (d : Dev) (p : PortId) :
    ∀ a ∈ (d.functionReset p).inbound.arrivals, a.delivery.map (·.1) ≠ some p := by
  intro a ha
  by_cases h : d.ports[p].state.openOrLost
  · have hb : ∀ (e : Dev) (b : NoticeBody), (e.broadcast b).inbound = e.inbound := fun e b =>
      (congrArg Dev.inbound (Dev.broadcast_rest e b) :)
    rw [Dev.functionReset_of_openOrLost h, Dev.portNotice, hb] at ha
    exact Dev.leftOnline_arrivals p _ a ha
  · rw [Dev.functionReset_of_not_openOrLost h] at ha
    exact Dev.returnDeliveries_arrivals p _ a ha

/-- The second part is the first but for the ports, the arrivals with their landing writes, and the reads in progress. -/
def Dev.SameButPorts (d e : Dev) : Prop :=
  { e with
    ports := d.ports, inbound := d.inbound, dma := d.dma, fetch := d.fetch, status := d.status, sites := d.sites } = d

theorem Dev.SameButPorts.trans {d e f : Dev} (h : d.SameButPorts e) (k : e.SameButPorts f) : d.SameButPorts f := by
  unfold Dev.SameButPorts at *
  rw [← h, ← k]

theorem Dev.SameButPorts.of_deliveries {d e : Dev}
    (h : { e with ports := d.ports, inbound := d.inbound, dma := d.dma } = d) : d.SameButPorts e := by
  unfold Dev.SameButPorts
  rw [← h]

theorem Dev.SameButPorts.of_ports {d e : Dev} (h : { e with ports := d.ports } = d) : d.SameButPorts e := by
  unfold Dev.SameButPorts
  rw [← h]

/-- R177: a function reset changes nothing else. -/
theorem Dev.functionReset_sameButPorts (d : Dev) (p : PortId) : d.SameButPorts (d.functionReset p) := by
  by_cases h : d.ports[p].state.openOrLost
  · rw [Dev.functionReset_of_openOrLost h]
    exact (Dev.SameButPorts.of_ports (e := d.modPort p _) rfl).trans
      (Dev.SameButPorts.trans (Dev.leftOnline_rest p _) (.of_ports (Dev.broadcast_rest _ _)))
  · rw [Dev.functionReset_of_not_openOrLost h]
    exact (Dev.SameButPorts.of_ports (e := d.modPort p _) rfl).trans (.of_deliveries (Dev.returnDeliveries_rest p _))

theorem functionReset_next {s : State} (t : Time) (p : PortId) (h : s.dev.power.powered = true) :
    exec (.functionReset t p) s = .next { s with dev := ((s.dev.tick t).functionReset p).settle } := by
  show State.goOn (Dev.event t (Dev.functionReset p)) s = _
  rw [State.goOn_next, Dev.event_powered _ _ _ h]

end Sys2Proof.Machine

/-- Settles O10: the reset port, the other ports and the rest of the part each have their own lemma. -/
theorem functionResetClearsThePort : Obligations.FunctionResetClearsThePort := by
  intro s t p hpow
  have hself := Dev.functionReset_self (s.dev.tick t) p
  have hrest := Dev.functionReset_sameButPorts (s.dev.tick t) p
  refine ⟨(s.dev.tick t).functionReset p, functionReset_next t p hpow, ?_⟩
  rw [hself]
  exact ⟨rfl, rfl, rfl, rfl, rfl, Port.resetQueues_outstanding s.dev.ports[p], rfl, rfl, rfl, rfl, rfl, rfl,
    Dev.functionReset_arrivals _ p, fun q hq => Dev.functionReset_other _ p q hq,
    (congrArg Dev.settings hrest :), (congrArg Dev.journal hrest :), (congrArg Dev.part hrest :),
    (congrArg Dev.intake hrest :)⟩

end

section
/-!
SUPPORT and settlement of O22. Commands that are answered in the event of their posting, and the two summaries (R22, R40).
-/

open Sys2Proof Sys2Proof.Machine

namespace Sys2Proof.Machine

/-- R22: a command that is answered at once, posted to a free port, is answered in the event of its posting. -/
theorem Dev.posted_replies {s : State} {t : Time} {p : PortId} {cid : Word32} {b : CmdBody} {st : Status} {fl : Byte}
    {body : RespBody} (hup : s.dev.up) (hf : s.dev.portFree p) (ha : usesArbiter b = false)
    (hact : ((s.dev.tick t).take p ⟨cid, b⟩ []).act (s.dev.nextTok p) .none b =
      ((s.dev.tick t).take p ⟨cid, b⟩ []).answer (s.dev.nextTok p) st fl body) :
    s.goOn (Dev.posted t p cid b) =
      .next { s with dev := ((s.dev.tick t).replied p cid (kindCode b) st fl body).settle } := by
  rw [Dev.posted_acts cid b hup hf ha, hact]
  have h := Dev.take_answer (d := s.dev.tick t) (p := p) ⟨cid, b⟩ st fl body hf.2
  exact congrArg (fun d : Dev => Host.Outcome.next { s with dev := d.settle }) h

/-- R40: the intents that are linked and not yet written, counted by the key summary. -/
theorem unwrittenLinks_eq (l : List (Nat × Slot)) :
    (l.filter fun e => !e.2.written && e.2.link.isSome) =
      l.filter fun e => e.2.written = false ∧ e.2.link ≠ none := by
  refine List.filter_congr fun e _ => ?_
  cases e.2.written <;> cases e.2.link <;> rfl

theorem Dev.actReadJournal_summary (d : Dev) (tok : Tok) (addr : Nat) :
    d.actReadJournal tok 0 addr = d.answer tok .done 0 (.journalSummary d.journalSummary) := if_pos rfl

theorem Dev.actQueryKey_summary {d : Dev} {q : KeyQuery} (tok : Tok) (h : q.keyLen = 0) :
    d.actQueryKey tok q = d.answer tok .done 0 d.keySummary := if_pos h

theorem Dev.actQueryKey_long {d : Dev} {q : KeyQuery} (tok : Tok) (h : 240 < q.keyLen) :
    d.actQueryKey tok q = d.answer tok .badField 0 .none := by
  unfold Dev.actQueryKey
  rw [if_neg (by omega), if_pos h]
  rfl

end Sys2Proof.Machine

/-- Settles O22: each of the three commands is answered at once (posted_replies), from a part whose tables its taking leaves. -/
theorem journalAndKeySummaries : Obligations.JournalAndKeySummaries := by
  intro s t p cid hup hf
  refine ⟨fun addr => ?_, fun q hq => ?_, fun q hq => ?_⟩
  · exact Dev.posted_replies hup hf rfl (Dev.actReadJournal_summary _ _ addr)
  · rw [← unwrittenLinks_eq]
    exact Dev.posted_replies hup hf rfl (Dev.actQueryKey_summary _ hq)
  · exact Dev.posted_replies hup hf rfl (Dev.actQueryKey_long _ hq)

end

section
/-!
SUPPORT and settlement of O43. The intake arbiter's choice (R170), the BLANK segment that a program takes (R3), and what the array
arbiter starts (R16, R147, R149), operation by operation.
-/

open Sys2Proof Sys2Proof.Machine

namespace Sys2Proof.Machine

/-! ## The intake arbiter: the first ready port after the one granted last (R167, R170) -/

/-- In a list whose numbers rise strictly, the first element that passes a test is the passing one of the lowest number. -/
theorem find?_eq_some_iff_lowest {α : Type} (number : α → Nat) (test : α → Bool) {l : List α}
    (hl : l.Pairwise fun a b => number a < number b) (p : α) :
    l.find? test = some p ↔ p ∈ l ∧ test p = true ∧ ∀ q ∈ l, test q = true → number p ≤ number q := by
  induction l with
  | nil => simp
  | cons a t ih =>
    obtain ⟨ha, ht⟩ := List.pairwise_cons.1 hl
    rw [List.find?_cons]
    by_cases h : test a = true
    · simp only [h, Option.some.injEq]
      constructor
      · rintro rfl
        exact ⟨List.mem_cons_self, h, fun q hq _ => (List.mem_cons.1 hq).elim (fun e => e ▸ le_refl _) fun hq => (ha q hq).le⟩
      · rintro ⟨hp, _, hlow⟩
        refine ((List.mem_cons.1 hp).resolve_right fun hp => ?_).symm
        exact absurd (hlow a List.mem_cons_self h) (not_le.2 (ha p hp))
    · simp only [h]
      rw [ih ht]
      constructor
      · rintro ⟨hp, htest, hlow⟩
        refine ⟨List.mem_cons_of_mem _ hp, htest, fun q hq hq' => ?_⟩
        rcases List.mem_cons.1 hq with rfl | hq
        · exact absurd hq' h
        · exact hlow q hq hq'
      · rintro ⟨hp, htest, hlow⟩
        refine ⟨(List.mem_cons.1 hp).resolve_left ?_, htest, fun q hq => hlow q (List.mem_cons_of_mem _ hq)⟩
        rintro rfl
        exact h htest

/-- How far a port stands behind the one after l, in number order with wrapping. -/
def portDistance (l q : PortId) : Nat := (q.val + 3 - l.val) % 4

theorem portsAfter_pairwise (l : PortId) : (portsAfter l).Pairwise fun a b => portDistance l a < portDistance l b := by
  revert l; decide

theorem mem_portsAfter (l q : PortId) : q ∈ portsAfter l := by revert l q; decide

/-- R167: what it takes for a port's head command to be ready for the arbiter. -/
def Dev.HeadReady (d : Dev) (q : PortId) : Prop :=
  (∀ y ∈ d.ports[q].taken, y.holds = false) ∧ d.ports[q].state = .online ∧
    ∃ c rest, d.ports[q].cmdQ = c :: rest ∧ usesArbiter c.body = true ∧
      ∀ b, c.body = .append b → 1 ≤ b.keyLen → b.keyLen ≤ 240 → ∃ o, d.ports[q].lookup = some (.known o)

theorem Port.isHeld_eq_false_iff (q : Port) : q.isHeld = false ↔ ∀ y ∈ q.taken, y.holds = false := by
  simp [Port.isHeld]

theorem lengthOk_iff (n : Nat) : lengthOk n = true ↔ 1 ≤ n ∧ n ≤ 240 := by simp [lengthOk]

/-- R167: an APPEND at the head of a queue is ready when its key length is out of range or its lookup has ended. -/
theorem Dev.readyCommand_iff (d : Dev) (q : PortId) : d.readyCommand q = true ↔ d.HeadReady q := by
  unfold Dev.readyCommand Dev.HeadReady
  rw [Bool.and_eq_true, Bool.and_eq_true, Bool.not_eq_true', Port.isHeld_eq_false_iff, beq_iff_eq, and_assoc]
  refine and_congr_right fun _ => and_congr_right fun _ => ?_
  split
  · rename_i hq
    rw [hq]
    exact ⟨fun h => (Bool.false_ne_true h).elim, fun ⟨_, _, h, _⟩ => nomatch h⟩
  · rename_i cid b rest hq
    have hlength : (!lengthOk b.keyLen) = true ↔ ¬ (1 ≤ b.keyLen ∧ b.keyLen ≤ 240) := by
      rw [Bool.not_eq_true', ← Bool.not_eq_true, lengthOk_iff]
    have hhead : (∃ c l, d.ports[q].cmdQ = c :: l ∧ usesArbiter c.body = true ∧
          ∀ b, c.body = .append b → 1 ≤ b.keyLen → b.keyLen ≤ 240 → ∃ o, d.ports[q].lookup = some (.known o)) ↔
        (1 ≤ b.keyLen ∧ b.keyLen ≤ 240 → ∃ o, d.ports[q].lookup = some (.known o)) := by
      rw [hq]
      constructor
      · rintro ⟨_, _, ⟨⟩, _, h⟩ ⟨hlow, hhigh⟩
        exact h b rfl hlow hhigh
      · exact fun h => ⟨_, _, rfl, rfl, by rintro _ ⟨⟩ hlow hhigh; exact h ⟨hlow, hhigh⟩⟩
    rw [hhead, Bool.or_eq_true, hlength]
    rcases d.ports[q].lookup with _ | (_ | o) <;> simp [imp_iff_not_or]
  · rename_i r rest hne hq
    rw [hq]
    constructor
    · exact fun h => ⟨r, rest, rfl, h, fun b hb => (hne r.cid b (by rw [← hb])).elim⟩
    · rintro ⟨_, _, ⟨⟩, h, _⟩
      exact h

/-- R170: the arbiter grants nothing, or the first ready port. -/
theorem Dev.grantChoice_eq_some_iff (d : Dev) (p : PortId) :
    d.grantChoice = some p ↔ (d.part = .ready ∧ d.intake.grant = none ∧ d.journal.ctrlQ = []) ∧ d.HeadReady p ∧
      ∀ q, d.HeadReady q → portDistance d.intake.last p ≤ portDistance d.intake.last q := by
  unfold Dev.grantChoice
  split
  · rename_i h
    rw [find?_eq_some_iff_lowest (portDistance d.intake.last) _ (portsAfter_pairwise _)]
    simp [mem_portsAfter, Dev.readyCommand_iff, h]
  · rename_i h
    constructor
    · exact fun e => nomatch e
    · exact fun e => absurd e.1 h

theorem Dev.grantChoice_eq_none_iff (d : Dev) :
    d.grantChoice = none ↔
      ¬ (d.part = .ready ∧ d.intake.grant = none ∧ d.journal.ctrlQ = []) ∨ ∀ q, ¬ d.HeadReady q := by
  unfold Dev.grantChoice
  split
  · rename_i h
    rw [List.find?_eq_none]
    simp [mem_portsAfter, Dev.readyCommand_iff, h]
  · rename_i h
    exact ⟨fun _ => .inl h, fun _ => rfl⟩

/-! ## The BLANK segment that a program takes (R3) -/

/-- R3: the lower erase count comes first, and the lower number among equals. -/
def comesBefore (x y : Nat × Nat) : Bool := decide (x.2 < y.2) || (x.2 == y.2 && decide (x.1 < y.1))

theorem comesBefore_eq_false_iff (x y : Nat × Nat) :
    comesBefore x y = false ↔ y.2 < x.2 ∨ (y.2 = x.2 ∧ y.1 ≤ x.1) := by
  simp only [comesBefore, Bool.or_eq_false_iff, Bool.and_eq_false_iff, decide_eq_false_iff_not, beq_eq_false_iff_ne]
  omega

theorem comesBefore_eq_false_trans {x y z : Nat × Nat} (h : comesBefore x y = false) (k : comesBefore y z = false) :
    comesBefore x z = false := by
  rw [comesBefore_eq_false_iff] at *
  omega

/-- Of two, the one that is kept is one of them, and neither comes before it. -/
theorem comesBefore_ite (a h : Nat × Nat) :
    let kept := if comesBefore a h then a else h
    (kept = h ∨ kept = a) ∧ comesBefore h kept = false ∧ comesBefore a kept = false := by
  dsimp only
  cases ha : comesBefore a h
  · exact ⟨.inl rfl, by simp [comesBefore], ha⟩
  · refine ⟨.inr rfl, ?_, by simp [comesBefore]⟩
    have hnot := (comesBefore_eq_false_iff a h).not.1 (by simp [ha])
    rw [if_pos rfl, comesBefore_eq_false_iff]
    omega

/-- The one of a list that comes first is in it, and none comes before it. -/
theorem foldl_comesBefore (t : List (Nat × Nat)) (h : Nat × Nat) :
    (t.foldl (fun best e => if comesBefore e best then e else best) h) ∈ h :: t ∧
      ∀ e ∈ h :: t, comesBefore e (t.foldl (fun best e => if comesBefore e best then e else best) h) = false := by
  induction t generalizing h with
  | nil => simp [comesBefore_eq_false_iff]
  | cons a t ih =>
    rw [List.foldl_cons]
    obtain ⟨hkept, hhead, hnext⟩ := comesBefore_ite a h
    obtain ⟨hin, hfirst⟩ := ih (if comesBefore a h then a else h)
    generalize (if comesBefore a h then a else h) = kept at *
    have hkeptFirst := hfirst kept List.mem_cons_self
    constructor
    · rcases List.mem_cons.1 hin with hin | hin
      · rw [hin]
        rcases hkept with rfl | rfl <;> simp
      · exact List.mem_cons_of_mem _ (List.mem_cons_of_mem _ hin)
    · intro e he
      rcases List.mem_cons.1 he with rfl | he
      · exact comesBefore_eq_false_trans hhead hkeptFirst
      · rcases List.mem_cons.1 he with rfl | he
        · exact comesBefore_eq_false_trans hnext hkeptFirst
        · exact hfirst e (List.mem_cons_of_mem _ he)

theorem Tbl.get_eq_none_of_forall_ne {α : Type} {l : List (Nat × α)} {x : Nat} (h : ∀ e ∈ l, e.1 ≠ x) : Tbl.get l x = none := by
  cases hx : Tbl.get l x with
  | none => rfl
  | some a => exact absurd rfl (h _ (Tbl.get_mem hx))

/-- In a table in its one form each listed entry is what its key reads. -/
theorem Tbl.get_of_mem {α : Type} {l : List (Nat × α)} (hl : Tbl.ascending l = true) {e : Nat × α} (he : e ∈ l) :
    Tbl.get l e.1 = some e.2 := by
  induction l with
  | nil => cases he
  | cons f t ih =>
    obtain ⟨k, v⟩ := f
    obtain ⟨hk, ht⟩ := (Tbl.ascending_cons _ _ _).1 hl
    rcases List.mem_cons.1 he with rfl | he
    · simp [Tbl.get]
    · rw [Tbl.get, if_neg (hk e he).ne', ih ht he]

/-- The number that `firstFree` gives: all numbers before it are keys, and it is none, or the fuel has run out. -/
theorem Tbl.firstFree_spec {α : Type} (l : List (Nat × α)) (fuel a : Nat) :
    (∀ x, a ≤ x → x < Tbl.firstFree l fuel a → (Tbl.get l x).isSome = true) ∧
      (Tbl.get l (Tbl.firstFree l fuel a) = none ∨ Tbl.firstFree l fuel a = a + fuel) := by
  induction fuel generalizing a with
  | zero => exact ⟨fun x h1 h2 => by simp only [Tbl.firstFree] at h2; omega, .inr rfl⟩
  | succ n ih =>
    rw [Tbl.firstFree]
    by_cases h : (Tbl.get l a).isSome = true
    · rw [if_pos h]
      obtain ⟨hkeys, hend⟩ := ih (a + 1)
      refine ⟨fun x h1 h2 => ?_, hend.imp_right fun e => by omega⟩
      by_cases hx : x = a
      · rw [hx]; exact h
      · exact hkeys x (by omega) h2
    · rw [if_neg h]
      exact ⟨fun x h1 h2 => by omega, .inl (by simpa using h)⟩

/-- With as much fuel as the table has entries, `firstFree` gives a number that is not a key: the numbers 0 to the table's
length are one too many to be keys. -/
theorem Tbl.get_firstFree {α : Type} (l : List (Nat × α)) : Tbl.get l (Tbl.firstFree l l.length 0) = none := by
  obtain ⟨hkeys, hend⟩ := Tbl.firstFree_spec l l.length 0
  refine hend.elim id fun hfull => ?_
  by_contra hkey
  have hsub : List.range (l.length + 1) ⊆ l.map (·.1) := by
    intro x hx
    have hsome : (Tbl.get l x).isSome = true := by
      rw [List.mem_range] at hx
      by_cases hlast : x = Tbl.firstFree l l.length 0
      · rw [hlast]; exact Option.isSome_iff_ne_none.2 hkey
      · exact hkeys x (Nat.zero_le _) (by omega)
    obtain ⟨v, hv⟩ := Option.isSome_iff_exists.1 hsome
    exact List.mem_map.2 ⟨_, Tbl.get_mem hv, rfl⟩
  have hlen := (List.subperm_of_subset List.nodup_range hsub).length_le
  simp at hlen

/-- R3: the candidates of the choice: the BLANK segments that are listed, and the lowest-numbered one that is not. -/
def ArrayBlk.blankCandidates (a : ArrayBlk) : List (Nat × Nat) :=
  let unlisted := Tbl.firstFree a.segs a.segs.length 0
  let listed := a.segs.filterMap fun e => if e.2.state = .blank then some (e.1, e.2.eraseCount) else none
  if unlisted < segmentCount then (unlisted, a.baseErase) :: listed else listed

/-- R3: the segment that is chosen is a candidate, and none comes before it. -/
theorem ArrayBlk.chooseBlank_first {a : ArrayBlk} {n : Nat} (h : a.chooseBlank = some n) :
    ∃ e ∈ a.blankCandidates, e.1 = n ∧ ∀ f ∈ a.blankCandidates, comesBefore f e = false := by
  unfold ArrayBlk.chooseBlank at h
  dsimp only at h
  split at h
  · cases h
  · rename_i hd tl hall
    cases h
    have hlist : a.blankCandidates = hd :: tl := hall
    rw [hlist]
    obtain ⟨hin, hfirst⟩ := foldl_comesBefore tl hd
    exact ⟨_, hin, rfl, hfirst⟩

theorem ArrayBlk.seg_of_get_none {a : ArrayBlk} {n : Nat} (h : Tbl.get a.segs n = none) : a.seg n = a.blankSeg := by
  unfold ArrayBlk.seg; rw [h]; rfl

theorem ArrayBlk.seg_of_mem {a : ArrayBlk} (ha : Tbl.ascending a.segs = true) {e : Nat × Segment} (he : e ∈ a.segs) :
    a.seg e.1 = e.2 := by
  unfold ArrayBlk.seg; rw [Tbl.get_of_mem ha he]; rfl

/-- A candidate is a BLANK segment with its erase count. -/
theorem ArrayBlk.blankCandidates_sound {a : ArrayBlk} (ha : Tbl.ascending a.segs = true) {e : Nat × Nat}
    (he : e ∈ a.blankCandidates) : (a.seg e.1).state = .blank ∧ (a.seg e.1).eraseCount = e.2 := by
  have hlisted : e ∈ (a.segs.filterMap fun e => if e.2.state = .blank then some (e.1, e.2.eraseCount) else none) →
      (a.seg e.1).state = .blank ∧ (a.seg e.1).eraseCount = e.2 := by
    intro h
    obtain ⟨g, hg, hge⟩ := List.mem_filterMap.1 h
    split at hge
    · rename_i hblank
      cases hge
      rw [ArrayBlk.seg_of_mem ha hg]
      exact ⟨hblank, rfl⟩
    · cases hge
  unfold ArrayBlk.blankCandidates at he
  dsimp only at he
  split at he
  · rcases List.mem_cons.1 he with rfl | he
    · rw [ArrayBlk.seg_of_get_none (Tbl.get_firstFree a.segs)]
      exact ⟨rfl, rfl⟩
    · exact hlisted he
  · exact hlisted he

/-- For every BLANK segment there is a candidate of its erase count, whose number is not higher. -/
theorem ArrayBlk.blankCandidates_complete {a : ArrayBlk} {m : Nat} (hm : m < segmentCount) (hblank : (a.seg m).state = .blank) :
    ∃ e ∈ a.blankCandidates, e.1 ≤ m ∧ e.2 = (a.seg m).eraseCount := by
  unfold ArrayBlk.blankCandidates
  dsimp only
  cases hget : Tbl.get a.segs m with
  | some s =>
    have hs : a.seg m = s := by unfold ArrayBlk.seg; rw [hget]; rfl
    rw [hs] at hblank ⊢
    have hin : (m, s.eraseCount) ∈
        a.segs.filterMap fun e => if e.2.state = .blank then some (e.1, e.2.eraseCount) else none :=
      List.mem_filterMap.2 ⟨(m, s), Tbl.get_mem hget, if_pos hblank⟩
    refine ⟨(m, s.eraseCount), ?_, le_refl m, rfl⟩
    split
    · exact List.mem_cons_of_mem _ hin
    · exact hin
  | none =>
    have hle : Tbl.firstFree a.segs a.segs.length 0 ≤ m := by
      by_contra hlt
      have hkey := (Tbl.firstFree_spec a.segs a.segs.length 0).1 m (Nat.zero_le _) (by omega)
      rw [hget] at hkey
      cases hkey
    rw [if_pos (by omega), ArrayBlk.seg_of_get_none hget]
    exact ⟨_, List.mem_cons_self, hle, rfl⟩

/-- R3: the chosen segment is BLANK, and comes first among the BLANK segments. -/
theorem ArrayBlk.chooseBlank_spec {a : ArrayBlk} {n : Nat} (ha : Tbl.ascending a.segs = true) (h : a.chooseBlank = some n) :
    (a.seg n).state = .blank ∧
      ∀ m, m < 2048 → (a.seg m).state = .blank →
        (a.seg n).eraseCount < (a.seg m).eraseCount ∨ ((a.seg n).eraseCount = (a.seg m).eraseCount ∧ n ≤ m) := by
  obtain ⟨e, he, rfl, hfirst⟩ := ArrayBlk.chooseBlank_first h
  obtain ⟨hblank, hcount⟩ := ArrayBlk.blankCandidates_sound ha he
  refine ⟨hblank, fun m hm hm' => ?_⟩
  obtain ⟨f, hf, hle, hcount'⟩ := ArrayBlk.blankCandidates_complete hm hm'
  have hbefore := (comesBefore_eq_false_iff f e).1 (hfirst f hf)
  omega

/-! ## A segment after an update -/

theorem ArrayBlk.putSeg_seg_other (a : ArrayBlk) (n k : Nat) (s : Segment) (h : k ≠ n) : (a.putSeg n s).seg k = a.seg k := by
  unfold ArrayBlk.putSeg ArrayBlk.seg
  dsimp only
  split
  · rw [Tbl.get_del_other _ _ _ h]; rfl
  · rw [Tbl.get_put_other _ _ _ _ h]; rfl

/-- A segment that is not as an unlisted one is listed, and reads back. -/
theorem ArrayBlk.putSeg_seg_self (a : ArrayBlk) (n : Nat) {s : Segment} (h : s ≠ a.blankSeg) : (a.putSeg n s).seg n = s := by
  unfold ArrayBlk.putSeg ArrayBlk.seg
  dsimp only
  rw [if_neg h, Tbl.get_put_self]
  rfl

/-- A segment that takes a state other than BLANK. -/
theorem Dev.setSegState_self (d : Dev) (n : Nat) (st : SegState) (h : st ≠ .blank) :
    (d.modSeg n fun s => { s with state := st }).seg n = { d.seg n with state := st } :=
  ArrayBlk.putSeg_seg_self d.array n fun e => h (congrArg Segment.state e :)

theorem Dev.setSegState_other (d : Dev) {n k : Nat} (st : SegState) (h : k ≠ n) :
    (d.modSeg n fun s => { s with state := st }).seg k = d.seg k := ArrayBlk.putSeg_seg_other d.array n k _ h

/-! ## The array arbiter, operation by operation (R14, R16, R147, R149) -/

/-- R3, R14: the segment for the next page, as the choice of a FILLING one, or else of a BLANK one. -/
theorem ArrayBlk.programTarget_eq (a : ArrayBlk) :
    a.programTarget = match a.filling with | some n => some n | none => a.chooseBlank := by
  unfold ArrayBlk.programTarget
  cases a.filling <;> rfl

theorem Dev.programWaits_iff (d : Dev) : d.programWaits = true ↔ d.journal.progQ ≠ [] ∧ d.array.programTarget ≠ none := by
  simp [Dev.programWaits, Option.isSome_iff_ne_none]

/-- R16, R149: a running erase gives way to a program or a read. -/
def Dev.suspendErase (n : Nat) (d : Dev) : Dev :=
  let e := (d.modSeg n fun s => { s with state := .suspended }).modReclaim fun r => { r with suspensions := sat32 (r.suspensions + 1) }
  { e with array := { e.array with op := some (.suspending n) } }

theorem Dev.arbitrate_erase {d : Dev} {n : Nat} (ho : d.array.op = some (.erase n)) :
    d.arbitrate = if d.part = .ready ∧ (d.programWaits = true ∨ d.array.reads ≠ []) then some (d.suspendErase n) else none := by
  unfold Dev.arbitrate
  simp only [ho]
  simp [Dev.suspendErase]

theorem Dev.arbitrate_busy {d : Dev} {o : ArrayOp} (ho : d.array.op = some o) (h : ∀ n, o ≠ .erase n) : d.arbitrate = none := by
  unfold Dev.arbitrate
  rw [ho]
  cases o with
  | erase n => exact absurd rfl (h n)
  | _ => rfl

theorem Dev.arbitrate_program {d : Dev} {buf : BufId} {rest : List BufId} {n : Nat} (ho : d.array.op = none)
    (hq : d.journal.progQ = buf :: rest) (ht : d.array.programTarget = some n) : d.arbitrate = some (d.startProgram buf n) := by
  unfold Dev.arbitrate
  simp only [ho, hq, ht]

/-- R149: the suspended erase goes on. -/
def Dev.resumeErase (n : Nat) (d : Dev) : Dev :=
  let e := d.modSeg n fun s => { s with state := .reclaiming }
  { e with array := { e.array with op := some (.erase n), suspended := none } }

/-- R16: what the arbiter of a READY part starts on a free array when no program can start. -/
def Dev.arbitrateIdle (d : Dev) : Option Dev :=
  match d.array.reads with
  | r :: rest =>
    let e := { d with array := { d.array with reads := rest } }
    if e.readable r then some { e with array := { e.array with op := some (.read r) } } else some (e.readEnded r none)
  | [] =>
    match d.array.suspended with
    | some n => some (d.resumeErase n)
    | none =>
      match d.reclaim.engine with
      | .waiting n => some (if d.eligible n (d.seg n) then d.startErase n else d.withdraw)
      | _ => none

theorem Dev.arbitrate_idle {d : Dev} (ho : d.array.op = none) (hw : ¬ (d.journal.progQ ≠ [] ∧ d.array.programTarget ≠ none)) :
    d.arbitrate = if d.part = .ready then d.arbitrateIdle else none := by
  unfold Dev.arbitrate
  dsimp only
  split
  · rename_i hop; rw [ho] at hop; cases hop
  · rename_i hop; rw [ho] at hop; cases hop
  · split
    · rename_i buf rest n hq ht
      exact absurd ⟨by rw [hq]; exact List.cons_ne_nil _ _, by rw [ht]; exact Option.some_ne_none _⟩ hw
    · by_cases hp : d.part = .ready
      · have hready : ¬ (!(d.part == PartState.ready)) = true := by rw [hp]; decide
        rw [if_pos hp, if_neg hready]
        rfl
      · rw [if_neg hp, if_pos (by simpa using hp)]

theorem Dev.arbitrateIdle_request {d : Dev} {n : Nat} (hr : d.array.reads = []) (hs : d.array.suspended = none)
    (he : d.reclaim.engine = .waiting n) :
    d.arbitrateIdle = some (if d.eligible n (d.seg n) then d.startErase n else d.withdraw) := by
  unfold Dev.arbitrateIdle
  simp only [hr, hs, he]

/-- R16: a page that a waiting read may still read. -/
theorem Dev.readable_iff (d : Dev) (r : ReadReq) :
    d.readable r = true ↔ ∃ g ∈ d.array.segs, g.1 = r.seg ∧ (g.2.state = .full ∨ g.2.state = .filling) ∧
      ∃ p ∈ g.2.pages, p.num = r.page ∧ p.num ∉ g.2.failed := by
  simp only [Dev.readable, ArrayBlk.unfailedPages, ArrayBlk.held, Segment.unfailed, List.any_eq_true, List.mem_flatMap,
    List.mem_filter, List.mem_map, Bool.or_eq_true, Bool.and_eq_true, beq_iff_eq, Bool.not_eq_true', List.contains_eq_mem,
    decide_eq_false_iff_not]
  constructor
  · rintro ⟨_, ⟨g, ⟨hg, hstate⟩, p, ⟨hp, hfail⟩, rfl⟩, hseg, hpage⟩
    exact ⟨g, hg, hseg, hstate, p, hp, hpage, hfail⟩
  · rintro ⟨g, hg, hseg, hstate, p, hp, hpage, hfail⟩
    exact ⟨_, ⟨g, ⟨hg, hstate⟩, p, ⟨hp, hfail⟩, rfl⟩, hseg, hpage⟩

theorem Dev.arbitrateIdle_read {d : Dev} {r : ReadReq} {rest : List ReadReq} (hr : d.array.reads = r :: rest) :
    d.arbitrateIdle =
      if d.readable r then some { d with array := { d.array with reads := rest, op := some (.read r) } }
      else some (({ d with array := { d.array with reads := rest } } : Dev).readEnded r none) := by
  unfold Dev.arbitrateIdle
  simp only [hr]
  rfl

/-! ## The chain that an erase leaves (R5, R6, R110, R147) -/

theorem Tbl.get_del_self {α : Type} {l : List (Nat × α)} (h : Tbl.ascending l = true) (x : Nat) :
    Tbl.get (Tbl.del l x) x = none := by
  induction l with
  | nil => rfl
  | cons e t ih =>
    obtain ⟨k, v⟩ := e
    obtain ⟨hk, ht⟩ := (Tbl.ascending_cons _ _ _).1 h
    simp only [Tbl.del]
    split
    · rename_i hx
      exact Tbl.get_eq_none_of_forall_ne fun e he => hx ▸ (hk e he).ne'
    · rename_i hx
      rw [Tbl.get, if_neg hx, ih ht]

theorem Dev.freeSlot_slot {d : Dev} (h : Tbl.ascending d.status.slots = true) (s q : Seq) :
    (d.freeSlot s).slot? q = if q = s then none else d.slot? q := by
  by_cases hq : q = s
  · rw [if_pos hq, hq]; exact Tbl.get_del_self h s
  · rw [if_neg hq]; exact Tbl.get_del_other _ _ _ hq

/-- R110: the slots of the intents of a list become FREE, and nothing else of the part changes. -/
theorem Dev.freeSlots (l : List Seq) {d : Dev} (h : Tbl.ascending d.status.slots = true) :
    (∀ q, (l.foldl (fun d q => d.freeSlot q) d).slot? q = if q ∈ l then none else d.slot? q) ∧
      { (l.foldl (fun d q => d.freeSlot q) d).status with slots := d.status.slots } = d.status ∧
      { l.foldl (fun d q => d.freeSlot q) d with status := d.status } = d := by
  induction l generalizing d with
  | nil => exact ⟨fun q => by simp, rfl, rfl⟩
  | cons s t ih =>
    obtain ⟨hslot, hstatus, hrest⟩ := ih (d := d.freeSlot s) (Dev.ascending_freeSlot d s h)
    rw [List.foldl_cons]
    refine ⟨fun q => ?_, ?_, ?_⟩
    · rw [hslot, Dev.freeSlot_slot h]
      by_cases hs : q = s <;> simp [hs]
    · exact (congrArg (fun x : StatusArray => { x with slots := d.status.slots }) hstatus :)
    · exact (congrArg (fun x : Dev => { x with status := d.status }) hrest :)

/-- R6: the positions of the valid pages of a segment. -/
theorem Segment.validPositions_contains (s : Segment) (x : Nat) :
    ((s.pages.filter s.valid).map (·.pos)).contains x =
      s.pages.any fun p => p.crcOk && !s.failed.contains p.num && p.pos == x := by
  rw [Bool.eq_iff_iff]
  simp [Segment.valid, Segment.unfailed, and_assoc]

/-- R5, R6, R110: what a FULL segment takes with it when it leaves the chain. -/
theorem Dev.leaveChain_spec {d : Dev} (n : Nat) (h : Tbl.ascending d.status.slots = true) :
    (∀ q, (d.leaveChain n).slot? q = if q ∈ (d.seg n).intents then none else d.slot? q) ∧
      { (d.leaveChain n).status with slots := d.status.slots } = d.status ∧
      (d.leaveChain n).journal =
        { d.journal with
          tailCache := d.journal.tailCache.filter fun x =>
            !((d.seg n).pages.any fun p => p.crcOk && !(d.seg n).failed.contains p.num && p.pos == x) } ∧
      { d.leaveChain n with status := d.status, journal := d.journal } = d := by
  obtain ⟨hslot, hstatus, hrest⟩ := Dev.freeSlots (d.seg n).intents h
  refine ⟨hslot, hstatus, ?_, ?_⟩
  · have hj : ((d.seg n).intents.foldl (fun d q => d.freeSlot q) d).journal = d.journal := (congrArg Dev.journal hrest :)
    unfold Dev.leaveChain
    simp only [hj, Segment.validPositions_contains]
  · exact (congrArg (fun x : Dev => { x with journal := d.journal }) hrest :)

/-! ## What each start changes -/

theorem Dev.suspendErase_spec (n : Nat) (d : Dev) :
    (d.suspendErase n).array.op = some (.suspending n) ∧ (d.suspendErase n).seg n = { d.seg n with state := .suspended } ∧
      (∀ k, k ≠ n → (d.suspendErase n).seg k = d.seg k) ∧
      (d.suspendErase n).reclaim = { d.reclaim with suspensions := min (d.reclaim.suspensions + 1) 4294967295 } ∧
      { (d.suspendErase n).array with op := d.array.op, segs := d.array.segs } = d.array ∧
      { d.suspendErase n with array := d.array, reclaim := d.reclaim } = d :=
  ⟨rfl, Dev.setSegState_self d n .suspended nofun, fun _ hk => Dev.setSegState_other d .suspended hk, rfl, rfl, rfl⟩

/-- R3, R14: a program takes the next page of its segment and the next page position. -/
theorem Dev.startProgram_spec (buf : BufId) (n : Nat) (d : Dev) :
    (d.startProgram buf n).array.op = some (.program buf n (d.seg n).pages.length d.journal.nextPos) ∧
      (d.startProgram buf n).seg n = { d.seg n with state := .filling } ∧
      (∀ k, k ≠ n → (d.startProgram buf n).seg k = d.seg k) ∧
      (d.startProgram buf n).journal =
        { d.journal with
          nextPos := d.journal.nextPos + 1
          consecFails := if (d.seg n).state = .filling then d.journal.consecFails else 0 } ∧
      { (d.startProgram buf n).array with op := d.array.op, segs := d.array.segs } = d.array ∧
      { d.startProgram buf n with array := d.array, journal := d.journal } = d := by
  have hself : (d.modSeg n fun s => { s with state := .filling }).seg n = { d.seg n with state := .filling } :=
    Dev.setSegState_self d n .filling nofun
  refine ⟨?_, hself, fun k hk => Dev.setSegState_other d .filling hk, ?_, rfl, rfl⟩
  · show some (ArrayOp.program buf n ((d.modSeg n _).seg n).pages.length _) = _
    rw [hself]
    rfl
  · unfold Dev.startProgram
    by_cases h : (d.seg n).state = .filling <;> simp [h]

theorem Dev.arbitrateIdle_resume {d : Dev} {n : Nat} (hr : d.array.reads = []) (hs : d.array.suspended = some n) :
    d.arbitrateIdle = some (d.resumeErase n) := by
  unfold Dev.arbitrateIdle
  simp only [hr, hs]

theorem Dev.resumeErase_spec (n : Nat) (d : Dev) :
    (d.resumeErase n).array.op = some (.erase n) ∧ (d.resumeErase n).array.suspended = none ∧
      (d.resumeErase n).seg n = { d.seg n with state := .reclaiming } ∧ (∀ k, k ≠ n → (d.resumeErase n).seg k = d.seg k) ∧
      { (d.resumeErase n).array with op := d.array.op, segs := d.array.segs, suspended := d.array.suspended } = d.array ∧
      { d.resumeErase n with array := d.array } = d :=
  ⟨rfl, rfl, Dev.setSegState_self d n .reclaiming nofun, fun _ hk => Dev.setSegState_other d .reclaiming hk, rfl, rfl⟩

theorem Dev.arbitrateIdle_nothing {d : Dev} (hr : d.array.reads = []) (hs : d.array.suspended = none)
    (he : ∀ n, d.reclaim.engine ≠ .waiting n) : d.arbitrateIdle = none := by
  unfold Dev.arbitrateIdle
  cases hengine : d.reclaim.engine with
  | idle => simp only [hr, hs]
  | waiting n => exact absurd hengine (he n)
  | erasing n => simp only [hr, hs]

/-- The erase of a segment starts, when the segment has left the chain. -/
def Dev.beginErase (n : Nat) (d : Dev) : Dev :=
  let e := (d.modSeg n fun s => { s with state := .reclaiming }).setEngine (.erasing n)
  { e with array := { e.array with op := some (.erase n) } }

theorem Dev.beginErase_status (n : Nat) (d : Dev) : (d.beginErase n).status = d.status := rfl

theorem Dev.beginErase_journal (n : Nat) (d : Dev) : (d.beginErase n).journal = d.journal := rfl

theorem Dev.beginErase_slot (n : Nat) (q : Seq) (d : Dev) : (d.beginErase n).slot? q = d.slot? q := rfl

theorem Dev.beginErase_spec (n : Nat) (d : Dev) :
    (d.beginErase n).array.op = some (.erase n) ∧ (d.beginErase n).seg n = { d.seg n with state := .reclaiming } ∧
      (∀ k, k ≠ n → (d.beginErase n).seg k = d.seg k) ∧
      (d.beginErase n).reclaim = { d.reclaim with engine := .erasing n } ∧
      { (d.beginErase n).array with op := d.array.op, segs := d.array.segs } = d.array ∧
      { d.beginErase n with array := d.array, reclaim := d.reclaim } = d :=
  ⟨rfl, Dev.setSegState_self d n .reclaiming nofun, fun _ hk => Dev.setSegState_other d .reclaiming hk, rfl, rfl, rfl⟩

/-- R147: a FULL segment leaves the chain when its erase starts. -/
theorem Dev.startErase_full {d : Dev} {n : Nat} (h : (d.seg n).state = .full) :
    d.startErase n = (d.leaveChain n).beginErase n := by
  unfold Dev.startErase
  rw [if_pos h]
  rfl

theorem Dev.startErase_of_ne_full {d : Dev} {n : Nat} (h : (d.seg n).state ≠ .full) : d.startErase n = d.beginErase n := by
  unfold Dev.startErase
  rw [if_neg h]
  rfl

/-- R147: the erase of the target starts. -/
theorem Dev.startErase_spec {d : Dev} (n : Nat) (h : Tbl.ascending d.status.slots = true) :
    (d.startErase n).array.op = some (.erase n) ∧ (d.startErase n).seg n = { d.seg n with state := .reclaiming } ∧
      (∀ k, k ≠ n → (d.startErase n).seg k = d.seg k) ∧
      (d.startErase n).reclaim = { d.reclaim with engine := .erasing n } ∧
      { (d.startErase n).array with op := d.array.op, segs := d.array.segs } = d.array ∧
      { (d.startErase n).status with slots := d.status.slots } = d.status ∧
      ((d.seg n).state ≠ .full → (d.startErase n).status = d.status ∧ (d.startErase n).journal = d.journal) ∧
      ((d.seg n).state = .full →
        (∀ q, (d.startErase n).slot? q = if q ∈ (d.seg n).intents then none else d.slot? q) ∧
        (d.startErase n).journal =
          { d.journal with
            tailCache := d.journal.tailCache.filter fun x =>
              !((d.seg n).pages.any fun p => p.crcOk && !(d.seg n).failed.contains p.num && p.pos == x) }) ∧
      { d.startErase n with array := d.array, status := d.status, journal := d.journal, reclaim := d.reclaim } = d := by
  by_cases hfull : (d.seg n).state = .full
  · obtain ⟨hslot, hstatus, hjournal, hleave⟩ := Dev.leaveChain_spec n h
    obtain ⟨hop, hself, hother, hreclaim, harray, hrest⟩ := Dev.beginErase_spec n (d.leaveChain n)
    have hleaveArray : (d.leaveChain n).array = d.array := (congrArg Dev.array hleave :)
    have hleaveReclaim : (d.leaveChain n).reclaim = d.reclaim := (congrArg Dev.reclaim hleave :)
    have hleaveSeg : ∀ k, (d.leaveChain n).seg k = d.seg k := fun k => congrArg (fun a : ArrayBlk => a.seg k) hleaveArray
    rw [hleaveArray] at harray
    rw [hleaveReclaim] at hreclaim
    rw [hleaveSeg] at hself
    rw [Dev.startErase_full hfull]
    simp only [Dev.beginErase_status, Dev.beginErase_journal, Dev.beginErase_slot]
    refine ⟨hop, hself, fun k hk => (hother k hk).trans (hleaveSeg k), hreclaim, harray, hstatus,
      fun hne => absurd hfull hne, fun _ => ⟨hslot, hjournal⟩, ?_⟩
    generalize d.leaveChain n = e at hleave hrest ⊢
    generalize e.beginErase n = u at hrest ⊢
    rw [← hleave, ← hrest]
  · obtain ⟨hop, hself, hother, hreclaim, harray, _⟩ := Dev.beginErase_spec n d
    rw [Dev.startErase_of_ne_full hfull]
    exact ⟨hop, hself, hother, hreclaim, harray, rfl, fun _ => ⟨rfl, rfl⟩, fun hf => absurd hf hfull, rfl⟩

end Sys2Proof.Machine

/-- Settles O43: the two choices are their lemmas above; the array arbiter's starts go operation by operation. -/
theorem intakeAndArrayArbitersChoose : Obligations.IntakeAndArrayArbitersChoose := by
  refine ⟨fun d p => ⟨Dev.grantChoice_eq_some_iff d p, Dev.grantChoice_eq_none_iff d⟩,
    fun a n ha h => ArrayBlk.chooseBlank_spec ha h, fun d => ?_⟩
  intro target program
  have htarget : d.array.programTarget = target := ArrayBlk.programTarget_eq d.array
  have hprogram : program ↔ d.journal.progQ ≠ [] ∧ d.array.programTarget ≠ none := by rw [htarget]
  have hwaits : d.programWaits = true ↔ program := by rw [hprogram, Dev.programWaits_iff]
  have hidle : d.array.op = none → ¬ program → d.part = .ready → d.arbitrate = d.arbitrateIdle := by
    intro ho hp hr
    rw [Dev.arbitrate_idle ho (hprogram.not.1 hp), if_pos hr]
  refine ⟨fun n ho => ⟨fun hr hw => ?_, fun hw => ?_⟩, fun o ho hne => Dev.arbitrate_busy ho hne,
    fun buf rest n ho hq ht => ?_, fun ho hp hr => ?_, fun ho hp hr => ⟨fun r rest hreads => ?_, fun n hreads hs => ?_,
    fun n hreads hs he => ⟨fun hel => ?_, fun htables hel => ?_⟩, fun hreads hs he => ?_⟩⟩
  · rw [Dev.arbitrate_erase ho, if_pos ⟨hr, hw.imp_left hwaits.2⟩]
    exact ⟨_, rfl, Dev.suspendErase_spec n d⟩
  · rw [Dev.arbitrate_erase ho, if_neg]
    rintro ⟨hr, hw'⟩
    obtain ⟨hnp, hnr⟩ := hw.resolve_left (not_not_intro hr)
    exact hw'.elim (fun h => hnp (hwaits.1 h)) (fun h => h hnr)
  · rw [Dev.arbitrate_program ho hq (htarget.trans ht)]
    exact ⟨_, rfl, Dev.startProgram_spec buf n d⟩
  · rw [Dev.arbitrate_idle ho (hprogram.not.1 hp), if_neg hr]
  · rw [hidle ho hp hr, Dev.arbitrateIdle_read hreads]
    exact ⟨fun h => if_pos ((Dev.readable_iff d r).2 h), fun h => if_neg ((Dev.readable_iff d r).not.2 h)⟩
  · rw [hidle ho hp hr]
    exact ⟨_, Dev.arbitrateIdle_resume hreads hs, Dev.resumeErase_spec n d⟩
  · rw [hidle ho hp hr, Dev.arbitrateIdle_request hreads hs he, hel]
    rfl
  · rw [hidle ho hp hr, Dev.arbitrateIdle_request hreads hs he, hel]
    refine ⟨_, rfl, Dev.startErase_spec n ?_⟩
    simp only [Dev.tablesOk, Bool.and_eq_true] at htables
    exact htables.1.1
  · rw [hidle ho hp hr]
    exact Dev.arbitrateIdle_nothing hreads hs he

end

section
/-!
SUPPORT and settlement of O37. What the records of a passing page leave unchanged (R14, R109), the answers of their commands
(R20), and the page, its segment and its buffer after the verify.
-/

open Sys2Proof Sys2Proof.Machine

namespace Sys2Proof.Machine

/-! ## The effects of an intent's write and of a decision change nothing of a port but its notices -/

theorem Dev.portsKept_evaluate (s : Seq) (was : Bool) (d : Dev) : d.PortsKept (d.evaluate s was) :=
  (Dev.evaluate_kept s was d).2.1

theorem Dev.portsKept_offer (s : Seq) (d : Dev) : d.PortsKept (d.offer s) :=
  .of_eq (congrArg Dev.ports (Dev.offer_rest s d) :)

/-- The SUPERSEDED verdict and its notice. -/
theorem Dev.portsKept_verdictNotice (s : Seq) (y : Slot) (v : Verdict) (p : PortId) (b : NoticeBody) (d : Dev) :
    d.PortsKept ((d.setVerdict s y v).route p b) :=
  Dev.PortsKept.trans (e := d.setVerdict s y v) (.of_eq rfl) (Dev.route_kept _ _ _)

theorem Dev.portsKept_supersede (l n : Seq) (set : List SlotId) (d : Dev) : d.PortsKept (d.supersede l n set) := by
  unfold Dev.supersede
  split
  · exact .refl d
  · refine Dev.PortsKept.trans ?_ (Dev.portsKept_evaluate l _ _)
    unfold Dev.markSuperseded
    dsimp only
    split
    · exact Dev.portsKept_verdictNotice _ _ _ _ _ d
    · exact .of_eq rfl

theorem Dev.portsKept_writeSlot (r : IntentRec) (d : Dev) : d.PortsKept (d.writeSlot r) := by
  unfold Dev.writeSlot
  split
  · exact .refl d
  · rename_i x _
    refine Dev.PortsKept.trans ?_ (Dev.portsKept_evaluate r.seq false _)
    have hfirst : d.PortsKept
        (if x.outcome = .stale then d.setVerdict r.seq (x.applyOutcome r.held) .superseded
          else d.putSlot r.seq (x.applyOutcome r.held)) := by
      split <;> exact .of_eq rfl
    refine hfirst.trans ?_
    generalize (if x.outcome = .stale then d.setVerdict r.seq (x.applyOutcome r.held) .superseded
      else d.putSlot r.seq (x.applyOutcome r.held)) = e
    dsimp only
    split
    · exact .refl _
    · rename_i l _
      refine (Dev.portsKept_supersede l r.seq (x.applyOutcome r.held).sites e).trans ?_
      split
      · exact .refl _
      · exact .of_eq rfl

theorem Dev.portsKept_releaseHeld (s : Seq) (stamp : Word64) (d : Dev) : d.PortsKept (d.releaseHeld s stamp).1 := by
  have hput : ∀ (y : Slot) (e : Dev), e.PortsKept (e.putSlot s y) := fun _ _ => .of_eq rfl
  have hindex : ∀ k : KeyIndex, d.PortsKept { d with index := k } := fun _ => .of_eq rfl
  have hoffered : ∀ (y : Slot) (e : Dev), e.PortsKept (((e.putSlot s y).evaluate s false).offer s) := fun y e =>
    ((hput y e).trans (Dev.portsKept_evaluate s false _)).trans (Dev.portsKept_offer s _)
  unfold Dev.releaseHeld
  split
  · exact .refl d
  · dsimp only
    split
    · exact hoffered _ d
    · split
      · exact hoffered _ d
      · split
        · split
          · refine Dev.PortsKept.trans ?_ (Dev.portsKept_evaluate _ _ _)
            split
            · exact Dev.portsKept_verdictNotice _ _ _ _ _ d
            · exact hput _ d
          · exact ((((hindex _).trans (hput _ _)).trans (Dev.portsKept_supersede _ _ _ _)).trans
              (Dev.portsKept_evaluate s false _)).trans (Dev.portsKept_offer s _)
        · exact (hindex _).trans (hoffered _ _)

/-! ## What the records of a passing page leave unchanged (R14) -/

/-- What every record of a passing page keeps: the part but for the notices, the lists of held intents and of slots, the key
index and the cursors; the responses posted; and each filled slot, WRITTEN when it was. -/
structure Dev.PassKept (d e : Dev) : Prop where
  rest : { e with
    ports := d.ports, partLost := d.partLost, status := d.status, index := d.index, held := d.held, sites := d.sites } = d
  responses : ∀ q : PortId, e.ports[q].respQ = d.ports[q].respQ
  slots : d.Skips e

theorem Dev.PassKept.refl (d : Dev) : d.PassKept d := ⟨rfl, fun _ => rfl, .refl d⟩

theorem Dev.PassKept.trans {d e f : Dev} (h : d.PassKept e) (k : e.PassKept f) : d.PassKept f where
  rest := by
    obtain ⟨h, _, _⟩ := h
    obtain ⟨k, _, _⟩ := k
    rw [← h, ← k]
  responses q := (k.responses q).trans (h.responses q)
  slots := h.slots.trans k.slots

/-- The fields that a record of a passing page cannot change. -/
theorem Dev.PassKept.fields {d e : Dev} (h : d.PassKept e) :
    e.part = d.part ∧ e.settings = d.settings ∧ e.journal = d.journal ∧ e.array = d.array ∧ e.intake = d.intake := by
  obtain ⟨h, _, _⟩ := h
  rw [← h]
  exact ⟨rfl, rfl, rfl, rfl, rfl⟩

theorem Dev.PassKept.of_replays {d e : Dev} (h : d.Replays e) (k : d.PortsKept e) : d.PassKept e := by
  obtain ⟨hslots, hrest⟩ := h
  refine ⟨?_, fun q => (congrArg Port.respQ (k q) :), hslots⟩
  unfold Dev.ReplayKept at hrest
  rw [← hrest]

theorem Dev.PassKept.of_held {d e : Dev} (h : { e with held := d.held } = d) : d.PassKept e := by
  refine ⟨?_, fun q => (congrArg (fun x : Dev => x.ports[q].respQ) h :),
    .of_slots fun s => (congrArg (fun x : Dev => x.slot? s) h :)⟩
  rw [← h]

theorem Dev.passKept_route (d : Dev) (p : PortId) (b : NoticeBody) : d.PassKept (d.route p b) :=
  .of_replays (Dev.replays_route d p b) (Dev.route_kept d p b)

theorem Dev.passKept_writeSlot (r : IntentRec) (d : Dev) : d.PassKept (d.writeSlot r) := by
  cases hx : d.slot? r.seq with
  | none =>
    have h : d.writeSlot r = d := by unfold Dev.writeSlot; rw [hx]
    rw [h]
    exact .refl d
  | some x => exact .of_replays (Dev.replays_writeSlot r d hx).1 (Dev.portsKept_writeSlot r d)

theorem Dev.passKept_heldWritten (r : IntentRec) (d : Dev) : d.PassKept (d.heldWritten r) := by
  unfold Dev.heldWritten
  split
  · exact .refl d
  · split
    · exact (Dev.passKept_route d _ _).trans (.of_held rfl)
    · exact .refl d

theorem Dev.passKept_releaseHeld (s : Seq) (stamp : Word64) (d : Dev) : d.PassKept (d.releaseHeld s stamp).1 :=
  .of_replays (Dev.replays_releaseHeld s stamp d) (Dev.portsKept_releaseHeld s stamp d)

theorem Dev.passKept_denyHeld (s : Seq) (d : Dev) : d.PassKept (d.denyHeld s) :=
  .of_replays (Dev.replays_denyHeld s d) (Dev.updateSlot_kept s _ d).2.1

/-- R53: the expiry of a hold is told to the origin port. -/
def Dev.tellDecision (cause : DecisionCause) (s : Seq) (dn : Decision) (d : Dev) : Dev :=
  match cause, d.slot? s with
  | .expiry, some x => d.route x.origin (.holdExpired (x.noticeRoute s) dn)
  | _, _ => d

theorem Dev.passKept_tellDecision (cause : DecisionCause) (s : Seq) (dn : Decision) (d : Dev) :
    d.PassKept (d.tellDecision cause s dn) := by
  unfold Dev.tellDecision
  split
  · exact Dev.passKept_route d _ _
  · exact .refl d

theorem Dev.applyDecision_none {d : Dev} {s : Seq} (dn : Decision) (h : (d.heldEntry s).bind HeldEntry.deciding? = none) :
    d.applyDecision s dn = (d, none) := by
  unfold Dev.applyDecision
  rw [h]

theorem Dev.applyDecision_released {d : Dev} {s : Seq} {cause : DecisionCause}
    (h : (d.heldEntry s).bind HeldEntry.deciding? = some cause) :
    (d.applyDecision s .released).1 =
      let e := (d.dropHeld s).tellDecision cause s .released
      (e.releaseHeld s (e.stampOf s)).1 := by
  unfold Dev.applyDecision
  rw [h]
  rfl

theorem Dev.applyDecision_denied {d : Dev} {s : Seq} {cause : DecisionCause}
    (h : (d.heldEntry s).bind HeldEntry.deciding? = some cause) :
    (d.applyDecision s .denied).1 = ((d.dropHeld s).tellDecision cause s .denied).denyHeld s := by
  unfold Dev.applyDecision
  rw [h]
  rfl

theorem Dev.passKept_applyDecision (s : Seq) (dn : Decision) (d : Dev) : d.PassKept (d.applyDecision s dn).1 := by
  cases h : (d.heldEntry s).bind HeldEntry.deciding? with
  | none => rw [Dev.applyDecision_none dn h]; exact .refl d
  | some cause =>
    have htold : d.PassKept ((d.dropHeld s).tellDecision cause s dn) :=
      Dev.PassKept.trans (e := d.dropHeld s) (.of_held rfl) (Dev.passKept_tellDecision cause s dn _)
    cases dn with
    | released => rw [Dev.applyDecision_released h]; exact htold.trans (Dev.passKept_releaseHeld _ _ _)
    | denied => rw [Dev.applyDecision_denied h]; exact htold.trans (Dev.passKept_denyHeld _ _)

theorem Dev.passKept_setCont (tok : Tok) (c : Cont) (d : Dev) : d.PassKept (d.setCont tok c) where
  rest := rfl
  responses q := by
    unfold Dev.setCont Dev.modTaken
    rw [Dev.modPort_port]
    split <;> rfl
  slots := .of_slots fun _ => rfl

/-- R14, R58: a DECISION record takes its effect, and the outcome of a release joins the command's answer. -/
theorem Dev.recordPassed_decision {s : Staged} {q : Seq} {dn : Decision} (d : Dev) (h : s.item = .decision q dn) :
    d.recordPassed s = (d.applyDecision q dn).1 ∨ ∃ tok c, d.recordPassed s = (d.applyDecision q dn).1.setCont tok c := by
  unfold Dev.recordPassed
  rw [h]
  dsimp only
  rcases s.owner with _ | tok <;> rcases d.applyDecision q dn with ⟨e, _ | o⟩
  · exact .inl rfl
  · exact .inl rfl
  · exact .inl rfl
  · exact .inr ⟨tok, _, rfl⟩

theorem Dev.recordPassed_intent {s : Staged} {r : IntentRec} (d : Dev) (h : s.item = .intent r) :
    d.recordPassed s = (d.writeSlot r).heldWritten r := by
  unfold Dev.recordPassed
  rw [h]

theorem Dev.passKept_recordPassed (s : Staged) (d : Dev) : d.PassKept (d.recordPassed s) := by
  cases h : s.item with
  | intent r =>
    rw [Dev.recordPassed_intent d h]
    exact (Dev.passKept_writeSlot r d).trans (Dev.passKept_heldWritten r _)
  | decision q dn =>
    have hdecided := Dev.passKept_applyDecision q dn d
    rcases Dev.recordPassed_decision d h with hd | ⟨tok, c, hd⟩
    · rw [hd]; exact hdecided
    · rw [hd]; exact hdecided.trans (Dev.passKept_setCont tok c _)
  | _ => unfold Dev.recordPassed; rw [h]; exact .refl d

theorem Dev.passKept_records (l : List Staged) (d : Dev) : d.PassKept (l.foldl (fun e z => e.recordPassed z) d) := by
  induction l generalizing d with
  | nil => exact .refl d
  | cons z t ih => exact (Dev.passKept_recordPassed z d).trans (ih _)

/-- R14, R109: every intent of the page whose slot is filled is WRITTEN. -/
theorem Dev.records_written {l : List Staged} {z : Staged} {r : IntentRec} (hz : z ∈ l) (hr : z.item = .intent r) {d : Dev}
    {x : Slot} (hx : d.slot? r.seq = some x) :
    ∃ y, (l.foldl (fun e z => e.recordPassed z) d).slot? r.seq = some y ∧ y.written = true := by
  induction l generalizing d x with
  | nil => cases hz
  | cons a t ih =>
    rw [List.foldl_cons]
    rcases List.mem_cons.1 hz with rfl | hz
    · obtain ⟨_, y, hy, _, hw⟩ := Dev.replays_writeSlot r d hx
      have hlater : (d.writeSlot r).PassKept (t.foldl (fun e z => e.recordPassed z) (d.recordPassed z)) := by
        rw [Dev.recordPassed_intent d hr]
        exact (Dev.passKept_heldWritten r _).trans (Dev.passKept_records t _)
      obtain ⟨w, hw', _, _, _, hkept, _⟩ := (hlater.slots r.seq).2 y hy
      exact ⟨w, hw', hkept hw⟩
    · obtain ⟨y, hy, _⟩ := ((Dev.passKept_recordPassed a d).slots r.seq).2 x hx
      exact ih hz hy

/-- R20, R113: the record of a live intent whose marks are open and enough for the quorum writes the slot, and does nothing else. -/
theorem Dev.recordPassed_live {z : Staged} {r : IntentRec} {d : Dev} {x : Slot} (hz : z.item = .intent r)
    (hx : d.slot? r.seq = some x) (hlive : x.outcome = .live) (hsup : x.pendingSup = none) (hverdict : x.verdict = none)
    (hheld : x.held = false) (hrheld : r.held = false) (hmarks : ∀ e ∈ x.marks, e.2 = .pending) (hquorum : 1 ≤ x.quorum)
    (hreach : x.quorum ≤ x.marks.length) :
    d.recordPassed z = d.putSlot r.seq { x with written := true, holdOverflow := false } := by
  let y : Slot := { x with written := true, holdOverflow := false }
  have hy : (d.putSlot r.seq y).slot? r.seq = some y := by rw [Dev.putSlot_slot, if_pos rfl]
  have hopen : y.openMarks = x.marks.length := by
    unfold Slot.openMarks
    rw [List.filter_eq_self.2 fun e he => by rw [hmarks e he]; rfl]
  have hacked : y.acked = 0 := by
    unfold Slot.acked
    rw [List.filter_eq_nil_iff.2 fun e he => by rw [hmarks e he]; decide]
    rfl
  have hunresolved : y.resolved = false := by
    obtain ⟨e, he⟩ := List.exists_mem_of_length_pos (l := x.marks) (by omega)
    have hany : (y.marks.any fun e => e.2.isOpen) = true := List.any_eq_true.2 ⟨e, he, by rw [hmarks e he]; rfl⟩
    simp [Slot.resolved, hany]
  have hverdicts : (d.putSlot r.seq y).testVerdict r.seq = d.putSlot r.seq y := by
    unfold Dev.testVerdict
    rw [hy]
    dsimp only
    have hq : y.quorum = x.quorum := rfl
    rw [if_neg (by simp [y, hheld, hverdict]), if_neg (by omega), if_neg (by omega)]
  have hwrite : d.writeSlot r = d.putSlot r.seq y := by
    have happly : x.applyOutcome r.held = y := by
      unfold Slot.applyOutcome
      simp [hlive, hrheld, y]
    unfold Dev.writeSlot
    rw [hx]
    dsimp only
    rw [happly, hsup, if_neg (by rw [hlive]; decide)]
    dsimp only
    unfold Dev.evaluate
    rw [hy]
    dsimp only
    rw [hunresolved]
    exact hverdicts
  rw [Dev.recordPassed_intent d hz, hwrite]
  unfold Dev.heldWritten
  rw [hy]
  exact if_neg (by simp [y, hheld])

/-! ## The answers of the page's commands (R14, R20, R21) -/

theorem Port.answer_noticeQ (id : Nat) (st : Status) (fl : Byte) (b : RespBody) (q : Port) :
    (q.answer id st fl b).noticeQ = q.noticeQ := by
  unfold Port.answer
  split <;> rfl

theorem Port.answer_idle {q : Port} (id : Nat) (st : Status) (fl : Byte) (b : RespBody) (h : q.taken = []) :
    q.answer id st fl b = q := by
  unfold Port.answer
  rw [h]
  rfl

/-- What an answer of a command changes: its port, but not the notices of it, and nothing when the port has no command taken. -/
structure Dev.AnswersOnly (d e : Dev) : Prop where
  rest : { e with ports := d.ports } = d
  notices : ∀ q : PortId, e.ports[q].noticeQ = d.ports[q].noticeQ
  idle : ∀ q : PortId, d.ports[q].taken = [] → e.ports[q] = d.ports[q]

theorem Dev.AnswersOnly.refl (d : Dev) : d.AnswersOnly d := ⟨rfl, fun _ => rfl, fun _ _ => rfl⟩

theorem Dev.AnswersOnly.trans {d e f : Dev} (h : d.AnswersOnly e) (k : e.AnswersOnly f) : d.AnswersOnly f where
  rest := by
    obtain ⟨h, _, _⟩ := h
    obtain ⟨k, _, _⟩ := k
    rw [← h, ← k]
  notices q := (k.notices q).trans (h.notices q)
  idle q hq := by
    have hidle := h.idle q hq
    exact (k.idle q (by rw [hidle, hq])).trans hidle

theorem Dev.answersOnly_answer (tok : Tok) (st : Status) (fl : Byte) (b : RespBody) (d : Dev) :
    d.AnswersOnly (d.answer tok st fl b) where
  rest := rfl
  notices q := by
    unfold Dev.answer
    rw [Dev.modPort_port]
    split
    · exact Port.answer_noticeQ _ _ _ _ _
    · rfl
  idle q hq := by
    unfold Dev.answer
    rw [Dev.modPort_port]
    split
    · exact Port.answer_idle _ _ _ _ hq
    · rfl

theorem Dev.answerCont_eq (tok : Tok) (c : Cont) (d : Dev) :
    d.answerCont tok c = d ∨ ∃ st fl b, d.answerCont tok c = d.answer tok st fl b := by
  cases c
  case none => exact .inl rfl
  all_goals exact .inr ⟨_, _, _, rfl⟩

theorem Dev.answersOnly_answerOwner (tok : Tok) (d : Dev) : d.AnswersOnly (d.answerOwner tok) := by
  unfold Dev.answerOwner
  split
  · rename_i t _
    rcases Dev.answerCont_eq tok t.cont d with h | ⟨st, fl, b, h⟩ <;> rw [h]
    · exact .refl d
    · exact Dev.answersOnly_answer tok st fl b d
  · exact .refl d

theorem Dev.answersOnly_foldl {α : Type} (f : Dev → α → Dev) (hf : ∀ (d : Dev) (a : α), d.AnswersOnly (f d a)) (l : List α) (d : Dev) :
    d.AnswersOnly (l.foldl f d) := by
  induction l generalizing d with
  | nil => exact .refl d
  | cons a t ih => exact (hf d a).trans (ih _)

/-- A command is answered on its own port, and there only when it is the one that is taken. -/
theorem Dev.answerOwner_other {d : Dev} {a tok : Tok} {y : Taken} (ht : d.ports[tok.port].taken = [y]) (hid : y.id = tok.id)
    (hne : a ≠ tok) : (d.answerOwner a).ports[tok.port] = d.ports[tok.port] := by
  obtain ⟨p, id⟩ := a
  unfold Dev.answerOwner
  by_cases hp : tok.port = p
  · subst hp
    have hnone : d.takenOf ⟨tok.port, id⟩ = none := by
      have hne' : y.id ≠ id := fun e => hne (by rw [← e, hid])
      unfold Dev.takenOf
      rw [ht, List.find?_cons_of_neg (by simpa using hne')]
      rfl
    rw [hnone]
  · split
    · rename_i t _
      rcases Dev.answerCont_eq ⟨p, id⟩ t.cont d with h | ⟨st, fl, b, h⟩ <;> rw [h]
      exact Dev.modPort_other _ _ _ _ hp
    · rfl

/-- R14, R20: a command of the page that alone is taken on its port is answered, from the tables as they stand when all records
have taken their effects. -/
theorem Dev.answerOwners_port {l : List Tok} {tok : Tok} {y : Taken} {st : Status} {fl : Byte} {body : RespBody} {d : Dev}
    (hin : tok ∈ l) (ht : d.ports[tok.port].taken = [y]) (hid : y.id = tok.id) (hdiscard : y.discard = false)
    (hans : ∀ e, d.AnswersOnly e → e.answerCont tok y.cont = e.answer tok st fl body) :
    (l.foldl (fun d tok => d.answerOwner tok) d).ports[tok.port] =
      { d.ports[tok.port] with taken := [], respQ := d.ports[tok.port].respQ ++ [⟨y.kind, st, fl, y.cid, body⟩] } := by
  induction l generalizing d with
  | nil => cases hin
  | cons a t ih =>
    rw [List.foldl_cons]
    by_cases ha : a = tok
    · subst ha
      have hown : (d.answerOwner a).ports[a.port] =
          { d.ports[a.port] with taken := [], respQ := d.ports[a.port].respQ ++ [⟨y.kind, st, fl, y.cid, body⟩] } := by
        have hfind : d.takenOf a = some y := by
          unfold Dev.takenOf
          rw [ht, List.find?_cons_of_pos (by simpa using hid)]
        have htok : a = ⟨a.port, y.id⟩ := by rw [hid]
        unfold Dev.answerOwner
        rw [hfind]
        dsimp only
        rw [hans d (.refl d), htok, Dev.answer_only y st fl body ht hdiscard, Dev.modPort_self]
      have hidle := (Dev.answersOnly_foldl _ (fun e tok => Dev.answersOnly_answerOwner tok e) t (d.answerOwner a)).idle a.port
        (by rw [hown])
      exact hidle.trans hown
    · have hport := Dev.answerOwner_other ht hid ha
      have hkept := Dev.answersOnly_answerOwner a d
      have hin' : tok ∈ t := (List.mem_cons.1 hin).resolve_left fun e => ha e.symm
      rw [ih hin' (by rw [hport, ht]) fun e he => hans e (hkept.trans he), hport]

theorem mem_ownersOf {l : List Staged} {tok : Tok} (h : ∃ z ∈ l, z.owner = some tok) : tok ∈ ownersOf l := by
  unfold ownersOf
  rw [List.mem_eraseDups, List.mem_filterMap]
  exact h

/-! ## The verify that passes, as a whole (R2, R6, R14) -/

/-- R14: the page is valid, and its records have taken their effects. -/
def Dev.pageRecorded (buf : BufId) (seg num pos : Nat) (d : Dev) : Dev :=
  (d.journal.buf buf).recs.foldl (fun e z => e.recordPassed z)
    (d.pageValid seg num pos ((d.journal.buf buf).recs.map fun x => x.item) buf)

/-- R14: the commands that have a record in the page, and owe no other, are answered. -/
def Dev.pageAnswered (buf : BufId) (recs : List Staged) (v : Dev) : Dev :=
  ((ownersOf recs).filter fun tok => !v.owesRecord buf tok).foldl (fun d tok => d.answerOwner tok) v

theorem Dev.passKept_pageRecorded (buf : BufId) (seg num pos : Nat) (d : Dev) :
    (d.pageValid seg num pos ((d.journal.buf buf).recs.map fun x => x.item) buf).PassKept (d.pageRecorded buf seg num pos) :=
  Dev.passKept_records _ _

theorem Dev.answersOnly_pageAnswered (buf : BufId) (recs : List Staged) (v : Dev) : v.AnswersOnly (v.pageAnswered buf recs) :=
  Dev.answersOnly_foldl _ (fun e tok => Dev.answersOnly_answerOwner tok e) _ v

/-- R21: a buffer that has passed changes the FLUSH commands that wait, and answers those that wait for nothing more. -/
theorem Dev.answersOnly_flushPassed (buf : BufId) (d : Dev) :
    ∃ fl, Dev.AnswersOnly { d with journal := { d.journal with flushes := fl } } (d.flushPassed buf) :=
  ⟨_, Dev.answersOnly_foldl _ (fun e (w : FlushWait) => Dev.answersOnly_answer w.tok .done 0 .none e) _ _⟩

theorem Dev.quiescePassed_ready {d : Dev} (recs : List Rec) (h : d.part = .ready) : d.quiescePassed recs = d :=
  if_pos (by rw [h]; decide)

theorem Dev.programPassed_eq {d : Dev} (buf : BufId) (seg num pos : Nat) (hp : d.part = .ready) :
    d.programPassed buf seg num pos =
      let w := (d.pageRecorded buf seg num pos).pageAnswered buf (d.journal.buf buf).recs
      Dev.flushPassed buf { w with journal := w.journal.emptied buf } := by
  let v := d.pageRecorded buf seg num pos
  let w := v.pageAnswered buf (d.journal.buf buf).recs
  obtain ⟨fl, hflush⟩ := Dev.answersOnly_flushPassed buf { w with journal := w.journal.emptied buf }
  have hv : v.part = d.part := (Dev.passKept_pageRecorded buf seg num pos d).fields.1
  have hw : w.part = v.part := (congrArg Dev.part (Dev.answersOnly_pageAnswered buf _ v).rest :)
  have hu : (Dev.flushPassed buf { w with journal := w.journal.emptied buf }).part = w.part :=
    (congrArg Dev.part hflush.rest :)
  have hready : (Dev.flushPassed buf { w with journal := w.journal.emptied buf }).part = .ready := by
    rw [hu, hw, hv, hp]
  exact Dev.quiescePassed_ready _ hready

/-- R14: after its records, a passing page changes the responses, its buffer and the FLUSH commands, and nothing else. -/
theorem Dev.programPassed_rest {d : Dev} (buf : BufId) (seg num pos : Nat) (hp : d.part = .ready) :
    ∃ fl, let v := d.pageRecorded buf seg num pos
      { d.programPassed buf seg num pos with ports := v.ports } = { v with journal := { v.journal.emptied buf with flushes := fl } } ∧
        ∀ q : PortId, (d.programPassed buf seg num pos).ports[q].noticeQ = v.ports[q].noticeQ := by
  have hw := Dev.answersOnly_pageAnswered buf (d.journal.buf buf).recs (d.pageRecorded buf seg num pos)
  rw [Dev.programPassed_eq buf seg num pos hp]
  generalize d.pageRecorded buf seg num pos = v at *
  dsimp only
  generalize v.pageAnswered buf (d.journal.buf buf).recs = w at *
  obtain ⟨fl, hu⟩ := Dev.answersOnly_flushPassed buf { w with journal := w.journal.emptied buf }
  refine ⟨fl, ?_, fun q => (hu.notices q).trans (hw.notices q)⟩
  generalize Dev.flushPassed buf { w with journal := w.journal.emptied buf } = u at *
  have hflush := congrArg (fun x : Dev => { x with ports := v.ports }) hu.rest
  have hanswered := congrArg (fun x : Dev => { x with journal := { x.journal.emptied buf with flushes := fl } }) hw.rest
  exact hflush.trans hanswered

theorem Dev.owesRecord_pageRecorded (buf : BufId) (seg num pos : Nat) (d : Dev) (tok : Tok) :
    (d.pageRecorded buf seg num pos).owesRecord buf tok = d.owesRecord buf tok := by
  obtain ⟨_, _, hjournal, _, hintake⟩ := (Dev.passKept_pageRecorded buf seg num pos d).fields
  unfold Dev.owesRecord
  rw [hjournal, hintake]
  rfl

/-- R14, R20: a command of the page that owes no other record, and alone is taken on its port, is answered. -/
theorem Dev.programPassed_answers {d : Dev} {buf : BufId} (seg num pos : Nat) (hp : d.part = .ready) {tok : Tok} {y : Taken}
    {st : Status} {fl : Byte} {body : RespBody} (howner : ∃ z ∈ (d.journal.buf buf).recs, z.owner = some tok)
    (howes : d.owesRecord buf tok = false) (ht : (d.pageRecorded buf seg num pos).ports[tok.port].taken = [y])
    (hid : y.id = tok.id) (hdiscard : y.discard = false)
    (hans : ∀ e, (d.pageRecorded buf seg num pos).AnswersOnly e → e.answerCont tok y.cont = e.answer tok st fl body) :
    (d.programPassed buf seg num pos).ports[tok.port].taken = [] ∧
      (d.programPassed buf seg num pos).ports[tok.port].respQ =
        d.ports[tok.port].respQ ++ [⟨y.kind, st, fl, y.cid, body⟩] := by
  have hin : tok ∈ (ownersOf (d.journal.buf buf).recs).filter
      fun tok => !(d.pageRecorded buf seg num pos).owesRecord buf tok := by
    rw [List.mem_filter, Dev.owesRecord_pageRecorded, howes]
    exact ⟨mem_ownersOf howner, rfl⟩
  have hport := Dev.answerOwners_port hin ht hid hdiscard hans
  have hresp : (d.pageRecorded buf seg num pos).ports[tok.port].respQ = d.ports[tok.port].respQ :=
    (Dev.passKept_pageRecorded buf seg num pos d).responses tok.port
  rw [hresp] at hport
  let w := (d.pageRecorded buf seg num pos).pageAnswered buf (d.journal.buf buf).recs
  have hw : w.ports[tok.port] = _ := hport
  obtain ⟨_, hflush⟩ := Dev.answersOnly_flushPassed buf { w with journal := w.journal.emptied buf }
  have hidle := hflush.idle tok.port (congrArg Port.taken hw :)
  rw [Dev.programPassed_eq buf seg num pos hp]
  exact ⟨(congrArg Port.taken (hidle.trans hw) :), (congrArg Port.respQ (hidle.trans hw) :)⟩

/-- R2, R14: the page joins its segment. -/
theorem Dev.pageValid_array (seg num pos : Nat) (recs : List Rec) (buf : BufId) (d : Dev) :
    (d.pageValid seg num pos recs buf).array.op = none ∧
      (d.pageValid seg num pos recs buf).seg seg =
        { d.seg seg with
          pages := (d.seg seg).pages ++ [{ num := num, pos := pos, recs := recs, crcOk := true }]
          state := if num = 63 then .full else (d.seg seg).state } ∧
      (∀ n, n ≠ seg → (d.pageValid seg num pos recs buf).seg n = d.seg n) ∧
      { (d.pageValid seg num pos recs buf).array with op := d.array.op, segs := d.array.segs } = d.array := by
  refine ⟨rfl, ArrayBlk.putSeg_seg_self d.array seg fun h => ?_, fun n hn => ArrayBlk.putSeg_seg_other d.array seg n _ hn, rfl⟩
  have hpages := congrArg (fun s => s.pages.length) h
  simp [ArrayBlk.blankSeg] at hpages

/-- R6: of 513 cached pages the first leaves the tail cache. -/
theorem cachePage_eq (pos : Nat) (l : List Nat) :
    cachePage pos l = if l.length < 512 then l ++ [pos] else (l ++ [pos]).drop 1 := by
  unfold cachePage
  simp only [List.length_append, List.length_singleton, Nat.lt_iff_add_one_le]

theorem pageProgramComplete_next {s : State} (t : Time) {buf : BufId} {seg num pos : Nat} (hup : s.dev.up)
    (hop : s.dev.array.op = some (.program buf seg num pos)) :
    exec (.pageProgramComplete t true) s = .next { s with dev := ((s.dev.tick t).programPassed buf seg num pos).settle } := by
  show State.goOn (Dev.event t (Dev.programCompleted true)) s = _
  have hcompleted : (s.dev.tick t).programCompleted true = (s.dev.tick t).programPassed buf seg num pos := by
    have hop' : (s.dev.tick t).array.op = some (.program buf seg num pos) := hop
    unfold Dev.programCompleted
    rw [hop']
    rfl
  rw [State.goOn_next, Dev.event_powered _ _ _ hup.1, hcompleted]

/-! ## What a passing page leaves (R14) -/

section
variable {d : Dev} (buf : BufId) (seg num pos : Nat) (hp : d.part = .ready)
include hp

theorem Dev.programPassed_settings : (d.programPassed buf seg num pos).settings = d.settings := by
  obtain ⟨fl, hrest, _⟩ := Dev.programPassed_rest buf seg num pos hp
  exact (congrArg Dev.settings hrest :).trans (Dev.passKept_pageRecorded buf seg num pos d).fields.2.1

theorem Dev.programPassed_array :
    (d.programPassed buf seg num pos).array =
      (d.pageValid seg num pos ((d.journal.buf buf).recs.map fun x => x.item) buf).array := by
  obtain ⟨fl, hrest, _⟩ := Dev.programPassed_rest buf seg num pos hp
  obtain ⟨_, _, _, harray, _⟩ := (Dev.passKept_pageRecorded buf seg num pos d).fields
  exact (congrArg Dev.array hrest :).trans harray

/-- R6, R14: the buffer is EMPTY and waits for no program, the page is cached, and the run of failures has ended. -/
theorem Dev.programPassed_journal :
    let j := (d.programPassed buf seg num pos).journal
    j.buf buf = {} ∧ j.progQ = (d.journal.progQ.filter fun x => x != buf) ∧ j.lastProg = some buf ∧ j.consecFails = 0 ∧
      j.tailCache =
        (if d.journal.tailCache.length < 512 then d.journal.tailCache ++ [pos] else (d.journal.tailCache ++ [pos]).drop 1) ∧
      j.nextSeq = d.journal.nextSeq ∧ j.ctrlQ = d.journal.ctrlQ := by
  obtain ⟨fl, hrest, _⟩ := Dev.programPassed_rest buf seg num pos hp
  obtain ⟨_, _, hjournal, _⟩ := (Dev.passKept_pageRecorded buf seg num pos d).fields
  have hu : (d.programPassed buf seg num pos).journal = _ := (congrArg Dev.journal hrest :)
  rw [hu, hjournal, ← cachePage_eq]
  cases buf <;> exact ⟨rfl, rfl, rfl, rfl, rfl, rfl, rfl⟩

/-- The tables and the notices are as the records of the page left them. -/
theorem Dev.programPassed_tables :
    let u := d.programPassed buf seg num pos
    let v := d.pageRecorded buf seg num pos
    u.status = v.status ∧ u.index = v.index ∧ u.held = v.held ∧ u.sites = v.sites ∧
      ∀ q : PortId, u.ports[q].noticeQ = v.ports[q].noticeQ := by
  obtain ⟨fl, hrest, hnotices⟩ := Dev.programPassed_rest buf seg num pos hp
  exact ⟨(congrArg Dev.status hrest :), (congrArg Dev.index hrest :), (congrArg Dev.held hrest :),
    (congrArg Dev.sites hrest :), hnotices⟩

theorem Dev.programPassed_slot (q : Seq) :
    (d.programPassed buf seg num pos).slot? q = (d.pageRecorded buf seg num pos).slot? q := by
  have hstatus := (Dev.programPassed_tables buf seg num pos hp).1
  unfold Dev.slot?
  rw [hstatus]

/-- R109: the intents of the page are WRITTEN. -/
theorem Dev.programPassed_written {r : IntentRec} {x : Slot}
    (hr : .intent r ∈ (d.journal.buf buf).recs.map fun x => x.item) (hx : d.slot? r.seq = some x) :
    ∃ y, (d.programPassed buf seg num pos).slot? r.seq = some y ∧ y.written = true := by
  obtain ⟨z, hz, hzr⟩ := List.mem_map.1 hr
  rw [Dev.programPassed_slot buf seg num pos hp]
  exact Dev.records_written hz hzr hx

end

/-! ## A page of one live intent (R20) -/

/-- A command of whose records one lies in this buffer, and one in both, owes no other. -/
theorem Dev.owesRecord_of_single {d : Dev} {buf : BufId} {tok : Tok} {z : Staged} (hgrant : d.intake.grant = none)
    (hrecs : (d.journal.buf buf).recs = [z]) (hz : z.owner = some tok)
    (hone : (d.journal.bufA.recs.filter fun z => z.owner == some tok).length +
      (d.journal.bufB.recs.filter fun z => z.owner == some tok).length = 1) :
    d.owesRecord buf tok = false := by
  have hother : ∀ l : List Staged, (l.filter fun z => z.owner == some tok).length = 0 →
      (l.any fun s => s.owner == some tok) = false := by
    intro l hl
    rw [List.length_eq_zero_iff, List.filter_eq_nil_iff] at hl
    rw [List.any_eq_false]
    exact hl
  have hthis : ([z].filter fun z => z.owner == some tok).length = 1 := by simp [hz]
  unfold Dev.owesRecord
  rw [hgrant]
  cases buf
  · have hrecs : d.journal.bufA.recs = [z] := hrecs
    rw [hrecs, hthis] at hone
    dsimp only
    rw [hother _ (by omega)]
    rfl
  · have hrecs : d.journal.bufB.recs = [z] := hrecs
    rw [hrecs, hthis] at hone
    dsimp only
    rw [hother _ (by omega)]
    rfl

/-- R20: the answer of an APPEND that is live, without flags. -/
theorem Dev.answerCont_live {a : AppendAnswer} (tok : Tok) (e : Dev) (houtcome : a.outcome = .live)
    (hunindexed : a.unindexed = false) (hoverflow : a.overflow = false) :
    e.answerCont tok (.append a) = e.answer tok .accepted 0 (.append a.seq a.tag a.set a.quorum) := by
  unfold Dev.answerCont AppendAnswer.flags
  dsimp only
  rw [houtcome, hunindexed, hoverflow]
  rfl

/-! ## What the answers are made from, after other commands have been answered (R20, log 63) -/

theorem entryOf_val (n : Fin 48) : entryOf n.val = some n := by
  unfold entryOf
  rw [dif_pos n.isLt]

section
variable {v e : Dev} (he : v.AnswersOnly e)
include he

theorem Dev.AnswersOnly.settings : e.settings = v.settings := (congrArg Dev.settings he.rest :)

theorem Dev.AnswersOnly.answerCont_setPlacement (tok : Tok) (n : Fin 48) :
    e.answerCont tok (.setPlacement n.val) = e.answer tok .done 0 (.placementEntry v.settings.placement[n]) := by
  unfold Dev.answerCont
  dsimp only
  rw [entryOf_val, he.settings]
  rfl

theorem Dev.AnswersOnly.answerCont_setGenerator (tok : Tok) (g : GenId) :
    e.answerCont tok (.setGenerator g) = e.answer tok .done 0 (.gen (v.genReport g)) := by
  have hreport : e.genReport g = v.genReport g := (congrArg (fun x : Dev => x.genReport g) he.rest :)
  rw [← hreport]
  rfl

theorem Dev.AnswersOnly.answerCont_setSitePacing (tok : Tok) (j : SlotId) :
    e.answerCont tok (.setSitePacing j) = e.answer tok .done 0 (v.pacingReport j) := by
  have hreport : e.pacingReport j = v.pacingReport j := (congrArg (fun x : Dev => x.pacingReport j) he.rest :)
  rw [← hreport]
  rfl

theorem Dev.AnswersOnly.answerCont_pressure (tok : Tok) :
    e.answerCont tok .pressure = e.answer tok .done 0 v.pressureReport := by
  have hreport : e.pressureReport = v.pressureReport := (congrArg Dev.pressureReport he.rest :)
  rw [← hreport]
  rfl

end

end Sys2Proof.Machine

/-- Settles O37: the page and its buffer, the page of a single live intent, and the answer of each kind of command. -/
theorem passingPageIsValidAndAnswered : Obligations.PassingPageIsValidAndAnswered := by
  refine ⟨?page, ?single, ?answers⟩
  case page =>
    intro s t buf seg num pos hup hop recs old
    have hp : (s.dev.tick t).part = .ready := hup.2
    obtain ⟨hfree, hself, hother, hblock⟩ := Dev.pageValid_array seg num pos (recs.map fun x => x.item) buf (s.dev.tick t)
    obtain ⟨hbuf, hqueue, hlast, hfails, hcache, hseq, hctrl⟩ := Dev.programPassed_journal buf seg num pos hp
    have harray : ((s.dev.tick t).programPassed buf seg num pos).array = _ := Dev.programPassed_array buf seg num pos hp
    refine ⟨_, pageProgramComplete_next t hup hop, ?_⟩
    unfold Dev.seg
    rw [harray]
    exact ⟨hfree, hself, hother, hblock, hbuf, hqueue, hlast, hfails, hcache, hseq, hctrl,
      Dev.programPassed_settings buf seg num pos hp, fun r x hr hx => Dev.programPassed_written buf seg num pos hp hr hx⟩
  case single =>
    intro s t buf seg num pos r tok x y hup hop hrecs hx hlive hsup hverdict hheld _ hrheld hmarks hquorum hreach hgrant hone
      htaken hid hdiscard a hcont houtcome hunindexed hoverflow
    have hp : (s.dev.tick t).part = .ready := hup.2
    have hrecs' : ((s.dev.tick t).journal.buf buf).recs = [⟨.intent r, some tok⟩] := hrecs
    have hv : (s.dev.tick t).pageRecorded buf seg num pos =
        ((s.dev.tick t).pageValid seg num pos [.intent r] buf).putSlot r.seq { x with written := true, holdOverflow := false } := by
      unfold Dev.pageRecorded
      rw [hrecs']
      exact Dev.recordPassed_live (z := ⟨.intent r, some tok⟩) rfl hx hlive hsup hverdict hheld hrheld hmarks hquorum hreach
    obtain ⟨_, hindex, _, hsites, _⟩ := Dev.programPassed_tables buf seg num pos hp
    have hslot := Dev.programPassed_slot buf seg num pos hp r.seq
    have howes : (s.dev.tick t).owesRecord buf tok = false := Dev.owesRecord_of_single hgrant hrecs rfl hone
    have hanswer := Dev.programPassed_answers (buf := buf) seg num pos hp (tok := tok) (y := y) (st := .accepted) (fl := 0)
      (body := .append a.seq a.tag a.set a.quorum) (by rw [hrecs']; exact ⟨_, List.mem_singleton_self _, rfl⟩) howes
      (by rw [hv]; exact htaken) hid hdiscard fun e _ => by
        rw [hcont, Dev.answerCont_live tok e houtcome hunindexed hoverflow]
    refine ⟨_, pageProgramComplete_next t hup hop, ?_, ?_, ?_, hanswer.1, ?_⟩
    · rw [hslot, hv, Dev.putSlot_slot, if_pos rfl]
    · rw [hindex, hv]; rfl
    · rw [hanswer.2]; exact ⟨[], List.append_nil _⟩
    · rw [hsites, hv]; rfl
  case answers =>
    intro s t buf seg num pos hup hop recs v
    have hp : (s.dev.tick t).part = .ready := hup.2
    have hsettings : v.settings = s.dev.settings := (Dev.passKept_pageRecorded buf seg num pos (s.dev.tick t)).fields.2.1
    obtain ⟨hstatus, hindex, hheld, hsites, hnotices⟩ := Dev.programPassed_tables buf seg num pos hp
    refine ⟨_, pageProgramComplete_next t hup hop, hstatus, hindex, hheld, hsites, hnotices, ?_⟩
    intro tok y howner howes htaken hid hdiscard answered
    have hanswered : ∀ {st : Status} {fl : Byte} {body : RespBody},
        (∀ e, v.AnswersOnly e → e.answerCont tok y.cont = e.answer tok st fl body) → answered st fl body := fun hans =>
      Dev.programPassed_answers seg num pos hp howner howes htaken hid hdiscard hans
    refine ⟨fun a hc => ?_, fun hc => ?_, fun n hc => ?_, fun n hc => ?_, fun hc => ?_, fun q o hc => ?_, fun q hc => ?_,
      fun g hc => ?_, fun j hc => ?_, fun hc => ?_, fun hc => ?_, fun hc => ?_⟩
    · refine hanswered fun e _ => ?_
      rw [hc]
      obtain ⟨seq, tag, set, quorum, outcome, unindexed, overflow⟩ := a
      cases outcome <;> rfl
    · exact hanswered fun e _ => by rw [hc]; rfl
    · exact hanswered fun e _ => by rw [hc]; rfl
    · exact hanswered fun e he => by rw [hc, ← hsettings]; exact he.answerCont_setPlacement tok n
    · exact hanswered fun e he => by rw [hc, ← hsettings, ← he.settings]; rfl
    · exact hanswered fun e _ => by rw [hc]; rfl
    · exact ⟨_, hanswered fun e _ => by rw [hc]; rfl⟩
    · exact hanswered fun e he => by rw [hc]; exact he.answerCont_setGenerator tok g
    · exact hanswered fun e he => by rw [hc, ← hsettings]; exact he.answerCont_setSitePacing tok j
    · exact hanswered fun e he => by rw [hc, ← hsettings, ← he.settings]; rfl
    · exact hanswered fun e he => by rw [hc, ← hsettings]; exact he.answerCont_pressure tok
    · exact hanswered fun e he => by rw [hc, ← hsettings, ← he.settings]; rfl

end

section
/-!
SUPPORT and settlement of O38. What the write of an intent's slot (R109), a supersession (R33, R34), a release and a denial of a held
intent (R36, R52) do, an equation for each case; the effects of the records of a passing page (R14) are put together from them.
-/

open Sys2Proof Sys2Proof.Machine

namespace Sys2Proof.Machine

/-! ## A slot put twice, and marks that are skipped -/

theorem Tbl.put_put {α : Type} (l : List (Nat × α)) (x : Nat) (a b : α) : Tbl.put (Tbl.put l x a) x b = Tbl.put l x b := by
  induction l with
  | nil => simp [Tbl.put]
  | cons e t ih =>
    obtain ⟨k, v⟩ := e
    by_cases hlt : x < k
    · simp [Tbl.put, hlt]
    · by_cases heq : x = k
      · simp [Tbl.put, heq]
      · simp [Tbl.put, hlt, heq, ih]

theorem Dev.putSlot_putSlot (s : Seq) (x y : Slot) (d : Dev) : (d.putSlot s x).putSlot s y = d.putSlot s y := by
  simp [Dev.putSlot, Tbl.put_put]

/-- A mark that is skipped was not ACKED, and is not. -/
theorem Slot.Skips.acked {x y : Slot} (h : x.Skips y) : y.acked = x.acked := by
  obtain ⟨_, _, _, _, h⟩ := h
  unfold Slot.acked
  generalize x.marks = a at *
  generalize y.marks = b at *
  induction h with
  | nil => rfl
  | @cons a b l k hab _ ih =>
    have hmark : (b.2 == Mark.acked) = (a.2 == Mark.acked) := by
      rcases hab.2 with h | ⟨h, why, h'⟩
      · rw [h]
      · rw [h, h']; rfl
    simp only [List.filter_cons, hmark]
    split <;> simp [ih]

/-- Every PENDING mark becomes SKIPPED. -/
def Slot.skipPending (x : Slot) (why : SkipReason) : Slot :=
  { x with marks := x.marks.map fun m => if m.2 = .pending then (m.1, .skipped why) else m }

theorem Slot.moveAll_pending (x : Slot) (why : SkipReason) :
    x.moveAll (· == .pending) (.skipped why) = x.skipPending why := by
  simp [Slot.moveAll, Slot.skipPending]

theorem Slot.skips_skipPending (x : Slot) (why : SkipReason) : x.Skips (x.skipPending why) :=
  x.moveAll_pending why ▸ x.skips_moveAll why

/-- R33, R34: N supersedes the intent of the slot: its PENDING marks that N covers become SKIPPED(SUPERSEDED). -/
def Slot.supersededIn (x : Slot) (n : Seq) (set : List SlotId) : Slot :=
  { x with
    marks := x.marks.map fun m => if m.1 ∈ set ∧ m.2 = .pending then (m.1, .skipped .superseded) else m
    supersededBy := some n }

theorem Slot.skips_supersededIn (x : Slot) (n : Seq) (set : List SlotId) : x.Skips (x.supersededIn n set) := by
  refine ⟨rfl, rfl, rfl, fun h => h, marks_skip_map _ _ fun e => ?_⟩
  split
  · rename_i h
    exact ⟨rfl, .inr ⟨h.2, _, rfl⟩⟩
  · exact ⟨rfl, .inl rfl⟩

/-! ## The SUPERSEDED verdict (R33, R34, R116) -/

def Dev.countSuperseded (d : Dev) : Dev :=
  { d with status := { d.status with superseded := min (d.status.superseded + 1) 18446744073709551615 } }

theorem Dev.setVerdict_superseded (s : Seq) (x : Slot) (d : Dev) :
    d.setVerdict s x .superseded = (d.putSlot s { x with verdict := some .superseded }).countSuperseded := rfl

/-- An intent without a verdict, now superseded by N, receives the SUPERSEDED verdict and its notice. -/
def Dev.tellSuperseded (s n : Seq) (x y : Slot) (d : Dev) : Dev :=
  if x.verdict = none then
    (d.putSlot s { y with verdict := some .superseded }).countSuperseded.route x.origin
      (.superseded ⟨s, x.tag, x.origin⟩ x.acked x.quorum n)
  else d.putSlot s y

/-- The notice can be made from the slot as it stood before marks were skipped. -/
theorem Dev.verdictNotice_eq_tellSuperseded (s n : Seq) {x y : Slot} (d : Dev) (h : x.Skips y) (hv : y.verdict = x.verdict) :
    (if y.verdict.isNone then
        (d.setVerdict s y .superseded).route y.origin (.superseded (y.noticeRoute s) y.acked y.quorum n)
      else d.putSlot s y) = d.tellSuperseded s n x y := by
  have hacked := h.acked
  obtain ⟨horigin, htag, hquorum, _, _⟩ := h
  simp only [Dev.tellSuperseded, Dev.setVerdict_superseded, Slot.noticeRoute, hacked, horigin, htag, hquorum, hv,
    Option.isNone_iff_eq_none]

/-- R33: the marks that the model's supersession tests as Booleans. -/
theorem Slot.supersededIn_eq (x : Slot) (n : Seq) (set : List SlotId) :
    { x with
      marks := x.marks.map fun e => if set.contains e.1 && e.2 == .pending then (e.1, .skipped .superseded) else e
      supersededBy := some n } = x.supersededIn n set := by
  have hcovers : ∀ e : SlotId × Mark, (set.contains e.1 && e.2 == .pending) = true ↔ e.1 ∈ set ∧ e.2 = .pending := by simp
  unfold Slot.supersededIn
  rw [List.map_congr_left fun e _ => if_congr (hcovers e) rfl rfl]

theorem Dev.supersede_filled {l n : Seq} {set : List SlotId} {d : Dev} {x : Slot} (hx : d.slot? l = some x) :
    d.supersede l n set = (d.tellSuperseded l n x (x.supersededIn n set)).evaluate l x.resolved := by
  have hmarked : d.markSuperseded l n set x = d.tellSuperseded l n x (x.supersededIn n set) := by
    rw [← Dev.verdictNotice_eq_tellSuperseded l n d (x.skips_supersededIn n set) rfl, ← Slot.supersededIn_eq]
    rfl
  unfold Dev.supersede
  rw [hx]
  exact congrArg (fun e : Dev => e.evaluate l x.resolved) hmarked

theorem Dev.supersede_free {l n : Seq} {set : List SlotId} {d : Dev} (hx : d.slot? l = none) : d.supersede l n set = d := by
  unfold Dev.supersede
  rw [hx]

theorem Dev.route_slot (d : Dev) (p : PortId) (b : NoticeBody) (q : Seq) : (d.route p b).slot? q = d.slot? q :=
  (congrArg (fun x : Dev => x.slot? q) (Dev.route_rest d p b) :)

theorem Dev.tellSuperseded_slot_other {s q : Seq} (n : Seq) (x y : Slot) (d : Dev) (hq : q ≠ s) :
    (d.tellSuperseded s n x y).slot? q = d.slot? q := by
  have hput : ∀ z, (d.putSlot s z).slot? q = d.slot? q := fun z => by rw [Dev.putSlot_slot, if_neg hq]
  unfold Dev.tellSuperseded
  split
  · rw [Dev.route_slot]
    exact hput _
  · exact hput _

theorem Dev.supersede_slot_other {l q : Seq} (n : Seq) (set : List SlotId) (d : Dev) (hq : q ≠ l) :
    (d.supersede l n set).slot? q = d.slot? q := by
  cases hx : d.slot? l with
  | none => rw [Dev.supersede_free hx]
  | some x =>
    obtain ⟨_, _, hkept⟩ := Dev.evaluate_kept l x.resolved (d.tellSuperseded l n x (x.supersededIn n set))
    rw [Dev.supersede_filled hx, hkept.1 q hq, Dev.tellSuperseded_slot_other n x _ d hq]

/-! ## The write of an intent's slot (R109) -/

/-- The slot, WRITTEN. -/
def Slot.writtenAs (x : Slot) (recHeld : Bool) : Slot :=
  { x with written := true, holdOverflow := recHeld && x.outcome != .held }

section
variable {x : Slot} (recHeld : Bool)

theorem Slot.applyOutcome_live (h : x.outcome = .live) : x.applyOutcome recHeld = x.writtenAs recHeld := by
  cases x; cases h; rfl

theorem Slot.applyOutcome_unindexed (h : x.outcome = .unindexed) :
    x.applyOutcome recHeld = { x.writtenAs recHeld with unindexed := x.stagedReason } := by
  cases x; cases h; rfl

theorem Slot.applyOutcome_held (h : x.outcome = .held) :
    x.applyOutcome recHeld = { x.writtenAs recHeld with held := true, unindexed := x.stagedReason } := by
  cases x; cases h; rfl

theorem Slot.applyOutcome_stale (h : x.outcome = .stale) :
    x.applyOutcome recHeld = (x.writtenAs recHeld).skipPending .stale := by
  rw [← Slot.moveAll_pending]
  cases x; cases h; rfl

theorem Slot.applyOutcome_overflowDenied (h : x.outcome = .overflowDenied) :
    x.applyOutcome recHeld = (x.writtenAs recHeld).skipPending .denied := by
  rw [← Slot.moveAll_pending]
  cases x; cases h; rfl

end

section
variable {r : IntentRec} {d : Dev} {x : Slot} (hx : d.slot? r.seq = some x)
include hx

/-- R109: a slot that supersedes nothing at its write, and is not STALE. -/
theorem Dev.writeSlot_plain (hsup : x.pendingSup = none) (hstale : x.outcome ≠ .stale) :
    d.writeSlot r = (d.putSlot r.seq (x.applyOutcome r.held)).evaluate r.seq false := by
  simp only [Dev.writeSlot, hx, hsup, if_neg hstale]

theorem Dev.writeSlot_stale (hsup : x.pendingSup = none) (hstale : x.outcome = .stale) :
    d.writeSlot r = (d.setVerdict r.seq (x.applyOutcome r.held) .superseded).evaluate r.seq false := by
  simp only [Dev.writeSlot, hx, hsup, if_pos hstale]

/-- R33, R109: a live slot that supersedes another one at its write. -/
theorem Dev.writeSlot_supersedes {l : Seq} (hlive : x.outcome = .live) (hsup : x.pendingSup = some l) (hne : l ≠ r.seq) :
    d.writeSlot r =
      (((d.putSlot r.seq (x.writtenAs r.held)).supersede l r.seq x.sites).putSlot r.seq
        { x.writtenAs r.held with pendingSup := none }).evaluate r.seq false := by
  have hstale : x.outcome ≠ .stale := by rw [hlive]; decide
  have hself : ((d.putSlot r.seq (x.writtenAs r.held)).supersede l r.seq x.sites).slot? r.seq = some (x.writtenAs r.held) := by
    rw [Dev.supersede_slot_other _ _ _ hne.symm, Dev.putSlot_slot, if_pos rfl]
  have hsites : (x.writtenAs r.held).sites = x.sites := rfl
  simp only [Dev.writeSlot, hx, hsup, if_neg hstale, Slot.applyOutcome_live r.held hlive, hsites, hself]

end

/-- R113, R114: a held intent is not evaluated. -/
theorem Dev.evaluate_held {s : Seq} {d : Dev} {x : Slot} (was : Bool) (hx : d.slot? s = some x) (hheld : x.held = true) :
    d.evaluate s was = d := by
  have hresolved : x.resolved = false := by simp [Slot.resolved, hheld]
  simp [Dev.evaluate, Dev.testVerdict, hx, hresolved, hheld]

/-! ## The record of an intent (R14, R49) -/

section
variable {r : IntentRec} {d : Dev} {x : Slot} (hx : d.slot? r.seq = some x)
include hx

theorem Dev.heldWritten_not_held (hheld : x.held = false) : d.heldWritten r = d := by
  simp [Dev.heldWritten, hx, hheld]

theorem Dev.heldWritten_held (hheld : x.held = true) :
    d.heldWritten r =
      (d.route x.origin (.held (x.noticeRoute r.seq) r.bucket r.entry d.settings.mode.holdLimit)).setHeld r.seq
        (.waiting (if d.part = .ready then some (d.now + d.settings.mode.holdLimit * 1000000) else none)) := by
  simp [Dev.heldWritten, hx, hheld]

/-- An intent that its write leaves without the HELD flag has no HELD notice after its evaluation. -/
theorem Dev.heldWritten_evaluate (was : Bool) (hheld : x.held = false) :
    (d.evaluate r.seq was).heldWritten r = d.evaluate r.seq was := by
  obtain ⟨_, _, _, _, hkept⟩ := Dev.evaluate_kept r.seq was d
  obtain ⟨y, hy, hxy⟩ := hkept x hx
  exact Dev.heldWritten_not_held hy ((congrArg Slot.held hxy :).trans hheld)

end

/-- The record of an intent that its write leaves without the HELD flag does what the write does. -/
theorem Dev.recordPassed_written {r : IntentRec} {o : Option Tok} {d e : Dev} {x : Slot} {was : Bool}
    (hwrite : d.writeSlot r = e.evaluate r.seq was) (hx : e.slot? r.seq = some x) (hheld : x.held = false) :
    d.recordPassed ⟨.intent r, o⟩ = e.evaluate r.seq was := by
  rw [Dev.recordPassed_intent d rfl, hwrite, Dev.heldWritten_evaluate hx was hheld]

theorem Dev.putSlot_slot_self (s : Seq) (x : Slot) (d : Dev) : (d.putSlot s x).slot? s = some x := by
  rw [Dev.putSlot_slot, if_pos rfl]

/-- R49: the record of a held intent. -/
theorem Dev.recordPassed_held {r : IntentRec} (o : Option Tok) {d : Dev} {x : Slot} (hx : d.slot? r.seq = some x)
    (hsup : x.pendingSup = none) (houtcome : x.outcome = .held) :
    d.recordPassed ⟨.intent r, o⟩ =
      ((d.putSlot r.seq { x.writtenAs r.held with held := true, unindexed := x.stagedReason }).route x.origin
        (.held ⟨r.seq, x.tag, x.origin⟩ r.bucket r.entry d.settings.mode.holdLimit)).setHeld r.seq
          (.waiting (if d.part = .ready then some (d.now + d.settings.mode.holdLimit * 1000000) else none)) := by
  have hslot := Dev.putSlot_slot_self r.seq { x.writtenAs r.held with held := true, unindexed := x.stagedReason } d
  have hstale : x.outcome ≠ .stale := by rw [houtcome]; decide
  rw [Dev.recordPassed_intent d rfl, Dev.writeSlot_plain hx hsup hstale, Slot.applyOutcome_held r.held houtcome,
    Dev.evaluate_held false hslot rfl, Dev.heldWritten_held hslot rfl]
  rfl

/-! ## A decision on a held intent (R36, R52) -/

/-- The notice of an expiry changes the notices alone. -/
theorem Dev.tellDecision_rest (cause : DecisionCause) (s : Seq) (dn : Decision) (d : Dev) :
    { d.tellDecision cause s dn with ports := d.ports, partLost := d.partLost } = d := by
  unfold Dev.tellDecision
  split
  · exact Dev.route_rest d _ _
  · rfl

/-- R36: the record of an intent stands where it stood, when the journal and the array are as they were. -/
theorem Dev.stampOf_congr {d e : Dev} (s : Seq) (hj : e.journal = d.journal) (ha : e.array = d.array) :
    e.stampOf s = d.stampOf s := by
  unfold Dev.stampOf
  rw [hj, ha]

theorem Dev.denyHeld_filled {s : Seq} {d : Dev} {x : Slot} (hx : d.slot? s = some x) :
    d.denyHeld s = (d.putSlot s (Slot.skipPending { x with held := false } .denied)).evaluate s x.resolved := by
  simp only [Dev.denyHeld, Dev.updateSlot, hx, Slot.moveAll_pending]
  rfl

/-- R36: the held intent H has lost to the live intent L. -/
theorem liveWins_iff (l : Seq) (lt : Word64) (h : Seq) (ht : Word64) :
    liveWins l lt h ht = true ↔ ht < lt ∨ (lt = ht ∧ h < l) := by
  simp [liveWins]

section
variable {s : Seq} {d : Dev} {x : Slot} (stamp : Word64) (hx : d.slot? s = some x)
include hx

theorem Dev.releaseHeld_unindexed (hun : x.unindexed ≠ none) :
    d.releaseHeld s stamp = (((d.putSlot s { x with held := false }).evaluate s false).offer s, .unindexed) := by
  simp [Dev.releaseHeld, hx, Option.isSome_iff_ne_none.2 hun]

variable {w : Nat} {k : KeyEntry} (hun : x.unindexed = none) (hlink : x.link = some w) (hk : Tbl.get d.index.ways w = some k)
include hun hlink hk

/-- R36: a live intent of the key wins over the released one. -/
theorem Dev.releaseHeld_stale {l : Seq} {lt : Word64} (hlive : k.live = some (l, lt)) (hwins : liveWins l lt s stamp = true) :
    d.releaseHeld s stamp =
      ((d.tellSuperseded s l x { Slot.skipPending { x with held := false } .stale with supersededBy := some l }).evaluate s false,
        .stale) := by
  have hskips : x.Skips { Slot.skipPending { x with held := false } .stale with supersededBy := some l } :=
    Slot.Skips.trans (y := { x with held := false }) (.of_marks rfl rfl rfl (fun h => h) rfl)
      ((Slot.skips_skipPending _ _).trans (.of_marks rfl rfl rfl (fun h => h) rfl))
  rw [← Dev.verdictNotice_eq_tellSuperseded s l d hskips rfl]
  simp only [Dev.releaseHeld, hx, hun, hlink, hk, hlive, hwins, Slot.moveAll_pending, Option.isSome_none, Option.bind_some,
    Option.map_some, if_true, Bool.false_eq_true, if_false]

/-- R33, R34, R36: the released intent wins, and supersedes the live one of the key. -/
theorem Dev.releaseHeld_supersedes {l : Seq} {lt : Word64} (hlive : k.live = some (l, lt))
    (hwins : liveWins l lt s stamp = false) :
    d.releaseHeld s stamp =
      ((((({ d with index := d.index.put w { k with live := some (s, stamp) } } : Dev).putSlot s { x with held := false }).supersede
        l s x.sites).evaluate s false).offer s, .live) := by
  simp only [Dev.releaseHeld, hx, hun, hlink, hk, hlive, hwins, Option.isSome_none, Option.bind_some, Option.map_some,
    Bool.false_eq_true, if_false]
  rfl

/-- R36: the key has no live intent. -/
theorem Dev.releaseHeld_live (hlive : k.live = none) :
    d.releaseHeld s stamp =
      (((({ d with index := d.index.put w { k with live := some (s, stamp) } } : Dev).putSlot s { x with held := false }).evaluate
        s false).offer s, .live) := by
  simp only [Dev.releaseHeld, hx, hun, hlink, hk, hlive, Option.isSome_none, Option.bind_some, Option.map_some,
    Bool.false_eq_true, if_false]

end

/-! ## The record of a decision (R14, R52, R58) -/

/-- R58: the outcome of a release joins the answer of the command that owns the record. -/
def Dev.answerRelease (o : Option Tok) (q : Seq) (c : ReleaseOutcome) (d : Dev) : Dev :=
  match o with
  | some tok => d.setCont tok (.release q (some c))
  | none => d

/-- R50, R53: a DECISION record whose intent has no entry that is DECIDING does nothing. -/
theorem Dev.recordPassed_decision_none {d : Dev} {q : Seq} (dn : Decision) (o : Option Tok)
    (h : (d.heldEntry q).bind HeldEntry.deciding? = none) : d.recordPassed ⟨.decision q dn, o⟩ = d := by
  simp only [Dev.recordPassed, Dev.applyDecision_none dn h]

theorem HeldEntry.deciding?_eq_none_iff (e : HeldEntry) : e.deciding? = none ↔ ∀ a c, e.state ≠ .deciding a c := by
  unfold HeldEntry.deciding?
  cases e.state <;> simp

section
variable {d : Dev} {q : Seq} {cause : DecisionCause} (o : Option Tok)
  (h : (d.heldEntry q).bind HeldEntry.deciding? = some cause)
include h

theorem Dev.recordPassed_released :
    d.recordPassed ⟨.decision q .released, o⟩ =
      let r := ((d.dropHeld q).tellDecision cause q .released).releaseHeld q (d.stampOf q)
      r.1.answerRelease o q r.2 := by
  have hrest := Dev.tellDecision_rest cause q .released (d.dropHeld q)
  have hstamp : ((d.dropHeld q).tellDecision cause q .released).stampOf q = d.stampOf q :=
    Dev.stampOf_congr q (congrArg Dev.journal hrest :) (congrArg Dev.array hrest :)
  have happly : d.applyDecision q .released =
      let r := ((d.dropHeld q).tellDecision cause q .released).releaseHeld q (d.stampOf q)
      (r.1, some r.2) := by
    rw [← hstamp]
    unfold Dev.applyDecision
    rw [h]
    rfl
  simp only [Dev.recordPassed, happly]
  cases o <;> rfl

theorem Dev.recordPassed_denied :
    d.recordPassed ⟨.decision q .denied, o⟩ = ((d.dropHeld q).tellDecision cause q .denied).denyHeld q := by
  have happly : d.applyDecision q .denied = (((d.dropHeld q).tellDecision cause q .denied).denyHeld q, none) := by
    unfold Dev.applyDecision
    rw [h]
    rfl
  simp only [Dev.recordPassed, happly]

end

/-- Records of the other kinds. -/
theorem Dev.recordPassed_other {d : Dev} {z : Staged} (hintent : ∀ r, z.item ≠ .intent r)
    (hdecision : ∀ q dn, z.item ≠ .decision q dn) : d.recordPassed z = d := by
  unfold Dev.recordPassed
  split
  · rename_i r h; exact absurd h (hintent r)
  · rename_i q dn h; exact absurd h (hdecision q dn)
  · rfl

end Sys2Proof.Machine

/-- Settles O38: the record of an intent, of a decision and of any other kind each have their lemmas above. -/
theorem recordsOfAPassingPageTakeEffect : Obligations.RecordsOfAPassingPageTakeEffect := by
  unfold Obligations.RecordsOfAPassingPageTakeEffect
  intro counted skip superseded
  refine ⟨?intent, ?decision, fun d z hi hd => Dev.recordPassed_other hi hd⟩
  case intent =>
    intro d r o x hx hheld u w
    have hput : ∀ y : Slot, (d.putSlot r.seq y).slot? r.seq = some y := fun y => Dev.putSlot_slot_self r.seq y d
    refine ⟨fun hlive hsup => ?live, fun l z hlive hsup hne hz => ?supersedes, fun l hlive hsup hne hz => ?alone,
      fun hsup => ⟨fun hout => ?unindexed, fun hout => ?stale, fun hout => ?denied, fun hout => ?held⟩⟩
    case live =>
      have hwrite := Dev.writeSlot_plain hx hsup (by rw [hlive]; decide)
      rw [Slot.applyOutcome_live r.held hlive] at hwrite
      exact Dev.recordPassed_written hwrite (hput _) hheld
    case supersedes =>
      have hz' : (d.putSlot r.seq (x.writtenAs r.held)).slot? l = some z := by rw [Dev.putSlot_slot, if_neg hne, hz]
      have hwrite := Dev.writeSlot_supersedes hx hlive hsup hne
      rw [Dev.supersede_filled hz'] at hwrite
      exact Dev.recordPassed_written hwrite (Dev.putSlot_slot_self _ _ _) hheld
    case alone =>
      have hz' : (d.putSlot r.seq (x.writtenAs r.held)).slot? l = none := by rw [Dev.putSlot_slot, if_neg hne, hz]
      have hwrite := Dev.writeSlot_supersedes hx hlive hsup hne
      rw [Dev.supersede_free hz', Dev.putSlot_putSlot] at hwrite
      exact Dev.recordPassed_written hwrite (hput _) hheld
    case unindexed =>
      have hwrite := Dev.writeSlot_plain hx hsup (by rw [hout]; decide)
      rw [Slot.applyOutcome_unindexed r.held hout] at hwrite
      exact Dev.recordPassed_written hwrite (hput _) hheld
    case stale =>
      have hwrite := Dev.writeSlot_stale hx hsup hout
      rw [Slot.applyOutcome_stale r.held hout, Dev.setVerdict_superseded] at hwrite
      exact Dev.recordPassed_written hwrite (hput _) hheld
    case denied =>
      have hwrite := Dev.writeSlot_plain hx hsup (by rw [hout]; decide)
      rw [Slot.applyOutcome_overflowDenied r.held hout] at hwrite
      exact Dev.recordPassed_written hwrite (hput _) hheld
    case held =>
      intro limit f
      have hrest : f.held = d.held := (congrArg Dev.held (Dev.route_rest _ _ _) :)
      refine (Dev.recordPassed_held o hx hsup hout).trans ?_
      rw [← hrest]
      simp only [Dev.setHeld, beq_iff_eq]
      rfl
  case decision =>
    intro d q dn o u stamp
    refine ⟨fun hnot => Dev.recordPassed_decision_none dn o ?_, fun e a cause x he hstate hx => ?_⟩
    · rw [Option.bind_eq_none_iff]
      exact fun e he => (HeldEntry.deciding?_eq_none_iff e).2 fun a c => hnot e a c he
    · intro left g y answering
      have hdeciding : (d.heldEntry q).bind HeldEntry.deciding? = some cause := by
        simp [he, HeldEntry.deciding?, hstate]
      have hg : (d.dropHeld q).tellDecision cause q dn = g := by
        have hx' : (d.dropHeld q).slot? q = some x := hx
        cases cause with
        | expiry =>
          simp only [Dev.tellDecision, hx']
          rfl
        | command => rfl
      have hrest := Dev.tellDecision_rest cause q dn (d.dropHeld q)
      rw [hg] at hrest
      have hslot : ∀ l, g.slot? l = d.slot? l := fun l => (congrArg (fun e : Dev => e.slot? l) hrest :)
      have hindex : g.index = d.index := (congrArg Dev.index hrest :)
      have hgx : g.slot? q = some x := (hslot q).trans hx
      have hreleased : dn = .released → u = answering (g.releaseHeld q stamp).1 (g.releaseHeld q stamp).2 := by
        intro hdn
        rw [← hg]
        subst hdn
        exact Dev.recordPassed_released o hdeciding
      refine ⟨fun hdn => ?denied, fun hdn hun => ?unindexed, fun w k hdn hun hlink hk => ?released⟩
      case denied =>
        have hdenied : u = g.denyHeld q := by
          rw [← hg]
          subst hdn
          exact Dev.recordPassed_denied o hdeciding
        exact hdenied.trans (Dev.denyHeld_filled hgx)
      case unindexed =>
        rw [hreleased hdn, Dev.releaseHeld_unindexed stamp hgx hun]
      case released =>
        intro h
        have hgk : Tbl.get g.index.ways w = some k := by rw [hindex, hk]
        have hh : ({ g with index := g.index.put w { k with live := some (q, stamp) } } : Dev) = h := by
          rw [hindex]
          rfl
        have hwon : ∀ l lt, k.live = some (l, lt) → ¬ (stamp < lt ∨ (lt = stamp ∧ q < l)) →
            u = answering ((((h.putSlot q y).supersede l q x.sites).evaluate q false).offer q) .live := by
          intro l lt hlive hwins
          have hlost : liveWins l lt q stamp = false := by rwa [← Bool.not_eq_true, liveWins_iff]
          rw [hreleased hdn, Dev.releaseHeld_supersedes stamp hgx hun hlink hgk hlive hlost, hh]
        refine ⟨fun l lt hlive => ⟨fun hwins => ?stale, fun z hwins hne hz => ?supersedes, fun hwins hne hz => ?alone⟩,
          fun hlive => ?live⟩
        case stale =>
          rw [hreleased hdn, Dev.releaseHeld_stale stamp hgx hun hlink hgk hlive ((liveWins_iff _ _ _ _).2 hwins)]
          rfl
        case supersedes =>
          have hold : (h.putSlot q y).slot? l = some z := by rw [Dev.putSlot_slot, if_neg hne]; exact (hslot l).trans hz
          rw [hwon l lt hlive hwins, Dev.supersede_filled hold]
          rfl
        case alone =>
          have hnone : (h.putSlot q y).slot? l = none := by rw [Dev.putSlot_slot, if_neg hne]; exact (hslot l).trans hz
          rw [hwon l lt hlive hwins, Dev.supersede_free hnone]
        case live =>
          rw [hreleased hdn, Dev.releaseHeld_live stamp hgx hun hlink hgk hlive, hh]
end

section
/-!
SUPPORT and settlement of O25. The posting of an APPEND whose key lookup ends at once, or must read the array (R27, R170); the
granted command's DECISION record (R50); what the key index decides, an equation for each outcome of the lookup (R28, R29, R35); and
what a staging leaves (R19, R108).
-/

open Sys2Proof Sys2Proof.Machine

namespace Sys2Proof.Machine

/-! ## The key lookup's outcome, in the event of the staging (R28) -/

section
variable {k : KeyIndex} {bucket : Word32} {hash : Word64} {len : Nat}

theorem KeyIndex.check_no_entry (o : Outcome27) (h : k.find bucket hash len = none) : k.check bucket hash len o = .noEntry := by
  simp [KeyIndex.check, h]

variable {o : Outcome27} {w : Nat} {e : KeyEntry} (hfind : k.find bucket hash len = some w) (hget : Tbl.get k.ways w = some e)
include hfind hget

theorem KeyIndex.check_named {c : LookupResult} (ho : o = .found w e.creation c) :
    k.check bucket hash len o = .entry w c := by
  subst ho
  simp [KeyIndex.check, hfind, hget]

theorem KeyIndex.check_not_named (ho : ∀ c, o ≠ .found w e.creation c) : k.check bucket hash len o = .race := by
  simp only [KeyIndex.check, hfind, hget]
  cases o with
  | none => rfl
  | found w' creation c =>
    refine if_neg ?_
    rintro ⟨rfl, rfl⟩
    exact ho c rfl

end

/-! ## What the key index decides (R29, R35) -/

/-- R25, R28: no way takes the intent, for this reason. -/
inductive KeyIndex.Rejects (k : KeyIndex) (hash : Word64) : Checked → Unindexed → Prop where
  | setFull (h : k.freeWay (setOfHash hash) = none) : k.Rejects hash .noEntry .setFull
  | race : k.Rejects hash .race .race
  | collision (w : Nat) : k.Rejects hash (.entry w .collision) .collision
  | unreadable (w : Nat) : k.Rejects hash (.entry w .unreadable) .unreadable

section
variable {k : KeyIndex} (seq : Seq) (bucket : Word32) {hash : Word64} (len : Nat) (stamp : Word64)

theorem KeyIndex.decide_rejects {c : Checked} {why : Unindexed} (h : k.Rejects hash c why) :
    k.decide seq bucket hash len stamp c = (k.countReason why, { outcome := .unindexed, reason := some why }) := by
  cases h with
  | setFull h => simp only [KeyIndex.decide, h]; rfl
  | _ => rfl

theorem KeyIndex.countHeld_rejects {c : Checked} {why : Unindexed} (h : k.Rejects hash c why) :
    k.countHeld seq bucket hash len c = (k.countReason why, { outcome := .held, reason := some why }) := by
  cases h with
  | setFull h => simp only [KeyIndex.countHeld, h]
  | _ => rfl

variable {w : Nat}

/-- R25, R29: a new key takes a free way. -/
theorem KeyIndex.decide_new (h : k.freeWay (setOfHash hash) = some w) :
    k.decide seq bucket hash len stamp .noEntry =
      (k.put w ⟨bucket, hash, len, seq, some (seq, stamp), 1⟩, { outcome := .live, link := some w }) := by
  simp only [KeyIndex.decide, h]

/-- R25, R29, R32: a key without an entry: LIVE by a free way, else UNINDEXED (SET_FULL). -/
theorem KeyIndex.decide_noEntry_snd :
    let way := k.freeWay (setOfHash hash)
    (k.decide seq bucket hash len stamp .noEntry).2 =
      { outcome := if way = none then .unindexed else .live, link := way
        reason := if way = none then some .setFull else none } := by
  cases h : k.freeWay (setOfHash hash) with
  | none => rw [KeyIndex.decide_rejects seq bucket len stamp (.setFull h)]; rfl
  | some w => rw [KeyIndex.decide_new seq bucket len stamp h]; rfl

theorem KeyIndex.countHeld_new (h : k.freeWay (setOfHash hash) = some w) :
    k.countHeld seq bucket hash len .noEntry = (k.put w ⟨bucket, hash, len, seq, none, 1⟩, { outcome := .held, link := some w }) := by
  simp only [KeyIndex.countHeld, h]

variable {e : KeyEntry} (hget : Tbl.get k.ways w = some e)
include hget

/-- R29: the key's live intent has a newer stamp. -/
theorem KeyIndex.decide_stale {l : Seq} {x : Word64} (hlive : e.live = some (l, x)) (hx : stamp < x) :
    k.decide seq bucket hash len stamp (.entry w .matched) = (k, { outcome := .stale, supersededBy := some l }) := by
  simp only [KeyIndex.decide, hget, hlive, if_pos hx]

/-- R29: the key's live intent, where it has one, has no newer stamp: the new one is live, unless the entry's count is full. -/
theorem KeyIndex.decide_not_stale (hold : ¬ ∃ l x, e.live = some (l, x) ∧ stamp < x) :
    k.decide seq bucket hash len stamp (.entry w .matched) =
      if e.count = 255 then (k.countReason .countFull, { outcome := .unindexed, reason := some .countFull })
      else
        (k.put w { e with live := some (seq, stamp), count := e.count + 1 },
          { outcome := .live, link := some w, supersedes := e.live.map (·.1) }) := by
  rcases hlive : e.live with _ | ⟨l, x⟩
  · simp only [KeyIndex.decide, hget, hlive]
    rfl
  · have hx : ¬ stamp < x := fun hx => hold ⟨l, x, hlive, hx⟩
    simp only [KeyIndex.decide, hget, hlive, if_neg hx]
    rfl

theorem KeyIndex.countHeld_matched :
    k.countHeld seq bucket hash len (.entry w .matched) =
      if e.count < 255 then (k.put w { e with count := e.count + 1 }, { outcome := .held, link := some w })
      else (k.countReason .countFull, { outcome := .held, reason := some .countFull }) := by
  simp only [KeyIndex.countHeld, hget]

end

/-- R29: an intent for which supersession is decided is not HELD. -/
theorem KeyIndex.decide_outcome_ne_held (k : KeyIndex) (seq : Seq) (bucket : Word32) (hash : Word64) (len : Nat) (stamp : Word64)
    (c : Checked) : (k.decide seq bucket hash len stamp c).2.outcome ≠ .held := by
  have hun : ∀ why, (k.unindexed why).2.outcome ≠ .held := fun _ => StagedOutcome.noConfusion
  unfold KeyIndex.decide
  split
  · split
    · exact StagedOutcome.noConfusion
    · exact hun _
  · exact hun _
  · exact hun _
  · exact hun _
  · split
    · exact hun _
    · dsimp only
      split
      · exact StagedOutcome.noConfusion
      · split
        · exact hun _
        · exact StagedOutcome.noConfusion

theorem KeyIndex.countHeld_outcome (k : KeyIndex) (seq : Seq) (bucket : Word32) (hash : Word64) (len : Nat) (c : Checked) :
    (k.countHeld seq bucket hash len c).2.outcome = .held := by
  unfold KeyIndex.countHeld
  repeat' split
  all_goals rfl

/-! ## The decision for an APPEND, held or not, and the list of held intents (R49, R50) -/

section
variable {d : Dev} (b : AppendBody) {held : Bool} (o : Outcome27)

/-- R29, R50: supersession is decided for an intent that is not held, and for one that an overflow releases. -/
theorem Dev.decideAppend_free (h : held = false ∨ d.heldFull = true ∧ d.settings.mode.expiryAction = .released) :
    d.decideAppend b held o =
      d.index.decide d.journal.nextSeq b.bucket b.keyHash b.keyLen b.stamp (d.index.check b.bucket b.keyHash b.keyLen o) := by
  rcases h with h | ⟨hfull, haction⟩
  · simp [Dev.decideAppend, h]
  · simp [Dev.decideAppend, hfull, haction]

theorem Dev.decideAppend_held (hheld : held = true) (hroom : d.heldFull = false) :
    d.decideAppend b held o =
      d.index.countHeld d.journal.nextSeq b.bucket b.keyHash b.keyLen (d.index.check b.bucket b.keyHash b.keyLen o) := by
  simp [Dev.decideAppend, hheld, hroom]

theorem Dev.decideAppend_denied (hheld : held = true) (hfull : d.heldFull = true) (haction : d.settings.mode.expiryAction = .denied) :
    d.decideAppend b held o = (d.index, { outcome := .overflowDenied }) := by
  simp [Dev.decideAppend, hheld, hfull, haction]

/-- R20, R50: the answer's overflow flag tells that the list of held intents was full. -/
theorem Dev.decideAppend_overflow :
    (held && (d.decideAppend b held o).2.outcome != .held) = (held && d.heldFull) := by
  cases held with
  | false => rfl
  | true =>
    cases hfull : d.heldFull with
    | false => simp [Dev.decideAppend_held b o rfl hfull, KeyIndex.countHeld_outcome]
    | true =>
      cases haction : d.settings.mode.expiryAction with
      | released => simp [Dev.decideAppend_free b o (.inr ⟨hfull, haction⟩), KeyIndex.decide_outcome_ne_held]
      | denied => simp [Dev.decideAppend_denied b o rfl hfull haction]

end

/-- R49, R50: the list of held intents after a staging. -/
def Dev.heldAfter (seq : Seq) (held : Bool) (d : Dev) : HeldList :=
  if held = false then d.held
  else if d.heldFull then { d.held with overflow := min (d.held.overflow + 1) 65535 }
  else { d.held with entries := d.held.entries ++ [⟨seq, .staged⟩] }

theorem Dev.holdAppend_eq (seq : Seq) (held : Bool) (d : Dev) :
    d.holdAppend seq held =
      ({ d with held := d.heldAfter seq held },
        if held && d.heldFull then some (.decision seq d.settings.mode.expiryAction) else none) := by
  unfold Dev.holdAppend Dev.heldAfter
  cases held <;> cases d.heldFull <;> rfl

/-! ## What a staging leaves (R19, R108) -/

/-- R19, R108: the part after the staging of an APPEND for which the key index has decided. -/
def Dev.stagedAs (tok : Tok) (b : AppendBody) (k : KeyIndex) (c : Decided) (d : Dev) : Dev :=
  let n := d.journal.nextSeq
  let pl := d.placement b.bucket
  let r := appendRecord n tok.port b pl
  { d with
    journal := (({ d with journal := { d.journal with nextSeq := n + 1 } } : Dev).place ⟨.intent r, some tok⟩).1.journal
    index := k
    held := d.heldAfter n pl.held
    status := (d.fillSlot r c).status
    ports := (d.modTaken tok fun t => { t with holds := false, cont := .append (appendAnswer r c) }).ports
    intake := { d.intake with
      grant :=
        if pl.held && d.heldFull then some ⟨tok, .second ⟨.decision n d.settings.mode.expiryAction, some tok⟩⟩ else none } }

theorem Dev.examineAppend_staged {d : Dev} {b : AppendBody} (tok : Tok) (o : Outcome27) (h : d.appendRefusal b = none) :
    d.examineAppend tok b o =
      let c := d.decideAppend b (d.placement b.bucket).held o
      d.stagedAs tok b c.1 c.2 := by
  have hstage : d.examineAppend tok b o = d.stageAppend tok b o := by
    unfold Dev.examineAppend
    rw [h]
  rw [hstage]
  unfold Dev.stageAppend Dev.stagedAs
  dsimp only
  rw [Dev.holdAppend_eq]
  dsimp only [Dev.takeSeq, Dev.fillSlot, Dev.modTaken, Dev.modPort]
  rw [Dev.place_fst]
  congr 1
  cases (d.placement b.bucket).held && d.heldFull <;> rfl

theorem Tbl.get_filter {α : Type} (l : List (Nat × α)) (f : Nat × α → Bool) (x : Nat) (h : ∀ a, f (x, a) = true) :
    Tbl.get (l.filter f) x = Tbl.get l x := by
  induction l with
  | nil => rfl
  | cons e t ih =>
    obtain ⟨k, v⟩ := e
    rw [List.filter_cons]
    by_cases hk : x = k
    · subst hk
      simp [h, Tbl.get]
    · split <;> simp [Tbl.get, hk, ih]

section
variable (tok : Tok) (b : AppendBody) (k : KeyIndex) (c : Decided) (d : Dev)

theorem Dev.stagedAs_slot :
    (d.stagedAs tok b k c).slot? d.journal.nextSeq =
      some (stagedSlot (appendRecord d.journal.nextSeq tok.port b (d.placement b.bucket)) c) := Tbl.get_put_self _ _ _

/-- R107: the slots of other numbers are as they were. -/
theorem Dev.stagedAs_slot_other {q : Seq} (h : q % 4194304 ≠ d.journal.nextSeq % 4194304) :
    (d.stagedAs tok b k c).slot? q = d.slot? q := by
  have hne : q ≠ d.journal.nextSeq := fun e => h (by rw [e])
  refine (Tbl.get_put_other _ _ _ _ hne).trans (Tbl.get_filter _ _ _ fun _ => ?_)
  simpa [appendRecord] using h

theorem Dev.stagedAs_ports :
    (d.stagedAs tok b k c).ports =
      d.ports.set tok.port
        { d.ports[tok.port] with
          taken := d.ports[tok.port].taken.map fun y =>
            if y.id = tok.id then
              { y with
                holds := false
                cont := .append (appendAnswer (appendRecord d.journal.nextSeq tok.port b (d.placement b.bucket)) c) }
            else y } := by
  simp only [Dev.stagedAs, Dev.modTaken, Dev.modPort_ports, beq_iff_eq]

theorem Dev.stagedAs_port_self :
    (d.stagedAs tok b k c).ports[tok.port] =
      { d.ports[tok.port] with
        taken := d.ports[tok.port].taken.map fun y =>
          if y.id = tok.id then
            { y with
              holds := false
              cont := .append (appendAnswer (appendRecord d.journal.nextSeq tok.port b (d.placement b.bucket)) c) }
          else y } := by
  rw [Dev.stagedAs_ports]
  exact Dev.ports_get_set d tok.port _

theorem Dev.stagedAs_port_other {q : PortId} (h : q ≠ tok.port) : (d.stagedAs tok b k c).ports[q] = d.ports[q] :=
  Dev.modPort_other d tok.port q
    (fun x => { x with taken := x.taken.map fun y =>
      if y.id == tok.id then
        { y with
          holds := false
          cont := .append (appendAnswer (appendRecord d.journal.nextSeq tok.port b (d.placement b.bucket)) c) }
      else y }) h

variable {d} (hheld : (d.placement b.bucket).held = false)
include hheld

/-- R49: an intent that is not held leaves the list of held intents, and its grant has ended. -/
theorem Dev.stagedAs_rest_of_not_held :
    { d.stagedAs tok b k c with
      ports := d.ports, intake := d.intake, journal := d.journal, index := d.index, status := d.status } = d := by
  unfold Dev.stagedAs
  dsimp only
  rw [hheld]
  rfl

theorem Dev.stagedAs_intake_of_not_held : (d.stagedAs tok b k c).intake = { d.intake with grant := none } := by
  unfold Dev.stagedAs
  dsimp only
  rw [hheld]
  rfl

end

/-- R19, R25, R29: the staging of an APPEND that is not held and whose key has no entry. -/
theorem Dev.examineAppend_newKey {d : Dev} {b : AppendBody} (tok : Tok) (o : Outcome27) (href : d.appendRefusal b = none)
    (hheld : (d.placement b.bucket).held = false) (hfind : d.index.find b.bucket b.keyHash b.keyLen = none) :
    d.examineAppend tok b o =
      let c := d.index.decide d.journal.nextSeq b.bucket b.keyHash b.keyLen b.stamp .noEntry
      d.stagedAs tok b c.1 c.2 := by
  rw [Dev.examineAppend_staged tok o href, Dev.decideAppend_free b o (.inl hheld), KeyIndex.check_no_entry o hfind]

/-- R7: the record of an APPEND whose fields are in order. -/
theorem appendRecord_eq {b : AppendBody} {k : IntentKind} (seq : Seq) (p : PortId) (pl : Placement)
    (hkind : intentKindOf b.kind = some k) (hkey : b.key.length = b.keyLen) :
    appendRecord seq p b pl =
      { seq := seq, kind := k, origin := p, tag := b.tag, bucket := b.bucket, keyHash := b.keyHash, key := b.key
        stamp := b.stamp, payloadLen := b.payloadLen, locator := b.locator, digest := b.digest
        entry := pl.deciding.getD none, siteSet := pl.set, quorum := pl.quorum, held := pl.held } := by
  have hkeyOf : keyOf b.keyLen b.key = b.key := by
    unfold keyOf
    rw [← hkey, List.take_left]
  simp only [appendRecord, hkind, hkeyOf, Option.getD_some]

/-! ## The posting of an APPEND (R27, R170) -/

theorem Dev.appendRefusal_none_length {d : Dev} {b : AppendBody} (h : d.appendRefusal b = none) :
    1 ≤ b.keyLen ∧ b.keyLen ≤ 240 := by
  have hgood : appendMalformed b = false := by
    unfold Dev.appendRefusal at h
    split at h
    · cases h
    · split at h
      · cases h
      · simpa using ‹¬ appendMalformed b = true›
  unfold appendMalformed at hgood
  split at hgood
  · cases hgood
  · simp only [Bool.or_eq_false_iff, Bool.not_eq_false', Bool.and_eq_true, decide_eq_true_eq] at hgood
    exact hgood.1.1

/-- The part after an APPEND has joined a free port's queue. -/
def Dev.enqueued (p : PortId) (cid : Word32) (b : AppendBody) (d : Dev) : Dev :=
  d.modPort p fun q => { q with cmdQ := q.cmdQ ++ [⟨cid, .append b⟩] }

section
variable {d : Dev} {p : PortId} (cid : Word32) {b : AppendBody} (hup : d.up) (hf : d.portFree p)
include hf

theorem Dev.enqueued_port : (d.enqueued p cid b).ports[p] = { d.ports[p] with cmdQ := [⟨cid, .append b⟩] } := by
  unfold Dev.enqueued
  rw [Dev.modPort_self, hf.2.1]
  rfl

include hup

/-- R27, R167: an APPEND posted to a free port is not taken, but looked up; the arbiter is then asked. -/
theorem Dev.postCommand_append (hlen : lengthOk b.keyLen = true) :
    d.postCommand p ⟨cid, .append b⟩ =
      let e := (d.enqueued p cid b).beginLookup p b
      if e.grantChoice = some p then (e.grantPort p).grantedNow else e := by
  have hport := Dev.enqueued_port cid (b := b) hf
  obtain ⟨ho, hc, ht, hl, hr⟩ := hf
  have hout : ¬ 64 ≤ d.ports[p].outstanding := by rw [Port.outstanding_free hc ht]; omega
  have htake : (d.enqueued p cid b).takeStep p = none := by
    exact Dev.takeStep_free (d := d.enqueued p cid b) (p := p) (r := ⟨cid, .append b⟩) (rest := []) hup (by rw [hport]; exact ho)
      (by rw [hport]; exact ht) (by rw [hport])
  have hlookup : (d.enqueued p cid b).lookupStep p = some ((d.enqueued p cid b).beginLookup p b) := by
    have hpart : (d.enqueued p cid b).part = .ready := hup.2
    have hpart' : (PartState.ready != PartState.starting) = true := rfl
    unfold Dev.lookupStep
    rw [hport]
    simp only [hl, hlen, hpart, hpart', Bool.and_self, if_true]
  unfold Dev.postCommand Dev.serve
  rw [if_neg hout]
  have hsame : (d.modPort p fun q => { q with cmdQ := q.cmdQ ++ [⟨cid, .append b⟩] }) = d.enqueued p cid b := rfl
  rw [hsame, htake, hlookup]
  rfl

/-- R27, R170: a lookup that ends at once lets the arbiter grant the APPEND, when nothing competes. -/
theorem Dev.postCommand_append_known {o : Outcome27} (hi : d.intakeFree) (hlen : lengthOk b.keyLen = true)
    (hknown : d.lookup b.bucket b.keyHash b.keyLen b.key = .known o) :
    d.postCommand p ⟨cid, .append b⟩ =
      Dev.grantedNow { d.granted p cid 1 .none with intake := ⟨p, some ⟨d.nextTok p, .examine b o⟩⟩ } := by
  rw [Dev.postCommand_append cid hup hf hlen]
  have hknown' : (d.enqueued p cid b).lookup b.bucket b.keyHash b.keyLen b.key = .known o := hknown
  have hport := Dev.enqueued_port cid (b := b) hf
  obtain ⟨ho, hc, ht, hl, hr⟩ := hf
  obtain ⟨hgrant, hctrl, hothers⟩ := hi
  generalize he : (d.enqueued p cid b).beginLookup p b = e
  have hlooked : e = (d.enqueued p cid b).modPort p fun q => { q with lookup := some (.known o) } := by
    rw [← he, Dev.beginLookup, hknown']
  have hself : e.ports[p] = { d.ports[p] with cmdQ := [⟨cid, .append b⟩], lookup := some (.known o) } := by
    rw [hlooked, Dev.modPort_self, hport]
  have hchoice : e.grantChoice = some p := by
    have hready : e.readyCommand p = true := by
      rw [Dev.readyCommand_iff, Dev.HeadReady, hself]
      refine ⟨fun y hy => ?_, ho, _, _, rfl, rfl, fun _ _ _ _ => ⟨o, rfl⟩⟩
      rw [show d.ports[p].taken = [] from ht] at hy
      cases hy
    refine Dev.grantChoice_only ?_ ?_ ?_ hready fun q hq => ?_
    · rw [hlooked]; exact hup.2
    · rw [hlooked]; exact hgrant
    · rw [hlooked]; exact hctrl
    · rw [hlooked, Dev.modPort_other _ _ _ _ hq, Dev.enqueued, Dev.modPort_other _ _ _ _ hq]
      exact hothers q
  have hgranted : e.grantPort p =
      { d.granted p cid 1 .none with intake := ⟨p, some ⟨d.nextTok p, .examine b o⟩⟩ } := by
    unfold Dev.grantPort
    rw [hself]
    simp only [Fin.getElem_fin] at hc ht hl
    simp [hlooked, Port.outcome, Dev.act, Dev.actAppend, Dev.take, Dev.enqueued, Dev.modPort, Dev.granted, Dev.nextTok, kindCode,
      hc, ht, hl]
  dsimp only
  rw [if_pos hchoice, hgranted]

/-- R27: a lookup that must read the array lets the APPEND wait for that page. -/
theorem Dev.postCommand_append_read {seg page way creation : Nat} {q : Seq} (hlen : lengthOk b.keyLen = true)
    (hread : d.lookup b.bucket b.keyHash b.keyLen b.key = .read seg page q way creation) :
    d.postCommand p ⟨cid, .append b⟩ =
      { d with
        nextToken := d.nextToken + 1
        array := { d.array with reads := d.array.reads ++ [⟨seg, page, q, .lookup p d.nextToken⟩] }
        ports := d.ports.set p
          { d.ports[p] with cmdQ := [⟨cid, .append b⟩], lookup := some (.reading d.nextToken way creation) } } := by
  rw [Dev.postCommand_append cid hup hf hlen]
  have hread' : (d.enqueued p cid b).lookup b.bucket b.keyHash b.keyLen b.key = .read seg page q way creation := hread
  have hc : d.ports[p].cmdQ = [] := hf.2.1
  generalize he : (d.enqueued p cid b).beginLookup p b = e
  have hlooked : e =
      { d with
        nextToken := d.nextToken + 1
        array := { d.array with reads := d.array.reads ++ [⟨seg, page, q, .lookup p d.nextToken⟩] }
        ports := d.ports.set p
          { d.ports[p] with cmdQ := [⟨cid, .append b⟩], lookup := some (.reading d.nextToken way creation) } } := by
    simp only [Fin.getElem_fin] at hc
    rw [← he, Dev.beginLookup, hread']
    simp [Dev.enqueued, Dev.modPort, Dev.enqueueRead, hc]
  have hself : e.ports[p] =
      { d.ports[p] with cmdQ := [⟨cid, .append b⟩], lookup := some (.reading d.nextToken way creation) } := by
    rw [hlooked]
    exact Dev.ports_get_set d p _
  have hchoice : e.grantChoice ≠ some p := by
    intro h
    obtain ⟨_, ⟨_, _, c, rest, hqueue, _, hlookup⟩, _⟩ := (Dev.grantChoice_eq_some_iff e p).1 h
    rw [hself] at hqueue hlookup
    obtain rfl : (⟨cid, .append b⟩ : CmdRec) = c := (List.cons.inj hqueue).1
    obtain ⟨hlow, hhigh⟩ := (lengthOk_iff _).1 hlen
    obtain ⟨o, ho⟩ := hlookup b rfl hlow hhigh
    cases ho
  dsimp only
  rw [if_neg hchoice, hlooked]

end

/-! ## The examination and the DECISION record, step by step (R12, R19, R50) -/

theorem Dev.grantedSteps_idle (n : Nat) {d : Dev} (h : d.intake.grant = none) : Dev.grantedSteps n d = d := by
  cases n <;> simp [Dev.grantedSteps, Dev.grantedStep, h]

/-- R19: a granted APPEND whose record finds room is examined. -/
theorem Dev.grantedNow_examine {d : Dev} {tok : Tok} {b : AppendBody} {o : Outcome27} (hp : d.part = .ready)
    (hc : d.journal.ctrlQ = []) (hg : d.intake.grant = some ⟨tok, .examine b o⟩) (hs : d.canPlace (appendSize b)) :
    d.grantedNow = Dev.grantedSteps 3 (d.examineAppend tok b o) := by
  have hstep : d.grantedStep = some (d.examineAppend tok b o) := by
    simp [Dev.grantedStep, hg, Dev.placesGranted, hp, hc, hs.1, hs.2]
  rw [Dev.grantedNow, Dev.grantedSteps, hstep]

theorem Journal.close_progQ {j : Journal} {id : BufId} (h : j.fillingBuf = some id) : j.close.progQ = j.progQ ++ [id] := by
  unfold Journal.close
  rw [h]
  simp only [Journal.putBuf_progQ]

/-- R12: making room closes a buffer, which then waits for its program, or does nothing. -/
theorem Journal.makeRoom_eq_self {j : Journal} {size : Nat} (h : (j.makeRoom size).progQ.length = j.progQ.length) :
    j.makeRoom size = j := by
  unfold Journal.makeRoom at *
  split at h
  · rename_i id hid
    split at h
    · rw [if_pos ‹_›]
    · rw [Journal.close_progQ hid] at h
      simp at h
  · rfl

/-- R12: for a record that has found no room, none can be made by trying again. -/
theorem Journal.target_none {j : Journal} {size : Nat} (h : j.target size = none) :
    (j.makeRoom size).makeRoom size = j.makeRoom size ∧ (j.makeRoom size).target size = none := by
  have hfilling : (j.makeRoom size).fillingBuf = none := by
    unfold Journal.target at h
    dsimp only at h
    cases hf : (j.makeRoom size).fillingBuf with
    | none => rfl
    | some id => rw [hf] at h; cases h
  have hroom : (j.makeRoom size).makeRoom size = j.makeRoom size := by
    rw [Journal.makeRoom, hfilling]
  refine ⟨hroom, ?_⟩
  unfold Journal.target at *
  rw [hroom]
  exact h

/-- R12: a record that waits leaves the journal with the room that it made, and waits again when it is tried again. -/
theorem Dev.place_waits {d : Dev} {s : Staged} (h : (d.place s).2 = false) :
    (d.place s).1.place s = d.place s ∧
      ((d.place s).1.journal.progQ.length = d.journal.progQ.length → (d.place s).1 = d) := by
  cases hstalled : d.programStalled with
  | true => rw [Dev.place_stalled s hstalled]; exact ⟨Dev.place_stalled s hstalled, fun _ => rfl⟩
  | false =>
    have hnone : d.journal.target s.item.size = none := by
      rw [Dev.place_running s hstalled] at h
      simpa using h
    obtain ⟨hroom, htarget⟩ := Journal.target_none hnone
    have hplace : ∀ j : Journal, j.target s.item.size = none →
        j.place d.now d.settings.commitDelay s = (j.makeRoom s.item.size, false) := by
      intro j hj
      simp only [Journal.place, hj]
    have hd : d.place s = ({ d with journal := d.journal.makeRoom s.item.size }, false) := by
      rw [Dev.place_running s hstalled, hplace _ hnone, hnone]
      rfl
    rw [hd]
    refine ⟨?_, fun hlen => ?_⟩
    · cases hstalled' : Dev.programStalled { d with journal := d.journal.makeRoom s.item.size } with
      | true => exact Dev.place_stalled s hstalled'
      | false =>
        rw [Dev.place_running s hstalled']
        dsimp only
        rw [hplace _ htarget, hroom, htarget]
        rfl
    · dsimp only at hlen ⊢
      rw [Journal.makeRoom_eq_self hlen]

theorem Dev.tryPlace_eq (s : Staged) (next : Dev → Dev) (d : Dev) :
    d.tryPlace s next =
      if (d.place s).2 then some (next (d.place s).1)
      else if (d.place s).1.journal.progQ.length = d.journal.progQ.length then none else some (d.place s).1 := rfl

/-- R50: the DECISION record of a granted APPEND is placed, and the grant ends, or the grant keeps it. -/
theorem Dev.grantedSteps_second (n : Nat) {d : Dev} {tok : Tok} {r : Staged} (hp : d.part = .ready)
    (hg : d.intake.grant = some ⟨tok, .second r⟩) :
    Dev.grantedSteps (n + 2) d =
      { (d.place r).1 with intake := { d.intake with grant := if (d.place r).2 then none else d.intake.grant } } := by
  have hstep : ∀ e : Dev, e.part = .ready → e.intake.grant = some ⟨tok, .second r⟩ →
      e.grantedStep = e.tryPlace r Dev.endGrant := by
    intro e hp hg
    simp [Dev.grantedStep, hg, Dev.placesGranted, Dev.placesSecond, hp]
  have hfirst := hstep d hp hg
  rw [Dev.tryPlace_eq] at hfirst
  cases hok : (d.place r).2 with
  | true =>
    rw [hok, if_pos rfl] at hfirst
    rw [Dev.grantedSteps, hfirst]
    exact Dev.grantedSteps_idle _ rfl
  | false =>
    obtain ⟨hagain, hsame⟩ := Dev.place_waits hok
    have hwaits : (d.place r).1.grantedStep = none := by
      rw [hstep (d.place r).1 hp hg, Dev.tryPlace_eq, hagain, hok]
      simp
    have hkept : ({ (d.place r).1 with intake := { d.intake with grant := d.intake.grant } } : Dev) = (d.place r).1 := rfl
    rw [if_neg Bool.false_ne_true, hkept]
    rw [hok, if_neg Bool.false_ne_true] at hfirst
    by_cases hlen : (d.place r).1.journal.progQ.length = d.journal.progQ.length
    · rw [if_pos hlen] at hfirst
      rw [Dev.grantedSteps, hfirst]
      exact (hsame hlen).symm
    · rw [if_neg hlen] at hfirst
      rw [Dev.grantedSteps, hfirst]
      dsimp only
      rw [Dev.grantedSteps, hwaits]

/-- R27, R170: the part in the event that has granted an APPEND, which is to be examined. -/
def Dev.appendGranted (t : Time) (p : PortId) (cid : Word32) (b : AppendBody) (o : Outcome27) (d : Dev) : Dev :=
  { (d.tick t).granted p cid 1 .none with intake := ⟨p, some ⟨⟨p, d.nextToken⟩, .examine b o⟩⟩ }

theorem Dev.appendGranted_port_self (t : Time) (p : PortId) (cid : Word32) (b : AppendBody) (o : Outcome27) (d : Dev) :
    (d.appendGranted t p cid b o).ports[p] = { d.ports[p] with taken := [{ id := d.nextToken, cid := cid, kind := 1 }] } :=
  Dev.ports_get_set d p _

theorem Dev.appendGranted_port_other (t : Time) {p q : PortId} (cid : Word32) (b : AppendBody) (o : Outcome27) (d : Dev)
    (h : q ≠ p) : (d.appendGranted t p cid b o).ports[q] = d.ports[q] :=
  Dev.modPort_other d p q (fun y => { y with taken := [{ id := d.nextToken, cid := cid, kind := 1 }] }) h

theorem append_next {s : State} (t : Time) (p : PortId) (cid : Word32) (b : AppendBody) (hup : s.dev.up) :
    exec (.append t p cid b) s = .next { s with dev := ((s.dev.tick t).postCommand p ⟨cid, .append b⟩).settle } := by
  show State.goOn (Dev.posted t p cid (.append b)) s = _
  rw [State.goOn_next, Dev.posted, Dev.event_powered _ _ _ hup.1]

/-- R19, R27: an APPEND that no condition refuses and whose lookup ends at once is examined in its event. -/
theorem append_examined {s : State} (t : Time) {p : PortId} (cid : Word32) {b : AppendBody} {o : Outcome27} (hup : s.dev.up)
    (hf : s.dev.portFree p) (hi : s.dev.intakeFree) (hs : s.dev.canPlace (recordSize b.keyLen))
    (href : s.dev.appendRefusal b = none) (hknown : s.dev.lookup b.bucket b.keyHash b.keyLen b.key = .known o) :
    exec (.append t p cid b) s =
      .next { s with dev := (Dev.grantedSteps 3
        ((s.dev.appendGranted t p cid b o).examineAppend ⟨p, s.dev.nextToken⟩ b o)).settle } := by
  have hlen := Dev.appendRefusal_none_length href
  have hsize : appendSize b = recordSize b.keyLen := by
    unfold appendSize
    rw [Nat.min_eq_left (by omega)]
  have hnow := Dev.grantedNow_examine (d := s.dev.appendGranted t p cid b o) (tok := ⟨p, s.dev.nextToken⟩) (b := b) (o := o)
    hup.2 hi.2.1 rfl (by rw [hsize]; exact hs)
  rw [append_next t p cid b hup, Dev.postCommand_append_known cid (Dev.up_tick t hup) (Dev.portFree_tick t hf)
    (Dev.intakeFree_tick t hi) ((lengthOk_iff _).2 hlen) hknown, ← hnow]
  rfl

end Sys2Proof.Machine

/-- Settles O25: a staging is Dev.stagedAs with what the key index decides; the four parts are put together from its lemmas. -/
theorem appendStagesANewKey : Obligations.AppendStagesANewKey := by
  unfold Obligations.AppendStagesANewKey
  refine ⟨?newKey, ?known, ?reads, ?examined⟩
  case newKey =>
    intro s t p cid b k hup hf hi hs href hkind hkey hheld hfind d pl n r way
    have hknown : s.dev.lookup b.bucket b.keyHash b.keyLen b.key = .known .none := by simp [Dev.lookup, hfind]
    have hexec := append_examined t cid hup hf hi hs href hknown
    have hgheld : ((s.dev.appendGranted t p cid b .none).placement b.bucket).held = false := hheld
    let tok : Tok := ⟨p, s.dev.nextToken⟩
    let g := s.dev.appendGranted t p cid b .none
    let c := s.dev.index.decide n b.bucket b.keyHash b.keyLen b.stamp .noEntry
    let u := g.stagedAs tok b c.1 c.2
    have hstaged : g.examineAppend tok b .none = u := Dev.examineAppend_newKey tok .none href hgheld hfind
    have hintake : u.intake = { g.intake with grant := none } := Dev.stagedAs_intake_of_not_held tok b c.1 c.2 hgheld
    have hdecided : c.2 =
        { outcome := if way = none then .unindexed else .live, link := way
          reason := if way = none then some .setFull else none } := KeyIndex.decide_noEntry_snd n b.bucket b.keyLen b.stamp
    have hr : appendRecord n p b pl = r := by
      rw [appendRecord_eq n p pl hkind hkey, show pl.held = false from hheld]
    have hanswer : appendAnswer (appendRecord g.journal.nextSeq tok.port b (g.placement b.bucket)) c.2 =
        { seq := n, tag := b.tag, set := pl.set, quorum := pl.quorum
          outcome := if way = none then .unindexed else .live, unindexed := decide (way = none), overflow := false } := by
      refine (congrArg₂ appendAnswer hr hdecided).trans ?_
      by_cases hway : way = none <;> simp [appendAnswer, hway, r]
    have hport : u.ports[p] = { s.dev.ports[p] with
        taken :=
          [{ id := s.dev.nextToken, cid := cid, kind := 1, holds := false, discard := false, cont :=
              .append
                { seq := n, tag := b.tag, set := pl.set, quorum := pl.quorum
                  outcome := if way = none then .unindexed else .live, unindexed := decide (way = none)
                  overflow := false } }] } := by
      have hgranted : g.ports[tok.port] = _ := Dev.appendGranted_port_self t p cid b .none s.dev
      refine (Dev.stagedAs_port_self tok b c.1 c.2 g).trans ?_
      rw [hanswer, hgranted]
      simp [tok]
    refine ⟨u, ?goesOn, ?journal, ?slot, fun q hq => Dev.stagedAs_slot_other tok b c.1 c.2 g hq, fun w hw => ?live,
      fun hfull => ?unindexed, ?taken, hintake, fun q => ?ports, ?rest⟩
    case goesOn =>
      rw [hexec, hstaged, Dev.grantedSteps_idle 3 (congrArg Intake.grant hintake)]
    case journal =>
      rw [← hr]
      rfl
    case slot =>
      refine (Dev.stagedAs_slot tok b c.1 c.2 g).trans ?_
      rw [hdecided]
      rfl
    case live =>
      have hput : u.index = s.dev.index.put w ⟨b.bucket, b.keyHash, b.keyLen, n, some (n, b.stamp), 1⟩ :=
        congrArg Prod.fst (KeyIndex.decide_new n b.bucket b.keyLen b.stamp hw)
      rw [hput]
      exact ⟨Tbl.get_put_self _ _ _, fun x hx => Tbl.get_put_other _ _ _ _ hx⟩
    case unindexed =>
      exact congrArg Prod.fst (KeyIndex.decide_rejects n b.bucket b.keyLen b.stamp (.setFull hfull))
    case taken =>
      rw [hport]
    case ports =>
      by_cases hq : q = p
      · rw [hq, hport]
      · have hkept : u.ports[q] = s.dev.ports[q] :=
          (Dev.stagedAs_port_other tok b c.1 c.2 g hq).trans (Dev.appendGranted_port_other t cid b .none s.dev hq)
        rw [hkept]
    case rest =>
      exact congrArg (fun e : Dev =>
        { e with
          nextToken := s.dev.nextToken, ports := s.dev.ports, intake := s.dev.intake, journal := s.dev.journal
          index := s.dev.index, status := s.dev.status })
        (Dev.stagedAs_rest_of_not_held tok b c.1 c.2 hgheld)
  case known =>
    intro s t p cid b o hup hf hi hs href hknown tok g v
    have hexec : exec (.append t p cid b) s = .next { s with dev := (Dev.grantedSteps 3 v).settle } :=
      append_examined t cid hup hf hi hs href hknown
    have hready : v.part = .ready := by
      have hstaged : v = _ := Dev.examineAppend_staged tok o (show g.appendRefusal b = none from href)
      rw [hstaged]
      exact hup.2
    refine ⟨fun hidle => ?_, fun r hsecond => ?_⟩
    · rw [hexec, Dev.grantedSteps_idle 3 hidle]
    · rw [hexec, Dev.grantedSteps_second 1 hready hsecond]
  case reads =>
    intro s t p cid b seg page way creation q hup hf _ hlow hhigh hread d
    rw [append_next t p cid b hup, Dev.postCommand_append_read cid (Dev.up_tick t hup) (Dev.portFree_tick t hf)
      ((lengthOk_iff _).2 ⟨hlow, hhigh⟩) hread]
  case examined =>
    intro d tok b o k href hkind hkey n pl r u full action free waits entry room counted gives gone
    have hr : appendRecord n tok.port b pl = r := appendRecord_eq n tok.port pl hkind hkey
    have hstaged : u = d.stagedAs tok b (d.decideAppend b pl.held o).1 (d.decideAppend b pl.held o).2 :=
      Dev.examineAppend_staged tok o href
    have hgives : ∀ i c, d.decideAppend b pl.held o = (i, c) → gives i c := by
      intro i c hc
      have hoverflow := Dev.decideAppend_overflow (d := d) b (held := pl.held) o
      have hu : u = d.stagedAs tok b i c := by rw [hstaged, hc]
      rw [hc] at hoverflow
      refine ⟨by rw [hu]; rfl, ?_, ?_⟩
      · rw [hu, Dev.stagedAs_slot]
        rfl
      · rw [hu, Dev.stagedAs_ports]
        have hanswer : appendAnswer (appendRecord n tok.port b pl) c =
            { seq := n, tag := b.tag, set := pl.set, quorum := pl.quorum, outcome := c.outcome
              unindexed := c.reason.isSome, overflow := pl.held && full } := by
          show AppendAnswer.mk n b.tag pl.set pl.quorum c.outcome c.reason.isSome (pl.held && c.outcome != .held) = _
          rw [hoverflow]
          rfl
        rw [hanswer]
    have hfree : ∀ {i c}, free →
        d.index.decide n b.bucket b.keyHash b.keyLen b.stamp (d.index.check b.bucket b.keyHash b.keyLen o) = (i, c) → gives i c :=
      fun hf h => hgives _ _ ((Dev.decideAppend_free b o hf).trans h)
    have hwaits : ∀ {i c}, waits →
        d.index.countHeld n b.bucket b.keyHash b.keyLen (d.index.check b.bucket b.keyHash b.keyLen o) = (i, c) → gives i c :=
      fun hw h => hgives _ _ ((Dev.decideAppend_held b o hw.1 hw.2).trans h)
    have hcounted : ∀ why, d.index.countReason why = counted why := fun why => by cases why <;> rfl
    have hgone : ∀ why, d.index.Rejects b.keyHash (d.index.check b.bucket b.keyHash b.keyLen o) why → gone why := by
      intro why h
      refine ⟨fun hf => hfree hf ?_, fun hw => hwaits hw ?_⟩
      · rw [KeyIndex.decide_rejects n b.bucket b.keyLen b.stamp h, hcounted]
      · rw [KeyIndex.countHeld_rejects n b.bucket b.keyLen h, hcounted]
    have hnamed : ∀ {w : Nat} {e : KeyEntry} {c : LookupResult}, entry = some w → Tbl.get d.index.ways w = some e →
        o = .found w e.creation c → d.index.check b.bucket b.keyHash b.keyLen o = .entry w c :=
      fun hsome hget ho => KeyIndex.check_named hsome hget ho
    refine ⟨?journal, fun q hq => ?slots, ?list, ?intake, ?rest, fun hheld hfull haction => ?denied, fun hnone hroom => ?noRoom,
      fun w hnone hroom => ?newEntry, fun w e hsome hget => ⟨fun ho => ?otherEntry, fun ho => ?otherKey, fun ho => ?unreadKey,
        fun ho => ?matched⟩⟩
    case journal => rw [hstaged, ← hr]; rfl
    case slots => rw [hstaged]; exact Dev.stagedAs_slot_other tok b _ _ d hq
    case list => rw [hstaged]; exact if_congr Iff.rfl rfl rfl
    case intake => rw [hstaged]; rfl
    case rest => rw [hstaged]; rfl
    case denied => exact hgives _ _ (Dev.decideAppend_denied b o hheld hfull haction)
    case noRoom =>
      refine hgone .setFull ?_
      rw [KeyIndex.check_no_entry o hnone]
      exact .setFull hroom
    case newEntry =>
      have hcheck := KeyIndex.check_no_entry o hnone
      refine ⟨fun hf => hfree hf ?_, fun hw => hwaits hw ?_⟩
      · rw [hcheck]; exact KeyIndex.decide_new n b.bucket b.keyLen b.stamp hroom
      · rw [hcheck]; exact KeyIndex.countHeld_new n b.bucket b.keyLen hroom
    case otherEntry =>
      refine hgone .race ?_
      rw [KeyIndex.check_not_named hsome hget ho]
      exact .race
    case otherKey =>
      refine hgone .collision ?_
      rw [hnamed hsome hget ho]
      exact .collision w
    case unreadKey =>
      refine hgone .unreadable ?_
      rw [hnamed hsome hget ho]
      exact .unreadable w
    case matched =>
      have hcheck := hnamed hsome hget ho
      have hdecide := fun hold => KeyIndex.decide_not_stale n b.bucket (hash := b.keyHash) b.keyLen b.stamp hget hold
      have hcount := KeyIndex.countHeld_matched n b.bucket (hash := b.keyHash) b.keyLen hget
      rw [← hcheck] at hdecide hcount
      refine ⟨fun hf l x hlive hx => hfree hf ?_, fun hf hold h255 => hfree hf ?_, fun hf hold h255 => hfree hf ?_,
        fun hw hroom => hwaits hw ?_, fun hw hfull => hwaits hw ?_⟩
      · rw [hcheck]; exact KeyIndex.decide_stale n b.bucket b.keyLen b.stamp hget hlive hx
      · rw [hdecide hold, if_pos h255, hcounted]
      · rw [hdecide hold, if_neg h255]; rfl
      · rw [hcount, if_pos hroom]; rfl
      · rw [hcount, if_neg (by omega), hcounted]

end

section
/-!
SUPPORT and settlement of O17. Where a bucket matches an entry (R44, R45), which entry decides it, and the placement that names
the deciding entry.
-/

open Sys2Proof Sys2Proof.Machine

namespace Sys2Proof.Machine

/-- R44: two buckets differ in no bit outside the mask. -/
theorem xor_and_not_eq_zero_iff (a b m : Word32) :
    (a ^^^ b) &&& ~~~m = 0 ↔ ∀ i, i < 32 → m.getLsbD i = false → a.getLsbD i = b.getLsbD i := by
  have hbit : ∀ i, i < 32 →
      (((a ^^^ b) &&& ~~~m).getLsbD i = false ↔ (m.getLsbD i = false → a.getLsbD i = b.getLsbD i)) := by
    intro i hi
    simp only [BitVec.getLsbD_and, BitVec.getLsbD_xor, BitVec.getLsbD_not, hi, decide_true, Bool.true_and]
    cases m.getLsbD i <;> simp
  constructor
  · intro h i hi
    rw [← hbit i hi, h]
    exact BitVec.getLsbD_zero
  · intro h
    refine BitVec.eq_of_getLsbD_eq fun i hi => ?_
    rw [(hbit i hi).2 (h i hi)]
    exact BitVec.getLsbD_zero.symm

@[simp] theorem reservedBucket_iff (b : Word32) : reservedBucket b = true ↔ 0xFFFF0000#32 ≤ b := decide_eq_true_iff

/-- R44, R45: an entry accepts a bucket when it is enabled, the bits that the mask leaves agree, and STRICT does not keep a
reserved bucket from it. -/
theorem PlacementEntry.accepts_iff (strict : Bool) (bucket : Word32) (e : PlacementEntry) :
    e.accepts strict bucket = true ↔
      e.enabled = true ∧
        (∀ i, i < 32 → e.mask.getLsbD i = false → bucket.getLsbD i = e.bucket.getLsbD i) ∧
        (strict = true → 0xFFFF0000#32 ≤ bucket → e.mask = 0) := by
  rw [← xor_and_not_eq_zero_iff, ← reservedBucket_iff]
  unfold PlacementEntry.accepts
  cases strict <;> cases reservedBucket bucket <;> simp [and_assoc]

theorem PlacementEntry.accepts_of_mask_zero {e : PlacementEntry} (hon : e.enabled = true) (hmask : e.mask = 0) (strict : Bool)
    (bucket : Word32) : e.accepts strict bucket = true ↔ bucket = e.bucket := by
  rw [PlacementEntry.accepts_iff]
  constructor
  · rintro ⟨-, hbits, -⟩
    refine BitVec.eq_of_getLsbD_eq fun i hi => hbits i hi ?_
    rw [hmask]
    exact BitVec.getLsbD_zero
  · rintro rfl
    exact ⟨hon, fun _ _ _ => rfl, fun _ _ => hmask⟩

theorem PlacementEntry.accepts_of_mask_allOnes {e : PlacementEntry} (hon : e.enabled = true) (hmask : e.mask = 0xFFFFFFFF)
    (bucket : Word32) : e.accepts false bucket = true := by
  refine (PlacementEntry.accepts_iff false bucket e).2 ⟨hon, fun i hi hclear => ?_, nofun⟩
  have hset : e.mask.getLsbD i = true := by
    rw [hmask, show (0xFFFFFFFF : Word32) = BitVec.allOnes 32 from rfl, BitVec.getLsbD_allOnes]
    exact decide_eq_true hi
  exact absurd hclear (by simp [hset])

/-- R44: the entry that decides accepts the bucket, and no entry before it does. -/
theorem Settings.deciding_eq_some_iff (c : Settings) (bucket : Word32) (n : Fin 48) :
    c.deciding bucket = some n ↔
      c.placement[n].accepts c.mode.strict bucket = true ∧
        ∀ k, k < n → ¬ c.placement[k].accepts c.mode.strict bucket = true := by
  unfold Settings.deciding
  rw [← Fin.find?_eq_find?_finRange, Fin.find?_eq_some_iff]
  simp only [Bool.not_eq_true]

theorem Dev.placement_deciding_entry {d : Dev} {bucket : Word32} {n : Fin 48} (h : d.settings.deciding bucket = some n) :
    (d.placement bucket).deciding = some (some n.val) := by
  simp [Dev.placement, h, Dev.placed]

theorem Dev.placement_deciding_mirror {d : Dev} {bucket : Word32} (h : d.settings.deciding bucket = none)
    (hmirror : d.settings.mode.mirrorAll = true) : (d.placement bucket).deciding = some none := by
  simp [Dev.placement, h, hmirror, Dev.placed]

end Sys2Proof.Machine

/-- Settles O17: the first match by Settings.deciding_eq_some_iff, each match by PlacementEntry.accepts_iff. -/
theorem decidingEntryIsTheFirstMatch : Obligations.DecidingEntryIsTheFirstMatch := by
  unfold Obligations.DecidingEntryIsTheFirstMatch
  intro c bucket n hit
  have hhit : ∀ k, c.placement[k].accepts c.mode.strict bucket = true ↔ hit k := fun k =>
    PlacementEntry.accepts_iff c.mode.strict bucket c.placement[k]
  refine ⟨?firstMatch, fun e hon hmask strict => PlacementEntry.accepts_of_mask_zero hon hmask strict bucket,
    fun e hon hmask => PlacementEntry.accepts_of_mask_allOnes hon hmask bucket, fun d h => Dev.placement_deciding_entry h,
    fun d h hmirror => Dev.placement_deciding_mirror h hmirror⟩
  case firstMatch =>
    simp only [Settings.deciding_eq_some_iff, hhit]

end

section
/-!
SUPPORT and settlement of O32. What READ SITE (R88), READ INBOUND (R142) and READ SEGMENTS (R163) answer at once, and what their
reports hold.
-/

open Sys2Proof Sys2Proof.Machine

namespace Sys2Proof.Machine

/-! ## The site report (R88, R191) -/

theorem slotOf_val (j : SlotId) : slotOf j.val = some j := dif_pos j.isLt

theorem slotOf_of_gt {n : Nat} (h : 7 < n) : slotOf n = none := dif_neg (by omega)

theorem Dev.actReadSite_unset {d : Dev} (tok : Tok) (slot : Option Nat) (h : d.settings.localSite = none) :
    d.actReadSite tok slot = d.answer tok .wrongState 0 .none := if_pos (by rw [h]; rfl)

section LocalSiteSet
variable {d : Dev} (tok : Tok) (h : d.settings.localSite ≠ none)
include h

theorem Dev.actReadSite_set (slot : Option Nat) :
    d.actReadSite tok slot =
      match slot with
      | none => d.answer tok .done 0 d.sitesReport
      | some n =>
        match slotOf n with
        | none => d.refuse tok .badField
        | some j => d.answer tok .done 0 (.site (d.siteReport j)) :=
  (if_neg (by simpa using h) : _ = _).trans rfl

theorem Dev.actReadSite_outside {n : Nat} (hn : 7 < n) : d.actReadSite tok (some n) = d.answer tok .badField 0 .none := by
  rw [Dev.actReadSite_set tok h]
  simp only [slotOf_of_gt hn]
  rfl

theorem Dev.actReadSite_slot (j : SlotId) :
    d.actReadSite tok (some j.val) = d.answer tok .done 0 (.site (d.siteReport j)) := by
  rw [Dev.actReadSite_set tok h]
  simp only [slotOf_val]

theorem Dev.actReadSite_all : d.actReadSite tok none = d.answer tok .done 0 d.sitesReport :=
  Dev.actReadSite_set tok h none

end LocalSiteSet

/-- R88: the lines of the report on ALL slots. -/
def Dev.siteLines (d : Dev) : List SiteLine :=
  allSlots.map fun j =>
    ⟨(d.config j).site, d.sites[j].state, d.sites[j].frontier, d.sites[j].stall, d.sites[j].overrun, d.sites[j].digest,
      d.sites[j].protocol⟩

theorem Dev.sitesReport_eq (d : Dev) :
    d.sitesReport = .sites d.siteLines d.span[(0 : SpanId)].badFrames d.span[(1 : SpanId)].badFrames d.foreign := rfl

theorem allSlots_getElem? (j : SlotId) : allSlots[j.val]? = some j := by revert j; decide

theorem Dev.siteLines_getElem? (d : Dev) (j : SlotId) :
    d.siteLines[j.val]? =
      some ⟨d.settings.sites[j].site, d.sites[j].state, d.sites[j].frontier, d.sites[j].stall, d.sites[j].overrun,
        d.sites[j].digest, d.sites[j].protocol⟩ := by
  rw [Dev.siteLines, List.getElem?_map, allSlots_getElem?]
  rfl

/-! ## The inbound report (R142) -/

theorem Dev.actReadInbound_summary (d : Dev) (tok : Tok) :
    d.actReadInbound tok 0 = d.answer tok .done 0 (.inboundSummary d.inboundSummary) := if_pos rfl

theorem Dev.actReadInbound_absent {d : Dev} {id : Nat} (tok : Tok) (hid : id ≠ 0) (ha : d.inbound.arrival id = none) :
    d.actReadInbound tok id = d.answer tok .notFound 0 .none := by
  unfold Dev.actReadInbound
  rw [if_neg hid, ha]
  rfl

theorem Dev.actReadInbound_entry {d : Dev} {id : Nat} {a : Arrival} (tok : Tok) (hid : id ≠ 0)
    (ha : d.inbound.arrival id = some a) :
    d.actReadInbound tok id = d.answer tok .done 0 (.arrival (d.arrivalReport a)) := by
  unfold Dev.actReadInbound
  rw [if_neg hid, ha]

theorem Dev.take_landings (d : Dev) (p q : PortId) (r : CmdRec) (rest : List CmdRec) :
    (d.take p r rest).ports[q].landings = d.ports[q].landings := by
  by_cases h : q = p
  · rw [h, Dev.take_port_self]
  · rw [Dev.take_port_other d p q r rest h]

theorem Dev.take_inboundSummary (d : Dev) (p : PortId) (r : CmdRec) (rest : List CmdRec) :
    (d.take p r rest).inboundSummary = d.inboundSummary := by
  unfold Dev.inboundSummary
  simp only [Dev.take_landings]
  rfl

/-- The lowest missing chunk is the first that is not there. -/
theorem Arrival.missing_head? (a : Arrival) :
    a.missing.head? = (List.range ((a.desc.payloadLen + 8191) / 8192)).find? fun k => !a.chunks.any fun c => c.1 == k :=
  List.head?_filter

/-! ## The segment report (R151, R163) -/

theorem Dev.actReadSegments_outside {d : Dev} {n : Nat} (tok : Tok) (h : 2047 < n) :
    d.actReadSegments tok (some n) = d.answer tok .badField 0 .none :=
  if_pos (show segmentCount ≤ n from h)

theorem Dev.actReadSegments_segment {d : Dev} {n : Nat} (tok : Tok) (h : n ≤ 2047) :
    d.actReadSegments tok (some n) = d.answer tok .done 0 (.segment (d.segmentReport n)) :=
  if_neg (show ¬ segmentCount ≤ n by unfold segmentCount; omega)

/-- R145: a FULL segment is eligible when all its records are spent and its group is not guarded. -/
theorem Dev.eligible_full {d : Dev} {n : Nat} {s : Segment} (h : s.state = .full) :
    d.eligible n s = ((d.unspent s).isEmpty && !d.guarded n) := by
  unfold Dev.eligible
  rw [h]

theorem any_about_isSome (l : List Rec) : (l.any fun r => r.about.isSome) = true ↔ l.filterMap Rec.about ≠ [] := by
  rw [Ne, List.filterMap_eq_nil_iff, List.any_eq_true]
  simp only [Option.isSome_iff_ne_none, not_forall, exists_prop]

/-- R163: what holds a FULL segment back, in the order of its causes. -/
theorem Dev.heldBack_full {d : Dev} {n : Nat} {s : Segment} (h : s.state = .full) :
    d.heldBack n s =
      if d.guarded n = true then .guard
      else if d.unspent s = [] then .eligible
      else if ((d.unspent s).filterMap Rec.about).any d.isHeldIntent = true then .held
      else if (d.unspent s).filterMap Rec.about ≠ [] then .unresolved
      else .control := by
  unfold Dev.heldBack
  simp only [Dev.eligible_full h, any_about_isSome, Bool.and_eq_true, Bool.not_eq_true', List.isEmpty_iff]
  cases d.guarded n <;> simp

theorem Dev.segmentReport_heldBack (d : Dev) (n : Nat) :
    (d.segmentReport n).heldBack =
      if (d.seg n).state ≠ .full then none
      else if d.guarded n = true then some .guard
      else if d.unspent (d.seg n) = [] then some .eligible
      else if ((d.unspent (d.seg n)).filterMap Rec.about).any d.isHeldIntent = true then some .held
      else if (d.unspent (d.seg n)).filterMap Rec.about ≠ [] then some .unresolved
      else some .control := by
  show (if (d.seg n).state = .full then some (d.heldBack n (d.seg n)) else none) = _
  by_cases h : (d.seg n).state = .full
  · rw [if_pos h, if_neg (not_not_intro h), Dev.heldBack_full h]
    simp only [apply_ite some]
  · rw [if_neg h, if_pos h]

theorem Dev.segmentsReport_targetState (d : Dev) :
    d.segmentsReport.targetState =
      match d.reclaim.engine with
      | .idle => none
      | .waiting n | .erasing n => some (d.seg n).state := by
  show d.reclaim.engine.target.map (fun n => (d.seg n).state) = _
  cases d.reclaim.engine <;> rfl

end Sys2Proof.Machine

/-- Settles O32: each command is answered at once (posted_replies) with a report that the clock and the command's taking leave. -/
theorem siteInboundAndSegmentReports : Obligations.SiteInboundAndSegmentReports := by
  intro s t p cid hup hf
  refine ⟨fun slot hl => ?unset, fun n hl hn => ?outside, fun j hl => ⟨s.dev.siteReport j, ?slot, ?slotFields⟩,
    fun hl => ⟨s.dev.siteLines, ?all, rfl, s.dev.siteLines_getElem?⟩, ⟨s.dev.inboundSummary, ?summary, ?summaryFields⟩,
    fun id hid ha => ?absent, fun id a hid ha => ?entry, fun n hn => ?noSegment,
    fun n hn => ⟨s.dev.segmentReport n, ?segment, ?segmentFields⟩, ⟨s.dev.segmentsReport, ?segments, ?segmentsFields⟩⟩
  case unset => exact Dev.posted_replies hup hf rfl (Dev.actReadSite_unset _ slot hl)
  case outside =>
    refine Dev.posted_replies hup hf rfl (Dev.actReadSite_outside _ ?_ hn)
    exact hl
  case slot =>
    refine Dev.posted_replies hup hf rfl (Dev.actReadSite_slot _ ?_ j)
    exact hl
  case slotFields =>
    exact ⟨rfl, rfl, rfl, rfl, rfl, rfl, rfl, rfl, rfl, rfl, rfl, rfl, rfl, rfl, rfl, rfl, rfl, rfl, rfl, rfl, rfl, rfl, rfl⟩
  case all => exact Dev.posted_replies hup hf rfl (Dev.actReadSite_all _ hl)
  case summary =>
    refine Dev.posted_replies hup hf rfl ((Dev.actReadInbound_summary _ _).trans ?_)
    rw [Dev.take_inboundSummary]
    rfl
  case summaryFields => exact ⟨rfl, rfl, rfl, rfl, rfl, rfl, rfl, rfl, rfl, rfl⟩
  case absent => exact Dev.posted_replies hup hf rfl (Dev.actReadInbound_absent _ hid ha)
  case entry =>
    rw [← Arrival.missing_head?]
    exact Dev.posted_replies hup hf rfl (Dev.actReadInbound_entry _ hid ha)
  case noSegment => exact Dev.posted_replies hup hf rfl (Dev.actReadSegments_outside _ hn)
  case segment => exact Dev.posted_replies hup hf rfl (Dev.actReadSegments_segment _ hn)
  case segmentFields =>
    exact ⟨rfl, rfl, rfl, rfl, rfl, rfl, rfl, rfl, s.dev.segmentReport_heldBack n⟩
  case segments => exact Dev.posted_replies hup hf rfl rfl
  case segmentsFields =>
    exact ⟨rfl, rfl, rfl, rfl, rfl, rfl, rfl, rfl, rfl, rfl, rfl, rfl, rfl, rfl, rfl, rfl, rfl,
      s.dev.segmentsReport_targetState, rfl⟩

end

section
/-!
SUPPORT and settlement of O46. The checks of a frame that arrives (R64), one lemma a check, and the comparison of its start count
(R65).
-/

open Sys2Proof Sys2Proof.Machine

namespace Sys2Proof.Machine

/-! ## Frames as events -/

/-- R64: a row that brings a frame hands it to the reception. -/
theorem exec_arrives {c : Instr} {t : Time} {sp : SpanId} {h : FrameHdr} {b : InBody} (hc : arrives c = some (t, sp, h, b))
    (s : State) : exec c s = s.goOn (Dev.event t (Dev.receive sp h b)) := by
  cases c with
  | helloReceived | helloAckReceived | openReceived | carryReceived | receiptReceived | gapReceived | busyReceived =>
    cases hc
    rfl
  | _ => cases hc

/-- Check 5 of R64 knows a frame that is malformed as bytes alone; a row brings none. -/
theorem arrives_ne_malformed {c : Instr} {t : Time} {sp : SpanId} {h : FrameHdr} {b : InBody}
    (hc : arrives c = some (t, sp, h, b)) (code : Nat) : b ≠ .malformed code := by
  rintro rfl
  cases c <;> cases hc

theorem exec_arrives_next {c : Instr} {t : Time} {sp : SpanId} {h : FrameHdr} {b : InBody} {s : State} {u : Dev}
    (hpow : s.dev.power.powered = true) (hc : arrives c = some (t, sp, h, b)) (hu : (s.dev.tick t).receive sp h b = u) :
    exec c s = .next { s with dev := u.settle } := by
  rw [exec_arrives hc, State.goOn_next, Dev.event_powered _ _ _ hpow, hu]

theorem badFrame_next {s : State} {t : Time} {sp : SpanId} {l : List Byte} {u : Dev} (hpow : s.dev.power.powered = true)
    (hu : (s.dev.tick t).receiveBytes sp l = u) : exec (.badFrame t sp l) s = .next { s with dev := u.settle } := by
  show s.goOn (Dev.event t (Dev.receiveBytes sp l)) = _
  rw [State.goOn_next, Dev.event_powered _ _ _ hpow, hu]

/-! ## Check 1: the bytes (R61, R64, R198) -/

theorem parseFrame_eq_none_iff (l : List Byte) :
    parseFrame l = none ↔
      l.length < 64 ∨ fieldAt 0 4 l ≠ 0x5A3C9E17 ∨ fieldAt 4 1 l ≠ 1 ∨ fieldAt 16 4 l ≠ l.length ∨
        fieldAt 20 4 l ≠ (crc32 (l.take 20 ++ zeros 4 ++ l.drop 24)).toNat := by
  unfold parseFrame frameMagic
  dsimp only
  rw [ite_eq_right_iff]
  simp only [reduceCtorEq, imp_false, not_and_or, not_le, ne_eq]

theorem Dev.receiveBytes_wrong {l : List Byte} (sp : SpanId) (d : Dev) (h : parseFrame l = none) :
    d.receiveBytes sp l = d.badFrame sp := by
  unfold Dev.receiveBytes
  rw [h]

theorem Dev.receiveBytes_parsed {l : List Byte} {h : FrameHdr} {b : InBody} (sp : SpanId) (d : Dev)
    (hl : parseFrame l = some (h, b)) : d.receiveBytes sp l = d.receive sp h b := by
  unfold Dev.receiveBytes
  rw [hl]

/-! ## Check 3: the slot that hears the sender -/

theorem mem_allSlots (j : SlotId) : j ∈ allSlots := by revert j; decide

theorem Dev.senderSlot_eq_none_iff (d : Dev) (site : Nat) :
    d.senderSlot site = none ↔ ∀ j : SlotId, (d.siteState j).hears = true → (d.config j).site ≠ some site := by
  simp [Dev.senderSlot, List.find?_eq_none, mem_allSlots]

/-- The one slot that hears a site is the slot found. -/
theorem Dev.senderSlot_of_hearsAt {d : Dev} {j : SlotId} {site : Nat} (h : d.hearsAt j site) : d.senderSlot site = some j := by
  obtain ⟨hstate, hsite, hunique⟩ := h
  cases hfound : d.senderSlot site with
  | none => exact absurd hsite ((d.senderSlot_eq_none_iff site).1 hfound j hstate)
  | some k =>
    have hk := List.find?_some hfound
    rw [Bool.and_eq_true, beq_iff_eq] at hk
    by_cases hkj : k = j
    · rw [hkj]
    · exact absurd hk (hunique k hkj)

/-! ## The checks in their order (R64, R65) -/

theorem Dev.receive_otherReceiver {d : Dev} {h : FrameHdr} (sp : SpanId) (b : InBody)
    (hl : d.settings.localSite ≠ some h.receiver) : d.receive sp h b = d.badFrame sp := if_pos hl

theorem Dev.receive_foreign {d : Dev} {h : FrameHdr} (sp : SpanId) (b : InBody) (hl : d.settings.localSite = some h.receiver)
    (hs : d.senderSlot h.sender = none) : d.receive sp h b = d.foreignFrame := by
  unfold Dev.receive
  rw [if_neg (not_not_intro hl), hs]

section Heard
variable {d : Dev} {h : FrameHdr} {j : SlotId} (sp : SpanId) {b : InBody} (hl : d.settings.localSite = some h.receiver)
  (hj : d.hearsAt j h.sender)
include hl hj

/-- A frame from a site that a slot hears goes to checks 4 and 5 and to R65. -/
theorem Dev.receive_heard :
    d.receive sp h b =
      if !(d.siteState j).admits b then d.staleFrame j
      else if b.badContents h.receiver then d.latchSlot .protocol j
      else if d.part ≠ .ready then d.frameNotReady j b
      else if d.startKnown j h b then d.handFrame j h b
      else d.staleFrame j := by
  unfold Dev.receive
  rw [if_neg (not_not_intro hl), Dev.senderSlot_of_hearsAt hj]

/-- Check 4: a frame that the state of the slot does not take is stale. -/
theorem Dev.receive_notAdmitted (ha : (d.siteState j).admits b = false) : d.receive sp h b = d.staleFrame j := by
  rw [Dev.receive_heard sp hl hj, if_pos (by rw [ha]; rfl)]

/-- Check 5: a frame with bad contents latches PROTOCOL. -/
theorem Dev.receive_badContents (ha : (d.siteState j).admits b = true) (hb : b.badContents h.receiver = true) :
    d.receive sp h b = d.latchSlot .protocol j := by
  rw [Dev.receive_heard sp hl hj, if_neg (by rw [ha]; exact Bool.false_ne_true), if_pos hb]

/-- R65: in READY, a frame whose start count is not the slot's is stale. -/
theorem Dev.receive_startUnknown (ha : (d.siteState j).admits b = true) (hb : b.badContents h.receiver = false)
    (hr : d.part = .ready) (hk : d.startKnown j h b = false) : d.receive sp h b = d.staleFrame j := by
  rw [Dev.receive_heard sp hl hj, if_neg (by rw [ha]; exact Bool.false_ne_true), if_neg (by rw [hb]; exact Bool.false_ne_true),
    if_neg (not_not_intro hr), if_neg (by rw [hk]; exact Bool.false_ne_true)]

end Heard

/-! ## What checks 4 and 5 look at -/

theorem SiteState.admits_of_ne_probing {x : SiteState} (b : InBody) (h : x ≠ .probing) : x.admits b = true := by
  simp [SiteState.admits, h]

theorem SiteState.admits_of_isHello (x : SiteState) {b : InBody} (h : b.isHello = true) : x.admits b = true := by
  simp [SiteState.admits, h]

/-- R61: a PROBING slot admits HELLO and HELLO-ACK alone. -/
theorem SiteState.probing_admits {b : InBody} (hm : ∀ code, b ≠ .malformed code) (hh : ∀ n, b ≠ .hello n)
    (ha : ∀ n, b ≠ .helloAck n) : SiteState.probing.admits b = false := by
  cases b with
  | hello n => exact absurd rfl (hh n)
  | helloAck n => exact absurd rfl (ha n)
  | malformed code => exact absurd rfl (hm code)
  | _ => rfl

theorem malformed_isHello {code : Nat} (h : code = 1 ∨ code = 2) : (InBody.malformed code).isHello = true := by
  rcases h with rfl | rfl <;> rfl

/-- R199: a kind code outside the table of kinds. -/
theorem intentKindOf_eq_none {k : Nat} (h : k = 0 ∨ 3 < k) : intentKindOf k = none := by
  unfold intentKindOf
  split
  iterate 3 omega
  rfl

theorem InBody.badContents_hello {n receiver : Nat} (h : n ≠ receiver) : (InBody.hello n).badContents receiver = true := by
  simp [InBody.badContents, h]

theorem InBody.badContents_receipt {l : List (Nat × Nat)} (receiver : Nat) (h : l = [] ∨ 64 < l.length) :
    (InBody.receipt l).badContents receiver = true := by
  simpa [InBody.badContents] using h

theorem InBody.badContents_gap {q : Nat} {l : List (Nat × Nat)} (receiver : Nat)
    (h : l = [] ∨ 32 < l.length ∨ ∃ r ∈ l, r.2 < r.1) : (InBody.gap q l).badContents receiver = true := by
  simpa [InBody.badContents, or_assoc] using h

theorem InBody.badContents_opening {n : Nat} {o : OpenDesc} (receiver : Nat)
    (h : n < 192 ∨ 416 < n ∨ n % 16 ≠ 0 ∨ o.kind = 0 ∨ 3 < o.kind) : (InBody.opening n o).badContents receiver = true := by
  have hkind : n < 192 ∨ 416 < n ∨ n % 16 ≠ 0 ∨ intentKindOf o.kind = none :=
    h.imp_right (.imp_right (.imp_right intentKindOf_eq_none))
  simpa [InBody.badContents, or_assoc] using hkind

theorem InBody.badContents_carry {q k : Nat} {data : List Byte} (receiver : Nat) (h : data = [] ∨ 8192 < data.length) :
    (InBody.carry q k data).badContents receiver = true := by
  simpa [InBody.badContents] using h

theorem Dev.startKnown_eq_false {d : Dev} {j : SlotId} {h : FrameHdr} {b : InBody} (hh : ∀ n, b ≠ .hello n)
    (ha : ∀ n, b ≠ .helloAck n)
    (hs : d.sites[j].peerStart = none ∨ ∃ n, d.sites[j].peerStart = some n ∧ n ≠ h.start) : d.startKnown j h b = false := by
  have hcount : (d.sites[j].peerStart == some h.start) = false := by
    rcases hs with hs | ⟨n, hs, hn⟩
    · rw [hs]; rfl
    · rw [hs]; simpa using hn
  unfold Dev.startKnown
  rw [hcount, Bool.or_false]
  cases b with
  | hello n => exact absurd rfl (hh n)
  | helloAck n => exact absurd rfl (ha n)
  | _ => rfl

/-! ## PROTOCOL (R78, R176) -/

theorem Dev.latchProtocol_eq (d : Dev) (j : SlotId) :
    d.latchSlot .protocol j =
      if d.sites[j].protocol = true then d
      else (d.modSite j fun x => { x with protocol := true }).faultNotice .protocol (.slot j (d.config j).site) := rfl

theorem Dev.latchProtocol_sites (d : Dev) (j : SlotId) :
    (d.latchSlot .protocol j).sites = d.sites.set j { d.sites[j] with protocol := true } := by
  rw [Dev.latchProtocol_eq]
  split
  · rename_i hset
    rw [← hset]
    exact (Vector.set_getElem_self j.isLt).symm
  · exact (congrArg Dev.sites (Dev.faultNotice_rest (d.modSite j fun x => { x with protocol := true }) _ _) :)

theorem Dev.latchProtocol_port (d : Dev) (j : SlotId) (q : PortId) :
    (d.latchSlot .protocol j).ports[q] =
      if d.sites[j].protocol = false ∧ d.ports[q].state = .online ∧ d.settings.masks[q].getLsbD 6 = true then
        d.ports[q].addNotice false (.fault .protocol (.slot j (d.config j).site))
      else d.ports[q] := by
  rw [Dev.latchProtocol_eq]
  split
  · rename_i hset
    exact (if_neg fun h => Bool.false_ne_true (h.1.symm.trans hset)).symm
  · rename_i hset
    rw [Dev.faultNotice_port]
    exact if_congr ⟨fun h => ⟨Bool.eq_false_of_not_eq_true hset, h⟩, And.right⟩ rfl rfl

theorem Dev.latchProtocol_rest (d : Dev) (j : SlotId) :
    { d.latchSlot .protocol j with sites := d.sites, ports := d.ports } = d := by
  rw [Dev.latchProtocol_eq]
  split
  · rfl
  · exact congrArg (fun e : Dev => { e with sites := d.sites })
      (Dev.faultNotice_rest (d.modSite j fun x => { x with protocol := true }) _ _)

/-- R64, R78: an event that drops a malformed frame: PROTOCOL is latched at the slot, and nothing else happens but its notice. -/
def DropsMalformed (c : Instr) (s : State) (t : Time) (j : SlotId) (site : Nat) : Prop :=
  ∃ u : Dev, exec c s = .next { s with dev := u.settle } ∧
    u.sites = s.dev.sites.set j { s.dev.sites[j] with protocol := true } ∧
    (∀ q : PortId, u.ports[q] =
      if s.dev.sites[j].protocol = false ∧ s.dev.ports[q].state = .online ∧ s.dev.settings.masks[q].getLsbD 6 = true then
        s.dev.ports[q].addNotice false (.fault .protocol (.slot j (some site)))
      else s.dev.ports[q]) ∧
    { u with sites := s.dev.sites, ports := s.dev.ports } = s.dev.tick t

theorem dropsMalformed_of_latched {c : Instr} {s : State} {t : Time} {j : SlotId} {site : Nat}
    (hc : exec c s = .next { s with dev := ((s.dev.tick t).latchSlot .protocol j).settle })
    (hsite : (s.dev.config j).site = some site) : DropsMalformed c s t j site := by
  refine ⟨_, hc, Dev.latchProtocol_sites _ j, fun q => ?_, Dev.latchProtocol_rest _ j⟩
  rw [← hsite]
  exact Dev.latchProtocol_port (s.dev.tick t) j q

end Sys2Proof.Machine

/-- Settles O46: the frames as bytes by parseFrame_eq_none_iff, each check of a frame by its lemma on Dev.receive. -/
theorem framesAreChecked : Obligations.FramesAreChecked := by
  refine ⟨fun s t sp hpow => ⟨fun l hwrong => ?wrong, fun l h b c hright hparse hc => ?spelled,
    fun l h code j hparse hl hj hstate => ?malformed, fun c h b hc => ⟨fun hl => ?otherReceiver, fun hl hnone => ?foreign,
      fun j hl hj => ⟨fun hprobing hh ha => ?probing, fun hhello => ?hello, fun hstate hbad => ?contents⟩⟩⟩,
    fun s c t sp h b j hup hc hh ha hl hj hstate hgood hstart => ?startCount⟩
  case wrong => exact badFrame_next hpow (Dev.receiveBytes_wrong sp _ ((parseFrame_eq_none_iff l).2 hwrong))
  case spelled => rw [badFrame_next hpow (Dev.receiveBytes_parsed sp _ hparse), exec_arrives_next hpow hc rfl]
  case malformed =>
    have hadmits : (s.dev.siteState j).admits (.malformed code) = true :=
      hstate.elim (SiteState.admits_of_ne_probing _) fun hcode => SiteState.admits_of_isHello _ (malformed_isHello hcode)
    exact dropsMalformed_of_latched (badFrame_next hpow ((Dev.receiveBytes_parsed sp _ hparse).trans
      (Dev.receive_badContents (d := s.dev.tick t) sp hl hj hadmits rfl))) hj.2.1
  case otherReceiver => exact exec_arrives_next hpow hc (Dev.receive_otherReceiver sp b hl)
  case foreign =>
    exact exec_arrives_next hpow hc
      (Dev.receive_foreign (d := s.dev.tick t) sp b hl ((Dev.senderSlot_eq_none_iff _ _).2 hnone))
  case probing =>
    have hnot : (s.dev.siteState j).admits b = false := by
      rw [show s.dev.siteState j = .probing from hprobing]
      exact SiteState.probing_admits (arrives_ne_malformed hc) hh ha
    exact exec_arrives_next hpow hc (Dev.receive_notAdmitted (d := s.dev.tick t) sp hl hj hnot)
  case hello =>
    obtain ⟨n, rfl, hn⟩ := hhello
    exact dropsMalformed_of_latched (exec_arrives_next hpow hc (Dev.receive_badContents (d := s.dev.tick t) sp hl hj
      (SiteState.admits_of_isHello _ rfl) (InBody.badContents_hello hn))) hj.2.1
  case contents =>
    have hcontents : b.badContents h.receiver = true := by
      rcases hbad with ⟨l, rfl, hbad⟩ | ⟨q, l, rfl, hbad⟩ | ⟨n, o, rfl, hbad⟩ | ⟨q, k, data, rfl, hbad⟩
      · exact InBody.badContents_receipt _ hbad
      · exact InBody.badContents_gap _ hbad
      · exact InBody.badContents_opening _ hbad
      · exact InBody.badContents_carry _ hbad
    exact dropsMalformed_of_latched (exec_arrives_next hpow hc (Dev.receive_badContents (d := s.dev.tick t) sp hl hj
      (SiteState.admits_of_ne_probing b hstate) hcontents)) hj.2.1
  case startCount =>
    exact exec_arrives_next hup.1 hc (Dev.receive_startUnknown (d := s.dev.tick t) sp hl hj
      (SiteState.admits_of_ne_probing b hstate) hgood hup.2 (Dev.startKnown_eq_false hh ha hstart))

end

section
/-!
SUPPORT and settlement of O42. The eviction of a slot (R81), step by step: the state, the credits of the members, the marks and
their evaluations, the frontier, the record.
-/

open Sys2Proof Sys2Proof.Machine

namespace Sys2Proof.Machine

/-! ## Notices only join a queue (R169) -/

/-- The notice queue of every port of the second part begins with the queue of the first. -/
def Dev.NoticesGrow (d e : Dev) : Prop := ∀ q : PortId, d.ports[q].noticeQ <+: e.ports[q].noticeQ

theorem Dev.NoticesGrow.of_ports {d e : Dev} (h : e.ports = d.ports) : d.NoticesGrow e := fun q => by rw [h]

theorem Dev.NoticesGrow.trans {d e f : Dev} (h : d.NoticesGrow e) (k : e.NoticesGrow f) : d.NoticesGrow f :=
  fun q => (h q).trans (k q)

theorem Port.noticeQ_prefix_addNotice (q : Port) (r : Bool) (b : NoticeBody) : q.noticeQ <+: (q.addNotice r b).noticeQ := by
  unfold Port.addNotice
  split
  · exact List.prefix_append _ _
  · exact List.prefix_rfl

theorem Dev.noticesGrow_route (d : Dev) (p : PortId) (b : NoticeBody) : d.NoticesGrow (d.route p b) := by
  unfold Dev.route
  split
  · intro q
    unfold Dev.notify
    rw [Dev.modPort_port]
    split
    · exact Port.noticeQ_prefix_addNotice _ _ _
    · exact List.prefix_rfl
  · exact .of_ports rfl

theorem Dev.noticesGrow_testVerdict (s : Seq) (d : Dev) : d.NoticesGrow (d.testVerdict s) := by
  have hverdict : ∀ (x : Slot) (v : Verdict) (b : NoticeBody), d.NoticesGrow ((d.setVerdict s x v).route x.origin b) :=
    fun x v b => (Dev.NoticesGrow.of_ports (e := d.setVerdict s x v) rfl).trans (Dev.noticesGrow_route _ _ _)
  unfold Dev.testVerdict
  split
  · exact .of_ports rfl
  · split
    · exact .of_ports rfl
    · split
      · exact hverdict _ _ _
      · split
        · exact hverdict _ _ _
        · exact .of_ports rfl

theorem Dev.resolve_ports (s : Seq) (x : Slot) (d : Dev) : (d.resolve s x).ports = d.ports := by
  unfold Dev.resolve
  cases x.link <;> rfl

theorem Dev.noticesGrow_evaluate (s : Seq) (was : Bool) (d : Dev) : d.NoticesGrow (d.evaluate s was) := by
  unfold Dev.evaluate
  split
  · exact .of_ports rfl
  · split
    · exact .of_ports rfl
    · split
      · exact (Dev.NoticesGrow.of_ports (Dev.resolve_ports _ _ _)).trans (Dev.noticesGrow_testVerdict _ _)
      · exact Dev.noticesGrow_testVerdict _ _

theorem Dev.noticesGrow_updateSlot (s : Seq) (f : Slot → Slot) (d : Dev) : d.NoticesGrow (d.updateSlot s f) := by
  unfold Dev.updateSlot
  split
  · exact .of_ports rfl
  · exact (Dev.NoticesGrow.of_ports (e := d.putSlot s _) rfl).trans (Dev.noticesGrow_evaluate _ _ _)

theorem Dev.noticesGrow_updateSlots (f : Slot → Slot) (l : List Seq) (d : Dev) :
    d.NoticesGrow (l.foldl (fun d s => d.updateSlot s f) d) := by
  induction l generalizing d with
  | nil => exact .of_ports rfl
  | cons s t ih => exact (Dev.noticesGrow_updateSlot s f d).trans (ih _)

/-! ## The slot that an evaluation leaves (R113 to R116) -/

/-- R114 to R116: the verdict after the verdict tests. -/
def Slot.testedVerdict (x : Slot) : Option Verdict :=
  if x.held || x.verdict.isSome then x.verdict
  else if x.quorum ≤ x.acked then some .durable
  else if x.acked + x.openMarks < x.quorum then some .shortfall
  else x.verdict

/-- R113: the slot after its evaluation; `was` says that it was resolved before. -/
def Slot.evaluated (was : Bool) (x : Slot) : Slot :=
  if x.written then { x with link := if x.resolved && !was then none else x.link, verdict := x.testedVerdict } else x

theorem Dev.testVerdict_slot {s : Seq} {d : Dev} {x : Slot} (hx : d.slot? s = some x) :
    (d.testVerdict s).slot? s = some { x with verdict := x.testedVerdict } := by
  have hverdict : ∀ (v : Verdict) (b : NoticeBody),
      ((d.setVerdict s x v).route x.origin b).slot? s = some { x with verdict := some v } := fun v b => by
    rw [Dev.route_slot, Dev.setVerdict_slot, if_pos rfl]
  unfold Dev.testVerdict Slot.testedVerdict
  simp only [hx]
  split
  · exact hx
  · split
    · exact hverdict _ _
    · split
      · exact hverdict _ _
      · exact hx

theorem Dev.resolve_slot (s : Seq) (x : Slot) (d : Dev) : (d.resolve s x).slot? s = some { x with link := none } := by
  unfold Dev.resolve
  cases x.link <;> exact Dev.putSlot_slot_self s _ _

theorem Dev.evaluate_slot {s : Seq} (was : Bool) {d : Dev} {x : Slot} (hx : d.slot? s = some x) :
    (d.evaluate s was).slot? s = some (x.evaluated was) := by
  unfold Dev.evaluate Slot.evaluated
  simp only [hx]
  by_cases hw : x.written = true
  · rw [if_neg (by rw [hw]; exact Bool.false_ne_true), if_pos hw]
    by_cases hr : (x.resolved && !was) = true
    · simp only [if_pos hr]
      exact Dev.testVerdict_slot (Dev.resolve_slot s x d)
    · simp only [if_neg hr]
      exact Dev.testVerdict_slot hx
  · rw [if_pos (by rw [Bool.eq_false_of_not_eq_true hw]; rfl), if_neg hw]
    exact hx

/-- A slot changes and is evaluated. -/
theorem Dev.updateSlot_slot (s : Seq) (f : Slot → Slot) (d : Dev) (q : Seq) :
    (d.updateSlot s f).slot? q = if q = s then (d.slot? q).map fun x => (f x).evaluated x.resolved else d.slot? q := by
  by_cases hq : q = s
  · rw [if_pos hq, hq]
    unfold Dev.updateSlot
    cases hx : d.slot? s with
    | none => exact hx
    | some x => exact Dev.evaluate_slot _ (Dev.putSlot_slot_self s _ d)
  · rw [if_neg hq]
    exact (Dev.updateSlot_kept s f d).2.2.1 q hq

/-- Each slot of a list changes once and is evaluated. -/
theorem Dev.updateSlots_slot (f : Slot → Slot) {l : List Seq} (hl : l.Nodup) (d : Dev) (q : Seq) :
    (l.foldl (fun d s => d.updateSlot s f) d).slot? q =
      if q ∈ l then (d.slot? q).map fun x => (f x).evaluated x.resolved else d.slot? q := by
  induction l generalizing d with
  | nil => rfl
  | cons s t ih =>
    rw [List.nodup_cons] at hl
    rw [List.foldl_cons, ih hl.2, Dev.updateSlot_slot]
    by_cases hq : q = s
    · subst hq
      rw [if_neg hl.1, if_pos rfl, if_pos List.mem_cons_self]
    · simp [hq]

/-! ## The slots with an open mark -/

theorem Tbl.keys_nodup {α : Type} {l : List (Nat × α)} (h : Tbl.ascending l = true) : (l.map (·.1)).Nodup := by
  induction l with
  | nil => exact List.nodup_nil
  | cons e t ih =>
    obtain ⟨k, v⟩ := e
    obtain ⟨hlow, ht⟩ := (Tbl.ascending_cons k v t).1 h
    rw [List.map_cons, List.nodup_cons]
    refine ⟨fun hk => ?_, ih ht⟩
    obtain ⟨e, he, hek⟩ := List.mem_map.1 hk
    exact absurd hek (hlow e he).ne'

theorem Dev.marked_eq (d : Dev) (j : SlotId) (test : Mark → Bool) :
    d.marked j test = (d.status.slots.filter fun e => ((e.2.mark j).map test).getD false).map (·.1) := by
  rw [← List.filterMap_eq_filter, List.map_filterMap]
  refine List.filterMap_congr fun e _ => ?_
  cases hp : ((e.2.mark j).map test).getD false <;> simp [Option.guard, hp]

section Marked
variable {d : Dev} (h : Tbl.ascending d.status.slots = true) (j : SlotId) (test : Mark → Bool)
include h

theorem Dev.marked_nodup : (d.marked j test).Nodup := by
  rw [Dev.marked_eq]
  exact Tbl.keys_nodup (Tbl.ascending_filter _ _ h)

theorem Dev.mem_marked (q : Seq) :
    q ∈ d.marked j test ↔ ∃ x, d.slot? q = some x ∧ ((x.mark j).map test).getD false = true := by
  rw [Dev.marked_eq, List.mem_map]
  constructor
  · rintro ⟨e, he, rfl⟩
    obtain ⟨hmem, htest⟩ := List.mem_filter.1 he
    exact ⟨e.2, Tbl.get_of_mem h hmem, htest⟩
  · rintro ⟨x, hx, htest⟩
    exact ⟨(q, x), List.mem_filter.2 ⟨Tbl.get_mem hx, htest⟩, rfl⟩

/-- R81: every slot with an open mark for j changes and is evaluated; no other slot changes. -/
theorem Dev.skipMarks_slot (r : SkipReason) (q : Seq) :
    (d.skipMarks j r).slot? q =
      (d.slot? q).map fun y =>
        if ((y.mark j).map Mark.isOpen).getD false = true then (y.move j Mark.isOpen (.skipped r)).evaluated y.resolved
        else y := by
  have hslot := Dev.updateSlots_slot (fun y => y.move j Mark.isOpen (.skipped r)) (Dev.marked_nodup h j Mark.isOpen) d q
  refine hslot.trans ?_
  cases hy : d.slot? q with
  | none => simp
  | some y =>
    simp only [Dev.mem_marked h, hy, Option.some.injEq, exists_eq_left', Option.map_some]
    split <;> rfl

end Marked

theorem Dev.skipMarks_kept (d : Dev) (j : SlotId) (r : SkipReason) :
    d.EvalKept (d.skipMarks j r) ∧ d.PortsKept (d.skipMarks j r) ∧ d.NoticesGrow (d.skipMarks j r) := by
  obtain ⟨heval, hports, -⟩ := Dev.foldl_moveMark j Mark.isOpen (.skipped r) rfl (d.marked j Mark.isOpen) d
  exact ⟨heval, hports, Dev.noticesGrow_updateSlots _ _ d⟩

/-! ## An open mark that an eviction closes (R111, R113) -/

theorem Mark.isOpen_iff (m : Mark) : m.isOpen = true ↔ m = .pending ∨ m = .inFlight := by cases m <;> simp [Mark.isOpen]

theorem Slot.hasOpen_iff (y : Slot) (j : SlotId) :
    ((y.mark j).map Mark.isOpen).getD false = true ↔ y.mark j = some .pending ∨ y.mark j = some .inFlight := by
  cases y.mark j <;> simp [Mark.isOpen_iff]

theorem Slot.acked_eq (x : Slot) : x.acked = (x.marks.filter fun m => m.2 = .acked).length := rfl

theorem Slot.openMarks_eq (x : Slot) : x.openMarks = (x.marks.filter fun m => m.2 = .pending ∨ m.2 = .inFlight).length := by
  unfold Slot.openMarks
  congr 1
  refine List.filter_congr fun m _ => ?_
  rw [Bool.eq_iff_iff, Mark.isOpen_iff, decide_eq_true_iff]

theorem Slot.resolved_iff (x : Slot) : x.resolved = true ↔ x.written = true ∧ x.openMarks = 0 ∧ x.held = false := by
  simp [Slot.resolved, Slot.openMarks, List.filter_eq_nil_iff, and_assoc]

theorem Slot.openMarks_ne_zero {y : Slot} {j : SlotId} (h : y.mark j = some .pending ∨ y.mark j = some .inFlight) :
    y.openMarks ≠ 0 := by
  obtain ⟨m, hm, hopen⟩ : ∃ m, y.mark j = some m ∧ m.isOpen = true :=
    h.elim (fun h => ⟨_, h, rfl⟩) fun h => ⟨_, h, rfl⟩
  obtain ⟨e, he, rfl⟩ := Option.map_eq_some_iff.1 hm
  exact List.length_eq_zero_iff.not.2 (List.ne_nil_of_mem (List.mem_filter.2 ⟨List.mem_of_find?_eq_some he, hopen⟩))

/-- R113: a slot with an open mark is not resolved. -/
theorem Slot.resolved_of_open {y : Slot} {j : SlotId} (h : y.mark j = some .pending ∨ y.mark j = some .inFlight) :
    y.resolved = false :=
  Bool.eq_false_of_not_eq_true fun hr => Slot.openMarks_ne_zero h ((Slot.resolved_iff y).1 hr).2.1

theorem Slot.evaluated_staged {x : Slot} (was : Bool) (h : x.written = false) : x.evaluated was = x :=
  if_neg (by rw [h]; exact Bool.false_ne_true)

/-- R113 to R116: the evaluation of a WRITTEN slot that was not resolved. -/
theorem Slot.evaluated_written {x : Slot} (h : x.written = true) :
    x.evaluated false =
      { x with
        link := if x.held = false ∧ x.openMarks = 0 then none else x.link
        verdict :=
          if x.held = true ∨ x.verdict ≠ none then x.verdict
          else if x.quorum ≤ x.acked then some .durable
          else if x.acked + x.openMarks < x.quorum then some .shortfall else none } := by
  have hresolved : (x.resolved && !false) = true ↔ x.held = false ∧ x.openMarks = 0 := by
    simp [Slot.resolved_iff, h, and_comm]
  have hverdict : x.testedVerdict =
      if x.held = true ∨ x.verdict ≠ none then x.verdict
      else if x.quorum ≤ x.acked then some .durable
      else if x.acked + x.openMarks < x.quorum then some .shortfall else none := by
    unfold Slot.testedVerdict
    cases x.verdict <;> simp
  unfold Slot.evaluated
  rw [if_pos h, hverdict, if_congr hresolved rfl rfl]

/-- R111: the marks after every open mark of the slot is skipped. -/
theorem Slot.move_open (y : Slot) (j : SlotId) (r : SkipReason) :
    y.move j Mark.isOpen (.skipped r) =
      { y with
        marks := y.marks.map fun m => if m.1 = j ∧ (m.2 = .pending ∨ m.2 = .inFlight) then (j, .skipped r) else m } := by
  unfold Slot.move
  congr 1
  refine List.map_congr_left fun m _ => if_congr ?_ rfl rfl
  rw [Bool.and_eq_true, beq_iff_eq, Mark.isOpen_iff]

/-! ## The members' credits (R92, R93, R97) -/

theorem Dev.isMember_congr {d e : Dev} (hs : e.settings = d.settings) (hst : ∀ k, e.siteState k = d.siteState k) (g : GenId)
    (k : SlotId) : e.isMember g k = d.isMember g k := by
  simp only [Dev.isMember, Dev.config, hs, hst]

theorem Dev.cap_congr {d e : Dev} (hs : e.settings = d.settings) (hst : ∀ k, e.siteState k = d.siteState k) (k : SlotId) :
    e.cap k = d.cap k := by
  have hm : ∀ g, e.members g = d.members g := fun g => List.filter_congr fun k _ => Dev.isMember_congr hs hst g k
  simp only [Dev.cap, Dev.add, Dev.divisor, Dev.shareSum, Dev.config, hm, hs]

theorem Dev.mem_members (d : Dev) (g : GenId) (k : SlotId) : k ∈ d.members g ↔ d.isMember g k = true := by
  simp [Dev.members, mem_allSlots]

theorem Dev.members_nodup (d : Dev) (g : GenId) : (d.members g).Nodup :=
  List.Nodup.filter _ (show allSlots.Nodup by decide)

theorem Dev.clampCredit_state (d : Dev) (j k : SlotId) (n : Int) :
    (d.modSite j fun x => { x with credit := min x.credit n }).siteState k = d.siteState k := by
  unfold Dev.siteState
  rw [Dev.modSite_site]
  split <;> rfl

/-- R97: the credit of each slot of a list is limited to its cap, which the other credits do not change. -/
theorem Dev.clampCredits_site {l : List SlotId} (hl : l.Nodup) (d : Dev) (k : SlotId) :
    (l.foldl (fun d j => d.modSite j fun x => { x with credit := min x.credit (d.cap j) }) d).sites[k] =
      if k ∈ l then { d.sites[k] with credit := min d.sites[k].credit (d.cap k) } else d.sites[k] := by
  induction l generalizing d with
  | nil => rfl
  | cons j t ih =>
    rw [List.nodup_cons] at hl
    have hcap := Dev.cap_congr (d := d) (e := d.modSite j fun x => { x with credit := min x.credit (d.cap j) }) rfl
      (fun k => Dev.clampCredit_state d j k _) k
    rw [List.foldl_cons, ih hl.2, hcap, Dev.modSite_site]
    by_cases hk : k = j
    · subst hk
      simp [hl.1]
    · simp [hk]

theorem Dev.clampMembers_site (d : Dev) (g : GenId) (k : SlotId) :
    (d.clampMembers g).sites[k] =
      if d.isMember g k = true then { d.sites[k] with credit := min d.sites[k].credit (d.cap k) } else d.sites[k] := by
  simp only [← Dev.mem_members]
  exact Dev.clampCredits_site (d.members_nodup g) d k

theorem Dev.clampMembers_rest (d : Dev) (g : GenId) : { d.clampMembers g with sites := d.sites } = d :=
  foldl_keeps (fun e : Dev => { e with sites := d.sites })
    (fun d j => d.modSite j fun x => { x with credit := min x.credit (d.cap j) }) (fun _ _ => rfl) (d.members g) d

theorem Dev.clampMembers_settings (d : Dev) (g : GenId) : (d.clampMembers g).settings = d.settings :=
  (congrArg Dev.settings (Dev.clampMembers_rest d g) :)

theorem Dev.clampMembers_state (d : Dev) (g : GenId) (k : SlotId) : (d.clampMembers g).siteState k = d.siteState k := by
  unfold Dev.siteState
  rw [Dev.clampMembers_site]
  split <;> rfl

/-! ## The frontier and the record (R11, R119) -/

theorem Dev.setFrontier_site (d : Dev) (j k : SlotId) (f : Option Seq) :
    (d.setFrontier j f).sites[k] = if k = j then { d.sites[k] with frontier := f } else d.sites[k] := by
  by_cases hf : d.sites[j].frontier = f
  · rw [show d.setFrontier j f = d from if_pos hf]
    split
    · rename_i hk
      rw [← hf, hk]
    · rfl
  · unfold Dev.setFrontier
    rw [if_neg hf]
    exact Dev.modSite_site d j k fun x => { x with frontier := f }

theorem Dev.setFrontier_rest (d : Dev) (j : SlotId) (f : Option Seq) :
    { d.setFrontier j f with sites := d.sites, status := d.status } = d := by
  unfold Dev.setFrontier
  split <;> rfl

theorem Dev.setFrontier_slot (d : Dev) (j : SlotId) (f : Option Seq) (q : Seq) : (d.setFrontier j f).slot? q = d.slot? q := by
  unfold Dev.setFrontier
  split <;> rfl

/-- R11: a SITE-EVENT record joins the control queue. -/
theorem Dev.raiseCtrl_siteEvent (j : SlotId) (st : EventState) (q : Nat) (d : Dev) :
    d.raiseCtrl (.siteEvent j st q) =
      { d with journal := { d.journal with ctrlQ := d.journal.ctrlQ ++ [.siteEvent j st q] } } := rfl

theorem Dev.raiseCtrl_sites (r : Rec) (d : Dev) : (d.raiseCtrl r).sites = d.sites := rfl

theorem Dev.raiseCtrl_ports (r : Rec) (d : Dev) : (d.raiseCtrl r).ports = d.ports := rfl

theorem Dev.raiseCtrl_slot (r : Rec) (q : Seq) (d : Dev) : (d.raiseCtrl r).slot? q = d.slot? q := rfl

theorem Dev.setFrontier_ports (d : Dev) (j : SlotId) (f : Option Seq) : (d.setFrontier j f).ports = d.ports :=
  (congrArg Dev.ports (Dev.setFrontier_rest d j f) :)

theorem Dev.setFrontier_journal (d : Dev) (j : SlotId) (f : Option Seq) : (d.setFrontier j f).journal = d.journal :=
  (congrArg Dev.journal (Dev.setFrontier_rest d j f) :)

/-- What the frontier and the record may change. -/
theorem Dev.frontierAndRecord_rest (d : Dev) (j : SlotId) (f : Option Seq) (r : Rec) :
    { (d.setFrontier j f).raiseCtrl r with sites := d.sites, journal := d.journal, status := d.status } = d :=
  congrArg (fun e : Dev => { e with journal := d.journal }) (Dev.setFrontier_rest d j f)

/-! ## The eviction (R81) -/

/-- R79, R81: the slot is EVICTED, with its eviction mark, and all its work is discarded. -/
def Dev.evicted (j : SlotId) (d : Dev) : Dev :=
  (d.modConfig j fun c => { c with evictMark := true }).modSite j fun x =>
    { x with
      state := .evicted, inFlight := [], candidates := [], resends := [], send := none, credit := 0, probeDue := none
      cursor := d.journal.nextSeq }

/-- R79, R97: the ports are told, and the members' credits are limited. -/
def Dev.evictedTold (j : SlotId) (d : Dev) : Dev :=
  ((d.evicted j).broadcast (.siteState j (d.config j).site (d.siteState j) .evicted .eviction)).clampMembers (d.config j).gen

theorem Dev.broadcast_settings (d : Dev) (b : NoticeBody) : (d.broadcast b).settings = d.settings :=
  (congrArg Dev.settings (Dev.broadcast_rest d b) :)

theorem Dev.broadcast_config (d : Dev) (b : NoticeBody) (j : SlotId) : (d.broadcast b).config j = d.config j :=
  (congrArg (fun e : Dev => e.config j) (Dev.broadcast_rest d b) :)

theorem Dev.evicted_config (d : Dev) (j : SlotId) : (d.evicted j).config j = { d.config j with evictMark := true } := by
  simp [Dev.evicted, Dev.config]

theorem Dev.evictSlot_eq (d : Dev) (j : SlotId) :
    d.evictSlot j =
      (((d.evictedTold j).skipMarks j .evicted).setFrontier j (some (d.evictedTold j).journal.nextSeq)).raiseCtrl
        (.siteEvent j (.state .evicted) 0) := by
  let discarded : Dev := (d.modConfig j fun c => { c with evictMark := true }).modSite j fun x =>
    { x with
      inFlight := [], candidates := [], resends := [], send := none, credit := 0, probeDue := none
      cursor := d.journal.nextSeq }
  have hconfig : discarded.config j = { d.config j with evictMark := true } := by simp [discarded, Dev.config]
  have hstate : discarded.siteState j = d.siteState j := by simp [discarded, Dev.siteState]
  have hevicted : (discarded.modSite j fun x => { x with state := .evicted }) = d.evicted j := Dev.modSite_modSite _ _ _ _
  have htold : (discarded.setSiteState j .evicted .eviction).membershipChanged j = d.evictedTold j := by
    unfold Dev.membershipChanged Dev.setSiteState Dev.siteNotice Dev.evictedTold
    dsimp only
    rw [hevicted, hconfig, hstate, Dev.broadcast_config, Dev.evicted_config]
    rfl
  rw [← htold]
  rfl

/-! ### The slot, its generator's members and the ports -/

theorem Dev.evictedTold_settings (d : Dev) (j : SlotId) :
    (d.evictedTold j).settings =
      { d.settings with sites := d.settings.sites.set j { d.settings.sites[j] with evictMark := true } } := by
  unfold Dev.evictedTold
  rw [Dev.clampMembers_settings, Dev.broadcast_settings]
  rfl

theorem Dev.evictedTold_rest (d : Dev) (j : SlotId) :
    { d.evictedTold j with settings := d.settings, sites := d.sites, ports := d.ports } = d := by
  have hclamp := Dev.clampMembers_rest
    ((d.evicted j).broadcast (.siteState j (d.config j).site (d.siteState j) .evicted .eviction)) (d.config j).gen
  have hnotice := Dev.broadcast_rest (d.evicted j) (.siteState j (d.config j).site (d.siteState j) .evicted .eviction)
  exact (congrArg (fun e : Dev => { e with settings := d.settings, sites := d.sites, ports := d.ports }) hclamp).trans
    (congrArg (fun e : Dev => { e with settings := d.settings, sites := d.sites }) hnotice)

theorem Dev.evictedTold_slot (d : Dev) (j : SlotId) (q : Seq) : (d.evictedTold j).slot? q = d.slot? q :=
  (congrArg (fun e : Dev => e.slot? q) (Dev.evictedTold_rest d j) :)

theorem Dev.evictedTold_port (d : Dev) (j : SlotId) (p : PortId) :
    (d.evictedTold j).ports[p] =
      if d.ports[p].state = .online then
        d.ports[p].addNotice false (.siteState j (d.config j).site (d.siteState j) .evicted .eviction)
      else d.ports[p] := by
  have hclamp := Dev.clampMembers_rest
    ((d.evicted j).broadcast (.siteState j (d.config j).site (d.siteState j) .evicted .eviction)) (d.config j).gen
  exact (congrArg (fun e : Dev => e.ports[p]) hclamp :).trans (Dev.broadcast_port _ _ p)

/-- The credit of a slot is limited to its cap if it is a member then; an EVICTED slot is none. -/
theorem Dev.evictedTold_site (d : Dev) (j k : SlotId) :
    (d.evictedTold j).sites[k] =
      if (d.evictedTold j).isMember (d.config j).gen k = true then
        { (d.evicted j).sites[k] with credit := min (d.evicted j).sites[k].credit ((d.evictedTold j).cap k : Nat) }
      else (d.evicted j).sites[k] := by
  unfold Dev.evictedTold
  rw [Dev.isMember_congr (Dev.clampMembers_settings _ _) (Dev.clampMembers_state _ _),
    Dev.cap_congr (Dev.clampMembers_settings _ _) (Dev.clampMembers_state _ _), Dev.clampMembers_site]
  have hsites : ∀ b, ((d.evicted j).broadcast b).sites = (d.evicted j).sites := fun b =>
    (congrArg Dev.sites (Dev.broadcast_rest (d.evicted j) b) :)
  simp only [hsites]

theorem Dev.evicted_site_self (d : Dev) (j : SlotId) :
    (d.evicted j).sites[j] =
      { d.sites[j] with
        state := .evicted, cursor := d.journal.nextSeq, candidates := [], inFlight := [], resends := [], send := none
        credit := 0, probeDue := none } := Dev.modSite_self _ _ _

theorem Dev.evicted_site_other (d : Dev) {j k : SlotId} (h : k ≠ j) : (d.evicted j).sites[k] = d.sites[k] :=
  Dev.modSite_other _ _ _ _ h

/-- An EVICTED slot is no member, so that its credit stays 0. -/
theorem Dev.evictedTold_site_self (d : Dev) (j : SlotId) : (d.evictedTold j).sites[j] = (d.evicted j).sites[j] := by
  have hstate : (d.evictedTold j).siteState j = .evicted := by
    unfold Dev.siteState
    rw [Dev.evictedTold_site]
    split <;> rw [Dev.evicted_site_self]
  rw [Dev.evictedTold_site, if_neg]
  simp [Dev.isMember, hstate]

/-! ### The marks, the frontier and the record -/

/-- What the marks, the frontier and the record of an eviction may change. -/
def Dev.ClosingKept (d e : Dev) : Prop :=
  { e with
    sites := d.sites, ports := d.ports, partLost := d.partLost, journal := d.journal, index := d.index, status := d.status } = d

theorem Dev.ClosingKept.settings {d e : Dev} (h : d.ClosingKept e) : e.settings = d.settings := (congrArg Dev.settings h :)

section Eviction
variable (d : Dev) (j : SlotId)

theorem Dev.evictSlot_site (k : SlotId) :
    (d.evictSlot j).sites[k] =
      if k = j then { (d.evictedTold j).sites[k] with frontier := some d.journal.nextSeq } else (d.evictedTold j).sites[k] := by
  have hnext : (d.evictedTold j).journal.nextSeq = d.journal.nextSeq :=
    (congrArg (fun e : Dev => e.journal.nextSeq) (Dev.evictedTold_rest d j) :)
  have hsites : ((d.evictedTold j).skipMarks j .evicted).sites = (d.evictedTold j).sites :=
    (congrArg Dev.sites (Dev.skipMarks_kept (d.evictedTold j) j .evicted).1 :)
  rw [Dev.evictSlot_eq, Dev.raiseCtrl_sites, hnext, Dev.setFrontier_site, hsites]

theorem Dev.evictSlot_state (k : SlotId) : (d.evictSlot j).siteState k = (d.evictedTold j).siteState k := by
  unfold Dev.siteState
  rw [Dev.evictSlot_site]
  split <;> rfl

theorem Dev.evictSlot_told : (d.evictedTold j).ClosingKept (d.evictSlot j) := by
  have hmarks : (d.evictedTold j).EvalKept ((d.evictedTold j).skipMarks j .evicted) :=
    (Dev.skipMarks_kept (d.evictedTold j) j .evicted).1
  have hrest := Dev.frontierAndRecord_rest ((d.evictedTold j).skipMarks j .evicted) j
    (some (d.evictedTold j).journal.nextSeq) (.siteEvent j (.state .evicted) 0)
  rw [← Dev.evictSlot_eq] at hrest
  unfold Dev.EvalKept at hmarks
  unfold Dev.ClosingKept
  generalize d.evictSlot j = u at *
  generalize (d.evictedTold j).skipMarks j .evicted = m at *
  generalize d.evictedTold j = e at *
  rw [← hmarks, ← hrest]

theorem Dev.evictSlot_slot (h : Tbl.ascending d.status.slots = true) (q : Seq) :
    (d.evictSlot j).slot? q =
      (d.slot? q).map fun y =>
        if ((y.mark j).map Mark.isOpen).getD false = true then
          (y.move j Mark.isOpen (.skipped .evicted)).evaluated y.resolved
        else y := by
  have hstatus : (d.evictedTold j).status = d.status := (congrArg Dev.status (Dev.evictedTold_rest d j) :)
  rw [Dev.evictSlot_eq, Dev.raiseCtrl_slot, Dev.setFrontier_slot, Dev.skipMarks_slot (by rw [hstatus]; exact h),
    Dev.evictedTold_slot]

theorem Dev.evictSlot_port (p : PortId) :
    (d.evictedTold j).ports[p].noticeQ <+: (d.evictSlot j).ports[p].noticeQ ∧
      (d.evictedTold j).ports[p].SameButNotices (d.evictSlot j).ports[p] := by
  obtain ⟨-, hports, hgrow⟩ := Dev.skipMarks_kept (d.evictedTold j) j .evicted
  rw [Dev.evictSlot_eq, Dev.raiseCtrl_ports, Dev.setFrontier_ports]
  exact ⟨hgrow p, hports p⟩

theorem Dev.evictSlot_journal :
    (d.evictSlot j).journal = { d.journal with ctrlQ := d.journal.ctrlQ ++ [.siteEvent j (.state .evicted) 0] } := by
  have htold : (d.evictedTold j).journal = d.journal := (congrArg Dev.journal (Dev.evictedTold_rest d j) :)
  have hmarks : ((d.evictedTold j).skipMarks j .evicted).journal = (d.evictedTold j).journal :=
    (congrArg Dev.journal (Dev.skipMarks_kept (d.evictedTold j) j .evicted).1 :)
  rw [Dev.evictSlot_eq, Dev.raiseCtrl_siteEvent, Dev.setFrontier_journal, hmarks, htold]

theorem Dev.evictSlot_settings :
    (d.evictSlot j).settings =
      { d.settings with sites := d.settings.sites.set j { d.settings.sites[j] with evictMark := true } } := by
  rw [(Dev.evictSlot_told d j).settings, Dev.evictedTold_settings]

theorem Dev.evictSlot_rest :
    { d.evictSlot j with
      settings := d.settings, sites := d.sites, ports := d.ports, partLost := d.partLost, journal := d.journal
      index := d.index, status := d.status } = d := by
  have hlast := Dev.evictSlot_told d j
  unfold Dev.ClosingKept at hlast
  have hfirst := Dev.evictedTold_rest d j
  generalize d.evictSlot j = u at *
  generalize d.evictedTold j = e at *
  rw [← hfirst, ← hlast]

theorem Dev.evictSlot_site_self :
    (d.evictSlot j).sites[j] =
      { d.sites[j] with
        state := .evicted, cursor := d.journal.nextSeq, frontier := some d.journal.nextSeq, candidates := [], inFlight := []
        resends := [], send := none, credit := 0, probeDue := none } := by
  rw [Dev.evictSlot_site, if_pos rfl, Dev.evictedTold_site_self, Dev.evicted_site_self]

theorem Dev.evictSlot_site_other {k : SlotId} (hk : k ≠ j) :
    (d.evictSlot j).sites[k] =
      if (d.evictSlot j).isMember (d.config j).gen k = true then
        { d.sites[k] with credit := min d.sites[k].credit ((d.evictSlot j).cap k : Nat) }
      else d.sites[k] := by
  have hsettings := (Dev.evictSlot_told d j).settings
  rw [Dev.evictSlot_site, if_neg hk, Dev.isMember_congr hsettings (Dev.evictSlot_state d j),
    Dev.cap_congr hsettings (Dev.evictSlot_state d j), Dev.evictedTold_site, Dev.evicted_site_other d hk]

end Eviction

end Sys2Proof.Machine

/-- Settles O42: the slot, the members, the marks, the ports and the record each have their own lemma. -/
theorem evictionEndsASlot : Obligations.EvictionEndsASlot := by
  intro d j htables
  have hslots : Tbl.ascending d.status.slots = true := by
    simp only [Dev.tablesOk, Bool.and_eq_true] at htables
    exact htables.1.1
  refine ⟨Dev.evictSlot_settings d j, Dev.evictSlot_site_self d j, fun k hk => Dev.evictSlot_site_other d j hk,
    fun q hq => ?free, fun q y hy => ⟨fun hnot => ?untouched, fun hit hstaged => ?staged, fun hit hwritten => ?written⟩,
    fun p => ?port, Dev.evictSlot_journal d j, Dev.evictSlot_rest d j⟩
  case free => rw [Dev.evictSlot_slot d j hslots, hq]; rfl
  case untouched =>
    rw [Dev.evictSlot_slot d j hslots, hy, Option.map_some, if_neg ((Slot.hasOpen_iff y j).not.2 hnot)]
  case staged =>
    rw [Dev.evictSlot_slot d j hslots, hy, Option.map_some, if_pos ((Slot.hasOpen_iff y j).2 hit),
      Slot.evaluated_staged _ (by exact hstaged), Slot.move_open]
  case written =>
    rw [Dev.evictSlot_slot d j hslots, hy, Option.map_some, if_pos ((Slot.hasOpen_iff y j).2 hit), Slot.resolved_of_open hit,
      Slot.evaluated_written (by exact hwritten), Slot.move_open, Slot.openMarks_eq, Slot.acked_eq]
  case port =>
    have hport := Dev.evictSlot_port d j p
    rw [Dev.evictedTold_port] at hport
    exact hport

end

section
/-!
SUPPORT and settlement of O44. What the delivery arbiter chooses and starts (R134 to R136), what a dispatcher examines (R68), and
what a slot sends next (R70, R71).
-/

open Sys2Proof Sys2Proof.Machine

namespace Sys2Proof.Machine

/-! ## The delivery arbiter's choice (R135) -/

theorem insertOrder_pairwise (a : Arrival) {l : List Arrival} (h : l.Pairwise fun x y => x.order ≤ y.order) :
    (insertOrder a l).Pairwise fun x y => x.order ≤ y.order := by
  induction l with
  | nil => exact List.pairwise_singleton _ _
  | cons b t ih =>
    obtain ⟨hb, ht⟩ := List.pairwise_cons.1 h
    rw [insertOrder]
    split
    · rename_i hab
      exact List.pairwise_cons.2 ⟨fun x hx => (List.mem_cons.1 hx).elim (fun e => e ▸ hab) fun hx => hab.trans (hb x hx), h⟩
    · rename_i hba
      refine List.pairwise_cons.2 ⟨fun x hx => ?_, ih ht⟩
      rcases (mem_insertOrder a x t).1 hx with rfl | hx
      · omega
      · exact hb x hx

theorem inOrder_pairwise (l : List Arrival) : (inOrder l).Pairwise fun x y => x.order ≤ y.order := by
  induction l with
  | nil => exact List.Pairwise.nil
  | cons a t ih => exact insertOrder_pairwise a ih

/-- R134: what it takes for a port to qualify for an arrival. -/
def Dev.Takes (d : Dev) (a : Arrival) (p : PortId) : Prop :=
  d.ports[p].state = .online ∧
    (∀ b ∈ d.inbound.arrivals, b.state = .delivering → b.delivery.map (fun x => x.1) ≠ some p) ∧
    ∃ l ∈ d.ports[p].landings, 512 + a.desc.payloadLen ≤ l.capacity

theorem Landing.takes_iff (l : Landing) (a : Arrival) : l.takes a = true ↔ 512 + a.desc.payloadLen ≤ l.capacity :=
  decide_eq_true_iff

theorem Inbound.deliveringTo_eq_false_iff (x : Inbound) (p : PortId) :
    x.deliveringTo p = false ↔ ∀ b ∈ x.arrivals, b.state = .delivering → b.delivery.map (fun y => y.1) ≠ some p := by
  simp [Inbound.deliveringTo, List.any_eq_false]

theorem Dev.qualifies_iff (d : Dev) (a : Arrival) (p : PortId) : d.qualifies a p = true ↔ d.Takes a p := by
  unfold Dev.qualifies Dev.Takes Dev.online
  rw [Bool.and_eq_true, Bool.and_eq_true, beq_iff_eq, Bool.not_eq_true', Inbound.deliveringTo_eq_false_iff, List.any_eq_true,
    and_assoc]
  simp only [Landing.takes_iff]

/-- R134: the entries that wait for a landing. -/
def Dev.Waits (d : Dev) (a : Arrival) : Prop := a ∈ d.inbound.arrivals ∧ a.state = .waitingLanding

/-- The entries that wait, in completion order. -/
def Dev.waiting (d : Dev) : List Arrival := inOrder (d.inbound.arrivals.filter fun a => a.state == .waitingLanding)

theorem Dev.mem_waiting (d : Dev) (a : Arrival) : a ∈ d.waiting ↔ d.Waits a := by
  rw [Dev.waiting, mem_inOrder, List.mem_filter, beq_iff_eq]
  rfl

/-- R135: the port chosen for an entry is the first that qualifies, after the one chosen last. -/
theorem Dev.findPort_eq_some_iff (d : Dev) (a : Arrival) (p : PortId) :
    (portsAfter d.inbound.lastPort).find? (d.qualifies a) = some p ↔
      d.Takes a p ∧ ∀ q, d.Takes a q → portDistance d.inbound.lastPort p ≤ portDistance d.inbound.lastPort q := by
  rw [find?_eq_some_iff_lowest (portDistance d.inbound.lastPort) _ (portsAfter_pairwise _)]
  simp only [mem_portsAfter, true_and, Dev.qualifies_iff, forall_const]

theorem Dev.findPort_eq_none_iff (d : Dev) (a : Arrival) :
    (portsAfter d.inbound.lastPort).find? (d.qualifies a) = none ↔ ∀ q, ¬ d.Takes a q := by
  rw [List.find?_eq_none]
  simp only [mem_portsAfter, Dev.qualifies_iff, forall_const]

theorem Dev.nextDelivery_eq_none_iff (d : Dev) : d.nextDelivery = none ↔ ∀ a q, d.Waits a → ¬ d.Takes a q := by
  unfold Dev.nextDelivery
  rw [List.findSome?_eq_none_iff]
  simp only [Option.map_eq_none_iff, Dev.findPort_eq_none_iff]
  exact ⟨fun h a q ha => h a ((d.mem_waiting a).2 ha) q, fun h a ha q => h a q ((d.mem_waiting a).1 ha)⟩

/-- R135: the entry chosen is the first in completion order for which a port qualifies. -/
theorem Dev.nextDelivery_spec {d : Dev} {a : Arrival} {p : PortId} (h : d.nextDelivery = some (a, p)) :
    d.Waits a ∧ d.Takes a p ∧
      (∀ q, d.Takes a q → portDistance d.inbound.lastPort p ≤ portDistance d.inbound.lastPort q) ∧
      ∀ b q, d.Waits b → b.order < a.order → ¬ d.Takes b q := by
  obtain ⟨before, x, after, hlist, hx, hbefore⟩ := List.findSome?_eq_some_iff.1 h
  obtain ⟨y, hport, hy⟩ := Option.map_eq_some_iff.1 hx
  obtain ⟨rfl, rfl⟩ := Prod.mk.inj hy
  obtain ⟨htakes, hfirst⟩ := (d.findPort_eq_some_iff x y).1 hport
  have hsorted : (before ++ x :: after).Pairwise fun u v => u.order ≤ v.order := hlist ▸ inOrder_pairwise _
  have hwaits : ∀ b, b ∈ before ++ x :: after ↔ d.Waits b := fun b => hlist ▸ d.mem_waiting b
  refine ⟨(hwaits x).1 (List.mem_append_right _ List.mem_cons_self), htakes, hfirst, fun b q hb hlt => ?_⟩
  have hmem : b ∈ before ++ x :: after := (hwaits b).2 hb
  rcases List.mem_append.1 hmem with hb | hb
  · exact (d.findPort_eq_none_iff b).1 (Option.map_eq_none_iff.1 (hbefore b hb)) q
  · rcases List.mem_cons.1 hb with rfl | hb
    · exact absurd hlt (lt_irrefl _)
    · have hle := (List.pairwise_cons.1 (List.pairwise_append.1 hsorted).2.1).1 b hb
      omega

/-! ## A delivery starts (R136) -/

/-- R136: the live sequence and stamp of the entry that the lookup found, if it still holds the key. -/
def Dev.liveOf (d : Dev) (a : Arrival) : Option (Option (Seq × Word64)) :=
  match a.lookup with
  | .found w c =>
    (Tbl.get d.index.ways w).bind fun e =>
      if e.creation = c ∧ e.bucket = a.desc.bucket ∧ e.keyHash = a.desc.keyHash ∧ e.keyLen = a.desc.keyLen then some e.live
      else none
  | _ => none

theorem KeyEntry.holds_iff (e : KeyEntry) (bucket : Word32) (hash : Word64) (len : Nat) :
    e.holds bucket hash len = true ↔ e.bucket = bucket ∧ e.keyHash = hash ∧ e.keyLen = len := by
  simp [KeyEntry.holds, and_assoc]

/-- R136: an arrival is compared with that live stamp, which the landing header carries. -/
theorem Dev.refreshCompare_eq (d : Dev) (a : Arrival) :
    d.refreshCompare a =
      match d.liveOf a with
      | some (some (_, t)) => (if a.desc.stamp < t then .newer else .older, t)
      | _ => (.none, 0) := by
  unfold Dev.refreshCompare Dev.liveOf
  cases a.lookup with
  | found w c =>
    cases he : Tbl.get d.index.ways w with
    | none => simp [he]
    | some e =>
      simp only [he, KeyEntry.holds_iff, Option.bind_some]
      split
      · rcases e.live with _ | ⟨q, t⟩ <;> rfl
      · rfl
  | _ => rfl

theorem Dev.refreshCompare_fst (d : Dev) (a : Arrival) :
    (d.refreshCompare a).1 =
      match d.liveOf a with
      | some (some (_, t)) => if a.desc.stamp < t then .newer else .older
      | _ => .none := by
  rw [Dev.refreshCompare_eq]
  rcases d.liveOf a with _ | _ | ⟨q, t⟩ <;> rfl

theorem Dev.refreshCompare_snd (d : Dev) (a : Arrival) :
    (d.refreshCompare a).2.toNat =
      match d.liveOf a with
      | some (some (_, t)) => t.toNat
      | _ => 0 := by
  rw [Dev.refreshCompare_eq]
  rcases d.liveOf a with _ | _ | ⟨q, t⟩ <;> rfl

/-- In a list cut at its first element that passes a test, that element is found, and leaves when it is erased. -/
theorem find?_and_erase_of_first {α : Type} [BEq α] [LawfulBEq α] {test : α → Bool} {before after : List α} {x : α}
    (hbefore : ∀ y ∈ before, test y = false) (hx : test x = true) :
    (before ++ x :: after).find? test = some x ∧ (before ++ x :: after).erase x = before ++ after := by
  have hnot : x ∉ before := fun hmem => Bool.false_ne_true ((hbefore x hmem).symm.trans hx)
  refine ⟨List.find?_eq_some_iff_append.2 ⟨hx, before, after, rfl, fun y hy => by rw [hbefore y hy]; rfl⟩, ?_⟩
  rw [List.erase_append_right _ hnot, List.erase_cons_head]

/-- R136: the entry whose delivery starts. -/
def Arrival.startedAt (a : Arrival) (p : PortId) (l : Landing) (c : LocalCompare) : Arrival :=
  { a with state := .delivering, delivery := some (p, l), attempt := a.attempt + 1, compare := some c }

/-- R136: an entry comes to be delivered, its descriptor leaves the landing list, and its landing write begins. -/
def Dev.beginLanding (id : Nat) (b : Arrival) (p : PortId) (l : Landing) (data : List Byte) (d : Dev) : Dev :=
  let e := ((((d.modArrival id fun _ => b).modPort p fun q => { q with landings := q.landings.erase l }).modInbound
    fun x => { x with lastPort := p }).countInbound fun n => { n with deliveries := sat64 (n.deliveries + 1) })
  { e with dma := e.dma ++ [⟨p, l.addr, data, none⟩] }

theorem Dev.beginLanding_eq (id : Nat) (b : Arrival) (p : PortId) (l : Landing) (data : List Byte) (d : Dev) :
    d.beginLanding id b p l data =
      { d with
        inbound := { d.inbound with
          arrivals := d.inbound.arrivals.map fun (x : Arrival) => if x.id = id then b else x
          lastPort := p
          counts := { d.inbound.counts with deliveries := sat64 (d.inbound.counts.deliveries + 1) } }
        ports := d.ports.set p { d.ports[p] with landings := d.ports[p].landings.erase l }
        dma := d.dma ++ [⟨p, l.addr, data, none⟩] } := by
  unfold Dev.beginLanding Dev.countInbound Dev.modInbound Dev.modPort Dev.modArrival Dev.modInbound
  simp only [beq_iff_eq]

/-- R134, R136: a delivery starts with the oldest descriptor that is large enough. -/
theorem Dev.startDelivery_eq {d : Dev} {a : Arrival} {p : PortId} {before after : List Landing} {l : Landing} {site : Nat}
    (hlist : d.ports[p].landings = before ++ l :: after) (hbefore : ∀ x ∈ before, ¬ 512 + a.desc.payloadLen ≤ x.capacity)
    (hl : 512 + a.desc.payloadLen ≤ l.capacity) (hsite : d.settings.sites[a.slot].site = some site) :
    let b := a.startedAt p l (d.refreshCompare a).1
    d.startDelivery a p =
      { d with
        inbound := { d.inbound with
          arrivals := d.inbound.arrivals.map fun (x : Arrival) => if x.id = a.id then b else x
          lastPort := p
          counts := { d.inbound.counts with deliveries := sat64 (d.inbound.counts.deliveries + 1) } }
        ports := d.ports.set p { d.ports[p] with landings := before ++ after }
        dma := d.dma ++
          [⟨p, l.addr,
            landingHeader b l.id site (d.refreshCompare a).1 (d.refreshCompare a).2.toNat ++ a.chunks.flatMap fun x => x.2,
            none⟩] } := by
  obtain ⟨hfind, herase⟩ := find?_and_erase_of_first (after := after) (test := fun l : Landing => l.takes a)
    (fun x hx => decide_eq_false (hbefore x hx)) (decide_eq_true hl)
  have hstart : d.startDelivery a p = d.beginLanding a.id (a.startedAt p l (d.refreshCompare a).1) p l
      (landingHeader (a.startedAt p l (d.refreshCompare a).1) l.id site (d.refreshCompare a).1 (d.refreshCompare a).2.toNat ++
        a.payload) := by
    unfold Dev.startDelivery
    rw [hlist, hfind]
    dsimp only
    rw [show (d.config a.slot).site = some site from hsite]
    rfl
  dsimp only
  rw [hstart, Dev.beginLanding_eq, hlist, herase]
  rfl

/-! ## What a dispatcher examines (R68) -/

/-- R68: the intent at the cursor can be dispatched. -/
def Slot.Dispatchable (y : Slot) (j : SlotId) : Prop :=
  y.mark j = some .pending ∧ y.held = false ∧ y.fetchBlocked = false

theorem Slot.dispatchable_iff (y : Slot) (j : SlotId) : y.dispatchable j = true ↔ y.Dispatchable j := by
  simp [Slot.dispatchable, Slot.Dispatchable, and_assoc]

section Dispatch
variable (d : Dev) (j : SlotId)

theorem Dev.canExamine_iff :
    d.canExamine j = true ↔
      d.sites[j].state = .active ∧ d.sites[j].cursor < d.journal.nextSeq ∧ d.sites[j].candidates.length < 4 ∧
        ∀ y, d.slot? d.sites[j].cursor = some y → y.written = true := by
  unfold Dev.canExamine
  dsimp only
  rw [Bool.and_eq_true, Bool.and_eq_true, Bool.and_eq_true, beq_iff_eq, decide_eq_true_iff, decide_eq_true_iff, and_assoc,
    and_assoc]
  refine and_congr_right fun _ => and_congr_right fun _ => and_congr_right fun _ => ?_
  cases d.slot? d.sites[j].cursor with
  | none => simp
  | some y => simp

theorem Dev.modSite_congr {d : Dev} {j : SlotId} {f g : Site → Site} (h : f d.sites[j] = g d.sites[j]) :
    d.modSite j f = d.modSite j g := by
  unfold Dev.modSite
  rw [h]

/-- R68: the cursor advances, and the intent found there becomes a candidate when it can be dispatched. -/
theorem Dev.examineCursor_eq {l : List Candidate}
    (hfound : (∃ y, d.slot? d.sites[j].cursor = some y ∧ y.Dispatchable j) → l = [{ seq := d.sites[j].cursor }])
    (hnone : (∀ y, d.slot? d.sites[j].cursor = some y → ¬ y.Dispatchable j) → l = []) :
    d.examineCursor j = d.modSite j fun z =>
      { z with cursor := d.sites[j].cursor + 1, candidates := d.sites[j].candidates ++ l } := by
  unfold Dev.examineCursor
  refine Dev.modSite_congr ?_
  congr 1
  cases hy : d.slot? d.sites[j].cursor with
  | none =>
    have hl : l = [] := hnone (fun y hy' => by rw [hy] at hy'; cases hy')
    rw [hl, List.append_nil]
    rfl
  | some y =>
    by_cases hd : y.Dispatchable j
    · rw [hfound ⟨y, hy, hd⟩]
      exact if_pos ((y.dispatchable_iff j).2 hd)
    · have hl : l = [] := hnone (fun z hz => by rw [hy] at hz; cases hz; exact hd)
      rw [hl, List.append_nil]
      exact if_neg ((y.dispatchable_iff j).not.2 hd)

/-! ## What a slot sends next (R70, R71) -/

/-- R76: a BUSY pause runs. -/
def Dev.Pauses (d : Dev) (j : SlotId) : Prop := ∃ t, d.sites[j].busyEnd = some t ∧ d.now < t

theorem Dev.busyPause_iff : d.busyPause j = true ↔ d.Pauses j := by
  unfold Dev.busyPause Dev.Pauses
  cases d.sites[j].busyEnd <;> simp

/-- R70: only a whole-intent resend waits, and only for the end of a BUSY pause. -/
theorem Dev.resendMayBegin_iff (r : Resend) : d.resendMayBegin j r = true ↔ r.chunks ≠ none ∨ ¬ d.Pauses j := by
  unfold Dev.resendMayBegin
  rw [Bool.or_eq_true, Option.isSome_iff_ne_none, Bool.not_eq_true', ← Bool.not_eq_true, Dev.busyPause_iff]

theorem Dev.resendMayBegin_eq_false_iff (r : Resend) : d.resendMayBegin j r = false ↔ r.chunks = none ∧ d.Pauses j := by
  rw [← Bool.not_eq_true, Dev.resendMayBegin_iff, not_or, not_not, not_not]

/-- R70, R71: what it takes for the first send of a candidate, whose record is r, to begin. -/
def Dev.MaySend (d : Dev) (j : SlotId) (c : Candidate) (r : IntentRec) : Prop :=
  c.record = some r ∧ (r.kind = .delete ∨ ∃ e ∈ d.fetch.cache, e.seq = c.seq) ∧ ¬ d.Pauses j ∧
    d.sites[j].inFlight.length < 4096 ∧
    ((d.sites[j].inFlight.map fun e => e.size).sum + encodedSize r.key.length r.payloadLen ≤ d.window j ∨
      d.sites[j].inFlight = [])

theorem Dev.windowPermits_iff (size : Nat) :
    d.windowPermits j size = true ↔
      d.sites[j].inFlight.length < 4096 ∧
        ((d.sites[j].inFlight.map fun e => e.size).sum + size ≤ d.window j ∨ d.sites[j].inFlight = []) := by
  unfold Dev.windowPermits Site.inFlightBytes
  rw [Bool.and_eq_true, Bool.or_eq_true, decide_eq_true_iff, decide_eq_true_iff, List.isEmpty_iff]

theorem Dev.sendPermitted_iff {c : Candidate} {r : IntentRec} (hr : c.record = some r) :
    d.sendPermitted j c = true ↔ d.MaySend j c r := by
  unfold Dev.sendPermitted Dev.candidateReady Dev.MaySend Dev.cached
  rw [hr]
  dsimp only
  rw [Bool.and_eq_true, Bool.and_eq_true, Bool.or_eq_true, beq_iff_eq, Bool.not_eq_true', ← Bool.not_eq_true,
    Dev.busyPause_iff, Dev.windowPermits_iff, List.any_eq_true, and_assoc]
  simp only [beq_iff_eq, true_and]

theorem Dev.sendPermitted_unread {c : Candidate} (hr : c.record = none) : d.sendPermitted j c = false := by
  unfold Dev.sendPermitted Dev.candidateReady
  rw [hr]
  rfl

end Dispatch

section NextSend
variable {d : Dev} {j : SlotId}

/-- R61: a slot that is not ACTIVE sends nothing. -/
theorem Dev.nextSend_of_not_active (h : d.sites[j].state ≠ .active) : d.nextSend j = none := if_pos h

variable (hactive : d.sites[j].state = .active)
include hactive

/-- R70: a send in progress goes on. -/
theorem Dev.nextSend_goesOn {k : Send} (hsend : d.sites[j].send = some k) : d.nextSend j = some (k, d.sites[j].resends) := by
  unfold Dev.nextSend
  dsimp only
  rw [if_neg (not_not_intro hactive), hsend]

variable (hsend : d.sites[j].send = none)
include hsend

/-- R70: the first due resend that may begin is sent. -/
theorem Dev.nextSend_resend {before after : List Resend} {r : Resend} {e : InFlight}
    (hlist : d.sites[j].resends = before ++ r :: after) (hbefore : ∀ y ∈ before, y.chunks = none ∧ d.Pauses j)
    (hr : r.chunks ≠ none ∨ ¬ d.Pauses j) (he : d.sites[j].entry r.seq = some e) :
    d.nextSend j = some (⟨r.seq, r.pieces e.record.payloadLen⟩, before ++ after) := by
  obtain ⟨hfind, herase⟩ := find?_and_erase_of_first (after := after) (test := d.resendMayBegin j)
    (fun y hy => (d.resendMayBegin_eq_false_iff j y).2 (hbefore y hy)) ((d.resendMayBegin_iff j r).2 hr)
  unfold Dev.nextSend
  dsimp only
  rw [if_neg (not_not_intro hactive), hsend, hlist, hfind]
  dsimp only
  rw [he, herase]
  rfl

variable (hresends : ∀ y ∈ d.sites[j].resends, y.chunks = none ∧ d.Pauses j)
include hresends

/-- R70: when no due resend may begin, the lowest candidate is looked at. -/
theorem Dev.nextSend_candidates :
    d.nextSend j =
      match d.sites[j].candidates with
      | c :: _ =>
        if d.sendPermitted j c then c.record.map fun r => (⟨c.seq, pieces r.payloadLen⟩, d.sites[j].resends) else none
      | [] => none := by
  have hfind : d.sites[j].resends.find? (d.resendMayBegin j) = none := List.find?_eq_none.2 fun y hy => by
    rw [(d.resendMayBegin_eq_false_iff j y).2 (hresends y hy)]
    exact Bool.false_ne_true
  unfold Dev.nextSend
  dsimp only
  rw [if_neg (not_not_intro hactive), hsend, hfind] <;> rfl

theorem Dev.nextSend_noCandidate (hc : d.sites[j].candidates = []) : d.nextSend j = none := by
  rw [Dev.nextSend_candidates hactive hsend hresends]
  simp only [hc]

theorem Dev.nextSend_first {c : Candidate} {rest : List Candidate} {r : IntentRec} (hc : d.sites[j].candidates = c :: rest)
    (hmay : d.MaySend j c r) : d.nextSend j = some (⟨c.seq, pieces r.payloadLen⟩, d.sites[j].resends) := by
  rw [Dev.nextSend_candidates hactive hsend hresends]
  simp only [hc]
  rw [if_pos ((d.sendPermitted_iff j hmay.1).2 hmay), hmay.1]
  rfl

theorem Dev.nextSend_waits {c : Candidate} {rest : List Candidate} (hc : d.sites[j].candidates = c :: rest)
    (hnot : ∀ r, ¬ d.MaySend j c r) : d.nextSend j = none := by
  have hpermit : d.sendPermitted j c = false := by
    cases hr : c.record with
    | none => exact d.sendPermitted_unread j hr
    | some r => exact Bool.eq_false_of_not_eq_true ((d.sendPermitted_iff j hr).not.2 (hnot r))
  rw [Dev.nextSend_candidates hactive hsend hresends]
  simp only [hc]
  exact if_neg (by rw [hpermit]; exact Bool.false_ne_true)

end NextSend

/-- The pieces of a resend, written out. -/
theorem Resend.pieces_eq (len : Nat) (r : Resend) :
    r.pieces len =
      match r.chunks with
      | none => .opening :: (List.range ((len + 8191) / 8192)).map .chunk
      | some l => l.map .chunk := by
  unfold Resend.pieces
  cases r.chunks <;> rfl

end Sys2Proof.Machine

/-- Settles O44: the arbiter's choice and the start of a delivery, the examination, and the next send case by case. -/
theorem deliveriesAndDispatchersChoose : Obligations.DeliveriesAndDispatchersChoose := by
  refine ⟨fun d => ⟨fun a p h => Dev.nextDelivery_spec h, fun h => d.nextDelivery_eq_none_iff.1 h,
    fun a p before after l site hlist hbefore hl hsite => ?starts⟩, fun d j => ⟨d.canExamine_iff j,
      fun l hfound hnone => d.examineCursor_eq j hfound hnone, Dev.nextSend_of_not_active, fun hactive =>
      ⟨fun k hsend => Dev.nextSend_goesOn hactive hsend, fun before after r e hsend hlist hbefore hr he => ?resend,
        fun hsend hresends => ⟨fun hc => Dev.nextSend_noCandidate hactive hsend hresends hc, fun c rest hc =>
          ⟨fun r hmay => Dev.nextSend_first hactive hsend hresends hc hmay, fun hnot =>
            Dev.nextSend_waits hactive hsend hresends hc hnot⟩⟩⟩⟩⟩
  case starts =>
    have hstart := Dev.startDelivery_eq hlist hbefore hl hsite
    rw [Dev.refreshCompare_fst, Dev.refreshCompare_snd] at hstart
    exact hstart
  case resend =>
    have hnext := Dev.nextSend_resend hactive hsend hlist hbefore hr he
    rw [Resend.pieces_eq] at hnext
    exact hnext

end

section
/-!
SUPPORT and settlement of O20. The grant of a generator (R91), the adds that divide it (R92), and the period of a generator without
a member.
-/

open Sys2Proof Sys2Proof.Machine

namespace Sys2Proof.Machine

/-! ## The grant of a generator's settings, and the adds that divide it (R91, R92) -/

/-- R91: the halves come out even, because every period that a generator can have is even. -/
theorem GenSettings.two_mul_grant (c : GenSettings) (h : 2 ∣ c.period) : 2 * c.grant = c.rate * c.period * 25 :=
  Nat.mul_div_cancel' ((h.mul_left c.rate).mul_right 25)

/-- R91: the range of the grant. -/
theorem GenSettings.grant_bounds (c : GenSettings) (h1 : 1 ≤ c.rate) (h2 : c.rate ≤ 1000) (h3 : 250 ≤ c.period)
    (h4 : c.period ≤ 2000) : 3125 ≤ c.grant ∧ c.grant ≤ 25000000 := by
  have hlow : 1 * 250 ≤ c.rate * c.period := Nat.mul_le_mul h1 h3
  have hhigh : c.rate * c.period ≤ 1000 * 2000 := Nat.mul_le_mul h2 h4
  unfold GenSettings.grant
  omega

/-- R89: what makes a slot a member of a generator. -/
theorem Dev.mem_members_iff (d : Dev) (g : GenId) (j : SlotId) :
    j ∈ d.members g ↔ d.siteState j = .active ∧ (d.config j).mode = .paced ∧ (d.config j).gen = g := by
  rw [Dev.mem_members]
  simp only [Dev.isMember, Bool.and_eq_true, beq_iff_eq, and_assoc]

/-- R89, R92: a member's add is its share of its generator's grant. -/
theorem Dev.add_of_member {d : Dev} {g : GenId} {j : SlotId} (h : j ∈ d.members g) :
    d.add j = d.settings.gens[g].grant * (d.config j).share / d.divisor g := by
  obtain ⟨-, -, hgen⟩ := (d.mem_members_iff g j).1 h
  simp only [Dev.add, hgen]

/-- The quotients of a sum's terms are together at most the quotient of the sum. -/
theorem sum_map_div_le {α : Type} (f : α → Nat) (n : Nat) (l : List α) :
    (l.map fun a => f a / n).sum ≤ (l.map f).sum / n := by
  induction l with
  | nil => exact Nat.zero_le _
  | cons a t ih =>
    simp only [List.map_cons, List.sum_cons]
    exact (Nat.add_le_add_left ih _).trans Nat.div_add_div_le_add_div

/-- R92: the adds of a generator's members are together at most its grant, because the divisor is at least W. -/
theorem Dev.sum_adds_le_grant (d : Dev) (g : GenId) : ((d.members g).map d.add).sum ≤ d.settings.gens[g].grant := by
  have hshares : d.shareSum g ≤ d.divisor g := le_max_right _ _
  calc ((d.members g).map d.add).sum
      = ((d.members g).map fun j => d.settings.gens[g].grant * (d.config j).share / d.divisor g).sum := by
        rw [List.map_congr_left fun j hj => Dev.add_of_member hj]
    _ ≤ ((d.members g).map fun j => d.settings.gens[g].grant * (d.config j).share).sum / d.divisor g :=
        sum_map_div_le _ _ _
    _ = d.settings.gens[g].grant * d.shareSum g / d.divisor g := by rw [List.sum_map_mul_left, Dev.shareSum]
    _ ≤ d.settings.gens[g].grant :=
        Nat.div_le_of_le_mul (by rw [Nat.mul_comm]; exact Nat.mul_le_mul_right _ hshares)

/-! ## The pacing grant at the expiry of a period timer, and of a generator without a member (R90, R91) -/

theorem Dev.members_eq_nil {d : Dev} {g : GenId}
    (h : ∀ j : SlotId, d.siteState j = .active → (d.config j).mode = .paced → (d.config j).gen ≠ g) : d.members g = [] := by
  refine List.eq_nil_iff_forall_not_mem.2 fun j hj => ?_
  obtain ⟨hactive, hpaced, hgen⟩ := (d.mem_members_iff g j).1 hj
  exact h j hactive hpaced hgen

/-- R91: without a member nothing is added and nothing is lent, and the whole grant is discarded. -/
theorem Dev.pacingGrant_noMembers {d : Dev} {g : GenId} (h : d.members g = []) :
    d.pacingGrant g =
      { d with
        gens := d.gens.set g { d.gens[g] with lastPool := 0, lastDiscarded := (d.settings.gens[g].grant : Int) } } := by
  have hadd : d.addAll g = d := by simp [Dev.addAll, h]
  have hrec : d.receivers g = [] := by simp [Dev.receivers, h]
  simp [Dev.pacingGrant, hadd, hrec, Dev.giveAll, Dev.lentBy, h]

/-- R90: the period timer of a generator of a part that is up expires, and the next period starts. -/
theorem Dev.pacingExpiry_up {d : Dev} {g : GenId} {due : Time} (hup : d.up) (hdue : d.gens[g].due = some due) :
    d.pacingExpiry g = (Dev.periodEnds g due (d.tick due)).settle := by
  have hready : d.isReady = true := beq_iff_eq.2 hup.2
  rw [Dev.pacingExpiry, hdue, Dev.expiry_running _ _ _ _ hready hup.1]
  rfl

/-- R90, R91: the period of a generator without a member. -/
theorem Dev.periodEnds_noMembers {d : Dev} {g : GenId} (due : Time) (h : d.members g = []) :
    d.periodEnds g due =
      { d with
        gens := d.gens.set g
          { due := some (due + d.settings.gens[g].period), lastPool := 0
            lastDiscarded := (d.settings.gens[g].grant : Int) } } := by
  simp [Dev.periodEnds, Dev.pacingGrant_noMembers h, Dev.setGenDue]

theorem pacingGrant_next {s : State} {g : GenId} {due : Time} (hup : s.dev.up) (hdue : s.dev.gens[g].due = some due) :
    exec (.pacingGrant g) s = .next { s with dev := (Dev.periodEnds g due (s.dev.tick due)).settle } := by
  show State.goOn (Dev.pacingExpiry g) s = _
  rw [State.goOn_next, Dev.pacingExpiry_up hup hdue]

end Sys2Proof.Machine

/-- Settles O20: the grant's halves and range, the sum of the adds, and the period that ends without a member have each their own
lemma. -/
theorem grantOfAGenerator : Obligations.GrantOfAGenerator := by
  refine ⟨fun c h1 h2 hperiod => ⟨c.two_mul_grant ?even, c.grant_bounds h1 h2 ?low ?high⟩, fun e => ?table,
    Dev.sum_adds_le_grant, fun s g due hup hdue hnone => ?discarded⟩
  case even => omega
  case low => omega
  case high => omega
  case table => simp only [GenSettings.grant, and_self]
  case discarded =>
    have hmembers : (s.dev.tick due).members g = [] := Dev.members_eq_nil hnone
    rw [pacingGrant_next hup hdue, Dev.periodEnds_noMembers due hmembers]
    rfl

end

section
/-!
SUPPORT and settlement of O33. What QUERY INTENT answers (R122, R123): the summary of the status array, the sequences that are not
found, and the contents of one slot.
-/

open Sys2Proof Sys2Proof.Machine

namespace Sys2Proof.Machine

/-! ## An intent's report (R113, R123) -/

/-- R113: the flag resolved, with the open marks written out. -/
theorem Slot.resolved_eq (x : Slot) :
    x.resolved = (x.written && !x.marks.any (fun e => e.2 = .pending ∨ e.2 = .inFlight) && !x.held) := by
  have hopen : ∀ e : SlotId × Mark, e.2.isOpen = decide (e.2 = .pending ∨ e.2 = .inFlight) := fun e => by
    rw [Bool.eq_iff_iff, Mark.isOpen_iff, decide_eq_true_iff]
  simp only [Slot.resolved, hopen]

/-- R123, case 4. -/
theorem Slot.report_eq (x : Slot) :
    x.report =
      { written := x.written, origin := x.origin, tag := x.tag, marks := x.marks, quorum := x.quorum
        acked := (x.marks.filter fun e => e.2 = .acked).length
        openMarks := (x.marks.filter fun e => e.2 = .pending ∨ e.2 = .inFlight).length
        outcome := x.outcome, held := x.held, unindexed := x.unindexed, fetchBlocked := x.fetchBlocked
        digestRetried := x.digestRetried.isSome, holdOverflow := x.holdOverflow
        resolved := x.written && !x.marks.any (fun e => e.2 = .pending ∨ e.2 = .inFlight) && !x.held
        verdict := x.verdict, supersededBy := x.supersededBy } := by
  rw [← Slot.acked_eq, ← Slot.openMarks_eq, ← Slot.resolved_eq]
  rfl

/-! ## The summary (R122) -/

/-- R113: an intent that is WRITTEN is unresolved when it has an open mark or is held. -/
theorem Slot.written_unresolved (x : Slot) :
    (x.written && !x.resolved) =
      (x.written && (x.marks.any (fun e => e.2 = .pending ∨ e.2 = .inFlight) || x.held)) := by
  rw [Slot.resolved_eq]
  cases x.written
  case false => rfl
  case true => simp only [Bool.true_and, Bool.not_and, Bool.not_not]

/-- The number of table entries whose value passes a test, counted among the values or among the entries. -/
theorem length_filter_values (l : List (Nat × Slot)) (f : Slot → Bool) :
    ((l.map (·.2)).filter f).length = (l.filter fun e => f e.2).length := by
  rw [List.filter_map, List.length_map]
  rfl

/-- R122: the slots that are unresolved. -/
def Dev.unresolvedSlots (d : Dev) : List (Seq × Slot) :=
  d.status.slots.filter fun e =>
    e.2.written && (e.2.marks.any (fun m => m.2 = .pending ∨ m.2 = .inFlight) || e.2.held)

theorem Dev.statusSummary_staged (d : Dev) :
    d.statusSummary.staged = (d.status.slots.filter fun e => e.2.written = false).length := by
  show ((d.status.slots.map (·.2)).filter fun x => !x.written).length = _
  rw [length_filter_values]
  refine congrArg List.length (List.filter_congr fun e _ => ?_)
  cases e.2.written <;> rfl

theorem Dev.statusSummary_written (d : Dev) :
    d.statusSummary.written = (d.status.slots.filter fun e => e.2.written = true).length := by
  show ((d.status.slots.map (·.2)).filter fun x => x.written).length = _
  simp only [length_filter_values, Bool.decide_eq_true]

/-- The unresolved slots that the summary counts, by any test. -/
theorem Dev.unresolved_values (d : Dev) (f : Slot → Bool) :
    (((d.status.slots.map (·.2)).filter fun x => x.written && !x.resolved).filter f).length =
      (d.unresolvedSlots.filter fun e => f e.2).length := by
  simp only [Dev.unresolvedSlots, List.filter_filter, length_filter_values, Slot.written_unresolved]

theorem Dev.statusSummary_unresolved (d : Dev) : d.statusSummary.unresolved = d.unresolvedSlots.length := by
  show ((d.status.slots.map (·.2)).filter fun x => x.written && !x.resolved).length = _
  simp only [Dev.unresolvedSlots, length_filter_values, Slot.written_unresolved]

theorem Dev.statusSummary_unresolvedHeld (d : Dev) :
    d.statusSummary.unresolvedHeld = (d.unresolvedSlots.filter fun e => e.2.held).length :=
  d.unresolved_values fun x => x.held

theorem Dev.statusSummary_unresolvedBlocked (d : Dev) :
    d.statusSummary.unresolvedBlocked = (d.unresolvedSlots.filter fun e => e.2.fetchBlocked).length :=
  d.unresolved_values fun x => x.fetchBlocked

/-- R119, R122: the summary has the frontier of each slot that is not DETACHED. -/
theorem Dev.mem_statusSummary_frontiers (d : Dev) (j : SlotId) (f : Seq) :
    (j, f) ∈ d.statusSummary.frontiers ↔ d.sites[j].state ≠ .detached ∧ f = d.frontierOf j := by
  show (j, f) ∈ (allSlots.filterMap fun i => if d.siteState i = .detached then none else some (i, d.frontierOf i)) ↔ _
  rw [List.mem_filterMap]
  constructor
  · rintro ⟨i, -, hi⟩
    split at hi
    case isTrue => exact nomatch hi
    case isFalse hstate =>
      obtain ⟨rfl, rfl⟩ := Prod.mk.inj (Option.some.inj hi)
      exact ⟨hstate, rfl⟩
  · rintro ⟨hstate, rfl⟩
    exact ⟨j, mem_allSlots j, if_neg hstate⟩

/-! ## The four cases of R123 -/

theorem Dev.passedOver_iff (d : Dev) (q : Seq) :
    d.passedOver q = true ↔ ∃ r ∈ d.journal.passedOver, r.1 ≤ q ∧ q ≤ r.2 := by
  simp only [Dev.passedOver, List.any_eq_true, Bool.and_eq_true, decide_eq_true_iff]

/-- R123, cases 1 and 2: the sequence is beyond the tail, was passed over, or is not in the journal. -/
def Dev.goneSeq (d : Dev) (q : Seq) : Prop :=
  d.journal.nextSeq ≤ q ∨ (∃ r ∈ d.journal.passedOver, r.1 ≤ q ∧ q ≤ r.2) ∨ d.inJournal q = false

theorem Dev.goneSeq_iff (d : Dev) (q : Seq) :
    d.goneSeq q ↔ (d.beyondTail q || d.passedOver q) = true ∨ (!d.inJournal q) = true := by
  simp only [Dev.goneSeq, Dev.beyondTail, Bool.or_eq_true, decide_eq_true_iff, Dev.passedOver_iff, Bool.not_eq_true', or_assoc]

theorem Dev.actQueryIntent_summary (d : Dev) (tok : Tok) :
    d.actQueryIntent tok 0 = d.answer tok .done 0 (.statusSummary d.statusSummary) := if_pos rfl

theorem Dev.actQueryIntent_gone {d : Dev} {q : Seq} (tok : Tok) (hq : q ≠ 0) (h : d.goneSeq q) :
    d.actQueryIntent tok q = d.answer tok .notFound 0 .none := by
  unfold Dev.actQueryIntent
  rw [if_neg hq]
  obtain hout | habsent := (d.goneSeq_iff q).1 h
  · rw [if_pos hout]
    rfl
  · rw [if_pos habsent, ite_self]
    rfl

/-- R123, cases 3 and 4: an intent of the journal is answered from its slot. -/
theorem Dev.actQueryIntent_present {d : Dev} {q : Seq} (tok : Tok) (hq : q ≠ 0) (h : ¬ d.goneSeq q) :
    d.actQueryIntent tok q =
      match d.slot? q with
      | none => d.answer tok .done 1 .none
      | some x => d.answer tok .done 0 (.intent x.report) := by
  obtain ⟨hin, hpresent⟩ := not_or.1 (mt (d.goneSeq_iff q).2 h)
  unfold Dev.actQueryIntent
  rw [if_neg hq, if_neg hin, if_neg hpresent]
  rfl

theorem Dev.actQueryIntent_free {d : Dev} {q : Seq} (tok : Tok) (hq : q ≠ 0) (h : ¬ d.goneSeq q) (hslot : d.slot? q = none) :
    d.actQueryIntent tok q = d.answer tok .done 1 .none := by
  rw [Dev.actQueryIntent_present tok hq h, hslot]

theorem Dev.actQueryIntent_filled {d : Dev} {q : Seq} {x : Slot} (tok : Tok) (hq : q ≠ 0) (h : ¬ d.goneSeq q)
    (hslot : d.slot? q = some x) : d.actQueryIntent tok q = d.answer tok .done 0 (.intent x.report) := by
  rw [Dev.actQueryIntent_present tok hq h, hslot]

end Sys2Proof.Machine

/-- Settles O33: each case of the query is answered at once (posted_replies), from a status array and a journal that the clock and
the command's taking leave. -/
theorem queryIntentReports : Obligations.QueryIntentReports := by
  intro s t p cid hup hf d kept
  refine ⟨⟨d.statusSummary, ?summary, rfl, rfl, rfl, d.statusSummary_staged, d.statusSummary_written, rfl, rfl, rfl,
      ⟨d.statusSummary_unresolved, d.statusSummary_unresolvedHeld, d.statusSummary_unresolvedBlocked⟩, rfl,
      d.mem_statusSummary_frontiers⟩,
    fun q hq => ⟨fun hgone => ?gone, fun hin hslot => ?free, fun hin x hslot => ?filled⟩⟩
  case summary => exact Dev.posted_replies hup hf rfl (Dev.actQueryIntent_summary _ _)
  case gone => exact Dev.posted_replies hup hf rfl (Dev.actQueryIntent_gone _ hq hgone)
  case free => exact Dev.posted_replies hup hf rfl (Dev.actQueryIntent_free _ hq hin hslot)
  case filled =>
    rw [← Slot.report_eq]
    exact Dev.posted_replies hup hf rfl (Dev.actQueryIntent_filled _ hq hin hslot)

end

section
/-!
SUPPORT and settlement of O35. A landing descriptor joins its port's list (R134, R140), a landing write completes (R136), and a
STORED finishes its arrival (R125, R126, R141).
-/

open Sys2Proof Sys2Proof.Machine

namespace Sys2Proof.Machine

/-! ## A command whose effect comes with its answer -/

/-- R167: a command that acts at once on a free port is answered in the event of its posting, when its effect on the part leads to
one (u) at which its port is still idle. -/
theorem Dev.posted_replies_from {s : State} {t : Time} {p : PortId} {cid : Word32} {b : CmdBody} {st : Status} {fl : Byte}
    {body : RespBody} {u : Dev} (hup : s.dev.up) (hf : s.dev.portFree p) (ha : usesArbiter b = false) (hidle : u.portIdle p)
    (htok : u.nextToken = s.dev.nextToken)
    (hact : ((s.dev.tick t).take p ⟨cid, b⟩ []).act (s.dev.nextTok p) .none b =
      (u.take p ⟨cid, b⟩ []).answer (s.dev.nextTok p) st fl body) :
    s.goOn (Dev.posted t p cid b) = .next { s with dev := (u.replied p cid (kindCode b) st fl body).settle } := by
  have hname : s.dev.nextTok p = u.nextTok p := congrArg (Tok.mk p) htok.symm
  rw [Dev.posted_acts cid b hup hf ha, hact, hname, Dev.take_answer ⟨cid, b⟩ st fl body hidle]

section Replied

variable (d : Dev) {p : PortId} (cid : Word32) (kind : Nat) (st : Status) (fl : Byte) (b : RespBody)

theorem Dev.replied_port_self :
    (d.replied p cid kind st fl b).ports[p] = { d.ports[p] with respQ := d.ports[p].respQ ++ [⟨kind, st, fl, cid, b⟩] } :=
  Dev.modPort_self d p fun q => { q with respQ := q.respQ ++ [⟨kind, st, fl, cid, b⟩] }

theorem Dev.replied_port_other {q : PortId} (h : q ≠ p) : (d.replied p cid kind st fl b).ports[q] = d.ports[q] :=
  Dev.modPort_other d p q (fun q => { q with respQ := q.respQ ++ [⟨kind, st, fl, cid, b⟩] }) h

end Replied

/-! ## POST LANDING (R134, R140) -/

/-- R140: the port holds the landing ID in its list, or an arrival is delivered or being delivered to it there. -/
def Dev.HoldsLanding (d : Dev) (p : PortId) (id : Nat) : Prop :=
  (∃ x ∈ d.ports[p].landings, x.id = id) ∨ ∃ a ∈ d.inbound.arrivals, ∃ x, a.delivery = some (p, x) ∧ x.id = id

theorem Dev.landingUsed_iff (d : Dev) (p : PortId) (id : Nat) : d.landingUsed p id = true ↔ d.HoldsLanding p id := by
  unfold Dev.landingUsed Dev.HoldsLanding
  rw [Bool.or_eq_true, List.any_eq_true, List.any_eq_true]
  simp only [beq_iff_eq]
  refine or_congr_right (exists_congr fun a => and_congr_right fun _ => ?_)
  rcases a.delivery with _ | ⟨q, x⟩
  · simp
  · simp only [Bool.and_eq_true, beq_iff_eq, Option.some.injEq, Prod.mk.injEq]
    exact ⟨fun ⟨hq, hx⟩ => ⟨x, ⟨hq, rfl⟩, hx⟩, fun ⟨_, ⟨hq, hx⟩, hid⟩ => ⟨hq, hx ▸ hid⟩⟩

/-- R140: a field of POST LANDING is bad. -/
def Dev.BadLanding (d : Dev) (p : PortId) (id addr capacity : Nat) : Prop :=
  capacity < 4096 ∨ addr % 16 ≠ 0 ∨ d.HoldsLanding p id

theorem Dev.take_badLanding (d : Dev) (p q : PortId) (r : CmdRec) (rest : List CmdRec) (id addr capacity : Nat) :
    (d.take p r rest).BadLanding q id addr capacity ↔ d.BadLanding q id addr capacity := by
  unfold Dev.BadLanding Dev.HoldsLanding
  rw [Dev.take_landings, Dev.take_inbound]

/-- R134: a descriptor joins the end of a port's landing list. -/
def Dev.addLanding (p : PortId) (l : Landing) (d : Dev) : Dev :=
  d.modPort p fun q => { q with landings := q.landings ++ [l] }

theorem Dev.addLanding_landings (d : Dev) (p : PortId) (l : Landing) :
    (d.addLanding p l).ports[p].landings = d.ports[p].landings ++ [l] := by
  unfold Dev.addLanding
  rw [Dev.modPort_self]

theorem Dev.addLanding_portIdle {d : Dev} {p : PortId} (l : Landing) (h : d.portIdle p) : (d.addLanding p l).portIdle p := by
  unfold Dev.portIdle Dev.addLanding
  rw [Dev.modPort_self]
  exact h

/-- The taking of a command and the joining of a descriptor change different fields of the port. -/
theorem Dev.take_addLanding (d : Dev) (p : PortId) (r : CmdRec) (rest : List CmdRec) (l : Landing) :
    (d.take p r rest).addLanding p l = (d.addLanding p l).take p r rest := by
  simp [Dev.take, Dev.addLanding, Dev.modPort]

section PostLanding

variable {d : Dev} {p : PortId} {id addr capacity : Nat} (n : Nat)

theorem Dev.actPostLanding_bad (h : d.BadLanding p id addr capacity) :
    d.actPostLanding ⟨p, n⟩ id addr capacity = d.answer ⟨p, n⟩ .badField 0 .none := by
  unfold Dev.BadLanding at h
  rw [← Dev.landingUsed_iff] at h
  exact if_pos h

theorem Dev.actPostLanding_full (h : ¬ d.BadLanding p id addr capacity) (hfull : 256 ≤ d.ports[p].landings.length) :
    d.actPostLanding ⟨p, n⟩ id addr capacity = d.answer ⟨p, n⟩ .wrongState 0 .none := by
  unfold Dev.BadLanding at h
  rw [← Dev.landingUsed_iff] at h
  exact (if_neg h).trans (if_pos hfull)

theorem Dev.actPostLanding_done (h : ¬ d.BadLanding p id addr capacity) (hroom : d.ports[p].landings.length < 256) :
    d.actPostLanding ⟨p, n⟩ id addr capacity =
      (d.addLanding p ⟨id, addr, capacity⟩).answer ⟨p, n⟩ .done 0 (.landings (d.ports[p].landings.length + 1)) := by
  unfold Dev.BadLanding at h
  rw [← Dev.landingUsed_iff] at h
  have hlength : (d.addLanding p ⟨id, addr, capacity⟩).ports[p].landings.length = d.ports[p].landings.length + 1 := by
    rw [Dev.addLanding_landings, List.length_append, List.length_singleton]
  rw [← hlength]
  exact (if_neg h).trans (if_neg (Nat.not_le.2 hroom))

end PostLanding

/-! ## The landing write completes (R136) -/

/-- R136: the one arrival that is being delivered to the port becomes DELIVERED, and its notice names the site of its slot. -/
theorem Dev.landed_eq {d : Dev} {p : PortId} {a : Arrival} {l : Landing} {site : Nat}
    (hone : (d.inbound.arrivals.filter fun x => x.state = .delivering ∧ (x.delivery.map (·.1)) = some p) = [a])
    (hdel : a.delivery = some (p, l)) (hsite : d.settings.sites[a.slot].site = some site) :
    d.landed p =
      ((d.stopLanding p).modArrival a.id fun a => { a with state := .delivered }).notify p false
        (.delivered a.id a.attempt l.id site a.desc.seq a.kind a.desc.bucket a.desc.payloadLen (a.compare.getD .none)) := by
  have hfind : (d.inbound.arrivals.find? fun x => x.state == .delivering && (x.delivery.map (·.1)) == some p) = some a := by
    rw [← List.head?_filter]
    refine (congrArg List.head? (List.filter_congr fun x _ => ?_)).trans (congrArg List.head? hone)
    rw [Bool.decide_and, beq_eq_decide, beq_eq_decide]
  have hslot : (d.config a.slot).site = some site := hsite
  unfold Dev.landed
  rw [hfind]
  simp only [hdel]
  show Dev.notify p false (.delivered _ _ _ ((d.config a.slot).site.getD 0) _ _ _ _ _) _ = _
  rw [hslot]
  rfl

theorem landingWriteComplete_next {s : State} (t : Time) (p : PortId) (h : s.dev.power.powered = true) :
    exec (.landingWriteComplete t p) s = .next { s with dev := ((s.dev.tick t).landed p).settle } := by
  show s.goOn (Dev.event t (Dev.landed p)) = _
  rw [State.goOn_next, Dev.event_powered _ _ _ h]

theorem Dev.modArrival_arrivals (id : Nat) (f : Arrival → Arrival) (d : Dev) :
    (d.modArrival id f).inbound.arrivals = d.inbound.arrivals.map fun x => if x.id = id then f x else x := by
  refine List.map_congr_left fun x _ => ?_
  simp only [beq_iff_eq]

theorem Dev.stopLanding_dma (p : PortId) (d : Dev) :
    (d.stopLanding p).dma = d.dma.filter fun w => !(w.port == p && w.journal == none) := by
  refine List.filter_congr fun w _ => ?_
  cases hw : w.journal <;> simp [DmaWrite.isLanding, hw]

/-! ## A finished arrival (R125, R126) -/

/-- R126: the receipts for an arrival that is finished: its own, and the one that it holds. -/
def Arrival.receipts (a : Arrival) (o : ReceiptOutcome) : List (SlotId × Seq × ReceiptOutcome) :=
  (a.slot, a.desc.seq, o) ::
    match a.heldReceipt with
    | some (k, q) => [(k, q, heldOutcome o)]
    | none => []

/-- R126: receipts for pairs, which join the done list. -/
def Dev.settlePairs (l : List (SlotId × Seq × ReceiptOutcome)) (d : Dev) : Dev :=
  l.foldl (fun d e => d.settlePair e.1 e.2.1 e.2.2) d

theorem Dev.finish_eq (a : Arrival) (o : ReceiptOutcome) (d : Dev) :
    d.finish a o = (d.settlePairs (a.receipts o)).dropArrival a.id := by
  unfold Dev.finish Arrival.receipts
  rcases a.heldReceipt with _ | ⟨k, q⟩ <;> rfl

theorem Dev.settlePair_sites (j : SlotId) (s : Seq) (o : ReceiptOutcome) (d : Dev) : (d.settlePair j s o).sites = d.sites :=
  (congrArg Dev.sites (d.settlePair_rest j s o) :)

/-- R126: a receipt for this pair is raised: its slot is not FENCED. -/
def Dev.raises (d : Dev) (e : SlotId × Seq × ReceiptOutcome) : Bool := d.sites[e.1].state != .fenced

/-- R126: a receipt for a FENCED slot is withheld. -/
theorem Dev.raiseReceipt_fenced {j : SlotId} (s : Seq) (o : ReceiptOutcome) {d : Dev} (h : d.sites[j].state = .fenced) :
    d.raiseReceipt j s o =
      d.countInbound fun c => { c with raised := sat64 (c.raised + 1), withheld := sat64 (c.withheld + 1) } := if_pos h

theorem Dev.raiseReceipt_open {j : SlotId} (s : Seq) (o : ReceiptOutcome) {d : Dev} (h : d.sites[j].state ≠ .fenced) :
    d.raiseReceipt j s o =
      (d.countInbound fun c => { c with raised := sat64 (c.raised + 1) }).modInbound
        fun x => { x with raised := x.raised ++ [(j, s, o)] } := if_neg h

theorem Dev.settlePair_raised (j : SlotId) (s : Seq) (o : ReceiptOutcome) (d : Dev) :
    (d.settlePair j s o).inbound.raised = d.inbound.raised ++ [(j, s, o)].filter d.raises := by
  show (d.raiseReceipt j s o).inbound.raised = _
  by_cases h : d.sites[j].state = .fenced
  · rw [Dev.raiseReceipt_fenced s o h, List.filter_cons_of_neg (p := d.raises) fun hne => bne_iff_ne.1 hne h]
    exact (List.append_nil _).symm
  · rw [Dev.raiseReceipt_open s o h, List.filter_cons_of_pos (p := d.raises) (bne_iff_ne.2 h)]
    rfl

theorem Dev.settlePair_raises (j : SlotId) (s : Seq) (o : ReceiptOutcome) (d : Dev) : (d.settlePair j s o).raises = d.raises := by
  unfold Dev.raises
  rw [Dev.settlePair_sites]

theorem Dev.settlePair_done_eq (j : SlotId) (s : Seq) (o : ReceiptOutcome) (d : Dev) :
    (d.settlePair j s o).inbound.done =
      (if d.inbound.done.length < 4096 then d.inbound.done else d.inbound.done.drop 1) ++ [⟨j, s, o⟩] := by
  unfold Dev.settlePair
  by_cases h : d.sites[j].state = .fenced
  · rw [Dev.raiseReceipt_fenced s o h]
    rfl
  · rw [Dev.raiseReceipt_open s o h]
    rfl

/-- R125: a done list that holds fewer than 4,096 entries loses none. -/
theorem Dev.settlePair_done (j : SlotId) (s : Seq) (o : ReceiptOutcome) {d : Dev} (h : d.inbound.done.length < 4096) :
    (d.settlePair j s o).inbound.done = d.inbound.done ++ [⟨j, s, o⟩] := by
  rw [Dev.settlePair_done_eq, if_pos h]

theorem Dev.settlePairs_raised (l : List (SlotId × Seq × ReceiptOutcome)) (d : Dev) :
    (d.settlePairs l).inbound.raised = d.inbound.raised ++ l.filter d.raises := by
  induction l generalizing d with
  | nil => exact (List.append_nil _).symm
  | cons e l ih =>
    show ((d.settlePair e.1 e.2.1 e.2.2).settlePairs l).inbound.raised = _
    rw [ih, Dev.settlePair_raises, Dev.settlePair_raised, List.append_assoc, ← List.filter_append]
    rfl

theorem Dev.settlePairs_done (l : List (SlotId × Seq × ReceiptOutcome)) {d : Dev} (h : d.inbound.done.length + l.length ≤ 4096) :
    (d.settlePairs l).inbound.done = d.inbound.done ++ l.map fun e => ⟨e.1, e.2.1, e.2.2⟩ := by
  induction l generalizing d with
  | nil => exact (List.append_nil _).symm
  | cons e l ih =>
    rw [List.length_cons] at h
    have hdone := Dev.settlePair_done e.1 e.2.1 e.2.2 (show d.inbound.done.length < 4096 by omega)
    have hlength : (d.settlePair e.1 e.2.1 e.2.2).inbound.done.length = d.inbound.done.length + 1 := by
      rw [hdone, List.length_append, List.length_singleton]
    show ((d.settlePair e.1 e.2.1 e.2.2).settlePairs l).inbound.done = _
    rw [ih (by omega), hdone, List.append_assoc]
    rfl

theorem Dev.finish_raised (a : Arrival) (o : ReceiptOutcome) (d : Dev) :
    (d.finish a o).inbound.raised = d.inbound.raised ++ (a.receipts o).filter d.raises := by
  rw [Dev.finish_eq]
  exact Dev.settlePairs_raised _ d

theorem Dev.finish_done {a : Arrival} {o : ReceiptOutcome} {d : Dev} (h : d.inbound.done.length + (a.receipts o).length ≤ 4096) :
    (d.finish a o).inbound.done = d.inbound.done ++ (a.receipts o).map fun e => ⟨e.1, e.2.1, e.2.2⟩ := by
  rw [Dev.finish_eq]
  exact Dev.settlePairs_done _ h

theorem Dev.finish_ports (a : Arrival) (o : ReceiptOutcome) (d : Dev) : (d.finish a o).ports = d.ports :=
  (congrArg Dev.ports (d.finish_rest a o) :)

theorem Dev.finish_nextToken (a : Arrival) (o : ReceiptOutcome) (d : Dev) : (d.finish a o).nextToken = d.nextToken :=
  (congrArg Dev.nextToken (d.finish_rest a o) :)

theorem Dev.finish_portIdle {d : Dev} {p : PortId} (a : Arrival) (o : ReceiptOutcome) (h : d.portIdle p) :
    (d.finish a o).portIdle p := by
  unfold Dev.portIdle
  rw [Dev.finish_ports]
  exact h

/-! The taking of a command and the finishing of an arrival change different fields of the part. -/

theorem Dev.take_raiseReceipt (d : Dev) (p : PortId) (r : CmdRec) (rest : List CmdRec) (j : SlotId) (s : Seq) (o : ReceiptOutcome) :
    (d.take p r rest).raiseReceipt j s o = (d.raiseReceipt j s o).take p r rest := by
  by_cases h : d.sites[j].state = .fenced
  · rw [Dev.raiseReceipt_fenced s o h]
    exact Dev.raiseReceipt_fenced s o h
  · rw [Dev.raiseReceipt_open s o h]
    exact Dev.raiseReceipt_open s o h

theorem Dev.take_settlePairs (d : Dev) (p : PortId) (r : CmdRec) (rest : List CmdRec) (l : List (SlotId × Seq × ReceiptOutcome)) :
    (d.take p r rest).settlePairs l = (d.settlePairs l).take p r rest := by
  induction l generalizing d with
  | nil => rfl
  | cons e l ih =>
    have hpair : (d.take p r rest).settlePair e.1 e.2.1 e.2.2 = (d.settlePair e.1 e.2.1 e.2.2).take p r rest := by
      unfold Dev.settlePair
      rw [Dev.take_raiseReceipt]
      rfl
    show ((d.take p r rest).settlePair e.1 e.2.1 e.2.2).settlePairs l = _
    rw [hpair]
    exact ih _

theorem Dev.take_finish (d : Dev) (p : PortId) (r : CmdRec) (rest : List CmdRec) (a : Arrival) (o : ReceiptOutcome) :
    (d.take p r rest).finish a o = (d.finish a o).take p r rest := by
  rw [Dev.finish_eq, Dev.finish_eq, Dev.take_settlePairs]
  rfl

/-! ## STORED (R141) -/

/-- R141: the arrival is DELIVERED to the port. -/
def Arrival.DeliveredTo (a : Arrival) (p : PortId) : Prop := a.state = .delivered ∧ ∃ x, a.delivery = some (p, x)

theorem Arrival.deliveredTo_iff (a : Arrival) (p : PortId) :
    a.DeliveredTo p ↔ a.state = .delivered ∧ a.delivery.map (·.1) = some p := by
  unfold Arrival.DeliveredTo
  rw [Option.map_eq_some_iff]
  refine and_congr_right fun _ => ⟨fun ⟨x, hx⟩ => ⟨(p, x), hx, rfl⟩, ?_⟩
  rintro ⟨⟨_, x⟩, hx, rfl⟩
  exact ⟨x, hx⟩

/-- R141: the receipt's outcome for an outcome code of STORED. -/
def storedReceipt (code : Nat) : ReceiptOutcome := if code = 1 then .stored else .refused

theorem storedOutcomeOf_eq_some {code : Nat} (h : code = 1 ∨ code = 2) : storedOutcomeOf code = some (storedReceipt code) := by
  rcases h with rfl | rfl <;> rfl

theorem storedOutcomeOf_eq_none {code : Nat} (h : code ≠ 1 ∧ code ≠ 2) : storedOutcomeOf code = none := by
  unfold storedOutcomeOf
  split
  · exact absurd rfl h.1
  · exact absurd rfl h.2
  · rfl

/-- R126, R141: the pairs that a STORED settles; that outcome 1 is STORED and 2 REJECTED is log 7. -/
theorem Arrival.receipts_stored (a : Arrival) (code : Nat) :
    a.receipts (storedReceipt code) =
      (a.slot, a.desc.seq, if code = 1 then ReceiptOutcome.stored else .refused) ::
        match a.heldReceipt with
        | some (k, q) => [(k, q, if code = 1 then ReceiptOutcome.supersededAtPeer else .refused)]
        | none => [] := by
  have hheld : heldOutcome (storedReceipt code) = if code = 1 then ReceiptOutcome.supersededAtPeer else .refused := by
    unfold storedReceipt
    split <;> rfl
  unfold Arrival.receipts
  rw [hheld]
  rfl

section Stored

variable {d : Dev} {id code : Nat} {a : Arrival} (tok : Tok)

theorem Dev.actStored_badCode (h : code ≠ 1 ∧ code ≠ 2) : d.actStored tok id code = d.answer tok .badField 0 .none := by
  unfold Dev.actStored
  rw [storedOutcomeOf_eq_none h]
  rfl

theorem Dev.actStored_absent (h : code = 1 ∨ code = 2) (ha : d.inbound.arrival id = none) :
    d.actStored tok id code = d.answer tok .notFound 0 .none := by
  unfold Dev.actStored
  rw [storedOutcomeOf_eq_some h]
  dsimp only
  rw [ha]
  rfl

theorem Dev.actStored_notOurs (h : code = 1 ∨ code = 2) (ha : d.inbound.arrival id = some a) (hours : ¬ a.DeliveredTo tok.port) :
    d.actStored tok id code = d.answer tok .wrongState 0 .none := by
  rw [Arrival.deliveredTo_iff] at hours
  unfold Dev.actStored
  rw [storedOutcomeOf_eq_some h]
  dsimp only
  rw [ha]
  exact if_neg hours

theorem Dev.actStored_done (h : code = 1 ∨ code = 2) (ha : d.inbound.arrival id = some a) (hours : a.DeliveredTo tok.port) :
    d.actStored tok id code = (d.finish a (storedReceipt code)).answer tok .done 0 .none := by
  rw [Arrival.deliveredTo_iff] at hours
  unfold Dev.actStored
  rw [storedOutcomeOf_eq_some h]
  dsimp only
  rw [ha]
  exact if_pos hours

end Stored

/-! ## The posted commands -/

theorem postLanding_done_next {s : State} (t : Time) {p : PortId} (cid : Word32) {id addr capacity : Nat} (hup : s.dev.up)
    (hf : s.dev.portFree p) (h : ¬ s.dev.BadLanding p id addr capacity) (hroom : s.dev.ports[p].landings.length < 256) :
    exec (.postLanding t p cid id addr capacity) s =
      .next { s with dev :=
        (((s.dev.tick t).addLanding p ⟨id, addr, capacity⟩).replied p cid 20 .done 0
          (.landings (s.dev.ports[p].landings.length + 1))).settle } := by
  have hlength := congrArg List.length ((s.dev.tick t).take_landings p p ⟨cid, .postLanding id addr capacity⟩ [])
  have hgood := mt ((s.dev.tick t).take_badLanding p p ⟨cid, .postLanding id addr capacity⟩ [] id addr capacity).1 h
  refine Dev.posted_replies_from hup hf rfl (Dev.addLanding_portIdle _ hf.2) rfl ?_
  rw [← Dev.take_addLanding]
  refine (Dev.actPostLanding_done _ hgood (hlength.trans_lt hroom)).trans ?_
  rw [hlength]
  rfl

theorem stored_next {s : State} {t : Time} {p : PortId} (cid : Word32) {id code : Nat} {a : Arrival} (hup : s.dev.up)
    (hf : s.dev.portFree p) (h : code = 1 ∨ code = 2) (ha : s.dev.inbound.arrival id = some a) (hours : a.DeliveredTo p) :
    exec (.stored t p cid id code) s =
      .next { s with dev := (((s.dev.tick t).finish a (storedReceipt code)).replied p cid 21 .done 0 .none).settle } := by
  refine Dev.posted_replies_from (b := .stored id code) hup hf rfl (Dev.finish_portIdle _ _ hf.2)
    (Dev.finish_nextToken _ _ _) ?_
  rw [← Dev.take_finish]
  exact Dev.actStored_done _ h ha hours

end Sys2Proof.Machine

/-- Settles O35: POST LANDING by the cases of Dev.actPostLanding, the landing write by Dev.landed_eq, and STORED by stored_next with what
the finishing of the arrival leaves. -/
theorem landingsAreDeliveredAndFinished : Obligations.LandingsAreDeliveredAndFinished := by
  refine ⟨⟨?posted, ?landed⟩, ?stored⟩
  case posted =>
    intro s t p cid id addr capacity hup hf d l bad
    have htake (r : CmdRec) : (d.take p r []).BadLanding p id addr capacity ↔ bad :=
      d.take_badLanding p p r [] id addr capacity
    refine ⟨fun h => ?bad, fun h hfull => ?full, fun h hroom => postLanding_done_next t cid hup hf h hroom⟩
    case bad => exact Dev.posted_replies hup hf rfl (Dev.actPostLanding_bad _ ((htake _).2 h))
    case full =>
      refine Dev.posted_replies hup hf rfl (Dev.actPostLanding_full _ (mt (htake _).1 h) (hfull.trans_eq ?_))
      exact congrArg List.length (d.take_landings p p _ []).symm
  case landed =>
    intro s t p a l site hpow hone hdel hsite
    refine ⟨(s.dev.tick t).landed p, landingWriteComplete_next t p hpow, ?_⟩
    rw [Dev.landed_eq (d := s.dev.tick t) hone hdel hsite]
    exact ⟨Dev.modArrival_arrivals _ _ _, (s.dev.tick t).stopLanding_dma p, Dev.modPort_self _ _ _,
      fun q hq => Dev.modPort_other _ _ _ _ hq, rfl⟩
  case stored =>
    intro s t p cid id code hup hf d found ours
    refine ⟨fun h => ?badCode, fun h ha => ?absent, fun a h ha hours => ?notOurs, fun a h ha hours => ?done⟩
    case badCode => exact Dev.posted_replies hup hf rfl (Dev.actStored_badCode _ h)
    case absent => exact Dev.posted_replies hup hf rfl (Dev.actStored_absent _ h ha)
    case notOurs => exact Dev.posted_replies hup hf rfl (Dev.actStored_notOurs _ h ha hours)
    case done =>
      intro o pairs
      have hpairs : a.receipts (storedReceipt code) = pairs := a.receipts_stored code
      refine ⟨_, stored_next cid hup hf h ha hours, Dev.finish_arrivals _ _ d, ?_, fun hdone => ?_, ?_, fun q hq => ?_, ?_⟩
      · rw [← hpairs]
        exact Dev.finish_raised _ _ d
      · rw [← hpairs] at hdone ⊢
        exact Dev.finish_done (d := d) hdone
      · rw [Dev.replied_port_self, Dev.finish_ports]
        rfl
      · rw [Dev.replied_port_other _ _ _ _ _ _ hq, Dev.finish_ports]
        rfl
      · exact congrArg (fun x : Dev => { x with nextToken := d.nextToken, ports := d.ports })
          (Dev.finish_rest a (storedReceipt code) d)

end

section
/-!
SUPPORT and settlement of O13. The software guard and the waiting erase request that it withdraws (R147, R151, R160), the raw guard
line with its settling timer (R152), and the guards with which a start begins (R150, R153).
-/

open Sys2Proof Sys2Proof.Machine

namespace Sys2Proof.Machine

/-! ## GUARD ON and GUARD OFF (R160) -/

/-- R160: the software guard takes a level. -/
def Dev.setSoftwareGuard (on : Bool) (d : Dev) : Dev := { d with guard := { d.guard with software := on } }

theorem Dev.setSoftwareGuard_of_eq {d : Dev} {on : Bool} (h : d.guard.software = on) : d.setSoftwareGuard on = d := by
  subst h
  rfl

theorem Dev.turnGuardOn_of_on {d : Dev} (h : d.guard.software = true) : d.turnGuardOn = d := if_pos h

theorem Dev.turnGuardOn_of_off {d : Dev} (h : d.guard.software = false) :
    d.turnGuardOn = (d.setSoftwareGuard true).withdrawGuarded := if_neg (by rw [h]; exact Bool.false_ne_true)

/-- R151: with the software guard ON every MARKED group is guarded. -/
theorem Dev.setSoftwareGuard_guarded (d : Dev) (n : Nat) :
    (d.setSoftwareGuard true).guarded n = d.settings.guardMap.getLsbD (n / 32) := Bool.and_true _

theorem Dev.withdrawGuarded_of_waiting {d : Dev} {n : Nat} (he : d.reclaim.engine = .waiting n) :
    d.withdrawGuarded = if d.guarded n then d.withdraw else d := by
  unfold Dev.withdrawGuarded
  rw [he]

theorem Dev.withdrawGuarded_eq_self {d : Dev} (h : ∀ n, d.reclaim.engine = .waiting n → d.guarded n = false) :
    d.withdrawGuarded = d := by
  cases he : d.reclaim.engine with
  | waiting n => rw [Dev.withdrawGuarded_of_waiting he, h n he]; rfl
  | idle => unfold Dev.withdrawGuarded; rw [he]
  | erasing n => unfold Dev.withdrawGuarded; rw [he]

/-- R160: without a request that waits in a MARKED group, GUARD ON changes the software guard alone. -/
theorem Dev.turnGuardOn_alone {d : Dev}
    (h : ∀ n, d.reclaim.engine = .waiting n → d.settings.guardMap.getLsbD (n / 32) = false) :
    d.turnGuardOn = d.setSoftwareGuard true := by
  by_cases hon : d.guard.software = true
  · rw [Dev.turnGuardOn_of_on hon, Dev.setSoftwareGuard_of_eq hon]
  · rw [Dev.turnGuardOn_of_off (Bool.eq_false_of_not_eq_true hon)]
    exact Dev.withdrawGuarded_eq_self fun n he => (d.setSoftwareGuard_guarded n).trans (h n he)

/-- R147, R160: GUARD ON withdraws a request that waits in a MARKED group. -/
theorem Dev.turnGuardOn_withdraws {d : Dev} {n : Nat} (hoff : d.guard.software = false) (he : d.reclaim.engine = .waiting n)
    (hmarked : d.settings.guardMap.getLsbD (n / 32) = true) : d.turnGuardOn = (d.setSoftwareGuard true).withdraw := by
  have hwaits : (d.setSoftwareGuard true).reclaim.engine = .waiting n := he
  rw [Dev.turnGuardOn_of_off hoff, Dev.withdrawGuarded_of_waiting hwaits, d.setSoftwareGuard_guarded, if_pos hmarked]

/-- The withdrawal changes the guard and the reclaim engine alone. -/
theorem Dev.turnGuardOn_rest (d : Dev) : { d.turnGuardOn with guard := d.guard, reclaim := d.reclaim } = d := by
  unfold Dev.turnGuardOn Dev.withdrawGuarded
  split
  · rfl
  · split
    · split <;> rfl
    · rfl

/-! The taking of a command and the withdrawal change different fields of the part. -/

theorem Dev.take_withdrawGuarded (d : Dev) (p : PortId) (r : CmdRec) (rest : List CmdRec) :
    (d.take p r rest).withdrawGuarded = d.withdrawGuarded.take p r rest := by
  have hguarded (n : Nat) : (d.take p r rest).guarded n = d.guarded n := rfl
  unfold Dev.withdrawGuarded
  rw [Dev.take_reclaim]
  split
  · rw [hguarded]
    split <;> rfl
  · rfl

theorem Dev.take_turnGuardOn (d : Dev) (p : PortId) (r : CmdRec) (rest : List CmdRec) :
    (d.take p r rest).turnGuardOn = d.turnGuardOn.take p r rest := by
  by_cases hon : d.guard.software = true
  · rw [Dev.turnGuardOn_of_on hon]
    exact Dev.turnGuardOn_of_on hon
  · have hoff := Bool.eq_false_of_not_eq_true hon
    rw [Dev.turnGuardOn_of_off hoff, ← Dev.take_withdrawGuarded]
    exact Dev.turnGuardOn_of_off hoff

/-- R160: GUARD ON on a free port is answered in the event of its posting. -/
theorem guardOn_next {s : State} (t : Time) {p : PortId} (cid : Word32) (hup : s.dev.up) (hf : s.dev.portFree p) :
    exec (.guardOn t p cid) s =
      .next { s with dev := ((s.dev.tick t).turnGuardOn.replied p cid 23 .done 0
        (.guardOn s.dev.guard.filtered (markedGroups s.dev.settings.guardMap))).settle } := by
  have hrest := (s.dev.tick t).turnGuardOn_rest
  have hports : (s.dev.tick t).turnGuardOn.ports = s.dev.ports := (congrArg Dev.ports hrest :)
  have hidle : (s.dev.tick t).turnGuardOn.portIdle p := by
    unfold Dev.portIdle
    rw [hports]
    exact hf.2
  refine Dev.posted_replies_from (b := .guardOn) hup hf rfl hidle (congrArg Dev.nextToken hrest :) ?_
  rw [← Dev.take_turnGuardOn]
  rfl

theorem Dev.actGuardOff_asserted {d : Dev} (tok : Tok) (h : d.guard.filtered = true) :
    d.actGuardOff tok = d.answer tok .guardLine 0 .none := if_pos h

theorem Dev.actGuardOff_deasserted {d : Dev} (tok : Tok) (h : d.guard.filtered = false) :
    d.actGuardOff tok = (d.setSoftwareGuard false).answer tok .done 0 .none :=
  if_neg (by rw [h]; exact Bool.false_ne_true)

/-! ## The guard line (R152) -/

theorem guardLineChange_next {s : State} (t : Time) (raw : Bool) (h : s.dev.power.powered = true) :
    exec (.guardLineChange t raw) s =
      .next { s with dev := Dev.settle { s.dev.tick t with guard := s.dev.guard.line (s.dev.tick t).now raw } } := by
  show s.goOn (Dev.guardChange t raw) = _
  rw [State.goOn_next]
  unfold Dev.guardChange
  rw [if_pos h, Dev.event_powered _ _ _ h]
  rfl

section Line

variable {g : Guard} {raw : Bool} (now : Time)

theorem Guard.line_settled (h : raw = g.filtered) : g.line now raw = { g with raw := raw, settleDue := none } := by
  simp only [Guard.line, if_pos h]

theorem Guard.line_starts (hne : raw ≠ g.filtered) (hnew : raw ≠ g.raw) :
    g.line now raw = { g with raw := raw, settleDue := some (now + 10000) } := by
  simp only [Guard.line, if_neg hne, if_neg hnew]

theorem Guard.line_runs (hne : raw ≠ g.filtered) (hold : raw = g.raw) : g.line now raw = g := by
  simp only [Guard.line, if_neg hne, if_pos hold]
  rw [hold]

end Line

theorem guardSettlingExpiry_next {s : State} {due : Time} (h : s.dev.power.powered = true)
    (hdue : s.dev.guard.settleDue = some due) :
    exec .guardSettlingExpiry s = .next { s with dev := (s.dev.tick due).guardSettles.settle } := by
  show s.goOn Dev.guardExpiry = _
  rw [State.goOn_next]
  unfold Dev.guardExpiry
  rw [hdue, Dev.expiry_running _ _ _ _ rfl h]

/-! ## The guards with which a start begins (R150, R153) -/

/-- R150, R153: the software guard OFF and the filtered level ASSERTED; the raw level stands (log 26), with its settling timer. -/
def Dev.guardAtStart (d : Dev) : Guard := ⟨false, true, d.guard.raw, if d.guard.raw then none else some (d.now + 10000)⟩

theorem Dev.setLatch_guard (d : Dev) (v : Bool) (k : FaultKind) (sc : FaultScope) : (d.setLatch v k sc).guard = d.guard := by
  unfold Dev.setLatch
  split <;> rfl

theorem Dev.latch_guard (k : FaultKind) (sc : FaultScope) (d : Dev) : (d.latch k sc).guard = d.guard := by
  unfold Dev.latch
  split
  · rfl
  · exact (congrArg Dev.guard (Dev.faultNotice_rest (d.setLatch true k sc) k sc) :).trans (d.setLatch_guard true k sc)

theorem Dev.dropTorn_guard (d : Dev) : d.dropTorn.guard = d.guard := by
  unfold Dev.dropTorn
  split <;> rfl

theorem Dev.dropUnreadable_guard (from_ : Nat) (d : Dev) : (d.dropUnreadable from_).guard = d.guard := by
  unfold Dev.dropUnreadable
  dsimp only
  split
  · rfl
  · exact Dev.latch_guard _ _ _

theorem Dev.replayAll_guard (slots : SlotId → Rebuilt) (scan : Seq) (l : List ((Nat × Nat) × Rec)) (d : Dev) :
    (l.foldl (fun d e => d.replay slots scan e) d).guard = d.guard :=
  (congrArg Dev.guard (Dev.replayAll_kept slots scan l d) :)

theorem Dev.coldStart_guard (c : Settings) (d : Dev) : (d.coldStart c).guard = d.guardAtStart := by
  simp only [Dev.coldStart, Dev.forgetCounts, Dev.restartSites, Dev.holdAgain, Dev.replayAll_guard, Dev.dropUnreadable_guard,
    Dev.passOver, Dev.dropTorn_guard]
  rfl

theorem Dev.startWork_guard (d : Dev) : d.startWork.guard = d.guardAtStart := by
  unfold Dev.startWork
  dsimp only
  split
  · rfl
  · split
    · rfl
    · exact Dev.coldStart_guard _ _

theorem Dev.beginStart_guard (d : Dev) : d.beginStart.guard = d.guardAtStart := Dev.startWork_guard d.readArray

theorem powerUp_next {s : State} (t : Time) (m : StartMedia) (h : s.dev.power.powered = false) :
    exec (.powerUp t m) s = .next { s with dev := ((s.dev.tick t).applyPower m).settle } := by
  show s.goOn (Dev.powerUp t m) = _
  rw [State.goOn_next]
  unfold Dev.powerUp
  rw [if_neg (by rw [h]; exact Bool.false_ne_true)]

end Sys2Proof.Machine

/-- Settles O13: the two commands, the line and its timer, and the start each have their lemma above; that a MARKED group is guarded
while one of the guards holds is the definition of Dev.groupGuarded. -/
theorem guardsAndGuardLine : Obligations.GuardsAndGuardLine := by
  refine ⟨?commands, ?line⟩
  case commands =>
    intro s t p cid hup hf d marked on r
    have hnext := guardOn_next t cid hup hf
    refine ⟨fun hon => ?already, fun hnone => ?alone, fun n hoff he hmarked => ?withdraws, fun h => ?asserted,
      fun h => ?deasserted, fun _ _ => rfl⟩
    case already => rw [hnext, Dev.turnGuardOn_of_on (d := s.dev.tick t) hon]; rfl
    case alone => rw [hnext, Dev.turnGuardOn_alone (d := s.dev.tick t) hnone]; rfl
    case withdraws => rw [hnext, Dev.turnGuardOn_withdraws (d := s.dev.tick t) hoff he hmarked]; rfl
    case asserted => exact Dev.posted_replies hup hf rfl (Dev.actGuardOff_asserted _ h)
    case deasserted =>
      exact Dev.posted_replies_from (b := .guardOff) (u := d.setSoftwareGuard false) hup hf rfl hf.2 rfl
        (Dev.actGuardOff_deasserted _ h)
  case line =>
    intro s t raw d g
    refine ⟨fun hpow heq => ?settled, fun hpow hne hnew => ?starts, fun hpow hne hold => ?runs,
      fun hpow due hdue => guardSettlingExpiry_next hpow hdue, fun hpow m => ?start, fun _ _ => rfl⟩
    case settled => rw [guardLineChange_next t raw hpow, Guard.line_settled _ heq]
    case starts => rw [guardLineChange_next t raw hpow, Guard.line_starts _ hne hnew]
    case runs =>
      rw [guardLineChange_next t raw hpow, Guard.line_runs _ hne hold]
      rfl
    case start => exact ⟨_, powerUp_next t m hpow, Dev.beginStart_guard _⟩

end

section
/-!
SUPPORT and settlement of O41. Spent and unspent records (R143, R144), the eligible segments and the reclaim engine's choice (R145,
R146), the segment that is examined (R156, R157), and what the examination finds and does (R157, R158).
-/

open Sys2Proof Sys2Proof.Machine

namespace Sys2Proof.Machine

/-! ## Spent and unspent records (R143, R144) -/

theorem mem_pageRecs {p : Page} {e : (Nat × Nat) × Rec} :
    e ∈ pageRecs p ↔ e.1.1 = p.pos ∧ p.recs[e.1.2]? = some e.2 := by
  obtain ⟨⟨pos, i⟩, r⟩ := e
  simp only [pageRecs, List.mem_map, Prod.exists, List.mk_mem_zipIdx_iff_getElem?, Prod.mk.injEq]
  constructor
  · rintro ⟨_, _, hget, ⟨rfl, rfl⟩, rfl⟩
    exact ⟨rfl, hget⟩
  · rintro ⟨rfl, hget⟩
    exact ⟨r, i, hget, ⟨rfl, rfl⟩, rfl⟩

theorem later_iff (a b : Nat × Nat) : later a b = true ↔ a.1 < b.1 ∨ (a.1 = b.1 ∧ a.2 < b.2) := by simp [later]

/-- R4: the valid pages of the journal. -/
theorem ArrayBlk.mem_validPages {a : ArrayBlk} {e : Nat × Page} :
    e ∈ a.validPages ↔ ∃ h : Segment, (e.1, h) ∈ a.segs ∧ (h.state = .full ∨ h.state = .filling) ∧ e.2 ∈ h.pages ∧
      e.2.crcOk = true ∧ e.2.num ∉ h.failed := by
  obtain ⟨m, q⟩ := e
  simp only [ArrayBlk.validPages, ArrayBlk.held, Segment.valid, Segment.unfailed, List.mem_flatMap, List.mem_filter, List.mem_map,
    Bool.or_eq_true, Bool.and_eq_true, beq_iff_eq, Bool.not_eq_true', List.contains_eq_mem, decide_eq_false_iff_not,
    Prod.mk.injEq]
  constructor
  · rintro ⟨⟨_, h⟩, ⟨hmem, hstate⟩, _, ⟨hq, hcrc, hfail⟩, rfl, rfl⟩
    exact ⟨h, hmem, hstate, hq, hcrc, hfail⟩
  · rintro ⟨h, hmem, hstate, hq, hcrc, hfail⟩
    exact ⟨(m, h), ⟨hmem, hstate⟩, q, ⟨hq, hcrc, hfail⟩, rfl, rfl⟩

/-- R144: a record of the kind stands later, in a valid page, than the record of the page at the place. -/
def Dev.HasLater (d : Dev) (p : Page) (i : Nat) (kind : Rec → Prop) : Prop :=
  ∃ (m : Nat) (h : Segment) (q : Page) (k : Nat) (r : Rec), (m, h) ∈ d.array.segs ∧ (h.state = .full ∨ h.state = .filling) ∧
    q ∈ h.pages ∧ q.crcOk = true ∧ q.num ∉ h.failed ∧ (p.pos < q.pos ∨ (p.pos = q.pos ∧ i < k)) ∧ q.recs[k]? = some r ∧ kind r

theorem Dev.newerExists_iff (d : Dev) (p : Page) (i : Nat) (kind : Rec → Bool) :
    d.newerExists (p.pos, i) kind = true ↔ d.HasLater p i fun r => kind r = true := by
  simp only [Dev.newerExists, Dev.validRecs, List.any_eq_true, List.mem_flatMap, Bool.and_eq_true, mem_pageRecs, later_iff,
    ArrayBlk.mem_validPages]
  constructor
  · rintro ⟨⟨⟨_, k⟩, r⟩, ⟨⟨m, q⟩, ⟨h, hmem, hstate, hq, hcrc, hfail⟩, rfl, hget⟩, hlater, hkind⟩
    exact ⟨m, h, q, k, r, hmem, hstate, hq, hcrc, hfail, hlater, hget, hkind⟩
  · rintro ⟨m, h, q, k, r, hmem, hstate, hq, hcrc, hfail, hlater, hget, hkind⟩
    exact ⟨((q.pos, k), r), ⟨(m, q), ⟨h, hmem, hstate, hq, hcrc, hfail⟩, rfl, hget⟩, hlater, hkind⟩

/-- R143: the intent is resolved and not held, or its slot is FREE. -/
def Dev.IntentDone (d : Dev) (s : Seq) : Prop :=
  ∀ x, d.slot? s = some x → x.written = true ∧ x.held = false ∧ ∀ m ∈ x.marks, m.2 ≠ .pending ∧ m.2 ≠ .inFlight

theorem Slot.resolved_iff_marks (x : Slot) :
    x.resolved = true ↔ x.written = true ∧ x.held = false ∧ ∀ m ∈ x.marks, m.2 ≠ .pending ∧ m.2 ≠ .inFlight := by
  have hopen (m : Mark) : m.isOpen = false ↔ m ≠ .pending ∧ m ≠ .inFlight := by
    rw [← Bool.not_eq_true, Mark.isOpen_iff, not_or]
  simp only [Slot.resolved, Bool.and_eq_true, Bool.not_eq_true', List.any_eq_false, Bool.not_eq_true, hopen, and_assoc]
  exact and_congr_right fun _ => and_comm

theorem Dev.intentSpent_iff (d : Dev) (s : Seq) : d.intentSpent s = true ↔ d.IntentDone s := by
  unfold Dev.intentSpent Dev.IntentDone
  cases hx : d.slot? s with
  | none => simp
  | some x => simp [Slot.resolved_iff_marks]

/-- R143, R144: the record of the page at the place is spent. -/
def Dev.IsSpent (d : Dev) (p : Page) (i : Nat) : Rec → Prop
  | .intent x => d.IntentDone x.seq
  | .decision s _ => d.IntentDone s
  | .settings _ => d.HasLater p i fun r => ∃ c, r = .settings c
  | .frontier _ | .siteEvent .. => d.HasLater p i fun r => ∃ f, r = .frontier f
  | .shutdown _ | .resume _ => d.HasLater p i fun _ => True

theorem Rec.isSettings_iff (r : Rec) : r.isSettings = true ↔ ∃ c, r = .settings c := by cases r <;> simp [Rec.isSettings]

theorem Rec.isFrontier_iff (r : Rec) : r.isFrontier = true ↔ ∃ f, r = .frontier f := by cases r <;> simp [Rec.isFrontier]

theorem Dev.spent_iff (d : Dev) (p : Page) (i : Nat) (r : Rec) : d.spent (p.pos, i) r = true ↔ d.IsSpent p i r := by
  have hsettings : d.newerExists (p.pos, i) Rec.isSettings = true ↔ d.HasLater p i fun r => ∃ c, r = .settings c := by
    simpa only [Rec.isSettings_iff] using d.newerExists_iff p i Rec.isSettings
  have hfrontier : d.newerExists (p.pos, i) Rec.isFrontier = true ↔ d.HasLater p i fun r => ∃ f, r = .frontier f := by
    simpa only [Rec.isFrontier_iff] using d.newerExists_iff p i Rec.isFrontier
  have hany : d.newerExists (p.pos, i) (fun _ => true) = true ↔ d.HasLater p i fun _ => True := by
    simpa only using d.newerExists_iff p i fun _ => true
  cases r with
  | intent x => exact d.intentSpent_iff x.seq
  | decision s _ => exact d.intentSpent_iff s
  | settings _ => exact hsettings
  | frontier _ => exact hfrontier
  | siteEvent _ _ _ => exact hfrontier
  | shutdown _ => exact hany
  | resume _ => exact hany

/-- R143: the record stands unspent in a page of the segment that has not failed (log 62). -/
def Dev.IsUnspent (d : Dev) (g : Segment) (r : Rec) : Prop :=
  ∃ p ∈ g.pages, p.num ∉ g.failed ∧ ∃ i, p.recs[i]? = some r ∧ ¬ d.IsSpent p i r

theorem Dev.mem_unspent (d : Dev) (g : Segment) (r : Rec) : r ∈ d.unspent g ↔ d.IsUnspent g r := by
  have hsome (e : (Nat × Nat) × Rec) :
      (if d.spent e.1 e.2 then none else some e.2) = some r ↔ ¬ d.spent e.1 e.2 = true ∧ e.2 = r := by
    split <;> simp_all
  simp only [Dev.unspent, Dev.IsUnspent, List.mem_filterMap, List.mem_flatMap, List.mem_filter, mem_pageRecs, hsome,
    Segment.unfailed, Bool.not_eq_true', List.contains_eq_mem, decide_eq_false_iff_not, ← Dev.spent_iff]
  constructor
  · rintro ⟨⟨⟨_, i⟩, _⟩, ⟨p, ⟨hp, hfail⟩, rfl, hget⟩, hspent, rfl⟩
    exact ⟨p, hp, hfail, i, hget, hspent⟩
  · rintro ⟨p, hp, hfail, i, hget, hspent⟩
    exact ⟨((p.pos, i), r), ⟨p, ⟨hp, hfail⟩, rfl, hget⟩, hspent, rfl⟩

/-! ## Eligible segments (R145, R151) -/

theorem Dev.guarded_iff (d : Dev) (n : Nat) :
    d.guarded n = true ↔
      d.settings.guardMap.getLsbD (n / 32) = true ∧ (d.guard.software = true ∨ d.guard.filtered = true) := by
  simp [Dev.guarded, Dev.groupGuarded, Dev.guardInForce, groupOf]

theorem Dev.eligible_iff (d : Dev) (n : Nat) (g : Segment) :
    d.eligible n g = true ↔
      (g.state = .damaged ∨ (g.state = .full ∧ ∀ r, r ∉ d.unspent g)) ∧ d.guarded n = false := by
  unfold Dev.eligible
  cases hstate : g.state <;> simp [List.eq_nil_iff_forall_not_mem]

/-! ## The first of the lowest (R146, R157) -/

theorem foldl_lowest_eq_argmin {α : Type} (number : α → Nat) (h : α) (t : List α) :
    some (t.foldl (fun best e => if number e < number best then e else best) h) = List.argmin number (h :: t) := by
  show _ = t.foldl _ (some h)
  induction t generalizing h with
  | nil => rfl
  | cons a t ih =>
    rw [List.foldl_cons, List.foldl_cons, ih]
    congr 1
    exact apply_ite some _ _ _

theorem minOf_eq_min? (l : List Nat) : minOf l = l.min? := by cases l <;> rfl

theorem ArrayBlk.oldestFull_eq (a : ArrayBlk) (test : Nat → Segment → Bool) :
    a.oldestFull test =
      (List.argmin (fun e => e.2.lowestPos) (a.segs.filter fun e => e.2.state == .full && test e.1 e.2)).map (·.1) := by
  unfold ArrayBlk.oldestFull
  split
  · rename_i hnil
    rw [hnil]
    rfl
  · rename_i h t hcons
    rw [hcons, ← foldl_lowest_eq_argmin]
    rfl

/-- R146: of the FULL segments that pass the test, the chosen one has the lowest of the lowest page positions. -/
theorem ArrayBlk.oldestFull_some {a : ArrayBlk} {test : Nat → Segment → Bool} {n : Nat} (h : a.oldestFull test = some n) :
    ∃ g, (n, g) ∈ a.segs ∧ g.state = .full ∧ test n g = true ∧
      ∀ e ∈ a.segs, e.2.state = .full → test e.1 e.2 = true → g.lowestPos ≤ e.2.lowestPos := by
  rw [ArrayBlk.oldestFull_eq, Option.map_eq_some_iff] at h
  obtain ⟨⟨_, g⟩, hmin, rfl⟩ := h
  have hmem := List.mem_filter.1 (List.argmin_mem hmin)
  rw [Bool.and_eq_true, beq_iff_eq] at hmem
  refine ⟨g, hmem.1, hmem.2.1, hmem.2.2, fun e he hfull htest => ?_⟩
  have hpasses : e ∈ a.segs.filter fun e => e.2.state == .full && test e.1 e.2 :=
    List.mem_filter.2 ⟨he, by rw [hfull, htest]; rfl⟩
  exact List.le_of_mem_argmin (f := fun e : Nat × Segment => e.2.lowestPos) hpasses hmin

theorem ArrayBlk.oldestFull_eq_none_iff (a : ArrayBlk) (test : Nat → Segment → Bool) :
    a.oldestFull test = none ↔ ∀ e ∈ a.segs, e.2.state = .full → test e.1 e.2 = false := by
  rw [ArrayBlk.oldestFull_eq, Option.map_eq_none_iff, List.argmin_eq_none, List.filter_eq_nil_iff]
  simp

/-! ## The engine's choice (R146, R157) -/

/-- R145: the segment is listed and eligible. -/
def Dev.MayChoose (d : Dev) (n : Nat) (g : Segment) : Prop := (n, g) ∈ d.array.segs ∧ d.eligible n g = true

theorem Tbl.pairwise_of_ascending {α : Type} {l : List (Nat × α)} (h : Tbl.ascending l = true) :
    l.Pairwise fun a b => a.1 < b.1 := by
  induction l with
  | nil => exact List.Pairwise.nil
  | cons e t ih =>
    obtain ⟨k, v⟩ := e
    obtain ⟨hk, ht⟩ := (Tbl.ascending_cons _ _ _).1 h
    exact List.pairwise_cons.2 ⟨hk, ih ht⟩

theorem Dev.eligible_state {d : Dev} {n : Nat} {g : Segment} (h : d.eligible n g = true) :
    g.state = .damaged ∨ g.state = .full := ((d.eligible_iff n g).1 h).1.imp_right And.left

/-- The eligible DAMAGED segment of the lowest number. -/
def Dev.damagedChoice (d : Dev) : Option (Nat × Segment) :=
  d.array.segs.find? fun e => e.2.state == .damaged && d.eligible e.1 e.2

theorem Dev.damagedChoice_some {d : Dev} (ht : Tbl.ascending d.array.segs = true) {e : Nat × Segment}
    (h : d.damagedChoice = some e) :
    d.MayChoose e.1 e.2 ∧ e.2.state = .damaged ∧ ∀ m g, d.MayChoose m g → g.state = .damaged → e.1 ≤ m := by
  obtain ⟨hmem, htest, hlow⟩ := (find?_eq_some_iff_lowest (·.1) _ (Tbl.pairwise_of_ascending ht) e).1 h
  rw [Bool.and_eq_true, beq_iff_eq] at htest
  exact ⟨⟨hmem, htest.2⟩, htest.1, fun m g hm hg => hlow (m, g) hm.1 (by rw [hg, hm.2]; rfl)⟩

theorem Dev.damagedChoice_none {d : Dev} (h : d.damagedChoice = none) {m : Nat} {g : Segment} (hm : d.MayChoose m g) :
    g.state ≠ .damaged := fun hg => List.find?_eq_none.1 h (m, g) hm.1 (by rw [hg, hm.2]; rfl)

theorem Dev.reclaimChoice_of_damaged {d : Dev} {e : Nat × Segment} (h : d.damagedChoice = some e) :
    d.reclaimChoice = some e.1 := by
  unfold Dev.damagedChoice at h
  unfold Dev.reclaimChoice
  rw [h]

theorem Dev.reclaimChoice_of_not_damaged {d : Dev} (h : d.damagedChoice = none) :
    d.reclaimChoice = d.array.oldestFull d.eligible := by
  unfold Dev.damagedChoice at h
  unfold Dev.reclaimChoice
  rw [h]

/-- R146: the lowest-numbered DAMAGED one, else the FULL one whose lowest page position is the lowest. -/
theorem Dev.reclaimChoice_some {d : Dev} (ht : Tbl.ascending d.array.segs = true) {n : Nat} (h : d.reclaimChoice = some n) :
    ∃ g, d.MayChoose n g ∧
      (g.state = .damaged → ∀ m k, d.MayChoose m k → k.state = .damaged → n ≤ m) ∧
      (g.state ≠ .damaged → ∀ m k, d.MayChoose m k → k.state ≠ .damaged ∧ g.lowestPos ≤ k.lowestPos) := by
  cases hdam : d.damagedChoice with
  | some e =>
    obtain ⟨hcan, hstate, hlow⟩ := Dev.damagedChoice_some ht hdam
    obtain rfl : e.1 = n := Option.some.inj ((Dev.reclaimChoice_of_damaged hdam).symm.trans h)
    exact ⟨e.2, hcan, fun _ => hlow, fun hne => absurd hstate hne⟩
  | none =>
    rw [Dev.reclaimChoice_of_not_damaged hdam] at h
    obtain ⟨g, hmem, hfull, helig, hlow⟩ := ArrayBlk.oldestFull_some h
    refine ⟨g, ⟨hmem, helig⟩, fun hstate => ?_, fun _ m k hk => ?_⟩
    · exact absurd hstate (Dev.damagedChoice_none hdam ⟨hmem, helig⟩)
    · have hne := Dev.damagedChoice_none hdam hk
      exact ⟨hne, hlow (m, k) hk.1 ((Dev.eligible_state hk.2).resolve_left hne) hk.2⟩

theorem Dev.reclaimChoice_none {d : Dev} (h : d.reclaimChoice = none) (m : Nat) (g : Segment) : ¬ d.MayChoose m g := by
  intro hm
  cases hdam : d.damagedChoice with
  | some e => rw [Dev.reclaimChoice_of_damaged hdam] at h; cases h
  | none =>
    rw [Dev.reclaimChoice_of_not_damaged hdam, ArrayBlk.oldestFull_eq_none_iff] at h
    have hfull := (Dev.eligible_state hm.2).resolve_left (Dev.damagedChoice_none hdam hm)
    exact Bool.false_ne_true ((h (m, g) hm.1 hfull).symm.trans hm.2)

theorem Dev.level_critical_iff (d : Dev) :
    d.level = .critical ↔ d.free ≤ d.settings.criticalReserve ∨ d.headroom ≤ 65536 := by
  unfold Dev.level levelOf
  by_cases h : d.free ≤ d.settings.criticalReserve ∨ d.headroom ≤ 65536
  · rw [if_pos h]
    exact iff_of_true rfl h
  · rw [if_neg h]
    refine iff_of_false ?_ h
    split <;> decide

theorem Dev.mayExamine_iff (d : Dev) :
    d.mayExamine = true ↔ (d.free ≤ d.settings.criticalReserve ∨ d.headroom ≤ 65536) ∧ d.examined = false ∧
      d.journal.ctrlQ.all (fun r => !r.isSiteEvent) = true := by
  rw [← Dev.level_critical_iff]
  simp [Dev.mayExamine, and_assoc]

theorem Dev.reclaimStep_busy {d : Dev} (h : d.reclaim.engine ≠ .idle) : d.reclaimStep = none := if_pos h

theorem Dev.reclaimStep_chooses {d : Dev} {n : Nat} (hidle : d.reclaim.engine = .idle) (h : d.reclaimChoice = some n) :
    d.reclaimStep = some (d.setEngine (.waiting n)) := by
  unfold Dev.reclaimStep
  rw [if_neg (not_not.2 hidle), h]

theorem Dev.reclaimStep_examines {d : Dev} (hidle : d.reclaim.engine = .idle) (h : d.reclaimChoice = none) :
    d.reclaimStep =
      if (d.free ≤ d.settings.criticalReserve ∨ d.headroom ≤ 65536) ∧ d.examined = false ∧
          d.journal.ctrlQ.all (fun r => !r.isSiteEvent) = true then some d.examine
      else none := by
  unfold Dev.reclaimStep
  rw [if_neg (not_not.2 hidle), h]
  exact if_congr d.mayExamine_iff rfl rfl

/-! ## The segment that is examined (R156, R157) -/

/-- R156: when H is not full, U is the sequence of an intent in the journal. -/
theorem Dev.lowest_mem {d : Dev} (h : d.headroom ≤ 65536) : d.lowest ∈ d.array.held.flatMap fun e => e.2.intents := by
  unfold Dev.headroom at h
  unfold Dev.lowest at h ⊢
  rw [minOf_eq_min?] at h ⊢
  cases hmin : (d.array.held.flatMap fun e => e.2.intents).min? with
  | none =>
    rw [hmin, Option.getD_none] at h
    omega
  | some u => exact List.min?_mem hmin

theorem ArrayBlk.mem_held {a : ArrayBlk} {e : Nat × Segment} :
    e ∈ a.held ↔ e ∈ a.segs ∧ (e.2.state = .full ∨ e.2.state = .filling) := by
  simp [ArrayBlk.held]

/-- R157: with H at most 65,536, the segment that holds U. -/
theorem Dev.examinedSegment_low {d : Dev} (h : d.headroom ≤ 65536) :
    ∃ n g, d.examinedSegment = some n ∧ (n, g) ∈ d.array.segs ∧ (g.state = .full ∨ g.state = .filling) ∧ d.lowest ∈ g.intents := by
  obtain ⟨e, he, hu⟩ := List.mem_flatMap.1 (Dev.lowest_mem h)
  have hfound : (d.array.held.find? fun e => e.2.intents.contains d.lowest).isSome = true :=
    List.find?_isSome.2 ⟨e, he, List.contains_iff_mem.2 hu⟩
  obtain ⟨⟨n, g⟩, hfind⟩ := Option.isSome_iff_exists.1 hfound
  obtain ⟨hmem, hstate⟩ := ArrayBlk.mem_held.1 (List.mem_of_find?_eq_some hfind)
  have hholds := List.find?_some (p := fun e : Nat × Segment => e.2.intents.contains d.lowest) hfind
  refine ⟨n, g, ?_, hmem, hstate, List.contains_iff_mem.1 hholds⟩
  unfold Dev.examinedSegment Dev.segmentOfLowest
  rw [if_pos h, hfind]
  rfl

theorem Dev.examinedSegment_high {d : Dev} (h : 65536 < d.headroom) :
    d.examinedSegment = d.array.oldestFull fun n _ => !d.guarded n := if_neg (not_le.2 h)

/-! ## What the unspent records await (R157, R158, log 77) -/

/-- R157, case 2: the record awaits a newer one. -/
def Rec.Awaits (r : Rec) : Prop :=
  (∃ f, r = .frontier f) ∨ (∃ j st q, r = .siteEvent j st q) ∨ (∃ c, r = .shutdown c) ∨ ∃ c, r = .resume c

theorem Rec.awaitsNewer_iff (r : Rec) : r.awaitsNewer = true ↔ r.Awaits := by
  cases r <;> simp [Rec.awaitsNewer, Rec.Awaits]

theorem Rec.awaitsNewer_eq_false_iff (r : Rec) : r.awaitsNewer = false ↔ ¬ r.Awaits := by
  rw [← Rec.awaitsNewer_iff, Bool.not_eq_true]

theorem any_awaitsNewer_iff (l : List Rec) : l.any Rec.awaitsNewer = true ↔ ∃ r ∈ l, r.Awaits := by
  simp only [List.any_eq_true, Rec.awaitsNewer_iff]

/-- R157: the records that remain when those that await a newer one are left out. -/
def remaining (l : List Rec) : List Rec := l.filter fun r => !r.awaitsNewer

theorem mem_remaining {l : List Rec} {r : Rec} : r ∈ remaining l ↔ r ∈ l ∧ ¬ r.Awaits := by
  rw [remaining, List.mem_filter, Bool.not_eq_true', Rec.awaitsNewer_eq_false_iff]

theorem remaining_eq_nil_iff (l : List Rec) : remaining l = [] ↔ ∀ r ∈ l, r.Awaits := by
  simp only [List.eq_nil_iff_forall_not_mem, mem_remaining, not_and, not_not]

/-- The records that await a newer one are about no intent. -/
theorem remaining_filterMap_about (l : List Rec) : (remaining l).filterMap Rec.about = l.filterMap Rec.about := by
  rw [remaining, List.filterMap_filter]
  exact List.filterMap_congr fun r _ => by cases r <;> rfl

/-- An intent record or a DECISION record of the list is about the intent (log 77). -/
def Names (l : List Rec) (s : Seq) : Prop := (∃ r, .intent r ∈ l ∧ r.seq = s) ∨ ∃ a, .decision s a ∈ l

theorem mem_filterMap_about {l : List Rec} {s : Seq} : s ∈ l.filterMap Rec.about ↔ Names l s := by
  rw [List.mem_filterMap]
  constructor
  · rintro ⟨r, hr, habout⟩
    cases r with
    | intent x => exact .inl ⟨x, hr, Option.some.inj habout⟩
    | decision q a =>
      obtain rfl : q = s := Option.some.inj habout
      exact .inr ⟨a, hr⟩
    | _ => cases habout
  · rintro (⟨x, hx, rfl⟩ | ⟨a, ha⟩)
    · exact ⟨_, hx, rfl⟩
    · exact ⟨_, ha, rfl⟩

section Unspent

variable (d : Dev) (l : List Rec)

/-- The slot has an open mark of an intent that the list names. -/
def Dev.OpenIn (j : SlotId) : Prop :=
  ∃ s x, Names l s ∧ d.slot? s = some x ∧ (x.mark j = some .pending ∨ x.mark j = some .inFlight)

/-- The list names the intent, and it is held. -/
def Dev.HeldIn (s : Seq) : Prop := Names l s ∧ ∃ x, d.slot? s = some x ∧ x.held = true

/-- R158: the slot that a NOT_EVICTABLE notice names: the lowest one with EVICTABLE off and an open mark, if there is one. -/
def Dev.HoldsUp : Option SlotId → Prop
  | none => ∀ j, d.OpenIn l j → (d.config j).evictable = true
  | some j => d.OpenIn l j ∧ (d.config j).evictable = false ∧ ∀ k, d.OpenIn l k → (d.config k).evictable = false → j ≤ k

/-- R157, case 4: every record that remains is about an intent, and only EVICTABLE slots have open marks. -/
def Dev.AwaitsEvictable : Prop :=
  (∀ r ∈ l, ¬ r.Awaits → ∃ s, r.about = some s) ∧ ∀ j, d.OpenIn l j → (d.config j).evictable = true

theorem Dev.mem_openSlots (j : SlotId) : j ∈ d.openSlots (l.filterMap Rec.about) ↔ d.OpenIn l j := by
  have hopen (s : Seq) :
      ((d.slot? s).map fun x => ((x.mark j).map Mark.isOpen).getD false).getD false = true ↔
        ∃ x, d.slot? s = some x ∧ (x.mark j = some .pending ∨ x.mark j = some .inFlight) := by
    cases d.slot? s <;> simp [Slot.hasOpen_iff]
  simp only [Dev.openSlots, Dev.OpenIn, List.mem_filter, mem_allSlots, true_and, List.any_eq_true, hopen, mem_filterMap_about,
    exists_and_left]

theorem Dev.openSlots_pairwise (m : List Seq) : (d.openSlots m).Pairwise fun a b => a.val < b.val :=
  List.Pairwise.filter _ (show allSlots.Pairwise fun a b => a.val < b.val by decide)

theorem Dev.isHeldIntent_iff (s : Seq) : d.isHeldIntent s = true ↔ ∃ x, d.slot? s = some x ∧ x.held = true := by
  unfold Dev.isHeldIntent
  cases d.slot? s <;> simp

theorem Dev.mem_heldAbout (s : Seq) : s ∈ (l.filterMap Rec.about).filter d.isHeldIntent ↔ d.HeldIn l s := by
  rw [List.mem_filter, mem_filterMap_about, Dev.isHeldIntent_iff]
  rfl

theorem Dev.blockingSlot_holdsUp : d.HoldsUp l (d.blockingSlot (l.filterMap Rec.about)) := by
  have hoff (j : SlotId) : (!(d.config j).evictable) = true ↔ (d.config j).evictable = false := by rw [Bool.not_eq_true']
  unfold Dev.blockingSlot
  cases hfind : (d.openSlots (l.filterMap Rec.about)).find? fun j => !(d.config j).evictable with
  | none =>
    rw [List.find?_eq_none] at hfind
    intro j hj
    simpa using hfind j ((d.mem_openSlots l j).2 hj)
  | some j =>
    rw [find?_eq_some_iff_lowest (fun k : SlotId => k.val) _ (d.openSlots_pairwise _)] at hfind
    simp only [Dev.mem_openSlots, hoff] at hfind
    exact hfind

theorem Dev.openSlots_all_iff :
    ((d.openSlots (l.filterMap Rec.about)).all fun j => (d.config j).evictable) = true ↔
      ∀ j, d.OpenIn l j → (d.config j).evictable = true := by
  simp only [List.all_eq_true, Dev.mem_openSlots]

theorem Dev.awaitsEvictable_iff :
    (((remaining l).all fun r => r.about.isSome) &&
        (d.openSlots (l.filterMap Rec.about)).all fun j => (d.config j).evictable) = true ↔ d.AwaitsEvictable l := by
  rw [Bool.and_eq_true, Dev.openSlots_all_iff]
  simp only [List.all_eq_true, mem_remaining, and_imp, Option.isSome_iff_exists]
  rfl

/-! ## The slot with the lowest frontier (R157, case 4) -/

theorem Dev.lowestFrontier_eq_argmin (m : List SlotId) : d.lowestFrontier m = List.argmin d.frontierOf m := by
  cases m with
  | nil => rfl
  | cons h t => exact foldl_lowest_eq_argmin d.frontierOf h t

theorem idxOf_le_idxOf {m : List SlotId} (hm : m.Pairwise fun a b => a.val < b.val) {j k : SlotId} (hj : j ∈ m) (hk : k ∈ m)
    (hle : j ≤ k) : m.idxOf j ≤ m.idxOf k := by
  by_contra hlt
  have hbefore := List.pairwise_iff_getElem.1 hm _ _ (List.idxOf_lt_length_of_mem hk) (List.idxOf_lt_length_of_mem hj)
    (not_le.1 hlt)
  rw [List.getElem_idxOf, List.getElem_idxOf] at hbefore
  exact absurd hle (not_le.2 hbefore)

theorem Dev.lowestFrontier_some {j : SlotId} (hj : d.OpenIn l j)
    (hlow : ∀ k, d.OpenIn l k → d.frontierOf j < d.frontierOf k ∨ (d.frontierOf j = d.frontierOf k ∧ j ≤ k)) :
    d.lowestFrontier (d.openSlots (l.filterMap Rec.about)) = some j := by
  rw [Dev.lowestFrontier_eq_argmin, List.argmin_eq_some_iff]
  refine ⟨(d.mem_openSlots l j).2 hj, fun k hk => ?_, fun k hk hle => ?_⟩
  · exact (hlow k ((d.mem_openSlots l k).1 hk)).elim le_of_lt fun h => h.1.le
  · rcases hlow k ((d.mem_openSlots l k).1 hk) with h | ⟨_, h⟩
    · exact absurd hle (not_le.2 h)
    · exact idxOf_le_idxOf (d.openSlots_pairwise _) ((d.mem_openSlots l j).2 hj) hk h

theorem Dev.lowestFrontier_none (h : ∀ j, ¬ d.OpenIn l j) : d.lowestFrontier (d.openSlots (l.filterMap Rec.about)) = none := by
  rw [Dev.lowestFrontier_eq_argmin, List.argmin_eq_none, List.eq_nil_iff_forall_not_mem]
  exact fun j hj => h j ((d.mem_openSlots l j).1 hj)

/-! ## What the examination finds (R157) -/

/-- Case 5. -/
def Dev.notEvictable (n : Nat) : Finding := .blocked .notEvictable (some n) none (d.blockingSlot (l.filterMap Rec.about))

theorem Dev.findingOf_held {s : Seq} (n : Nat) (hs : d.HeldIn l s) (hlow : ∀ q, d.HeldIn l q → s ≤ q) :
    d.findingOf n (remaining l) = .blocked .held (some n) (some s) none := by
  have hmin : minOf (((remaining l).filterMap Rec.about).filter d.isHeldIntent) = some s := by
    rw [remaining_filterMap_about, minOf_eq_min?, List.min?_eq_some_iff]
    exact ⟨(d.mem_heldAbout l s).2 hs, fun q hq => hlow q ((d.mem_heldAbout l q).1 hq)⟩
  unfold Dev.findingOf
  simp only [hmin]

/-- Without a held intent. -/
theorem Dev.findingOf_free (n : Nat) (h : ∀ s, ¬ d.HeldIn l s) :
    d.findingOf n (remaining l) =
      if ((remaining l).all fun r => r.about.isSome) &&
          (d.openSlots (l.filterMap Rec.about)).all fun j => (d.config j).evictable then
        (d.lowestFrontier (d.openSlots (l.filterMap Rec.about))).elim (d.notEvictable l n) .evict
      else d.notEvictable l n := by
  have hmin : minOf ((l.filterMap Rec.about).filter d.isHeldIntent) = none := by
    rw [minOf_eq_min?, List.min?_eq_none_iff, List.eq_nil_iff_forall_not_mem]
    exact fun s hs => h s ((d.mem_heldAbout l s).1 hs)
  unfold Dev.findingOf
  simp only [remaining_filterMap_about, hmin]
  cases d.lowestFrontier (d.openSlots (l.filterMap Rec.about)) <;> rfl

theorem Dev.findingOf_evicts {j : SlotId} (n : Nat) (h : ∀ s, ¬ d.HeldIn l s) (hall : d.AwaitsEvictable l) (hj : d.OpenIn l j)
    (hlow : ∀ k, d.OpenIn l k → d.frontierOf j < d.frontierOf k ∨ (d.frontierOf j = d.frontierOf k ∧ j ≤ k)) :
    d.findingOf n (remaining l) = .evict j := by
  rw [d.findingOf_free l n h, if_pos ((d.awaitsEvictable_iff l).2 hall), d.lowestFrontier_some l hj hlow]
  rfl

theorem Dev.findingOf_notEvictable (n : Nat) (h : ∀ s, ¬ d.HeldIn l s)
    (hno : ¬ d.AwaitsEvictable l ∨ ∀ j, ¬ d.OpenIn l j) : d.findingOf n (remaining l) = d.notEvictable l n := by
  rw [d.findingOf_free l n h]
  split
  · rename_i hall
    rw [d.lowestFrontier_none l (hno.resolve_left (not_not.2 ((d.awaitsEvictable_iff l).1 hall)))]
    rfl
  · rfl

end Unspent

section Examination

variable {d : Dev} {n : Nat}

theorem Dev.examination_of_none (h : d.examinedSegment = none) :
    d.examination =
      (.blocked (if d.array.segs.any (fun e => e.2.state == .full) then .guard else .notEvictable) none none none, false) := by
  unfold Dev.examination
  simp only [h]

theorem Dev.examination_filling (h : d.examinedSegment = some n) (hfilling : (d.seg n).state = .filling) :
    d.examination = (d.notEvictable (d.unspent (d.seg n)) n, false) := by
  unfold Dev.examination
  simp only [h, if_pos hfilling]
  rfl

theorem Dev.examination_guarded (h : d.examinedSegment = some n) (hfilling : (d.seg n).state ≠ .filling)
    (hguarded : d.guarded n = true) : d.examination = (.blocked .guard (some n) none none, false) := by
  unfold Dev.examination
  simp only [h, if_neg hfilling, if_pos hguarded]

theorem Dev.examination_open (h : d.examinedSegment = some n) (hfilling : (d.seg n).state ≠ .filling)
    (hguarded : d.guarded n = false) :
    d.examination =
      (if (remaining (d.unspent (d.seg n))).isEmpty then .nothing else d.findingOf n (remaining (d.unspent (d.seg n))),
        (d.unspent (d.seg n)).any Rec.awaitsNewer) := by
  unfold Dev.examination
  simp only [h, if_neg hfilling, hguarded, Bool.false_eq_true, if_false]
  rfl

/-- When a record remains, the finding is that of cases 3 to 5. -/
theorem Dev.examination_remaining (h : d.examinedSegment = some n) (hfilling : (d.seg n).state ≠ .filling)
    (hguarded : d.guarded n = false) (hrest : ∃ r ∈ d.unspent (d.seg n), ¬ r.Awaits) :
    d.examination = (d.findingOf n (remaining (d.unspent (d.seg n))), (d.unspent (d.seg n)).any Rec.awaitsNewer) := by
  obtain ⟨r, hr, hawaits⟩ := hrest
  rw [Dev.examination_open h hfilling hguarded, if_neg]
  rw [List.isEmpty_iff, remaining_eq_nil_iff]
  exact fun hall => hawaits (hall r hr)

end Examination

/-! ## What the examination does (R157, R158) -/

/-- R157, case 2: the examination has come, and raises a FRONTIER record or none. -/
def Dev.examinedWith (raise : Bool) (d : Dev) : Dev :=
  if raise then { d with examined := true }.raiseFrontier else { d with examined := true }

/-- R157: the part f with which d leaves case 2. -/
theorem Dev.eq_examinedWith {d f : Dev} {l : List Rec}
    (hraise : (∃ r ∈ l, r.Awaits) → f = { d with examined := true }.raiseFrontier)
    (hnone : (∀ r ∈ l, ¬ r.Awaits) → f = { d with examined := true }) : f = d.examinedWith (l.any Rec.awaitsNewer) := by
  unfold Dev.examinedWith
  by_cases h : ∃ r ∈ l, r.Awaits
  · rw [if_pos ((any_awaitsNewer_iff l).2 h), hraise h]
  · rw [if_neg (mt (any_awaitsNewer_iff l).1 h), hnone fun r hr hawaits => h ⟨r, hr, hawaits⟩]

/-- R158: the part u follows from f by a BLOCKED notice, unless its cause, in its segment, is the last that d has reported. -/
def Dev.Told (d u f : Dev) (c : BlockCause) (seg : Option Nat) (heldSeq : Option Seq) (slot : Option SlotId) : Prop :=
  if d.reclaim.lastBlocked = some (c, seg) then u = f
  else
    { u with ports := f.ports } =
        { f with
          reclaim := { d.reclaim with
            lastBlocked := some (c, seg), pressureNotices := min (d.reclaim.pressureNotices + 1) 4294967295 } } ∧
      ∀ p : PortId, u.ports[p] =
        if d.ports[p].state = .online then
          d.ports[p].addNotice false
            (.blocked d.free d.headroom d.level d.settings.lowWatermark d.settings.criticalReserve c seg
              (seg.map fun n => n / 32) heldSeq slot)
        else d.ports[p]

/-- A PRESSURE notice goes to the ONLINE ports and is counted; nothing else changes. -/
theorem Dev.pressureNotice_rest (d : Dev) (b : NoticeBody) :
    { d.pressureNotice b with ports := d.ports } =
      { d with reclaim := { d.reclaim with pressureNotices := sat32 (d.reclaim.pressureNotices + 1) } } := by
  have hrest := Dev.broadcast_rest d b
  have hreclaim : (d.broadcast b).reclaim = d.reclaim := (congrArg Dev.reclaim hrest :)
  unfold Dev.pressureNotice Dev.modReclaim
  rw [hreclaim]
  exact congrArg (fun e : Dev =>
    { e with reclaim := { d.reclaim with pressureNotices := sat32 (d.reclaim.pressureNotices + 1) } }) hrest

theorem Dev.pressureNotice_port (d : Dev) (b : NoticeBody) (p : PortId) :
    (d.pressureNotice b).ports[p] = if d.ports[p].state = .online then d.ports[p].addNotice false b else d.ports[p] :=
  Dev.broadcast_port d b p

theorem Dev.reportBlocked_told (d : Dev) (c : BlockCause) (seg : Option Nat) (heldSeq : Option Seq) (slot : Option SlotId) :
    d.Told (d.reportBlocked c seg heldSeq slot) d c seg heldSeq slot := by
  unfold Dev.Told Dev.reportBlocked
  split
  · rfl
  · exact ⟨Dev.pressureNotice_rest _ _, Dev.pressureNotice_port _ _⟩

/-- The examination's mark and a raised FRONTIER record change nothing of what a BLOCKED notice tells. -/
theorem Dev.examinedWith_told {d u : Dev} {c : BlockCause} {seg : Option Nat} {heldSeq : Option Seq} {slot : Option SlotId}
    (raise : Bool) (h : (d.examinedWith raise).Told u (d.examinedWith raise) c seg heldSeq slot) :
    d.Told u (d.examinedWith raise) c seg heldSeq slot := by
  cases raise <;> exact h

theorem Dev.examine_nothing {d : Dev} {raise : Bool} (h : d.examination = (.nothing, raise)) :
    d.examine = d.examinedWith raise := by
  unfold Dev.examine
  rw [h]
  rfl

theorem Dev.examine_told {d : Dev} {raise : Bool} {c : BlockCause} {seg : Option Nat} {heldSeq : Option Seq}
    {slot : Option SlotId} (h : d.examination = (.blocked c seg heldSeq slot, raise)) :
    d.Told d.examine (d.examinedWith raise) c seg heldSeq slot := by
  have hexamine : d.examine = (d.examinedWith raise).reportBlocked c seg heldSeq slot := by
    unfold Dev.examine
    rw [h]
    rfl
  rw [hexamine]
  exact Dev.examinedWith_told raise (Dev.reportBlocked_told _ _ _ _ _)

theorem Dev.examine_evicts {d : Dev} {raise : Bool} {j : SlotId} (h : d.examination = (.evict j, raise)) :
    d.examine =
      ((d.examinedWith raise).modReclaim fun r => { r with evictions := sat32 (r.evictions + 1) }).evictSlot j := by
  unfold Dev.examine
  rw [h]
  rfl

end Sys2Proof.Machine

/-- Settles O41: the records, the choice and the examined segment each have their lemmas above; the examination is taken case by case
with what each finding does. -/
theorem reclaimEngineChoosesAndExamines : Obligations.ReclaimEngineChoosesAndExamines := by
  refine ⟨?records, ?choice, ?segment, ?examination⟩
  case records =>
    intro d n g later done spent unspent guarded
    have hunspent : ∀ r, r ∈ d.unspent g ↔ unspent r := d.mem_unspent g
    refine ⟨hunspent, d.guarded_iff n, ?_⟩
    rw [d.eligible_iff n g, ← Bool.not_eq_true, d.guarded_iff n]
    simp only [hunspent]
    rfl
  case choice =>
    intro d htables can
    have hsegs : Tbl.ascending d.array.segs = true := by
      simp only [Dev.tablesOk, Bool.and_eq_true] at htables
      exact htables.2
    exact ⟨fun n hn => Dev.reclaimChoice_some hsegs hn, Dev.reclaimChoice_none, Dev.reclaimStep_busy, fun hidle =>
      ⟨fun n hn => Dev.reclaimStep_chooses hidle hn, fun hn => Dev.reclaimStep_examines hidle hn⟩⟩
  case segment =>
    intro d _ seg
    refine ⟨fun hlow => Dev.examinedSegment_low hlow, fun hhigh => ⟨fun n hn => ?oldest, fun hnone => ?none⟩⟩
    case oldest =>
      obtain ⟨g, hmem, hfull, hguard, hlow⟩ := ArrayBlk.oldestFull_some ((Dev.examinedSegment_high hhigh).symm.trans hn)
      simp only [Bool.not_eq_true'] at hguard hlow
      exact ⟨g, hmem, hfull, hguard, hlow⟩
    case none =>
      have h := (ArrayBlk.oldestFull_eq_none_iff _ _).1 ((Dev.examinedSegment_high hhigh).symm.trans hnone)
      simpa only [Bool.not_eq_false'] using h
  case examination =>
    intro d u e told
    refine ⟨fun h => Dev.examine_told (Dev.examination_of_none h), fun n h => ?found⟩
    intro l awaits named open_ held holdsUp
    refine ⟨fun hfilling => ?filling, fun hfilling hguarded => Dev.examine_told (Dev.examination_guarded h hfilling hguarded),
      fun f hfilling hguarded hraise hnone => ?opened⟩
    case filling => exact ⟨_, d.blockingSlot_holdsUp l, Dev.examine_told (Dev.examination_filling h hfilling)⟩
    case opened =>
      intro all
      obtain rfl : f = d.examinedWith (l.any Rec.awaitsNewer) := Dev.eq_examinedWith hraise hnone
      have hremaining := Dev.examination_remaining h hfilling hguarded
      refine ⟨fun hall => ?nothing, fun s hs hlow => ?held, fun hrest hfree => ⟨fun j hall hj hlow => ?evicts, fun hno => ?other⟩⟩
      case nothing =>
        refine Dev.examine_nothing ((Dev.examination_open h hfilling hguarded).trans ?_)
        rw [if_pos (List.isEmpty_iff.2 ((remaining_eq_nil_iff l).2 hall))]
      case held =>
        have hrest : ∃ r ∈ l, ¬ awaits r := by
          obtain ⟨x, hx, _⟩ | ⟨a, ha⟩ := hs.1
          · exact ⟨_, hx, by simp [awaits]⟩
          · exact ⟨_, ha, by simp [awaits]⟩
        exact Dev.examine_told ((hremaining hrest).trans (by rw [d.findingOf_held l n hs hlow]))
      case evicts =>
        exact Dev.examine_evicts ((hremaining hrest).trans (by rw [d.findingOf_evicts l n hfree hall hj hlow]))
      case other =>
        refine ⟨_, d.blockingSlot_holdsUp l, Dev.examine_told ((hremaining hrest).trans ?_)⟩
        rw [d.findingOf_notEvictable l n hfree hno]
        rfl

end

section
/-!
SUPPORT of O6, O58, O59 and O60. What every update of the part keeps: the notices of a port, the rest of a slot that is not ACTIVE,
the staging buffers and the sparse tables, each for itself; and what the engines' updates keep besides: the records in the ports'
queues, the part's state and the lines. The lemmas follow the model's files, one for each operation.
-/

open Sys2Proof Sys2Proof.Machine

namespace Sys2Proof.Machine

/-- R166, R168: the records of a port's queues stay, in their order, and its notices stay within their limits (R169). -/
structure Port.Grows (x y : Port) : Prop where
  notices : x.noticesOk = true → y.noticesOk = true
  responses : x.respQ <+: y.respQ
  queued : x.noticeQ <+: y.noticeQ

theorem Port.Grows.refl (x : Port) : x.Grows x := ⟨id, List.prefix_rfl, List.prefix_rfl⟩

theorem Port.Grows.trans {x y z : Port} (h : x.Grows y) (k : y.Grows z) : x.Grows z :=
  ⟨k.notices ∘ h.notices, h.responses.trans k.responses, h.queued.trans k.queued⟩

/-- The port's notices are as they were, and responses only join its queue. -/
theorem Port.Grows.of_notices {x y : Port} (hr : x.respQ <+: y.respQ) (hq : y.noticeQ = x.noticeQ)
    (hn : y.noticeNumber = x.noticeNumber) (hl : y.lost = x.lost) : x.Grows y where
  notices h := by unfold Port.noticesOk at h ⊢; rwa [hq, hn, hl]
  responses := hr
  queued := hq ▸ List.prefix_rfl

/-- The three invariants, each kept for itself, from one state of the part to another. -/
structure Dev.Keeps (d e : Dev) : Prop where
  notices : ∀ p : PortId, d.ports[p].noticesOk = true → e.ports[p].noticesOk = true
  rest : ∀ j : SlotId, d.sites[j].restOk = true → e.sites[j].restOk = true
  buffers : d.journal.buffersOk = true → e.journal.buffersOk = true
  slots : Tbl.ascending d.status.slots = true → Tbl.ascending e.status.slots = true
  ways : Tbl.ascending d.index.ways = true → Tbl.ascending e.index.ways = true
  segs : Tbl.ascending d.array.segs = true → Tbl.ascending e.array.segs = true

theorem Dev.Keeps.refl (d : Dev) : d.Keeps d := ⟨fun _ => id, fun _ => id, id, id, id, id⟩

theorem Dev.Keeps.trans {d e f : Dev} (h : d.Keeps e) (k : e.Keeps f) : d.Keeps f :=
  ⟨fun p => k.notices p ∘ h.notices p, fun j => k.rest j ∘ h.rest j, k.buffers ∘ h.buffers, k.slots ∘ h.slots, k.ways ∘ h.ways,
    k.segs ∘ h.segs⟩

/-- What the engines' updates keep: the three invariants, the records in the ports' queues, the part's state and the lines. -/
structure Dev.Goes (d e : Dev) : Prop where
  ports : ∀ p : PortId, d.ports[p].Grows e.ports[p]
  rest : ∀ j : SlotId, d.sites[j].restOk = true → e.sites[j].restOk = true
  buffers : d.journal.buffersOk = true → e.journal.buffersOk = true
  slots : Tbl.ascending d.status.slots = true → Tbl.ascending e.status.slots = true
  ways : Tbl.ascending d.index.ways = true → Tbl.ascending e.index.ways = true
  segs : Tbl.ascending d.array.segs = true → Tbl.ascending e.array.segs = true
  part : e.part = d.part
  lines : e.power.causeReset = d.power.causeReset ∧ e.power.warn = d.power.warn ∧ e.power.resetLine = d.power.resetLine

theorem Dev.Goes.keeps {d e : Dev} (h : d.Goes e) : d.Keeps e :=
  ⟨fun p => (h.ports p).notices, h.rest, h.buffers, h.slots, h.ways, h.segs⟩

theorem Dev.Goes.refl (d : Dev) : d.Goes d :=
  ⟨fun _ => .refl _, fun _ => id, id, id, id, id, rfl, rfl, rfl, rfl⟩

theorem Dev.Goes.trans {d e f : Dev} (h : d.Goes e) (k : e.Goes f) : d.Goes f :=
  ⟨fun p => (h.ports p).trans (k.ports p), fun j => k.rest j ∘ h.rest j, k.buffers ∘ h.buffers, k.slots ∘ h.slots,
    k.ways ∘ h.ways, k.segs ∘ h.segs, k.part.trans h.part,
    k.lines.1.trans h.lines.1, k.lines.2.1.trans h.lines.2.1, k.lines.2.2.trans h.lines.2.2⟩

/-- All that the invariants look at. -/
def Dev.looked (d : Dev) :=
  (d.ports, d.sites, d.journal.buffersOk, d.status.slots, d.index.ways, d.array.segs)

/-- The part's state and the lines. -/
def Dev.course (d : Dev) : PartState × Bool × Bool × Bool := (d.part, d.power.causeReset, d.power.warn, d.power.resetLine)

/-- An update, of the part's state or the lines too, of what the invariants do not look at. -/
theorem Dev.Keeps.of_eq {d e : Dev} (h : e.looked = d.looked) : d.Keeps e := by
  simp only [Dev.looked, Prod.mk.injEq] at h
  obtain ⟨hports, hsites, hbuffers, hslots, hways, hsegs⟩ := h
  exact ⟨fun _ => hports ▸ id, fun _ => hsites ▸ id, hbuffers ▸ id, hslots ▸ id, hways ▸ id, hsegs ▸ id⟩

/-- An update of what the invariants do not look at. -/
theorem Dev.Goes.of_eq {d e : Dev} (h : (e.looked, e.course) = (d.looked, d.course)) : d.Goes e := by
  simp only [Dev.looked, Dev.course, Prod.mk.injEq] at h
  obtain ⟨⟨hports, hsites, hbuffers, hslots, hways, hsegs⟩, hpart, hlines⟩ := h
  exact ⟨fun _ => hports ▸ Port.Grows.refl _, fun _ => hsites ▸ id, hbuffers ▸ id, hslots ▸ id, hways ▸ id, hsegs ▸ id, hpart,
    hlines⟩

theorem Dev.Goes.foldl {α : Type} {f : Dev → α → Dev} (h : ∀ (d : Dev) (a : α), d.Goes (f d a)) (l : List α) (d : Dev) :
    d.Goes (l.foldl f d) := by
  induction l generalizing d with
  | nil => exact .refl d
  | cons a t ih => exact (h d a).trans (ih _)

/-- An update that comes only under a condition. -/
theorem Dev.Goes.ite {c : Prop} [Decidable c] {d e f : Dev} (h : c → d.Goes e) (k : ¬ c → d.Goes f) :
    d.Goes (if c then e else f) := by
  split
  · exact h ‹_›
  · exact k ‹_›

/-- A further update under a condition. -/
theorem Dev.Goes.then_ite {c : Prop} [Decidable c] {d e f : Dev} (h : d.Goes e) (k : c → e.Goes f) :
    d.Goes (if c then f else e) :=
  .ite (fun hc => h.trans (k hc)) fun _ => h

/-! ## Ports -/

theorem Dev.goes_modPort {d : Dev} {p : PortId} {f : Port → Port} (h : d.ports[p].Grows (f d.ports[p])) :
    d.Goes (d.modPort p f) :=
  { Dev.Goes.refl d with
    ports := fun q => by
      rw [Dev.modPort_port]
      split
      · next hq => exact hq ▸ h
      · exact .refl _ }

/-- R169: the number after a notice number. -/
theorem noticeAfter_range (n : Nat) : 1 ≤ noticeAfter n ∧ noticeAfter n ≤ 4294967295 := by
  unfold noticeAfter
  split <;> omega

theorem Port.grows_addNotice (x : Port) (r : Bool) (b : NoticeBody) : x.Grows (x.addNotice r b) where
  notices h := by
    have hn := noticeAfter_range x.noticeNumber
    simp only [Port.noticesOk, Bool.and_eq_true, decide_eq_true_eq] at h ⊢
    have hlost : sat16 (x.lost + 1) ≤ 65535 := Nat.min_le_right _ _
    unfold Port.addNotice
    split <;> simp only [List.length_append, List.length_cons, List.length_nil] <;> omega
  responses := by
    unfold Port.addNotice
    split <;> exact List.prefix_rfl
  queued := x.noticeQ_prefix_addNotice r b

theorem Dev.goes_notify (d : Dev) (p : PortId) (r : Bool) (b : NoticeBody) : d.Goes (d.notify p r b) :=
  Dev.goes_modPort (Port.grows_addNotice _ r b)

theorem Dev.goes_broadcast (d : Dev) (b : NoticeBody) : d.Goes (d.broadcast b) :=
  Dev.Goes.foldl (fun d p => d.goes_notify p false b) _ d

theorem Dev.goes_route (d : Dev) (p : PortId) (b : NoticeBody) : d.Goes (d.route p b) := by
  unfold Dev.route
  split
  · exact d.goes_notify _ _ b
  · exact .of_eq rfl

theorem Port.grows_answer (x : Port) (id : Nat) (st : Status) (fl : Byte) (b : RespBody) : x.Grows (x.answer id st fl b) := by
  unfold Port.answer
  split
  · exact .refl x
  · refine .of_notices ?_ rfl rfl rfl
    show x.respQ <+: if _ then _ else _
    split
    · exact List.prefix_rfl
    · exact List.prefix_append _ _

theorem Dev.goes_answer (d : Dev) (tok : Tok) (st : Status) (fl : Byte) (b : RespBody) : d.Goes (d.answer tok st fl b) :=
  Dev.goes_modPort (Port.grows_answer _ _ st fl b)

theorem Dev.goes_refuse (d : Dev) (tok : Tok) (st : Status) : d.Goes (d.refuse tok st) := d.goes_answer tok st 0 .none

/-- The records of a port's queues, and its counts. -/
def Port.records (x : Port) := (x.respQ, x.noticeQ, x.noticeNumber, x.lost)

/-- An update of a port that leaves its notices and its responses. -/
theorem Dev.goes_modPort_rest {d : Dev} {p : PortId} {f : Port → Port} (h : (f d.ports[p]).records = d.ports[p].records) :
    d.Goes (d.modPort p f) := by
  simp only [Port.records, Prod.mk.injEq] at h
  obtain ⟨hr, hq, hn, hl⟩ := h
  exact Dev.goes_modPort (.of_notices (hr ▸ List.prefix_rfl) hq hn hl)

theorem Dev.goes_modTaken (d : Dev) (tok : Tok) (f : Taken → Taken) : d.Goes (d.modTaken tok f) := Dev.goes_modPort_rest rfl

theorem Dev.goes_setCont (d : Dev) (tok : Tok) (c : Cont) : d.Goes (d.setCont tok c) := d.goes_modTaken tok _

/-! ## Slots of the site table, segments, and slots of the status array -/

/-- R61, R97: what the rest of a slot means. -/
theorem Site.restOk_iff (x : Site) :
    x.restOk = true ↔ (x.state ≠ .active → x.credit = 0 ∧ x.inFlight = [] ∧ x.resends = [] ∧ x.send = none) := by
  simp only [Site.restOk, Bool.or_eq_true, beq_iff_eq, Bool.and_eq_true, List.isEmpty_iff, Option.isNone_iff_eq_none, and_assoc]
  exact or_iff_not_imp_left

theorem Dev.goes_modSite {d : Dev} {j : SlotId} {f : Site → Site} (h : d.sites[j].restOk = true → (f d.sites[j]).restOk = true) :
    d.Goes (d.modSite j f) :=
  { Dev.Goes.refl d with
    rest := fun k => by
      rw [Dev.modSite_site]
      split
      · next hk => exact hk ▸ h
      · exact id }

/-- An update of a slot that leaves its state, its credit and what is in flight, due or being sent. -/
theorem Dev.goes_modSite_rest {d : Dev} {j : SlotId} {f : Site → Site}
    (h : (f d.sites[j]).restOk = d.sites[j].restOk) : d.Goes (d.modSite j f) :=
  Dev.goes_modSite (h ▸ id)

/-- An update of an ACTIVE slot that leaves it ACTIVE. -/
theorem Dev.goes_modSite_active {d : Dev} {j : SlotId} {f : Site → Site} (h : (f d.sites[j]).state = .active) :
    d.Goes (d.modSite j f) :=
  Dev.goes_modSite fun _ => (Site.restOk_iff _).2 fun hne => absurd h hne

theorem Dev.goes_modConfig (d : Dev) (j : SlotId) (f : SiteConfig → SiteConfig) : d.Goes (d.modConfig j f) := .of_eq rfl

theorem Dev.goes_modSeg (d : Dev) (n : Nat) (f : Segment → Segment) : d.Goes (d.modSeg n f) :=
  { Dev.Goes.refl d with segs := ArrayBlk.ascending_putSeg _ n _ }

theorem Dev.goes_putSlot (d : Dev) (s : Seq) (x : Slot) : d.Goes (d.putSlot s x) :=
  { Dev.Goes.refl d with slots := d.ascending_putSlot s x }

theorem Dev.goes_freeSlot (d : Dev) (s : Seq) : d.Goes (d.freeSlot s) :=
  { Dev.Goes.refl d with slots := d.ascending_freeSlot s }

theorem Dev.goes_raiseFrame (d : Dev) (j : SlotId) (b : FrameBody) : d.Goes (d.raiseFrame j b) := .of_eq rfl

theorem Dev.goes_raiseCtrl (d : Dev) (r : Rec) : d.Goes (d.raiseCtrl r) := .of_eq rfl

theorem Dev.goes_raiseFrontier (d : Dev) : d.Goes d.raiseFrontier := .of_eq rfl

/-! ## Latches and the notices of a change (Flags) -/

theorem Dev.goes_setLatch (d : Dev) (v : Bool) (k : FaultKind) (sc : FaultScope) : d.Goes (d.setLatch v k sc) := by
  unfold Dev.setLatch
  split
  case h_1 | h_2 => exact .of_eq rfl
  case h_3 => exact Dev.goes_modPort_rest rfl
  case h_4 | h_5 | h_6 | h_7 => exact Dev.goes_modSite_rest rfl
  case h_8 => exact .refl d

theorem Dev.goes_faultNotice (d : Dev) (k : FaultKind) (sc : FaultScope) : d.Goes (d.faultNotice k sc) :=
  Dev.Goes.foldl (fun e p => by
    split
    · exact e.goes_notify p false _
    · exact .refl e) _ d

theorem Dev.goes_latch (d : Dev) (k : FaultKind) (sc : FaultScope) : d.Goes (d.latch k sc) :=
  .ite (fun _ => .refl d) fun _ => (d.goes_setLatch true k sc).trans (Dev.goes_faultNotice _ k sc)

theorem Dev.goes_latchSlot (d : Dev) (k : FaultKind) (j : SlotId) : d.Goes (d.latchSlot k j) := d.goes_latch k _

theorem Dev.goes_siteNotice (d : Dev) (j : SlotId) (site : Option Nat) (old new : SiteState) (c : SiteCause) :
    d.Goes (d.siteNotice j site old new c) := d.goes_broadcast _

theorem Dev.goes_setSiteState {d : Dev} {j : SlotId} {new : SiteState} (c : SiteCause)
    (h : d.sites[j].restOk = true → { d.sites[j] with state := new }.restOk = true) : d.Goes (d.setSiteState j new c) :=
  (Dev.goes_modSite h).trans (Dev.goes_siteNotice _ j _ _ new c)

theorem Dev.goes_portNotice (d : Dev) (p : PortId) (old new : PortState) (c : PortCause) : d.Goes (d.portNotice p old new c) :=
  d.goes_broadcast _

/-! ## The key index -/

theorem KeyIndex.countReason_ways (u : Unindexed) (k : KeyIndex) : (k.countReason u).ways = k.ways := by
  cases u <;> rfl

theorem KeyIndex.ascending_decide (seq : Seq) (bucket : Word32) (hash : Word64) (len : Nat) (stamp : Word64) (c : Checked)
    (k : KeyIndex) (h : Tbl.ascending k.ways = true) : Tbl.ascending (k.decide seq bucket hash len stamp c).1.ways = true := by
  have hcount (u : Unindexed) : Tbl.ascending (k.unindexed u).1.ways = true := by
    show Tbl.ascending (k.countReason u).ways = true
    rwa [KeyIndex.countReason_ways]
  unfold KeyIndex.decide
  split
  · split
    · exact KeyIndex.ascending_put _ _ _ h
    · exact hcount _
  · exact hcount _
  · exact hcount _
  · exact hcount _
  · split
    · exact hcount _
    · dsimp only
      split
      · exact h
      · split
        · exact hcount _
        · exact KeyIndex.ascending_put _ _ _ h

theorem KeyIndex.ascending_countHeld (seq : Seq) (bucket : Word32) (hash : Word64) (len : Nat) (c : Checked) (k : KeyIndex)
    (h : Tbl.ascending k.ways = true) : Tbl.ascending (k.countHeld seq bucket hash len c).1.ways = true := by
  have hcount (u : Unindexed) : Tbl.ascending (k.countReason u).ways = true := by rwa [KeyIndex.countReason_ways]
  unfold KeyIndex.countHeld
  dsimp only
  split
  · split
    · exact KeyIndex.ascending_put _ _ _ h
    · exact hcount _
  · exact hcount _
  · exact hcount _
  · exact hcount _
  · split
    · exact hcount _
    · split
      · exact KeyIndex.ascending_put _ _ _ h
      · exact hcount _

/-- An update of the key index alone. -/
theorem Dev.goes_index (d : Dev) (k : KeyIndex) (h : Tbl.ascending d.index.ways = true → Tbl.ascending k.ways = true) :
    d.Goes { d with index := k } :=
  { Dev.Goes.refl d with ways := h }

/-! ## Durability -/

theorem Dev.goes_countVerdict (d : Dev) (v : Verdict) : d.Goes { d with status := d.status.countVerdict v } :=
  { Dev.Goes.refl d with slots := fun h => (StatusArray.countVerdict_slots v d.status).symm ▸ h }

theorem Dev.goes_setVerdict (d : Dev) (s : Seq) (x : Slot) (v : Verdict) : d.Goes (d.setVerdict s x v) :=
  (d.goes_putSlot s { x with verdict := some v }).trans (Dev.goes_countVerdict _ v)

theorem Dev.goes_testVerdict (d : Dev) (s : Seq) : d.Goes (d.testVerdict s) := by
  unfold Dev.testVerdict
  split
  · exact .refl d
  · exact .ite (fun _ => .refl d) fun _ =>
      .ite (fun _ => (d.goes_setVerdict s _ _).trans (Dev.goes_route _ _ _)) fun _ =>
        .ite (fun _ => (d.goes_setVerdict s _ _).trans (Dev.goes_route _ _ _)) fun _ => .refl d

theorem Dev.goes_countResolution (d : Dev) :
    d.Goes { d with status := { d.status with resolutions := d.status.resolutions + 1 } } := .of_eq rfl

theorem Dev.goes_resolve (d : Dev) (s : Seq) (x : Slot) : d.Goes (d.resolve s x) := by
  unfold Dev.resolve
  refine Dev.Goes.trans ?release ((Dev.goes_putSlot _ s { x with link := none }).trans (Dev.goes_countResolution _))
  split
  · exact d.goes_index _ (KeyIndex.ascending_release _ _)
  · exact .refl d

theorem Dev.goes_evaluate (d : Dev) (s : Seq) (was : Bool) : d.Goes (d.evaluate s was) := by
  unfold Dev.evaluate
  split
  · exact .refl d
  · exact .ite (fun _ => .refl d) fun _ =>
      (Dev.Goes.ite (fun _ => d.goes_resolve s _) fun _ => .refl d).trans (Dev.goes_testVerdict _ s)

theorem Dev.goes_updateSlot (d : Dev) (s : Seq) (f : Slot → Slot) : d.Goes (d.updateSlot s f) := by
  unfold Dev.updateSlot
  split
  · exact .refl d
  · exact (d.goes_putSlot s _).trans (Dev.goes_evaluate _ s _)

theorem Dev.goes_markSuperseded (d : Dev) (l n : Seq) (set : List SlotId) (x : Slot) : d.Goes (d.markSuperseded l n set x) :=
  .ite (fun _ => (d.goes_setVerdict l _ _).trans (Dev.goes_route _ _ _)) fun _ => d.goes_putSlot l _

theorem Dev.goes_supersede (d : Dev) (l n : Seq) (set : List SlotId) : d.Goes (d.supersede l n set) := by
  unfold Dev.supersede
  split
  · exact .refl d
  · exact (d.goes_markSuperseded l n set _).trans (Dev.goes_evaluate _ l _)

theorem Dev.goes_fillSlot (d : Dev) (r : IntentRec) (c : Decided) : d.Goes (d.fillSlot r c) :=
  { Dev.Goes.refl d with slots := d.ascending_fillSlot r c }

theorem Dev.goes_writeSlot (d : Dev) (r : IntentRec) : d.Goes (d.writeSlot r) := by
  have happlied (x y : Slot) :
      d.Goes (if x.outcome = .stale then d.setVerdict r.seq y .superseded else d.putSlot r.seq y) := by
    split
    · exact d.goes_setVerdict r.seq _ _
    · exact d.goes_putSlot r.seq _
  have hdone (e : Dev) : e.Goes
      (match e.slot? r.seq with
        | none => e
        | some z => e.putSlot r.seq { z with pendingSup := none }) := by
    split
    · exact .refl e
    · exact e.goes_putSlot _ _
  unfold Dev.writeSlot
  split
  · exact .refl d
  · next x _ =>
    refine ((happlied x (x.applyOutcome r.held)).trans ?_).trans (Dev.goes_evaluate _ r.seq false)
    cases x.pendingSup with
    | none => exact .refl _
    | some l => exact (Dev.goes_supersede _ l r.seq (x.applyOutcome r.held).sites).trans (hdone _)

theorem Dev.goes_lowerCursor (d : Dev) (j : SlotId) (s : Seq) : d.Goes (d.lowerCursor j s) := Dev.goes_modSite_rest rfl

theorem Dev.goes_offer (d : Dev) (s : Seq) : d.Goes (d.offer s) := by
  unfold Dev.offer
  split
  · exact .refl d
  · exact Dev.Goes.foldl (fun d (e : SlotId × Mark) => d.goes_lowerCursor e.1 s) _ d

theorem Dev.goes_cursorToFrontier (d : Dev) (j : SlotId) : d.Goes (d.cursorToFrontier j) := Dev.goes_modSite_rest rfl

theorem Dev.goes_releaseHeld (d : Dev) (s : Seq) (stamp : Word64) : d.Goes (d.releaseHeld s stamp).1 := by
  have hput (x : Slot) (d : Dev) : d.Goes (((d.putSlot s x).evaluate s false).offer s) :=
    (d.goes_putSlot s x).trans ((Dev.goes_evaluate _ s false).trans (Dev.goes_offer _ s))
  unfold Dev.releaseHeld
  split
  case h_1 => exact .refl d
  case h_2 x _ =>
    dsimp only
    split
    · exact hput _ d
    · split
      · exact hput _ d
      · next w e _ =>
        have hwin : d.Goes { d with index := d.index.put w { e with live := some (s, stamp) } } :=
          d.goes_index _ (KeyIndex.ascending_put _ _ _)
        split
        · split
          · exact (Dev.Goes.ite (fun _ => (d.goes_setVerdict s _ _).trans (Dev.goes_route _ _ _))
              fun _ => d.goes_putSlot s _).trans (Dev.goes_evaluate _ s false)
          · exact hwin.trans <| (Dev.goes_putSlot _ s _).trans <| (Dev.goes_supersede _ _ s _).trans <|
              (Dev.goes_evaluate _ s false).trans (Dev.goes_offer _ s)
        · exact hwin.trans (hput _ _)

theorem Dev.goes_denyHeld (d : Dev) (s : Seq) : d.Goes (d.denyHeld s) := d.goes_updateSlot s _

theorem Dev.goes_applyDecision (d : Dev) (s : Seq) (dn : Decision) : d.Goes (d.applyDecision s dn).1 := by
  unfold Dev.applyDecision
  split
  · exact .refl d
  · have hdrop : d.Goes (d.dropHeld s) := .of_eq rfl
    have htold (c : DecisionCause) (x : Option Slot) : (d.dropHeld s).Goes
        (match c, x with
          | .expiry, some x => (d.dropHeld s).route x.origin (.holdExpired (x.noticeRoute s) dn)
          | _, _ => d.dropHeld s) := by
      split
      · exact Dev.goes_route _ _ _
      · exact .refl _
    cases dn
    · exact hdrop.trans ((htold _ _).trans (Dev.goes_releaseHeld _ s _))
    · exact hdrop.trans ((htold _ _).trans (Dev.goes_denyHeld _ s))

/-- R72: without an entry in flight nothing is dropped. -/
theorem Site.restOk_dropInFlight {x : Site} (s : Seq) (h : x.restOk = true) : (x.dropInFlight s).restOk = true := by
  rw [Site.restOk_iff] at h ⊢
  intro hne
  obtain ⟨hc, hi, hr, hs⟩ := h hne
  simp [Site.dropInFlight, hc, hi, hr, hs]

/-- An update of every slot of the site table. -/
theorem Dev.goes_mapSites (d : Dev) (f : Site → Site) (h : ∀ x : Site, x.restOk = true → (f x).restOk = true) :
    d.Goes { d with sites := d.sites.map f } :=
  { Dev.Goes.refl d with
    rest := fun j hj => by
      show (d.sites.map f)[j].restOk = true
      simp only [Fin.getElem_fin, Vector.getElem_map]
      exact h _ hj }

theorem Dev.goes_forgetIntent (d : Dev) (s : Seq) : d.Goes (d.forgetIntent s) :=
  d.goes_mapSites _ fun _ h => Site.restOk_dropInFlight s h

theorem Dev.goes_failIntent (d : Dev) (s : Seq) : d.Goes (d.failIntent s) :=
  (d.goes_forgetIntent s).trans (Dev.Goes.trans (e := (d.forgetIntent s).dropHeld s) (.of_eq rfl) (Dev.goes_updateSlot _ s _))

end Sys2Proof.Machine
end

section
/-!
SUPPORT of O6, O58, O59 and O60, continued: inbound replication, pacing, staging, peer sites, the fetch unit, reclaim and reads.
-/

open Sys2Proof Sys2Proof.Machine

namespace Sys2Proof.Machine

/-! ## Inbound replication -/

theorem Dev.goes_modInbound (d : Dev) (f : Inbound → Inbound) : d.Goes (d.modInbound f) := .of_eq rfl

theorem Dev.goes_countInbound (d : Dev) (f : InboundCounts → InboundCounts) : d.Goes (d.countInbound f) := .of_eq rfl

theorem Dev.goes_modArrival (d : Dev) (id : Nat) (f : Arrival → Arrival) : d.Goes (d.modArrival id f) := .of_eq rfl

theorem Dev.goes_enqueueRead (d : Dev) (r : ReadReq) : d.Goes (d.enqueueRead r) := .of_eq rfl

/-- An update of the arrivals, the receipts and the done list alone. -/
theorem Dev.Goes.of_inbound {d e : Dev} (h : { e with inbound := d.inbound } = d) : d.Goes e := by
  have he : e = { d with inbound := e.inbound } := by rw [← h]
  rw [he]
  exact .of_eq rfl

theorem Dev.goes_raiseReceipt (d : Dev) (j : SlotId) (s : Seq) (o : ReceiptOutcome) : d.Goes (d.raiseReceipt j s o) :=
  .of_inbound (d.raiseReceipt_rest j s o)

theorem Dev.goes_settlePair (d : Dev) (j : SlotId) (s : Seq) (o : ReceiptOutcome) : d.Goes (d.settlePair j s o) :=
  .of_inbound (d.settlePair_rest j s o)

theorem Dev.goes_finish (d : Dev) (a : Arrival) (o : ReceiptOutcome) : d.Goes (d.finish a o) := .of_inbound (d.finish_rest a o)

theorem Dev.goes_flushReceipts (d : Dev) : d.Goes d.flushReceipts :=
  (d.goes_modInbound _).trans <|
    Dev.Goes.foldl (fun d _ => Dev.Goes.foldl (fun d b => d.goes_raiseFrame _ b) _ d) _ _

theorem Dev.goes_arrivalKnown (d : Dev) (id : Nat) (o : Outcome27) : d.Goes (d.arrivalKnown id o) := .of_eq rfl

theorem Dev.goes_arrivalComplete (d : Dev) (id : Nat) : d.Goes (d.arrivalComplete id) := by
  unfold Dev.arrivalComplete
  split
  · exact .refl d
  · refine (d.goes_modArrival id fun a => { a with silenceDue := none }).trans ?_
    dsimp only
    split
    · exact (Dev.goes_finish _ _ _).trans (Dev.goes_countInbound _ _)
    · split
      · exact Dev.goes_arrivalKnown _ id _
      · exact (Dev.goes_modArrival _ id _).trans (Dev.goes_enqueueRead _ _)

theorem Dev.goes_arrivalRead (d : Dev) (id way creation : Nat) (r : Option IntentRec) :
    d.Goes (d.arrivalRead id way creation r) := by
  unfold Dev.arrivalRead
  split
  · exact .refl d
  · split
    · split <;> exact d.goes_arrivalKnown id _
    · exact .refl d

theorem Dev.goes_createArrival (d : Dev) (j : SlotId) (o : OpenDesc) (k : IntentKind) (held : Option (SlotId × Seq)) :
    d.Goes (d.createArrival j o k held) :=
  (d.goes_modInbound _).then_ite fun _ => Dev.goes_arrivalComplete _ _

theorem Dev.goes_refuseOpen (d : Dev) (j : SlotId) (s : Seq) (listFull arenaFull : Bool) :
    d.Goes (d.refuseOpen j s listFull arenaFull) := by
  have hbusy : d.Goes (if d.siteState j = .fenced then d else d.raiseFrame j (.busy s)) :=
    .ite (fun _ => .refl d) fun _ => d.goes_raiseFrame j _
  have hnotice (e : Dev) (f g : Inbound → Inbound) (b : NoticeBody) (c : Prop) [Decidable c] (n : InboundCounts → InboundCounts) :
      e.Goes (if c then e.modInbound f else ((e.modInbound g).broadcast b).countInbound n) :=
    .ite (fun _ => e.goes_modInbound f) fun _ =>
      (e.goes_modInbound g).trans ((Dev.goes_broadcast _ b).trans (Dev.goes_countInbound _ n))
  exact hbusy.trans ((Dev.goes_countInbound _ _).trans (hnotice _ _ _ _ _ _))

theorem Dev.goes_takeOpen (d : Dev) (j : SlotId) (o : OpenDesc) (k : IntentKind) : d.Goes (d.takeOpen j o k) := by
  have hcount {e : Dev} (h : d.Goes e) (n : InboundCounts → InboundCounts) : d.Goes (e.countInbound n) :=
    h.trans (e.goes_countInbound n)
  unfold Dev.takeOpen
  dsimp only
  split
  case h_1 => exact hcount (d.goes_raiseReceipt j _ _) _
  case h_2 =>
    split
    · exact d.goes_countInbound _
    · split
      case h_1 =>
        split
        · exact d.goes_refuseOpen j _ _ _
        · exact d.goes_createArrival j o k none
      case h_2 e _ =>
        split
        · exact hcount (d.goes_settlePair j _ _) _
        · split
          · exact d.goes_refuseOpen j _ _ _
          · split
            · exact (hcount ((d.goes_settlePair _ _ _).trans (Dev.goes_modInbound _ _)) _).trans
                (Dev.goes_createArrival _ j o k _)
            · exact (hcount (d.goes_modInbound _) _).trans (Dev.goes_createArrival _ j o k _)

theorem Dev.goes_addChunk (d : Dev) (id k : Nat) (data : List Byte) : d.Goes (d.addChunk id k data) := by
  unfold Dev.addChunk
  refine (d.goes_modArrival id fun a =>
    { a with chunks := Tbl.put a.chunks k data, silenceDue := some (d.now + 20000) }).trans ?_
  dsimp only
  split
  · exact .ite (fun _ => Dev.goes_arrivalComplete _ id) fun _ => .refl _
  · exact .refl _

theorem Dev.goes_silenceExpired (d : Dev) (id : Nat) : d.Goes (d.silenceExpired id) := by
  unfold Dev.silenceExpired
  split
  · exact .refl d
  · next a _ =>
    have hgap (b : FrameBody) : d.Goes (if d.siteState a.slot = .fenced then d else d.raiseFrame a.slot b) :=
      .ite (fun _ => .refl d) fun _ => d.goes_raiseFrame _ b
    split
    · exact (hgap _).trans ((Dev.goes_countInbound _ _).trans (Dev.goes_modArrival _ id _))
    · exact (d.goes_modInbound _).trans (Dev.goes_countInbound _ _)

theorem Dev.goes_startDelivery (d : Dev) (a : Arrival) (p : PortId) : d.Goes (d.startDelivery a p) := by
  unfold Dev.startDelivery
  split
  · exact .refl d
  · next l _ =>
    have hport (e : Dev) : e.Goes (e.modPort p fun q => { q with landings := q.landings.erase l }) := Dev.goes_modPort_rest rfl
    have hdma (e : Dev) (w : DmaWrite) : e.Goes { e with dma := e.dma ++ [w] } := .of_eq rfl
    exact (d.goes_modArrival a.id _).trans <| (hport _).trans <| (Dev.goes_modInbound _ _).trans <|
      (Dev.goes_countInbound _ _).trans (hdma _ _)

theorem Dev.goes_stopLanding (d : Dev) (p : PortId) : d.Goes (d.stopLanding p) := .of_eq rfl

theorem Dev.goes_landed (d : Dev) (p : PortId) : d.Goes (d.landed p) := by
  unfold Dev.landed
  split
  · exact .refl d
  · exact (d.goes_stopLanding p).trans ((Dev.goes_modArrival _ _ _).trans (Dev.goes_notify _ p _ _))

/-- An update of the ports, the arrivals and the writes in progress. -/
theorem Dev.Goes.of_deliveries {d e : Dev} (hports : ∀ q : PortId, d.ports[q].Grows e.ports[q])
    (h : { e with ports := d.ports, inbound := d.inbound, dma := d.dma } = d) : d.Goes e := by
  have he : e = { d with ports := e.ports, inbound := e.inbound, dma := e.dma } := by rw [← h]
  rw [he]
  exact { Dev.Goes.refl d with ports := hports }

theorem Dev.goes_returnDeliveries (d : Dev) (p : PortId) : d.Goes (d.returnDeliveries p) := by
  have hports (q : PortId) : d.ports[q].Grows (d.returnDeliveries p).ports[q] := by
    rw [Dev.returnDeliveries_ports]
    split
    · exact .of_notices List.prefix_rfl rfl rfl rfl
    · exact .refl _
  exact .of_deliveries hports (d.returnDeliveries_rest p)

theorem Dev.goes_fenceArrivals (d : Dev) (j : SlotId) : d.Goes (d.fenceArrivals j) := .of_eq rfl

theorem Dev.goes_stopDelivery (d : Dev) (a : Arrival) : d.Goes (d.stopDelivery a) := by
  unfold Dev.stopDelivery
  split
  · exact (d.goes_stopLanding _).trans (Dev.goes_modPort_rest rfl)
  · exact .refl d

theorem Dev.goes_detachArrivals (d : Dev) (j : SlotId) : d.Goes (d.detachArrivals j) := by
  have hstop := Dev.Goes.foldl (fun d (a : Arrival) => d.goes_stopDelivery a) (d.inbound.arrivals.filter fun a => a.slot == j) d
  unfold Dev.detachArrivals
  exact hstop.trans (Dev.goes_modInbound _ _)

theorem Dev.goes_peerStartArrivals (d : Dev) (j : SlotId) : d.Goes (d.peerStartArrivals j) := .of_eq rfl

theorem Dev.goes_stopSilence (d : Dev) : d.Goes d.stopSilence := .of_eq rfl

theorem Dev.goes_restartSilence (d : Dev) : d.Goes d.restartSilence := .of_eq rfl

/-! ## Pacing -/

/-- R97: a credit that is limited to a cap stays 0 at a slot at rest. -/
theorem Site.restOk_clampCredit {x : Site} (n : Nat) (h : x.restOk = true) :
    { x with credit := min x.credit (n : Int) }.restOk = true := by
  rw [Site.restOk_iff] at h ⊢
  intro hne
  obtain ⟨hc, hi, hr, hs⟩ := h hne
  exact ⟨by simp [hc], hi, hr, hs⟩

theorem Dev.goes_clampMembers (d : Dev) (g : GenId) : d.Goes (d.clampMembers g) :=
  Dev.Goes.foldl (fun e j => Dev.goes_modSite (Site.restOk_clampCredit (e.cap j))) _ d

theorem Dev.goes_membershipChanged (d : Dev) (j : SlotId) : d.Goes (d.membershipChanged j) := d.goes_clampMembers _

/-- Credits that change at ACTIVE slots alone. -/
theorem Dev.goes_credits (f : SlotId → Site → Int) (l : List SlotId) (d : Dev) (h : ∀ j ∈ l, d.sites[j].state = .active) :
    d.Goes (l.foldl (fun d j => d.modSite j fun x => { x with credit := f j x }) d) := by
  induction l generalizing d with
  | nil => exact .refl d
  | cons j t ih =>
    refine (Dev.goes_modSite_active (h j List.mem_cons_self)).trans (ih _ fun k hk => ?_)
    rw [Dev.modSite_site]
    split <;> exact h k (List.mem_cons_of_mem j hk)

theorem Dev.foldl_credit_state (f : SlotId → Site → Int) (l : List SlotId) (d : Dev) (k : SlotId) :
    (l.foldl (fun d j => d.modSite j fun x => { x with credit := f j x }) d).sites[k].state = d.sites[k].state :=
  foldl_keeps (fun d : Dev => d.sites[k].state) _ (fun d j => by
    rw [Dev.modSite_site]
    split <;> rfl) l d

theorem Dev.state_of_member {d : Dev} {g : GenId} {j : SlotId} (h : j ∈ d.members g) : d.sites[j].state = .active :=
  ((d.mem_members_iff g j).1 h).1

theorem Dev.goes_pacingGrant (d : Dev) (g : GenId) : d.Goes (d.pacingGrant g) := by
  have hadd : d.Goes (d.addAll g) := Dev.goes_credits (fun j x => min (x.credit + d.add j) (d.cap j)) _ d fun _ => d.state_of_member
  have hgive (q : Int) : (d.addAll g).Goes ((d.addAll g).giveAll ((d.addAll g).receivers g) q) := by
    refine Dev.goes_credits (fun j x => min (x.credit + q) ((d.addAll g).cap j)) _ _ fun j hj => ?_
    exact Dev.state_of_member (List.mem_of_mem_filter hj)
  exact hadd.trans ((hgive _).trans (.of_eq rfl))

theorem Dev.goes_setGenDue (d : Dev) (g : GenId) (due : Option Time) : d.Goes (d.setGenDue g due) := .of_eq rfl

theorem Dev.goes_startGen (d : Dev) (g : GenId) : d.Goes (d.startGen g) := d.goes_setGenDue g _

theorem Dev.goes_startGens (d : Dev) : d.Goes d.startGens := Dev.Goes.foldl (fun d g => d.goes_startGen g) _ d

theorem Dev.goes_stopGens (d : Dev) : d.Goes d.stopGens := Dev.Goes.foldl (fun d g => d.goes_setGenDue g none) _ d

/-! ## Staging -/

theorem Dev.goes_journal (d : Dev) (j : Journal) (h : d.journal.buffersOk = true → j.buffersOk = true) :
    d.Goes { d with journal := j } :=
  { Dev.Goes.refl d with buffers := h }

theorem Dev.goes_place (d : Dev) (s : Staged) : d.Goes (d.place s).1 := by
  cases hs : d.programStalled with
  | true => rw [Dev.place_stalled s hs]; exact .refl d
  | false => rw [Dev.place_running s hs]; exact d.goes_journal _ (Journal.buffersOk_place _ _ s)

theorem Dev.goes_closeBuffer (d : Dev) : d.Goes d.closeBuffer := d.goes_journal _ Journal.buffersOk_close

theorem Dev.goes_takeSeq (d : Dev) : d.Goes d.takeSeq := .of_eq rfl

/-! ## Peer sites -/

theorem Dev.goes_moveMark (d : Dev) (j : SlotId) (s : Seq) (from_ : Mark → Bool) (new : Mark) :
    d.Goes (d.moveMark j s from_ new) := d.goes_updateSlot s _

theorem Dev.goes_skipMarks (d : Dev) (j : SlotId) (r : SkipReason) : d.Goes (d.skipMarks j r) :=
  Dev.Goes.foldl (fun d s => d.goes_moveMark j s _ _) _ d

theorem Dev.goes_setFrontier (d : Dev) (j : SlotId) (f : Option Seq) : d.Goes (d.setFrontier j f) := by
  unfold Dev.setFrontier
  refine .ite (fun _ => .refl d) fun _ => ?_
  have hsite : d.Goes (d.modSite j fun x => { x with frontier := f }) := Dev.goes_modSite_rest rfl
  exact hsite.trans (.of_eq rfl)

/-- Nothing is in flight, due or being sent any more. -/
theorem Site.restOk_quiet {x : Site} (h : x.restOk = true) : { x with inFlight := [], resends := [], send := none }.restOk = true := by
  rw [Site.restOk_iff] at h ⊢
  exact fun hne => ⟨(h hne).1, rfl, rfl, rfl⟩

theorem Dev.goes_returnInFlight (d : Dev) (j : SlotId) : d.Goes (d.returnInFlight j) :=
  Dev.Goes.trans (e := d.modSite j fun x => { x with inFlight := [], resends := [], send := none })
    (Dev.goes_modSite Site.restOk_quiet) (Dev.Goes.foldl (fun d s => d.goes_moveMark j s _ _) _ _)

theorem Site.restOk_noCredit {x : Site} (h : x.restOk = true) : { x with credit := 0 }.restOk = true := by
  rw [Site.restOk_iff] at h ⊢
  exact fun hne => ⟨rfl, (h hne).2⟩

theorem Dev.goes_quitActive (d : Dev) (j : SlotId) : d.Goes (d.quitActive j) :=
  (d.goes_returnInFlight j).trans ((Dev.goes_cursorToFrontier _ j).trans (Dev.goes_modSite Site.restOk_noCredit))

theorem Dev.goes_probe (d : Dev) (j : SlotId) : d.Goes (d.probe j) :=
  ((d.goes_raiseFrame j _).trans (Dev.goes_modSite_rest rfl)).then_ite fun _ => Dev.goes_latchSlot _ .stall j

theorem Dev.goes_setPeerStart (d : Dev) (j : SlotId) (n : Nat) : d.Goes (d.setPeerStart j n) := by
  unfold Dev.setPeerStart
  refine .ite (fun _ => .refl d) fun _ => ?_
  have hsite : d.Goes (d.modSite j fun x => { x with peerStart := some n }) := Dev.goes_modSite_rest rfl
  exact hsite.trans (Dev.goes_peerStartArrivals _ j)

/-- R61: a slot that becomes ACTIVE has nothing to be at rest with. -/
theorem Site.restOk_active (x : Site) : { x with state := .active }.restOk = true :=
  (Site.restOk_iff _).2 fun hne => absurd rfl hne

theorem Dev.goes_probeAnswered (d : Dev) (j : SlotId) (start : Nat) : d.Goes (d.probeAnswered j start) :=
  (d.goes_setPeerStart j start).trans <|
    Dev.Goes.trans (e := (d.setPeerStart j start).modSite j fun x =>
      { x with probeCount := 0, busyCount := 0, busyEnd := none, probeDue := none }) (Dev.goes_modSite_rest rfl) <|
    (Dev.goes_setSiteState _ fun _ => Site.restOk_active _).trans (Dev.goes_membershipChanged _ j)

theorem Dev.goes_peerRestart (d : Dev) (j : SlotId) (start : Nat) : d.Goes (d.peerRestart j start) :=
  (d.goes_returnInFlight j).trans <| (Dev.goes_cursorToFrontier _ j).trans <|
    (Dev.goes_setPeerStart _ j start).trans (Dev.goes_siteNotice _ j _ _ _ _)

theorem Dev.goes_peerStartSeen (d : Dev) (j : SlotId) (start : Nat) : d.Goes (d.peerStartSeen j start) :=
  .ite (fun _ => d.goes_peerRestart j start) fun _ => d.goes_setPeerStart j start

theorem Dev.goes_takeHello (d : Dev) (j : SlotId) (start : Nat) : d.Goes (d.takeHello j start) :=
  (d.goes_raiseFrame j _).trans (Dev.goes_peerStartSeen _ j start)

theorem Dev.goes_staleFrame (d : Dev) (j : SlotId) : d.Goes (d.staleFrame j) := Dev.goes_modSite_rest rfl

theorem Dev.goes_takeHelloAck (d : Dev) (j : SlotId) (start answered : Nat) : d.Goes (d.takeHelloAck j start answered) := by
  unfold Dev.takeHelloAck
  refine .ite (fun _ => d.goes_staleFrame j) fun _ => ?_
  split
  · exact d.goes_probeAnswered j start
  · exact d.goes_probeAnswered j start
  · exact d.goes_peerStartSeen j start
  · exact d.goes_staleFrame j

theorem Dev.goes_duplicate (d : Dev) (j : SlotId) : d.Goes (d.duplicate j) := Dev.goes_modSite_rest rfl

end Sys2Proof.Machine
end

section
/-!
SUPPORT of O6, O58, O59 and O60, continued: retransmission and the site commands, the fetch unit and the sends, reclaim, the reads and
the array arbiter.
-/

open Sys2Proof Sys2Proof.Machine

namespace Sys2Proof.Machine

/-! ## Retransmission, receipts, and what the site commands do to a slot -/

/-- R67, R74, R80: a slot that has left ACTIVE: no credit, and nothing in flight, due or being sent. -/
def Site.Quiet (x : Site) : Prop := x.credit = 0 ∧ x.inFlight = [] ∧ x.resends = [] ∧ x.send = none

theorem Site.Quiet.restOk {x : Site} (h : x.Quiet) : x.restOk = true := (Site.restOk_iff x).2 fun _ => h

theorem Site.quiet_of_rest {x : Site} (h : x.restOk = true) (hne : x.state ≠ .active) : x.Quiet := (Site.restOk_iff x).1 h hne

/-- R113 to R116: an evaluation leaves the site table. -/
theorem Dev.updateSlot_sites (s : Seq) (f : Slot → Slot) (d : Dev) : (d.updateSlot s f).sites = d.sites :=
  (congrArg Dev.sites (d.updateSlot_kept s f).1 :)

theorem Dev.returnInFlight_site (d : Dev) (j : SlotId) :
    (d.returnInFlight j).sites = (d.modSite j fun x => { x with inFlight := [], resends := [], send := none }).sites :=
  foldl_keeps Dev.sites _ (fun d s => d.updateSlot_sites s _) _ _

theorem Dev.quitActive_quiet (d : Dev) (j : SlotId) : (d.quitActive j).sites[j].Quiet := by
  have hquit : (d.quitActive j).sites[j] =
      { ((d.returnInFlight j).cursorToFrontier j).sites[j] with credit := 0 } := (Dev.modSite_site _ j j _).trans (if_pos rfl)
  have hcursor : ((d.returnInFlight j).cursorToFrontier j).sites[j] =
      { (d.returnInFlight j).sites[j] with cursor := (d.returnInFlight j).frontierOf j, candidates := [] } :=
    (Dev.modSite_site _ j j _).trans (if_pos rfl)
  have hreturn : (d.returnInFlight j).sites[j] = { d.sites[j] with inFlight := [], resends := [], send := none } := by
    rw [Dev.returnInFlight_site]
    exact (Dev.modSite_site _ j j _).trans (if_pos rfl)
  rw [hquit, hcursor, hreturn]
  exact ⟨rfl, rfl, rfl, rfl⟩

theorem Dev.goes_stallSlot (d : Dev) (j : SlotId) : d.Goes (d.stallSlot j) := by
  have hstate : (d.quitActive j).Goes ((d.quitActive j).modSite j fun x => { x with state := .stalled }) :=
    Dev.goes_modSite fun _ => Site.Quiet.restOk (d.quitActive_quiet j)
  have htold (e : Dev) (site : Option Nat) :
      e.Goes (((e.siteNotice j site .active .stalled .retriesExhausted).membershipChanged j).probe j) :=
    (e.goes_siteNotice j _ _ _ _).trans ((Dev.goes_membershipChanged _ j).trans (Dev.goes_probe _ j))
  have hquit := (d.goes_quitActive j).trans hstate
  unfold Dev.stallSlot
  generalize (d.quitActive j).modSite j _ = e at hquit
  exact hquit.trans ((e.goes_latchSlot .stall j).trans (htold _ _))

/-- R61: an entry in flight shows that a slot at rest is ACTIVE. -/
theorem Site.active_of_entry {x : Site} {s : Seq} {e : InFlight} (he : x.entry s = some e) (h : x.restOk = true) :
    x.state = .active := by
  by_contra hne
  have hnone : x.inFlight = [] := (Site.quiet_of_rest h hne).2.1
  simp [Site.entry, hnone] at he

/-- R73, R75: an update of a slot with an entry in flight, which keeps its state. -/
theorem Dev.goes_modSite_entry {d : Dev} {j : SlotId} {s : Seq} {e : InFlight} {f : Site → Site}
    (he : d.sites[j].entry s = some e) (hs : (f d.sites[j]).state = d.sites[j].state) : d.Goes (d.modSite j f) :=
  Dev.goes_modSite fun h => (Site.restOk_iff _).2 fun hne => absurd (hs.trans (Site.active_of_entry he h)) hne

theorem Dev.goes_retryExpired (d : Dev) (j : SlotId) (s : Seq) : d.Goes (d.retryExpired j s) := by
  unfold Dev.retryExpired
  split
  · exact .refl d
  · next he => exact .ite (fun _ => Dev.goes_modSite_entry he rfl) fun _ => d.goes_stallSlot j

theorem Dev.goes_takeGap (d : Dev) (j : SlotId) (s : Seq) (rs : List (Nat × Nat)) : d.Goes (d.takeGap j s rs) := by
  unfold Dev.takeGap
  split
  · exact d.goes_duplicate j
  · next he => exact .ite (fun _ => d.goes_latchSlot .protocol j) fun _ => Dev.goes_modSite_entry he rfl

theorem Dev.goes_takeBusy (d : Dev) (j : SlotId) (s : Seq) : d.Goes (d.takeBusy j s) := by
  unfold Dev.takeBusy
  split
  · exact d.goes_duplicate j
  · have hdrop : d.Goes (d.modSite j (Site.dropInFlight s)) := Dev.goes_modSite (Site.restOk_dropInFlight s)
    exact ((hdrop.trans <| (Dev.goes_moveMark _ j s _ _).trans <| (Dev.goes_lowerCursor _ j s).trans
      (Dev.goes_modSite_rest rfl)).then_ite fun _ => Dev.goes_latchSlot _ .overrun j)

theorem Dev.goes_takeReceipt (d : Dev) (j : SlotId) (s : Seq) (code : Nat) : d.Goes (d.takeReceipt j s code) := by
  unfold Dev.takeReceipt
  split
  · exact (d.goes_latchSlot .protocol j).trans (Dev.goes_duplicate _ j)
  · split
    · exact d.goes_duplicate j
    · refine Dev.Goes.trans (Dev.goes_modSite fun h => ?_) (Dev.goes_moveMark _ j s _ _)
      have hdrop := Site.restOk_dropInFlight s h
      dsimp only
      split <;> split <;> exact hdrop

/-- R83, R84: a slot is written anew, at rest. -/
theorem Dev.goes_modSite_quiet {d : Dev} {j : SlotId} {f : Site → Site} (h : (f d.sites[j]).Quiet) : d.Goes (d.modSite j f) :=
  Dev.goes_modSite fun _ => h.restOk

theorem Dev.goes_attachSlot (d : Dev) (j : SlotId) (c : SiteConfig) : d.Goes (d.attachSlot j c) := by
  have hsite (e : Dev) : e.Goes (e.modSite j fun _ => { state := .probing, cursor := e.journal.nextSeq }) :=
    Dev.goes_modSite_quiet ⟨rfl, rfl, rfl, rfl⟩
  exact (d.goes_modConfig j _).trans <| (hsite _).trans <| (Dev.goes_setFrontier _ j _).trans <|
    (Dev.goes_probe _ j).trans (Dev.goes_siteNotice _ j _ _ _ _)

theorem Dev.goes_detachSlot (d : Dev) (j : SlotId) : d.Goes (d.detachSlot j) := by
  have hsite (e : Dev) : e.Goes (e.modSite j fun _ => {}) := Dev.goes_modSite_quiet ⟨rfl, rfl, rfl, rfl⟩
  have hchanged (e : Dev) : e.Goes { e with status := { e.status with frontierChanged := true } } := .of_eq rfl
  exact (d.goes_detachArrivals j).trans <| (hsite _).trans <| (hchanged _).trans <| (Dev.goes_modConfig _ j _).trans <|
    (Dev.goes_clampMembers _ _).trans <| (Dev.goes_siteNotice _ j _ _ _ _).trans (Dev.goes_skipMarks _ j _)

/-- R80, R85: the state of a slot at rest changes. -/
theorem Dev.goes_setSiteState_quiet {d : Dev} {j : SlotId} (new : SiteState) (c : SiteCause)
    (h : d.sites[j].restOk = true → d.sites[j].Quiet) : d.Goes (d.setSiteState j new c) :=
  Dev.goes_setSiteState c fun hr => Site.Quiet.restOk (h hr)

theorem Dev.goes_fenceSlot (d : Dev) (j : SlotId) : d.Goes (d.fenceSlot j) := by
  have hprobe (e : Dev) : e.Goes (e.modSite j fun x => { x with probeDue := none }) := Dev.goes_modSite_rest rfl
  have hquiet (e : Dev) : ((e.quitActive j).modSite j fun x => { x with probeDue := none }).sites[j].Quiet := by
    rw [Dev.modSite_site, if_pos rfl]
    exact e.quitActive_quiet j
  exact (d.goes_modConfig j _).trans <| (Dev.goes_quitActive _ j).trans <| (hprobe _).trans <|
    (Dev.goes_setSiteState_quiet .fenced _ fun _ => hquiet _).trans <| (Dev.goes_membershipChanged _ j).trans
      (Dev.goes_fenceArrivals _ j)

/-- R85, R86: a slot that is not ACTIVE begins to probe. -/
theorem Dev.goes_unfenceSlot {d : Dev} {j : SlotId} (h : d.siteState j ≠ .active) : d.Goes (d.unfenceSlot j) := by
  have hcursor (e : Dev) : (e.cursorToFrontier j).sites[j] = { e.sites[j] with cursor := e.frontierOf j, candidates := [] } :=
    (Dev.modSite_site e j j _).trans (if_pos rfl)
  refine (d.goes_modConfig j fun c => { c with fenceMark := false }).trans <| (Dev.goes_cursorToFrontier _ j).trans <|
    (Dev.goes_setSiteState_quiet .probing _ fun hr => Site.quiet_of_rest hr ?_).trans (Dev.goes_probe _ j)
  rw [hcursor]
  exact h

theorem Dev.goes_rejoinSlot {d : Dev} {j : SlotId} (h : d.siteState j ≠ .active) : d.Goes (d.rejoinSlot j) := by
  have hsite (e : Dev) : e.Goes (e.modSite j fun x =>
      { x with
        cursor := e.journal.nextSeq, candidates := [], rtt := none, busyCount := 0, busyEnd := none, probeCount := 0
        peerStart := none }) := Dev.goes_modSite_rest rfl
  refine (d.goes_modConfig j fun c => { c with evictMark := false }).trans <| (hsite _).trans <|
    (Dev.goes_setFrontier _ j _).trans <|
      (Dev.goes_setSiteState_quiet .probing _ fun hr => Site.quiet_of_rest hr ?_).trans (Dev.goes_probe _ j)
  rw [Dev.setFrontier_site, if_pos rfl, Dev.modSite_site, if_pos rfl]
  exact h

theorem Dev.goes_evictSlot (d : Dev) (j : SlotId) : d.Goes (d.evictSlot j) := by
  have hsite (e : Dev) : e.Goes (e.modSite j fun x =>
      { x with
        inFlight := [], candidates := [], resends := [], send := none, credit := 0, probeDue := none
        cursor := e.journal.nextSeq }) := Dev.goes_modSite_quiet ⟨rfl, rfl, rfl, rfl⟩
  refine (d.goes_modConfig j fun c => { c with evictMark := true }).trans <| (hsite _).trans <|
    (Dev.goes_setSiteState_quiet .evicted .eviction fun _ => ?_).trans <| (Dev.goes_membershipChanged _ j).trans <|
      (Dev.goes_skipMarks _ j .evicted).trans <| (Dev.goes_setFrontier _ j _).trans (Dev.goes_raiseCtrl _ _)
  rw [Dev.modSite_site, if_pos rfl]
  exact ⟨rfl, rfl, rfl, rfl⟩

theorem Dev.goes_rewindSlot (d : Dev) (j : SlotId) (q : Seq) : d.Goes (d.rewindSlot j q) :=
  (Dev.Goes.foldl (fun d (s : Seq) => d.goes_updateSlot s _) (d.rewindSet j q) d).trans (Dev.goes_lowerCursor _ j q)

/-! ## Dispatchers, the payload cache and the fetches -/

theorem Dev.goes_examineCursor (d : Dev) (j : SlotId) : d.Goes (d.examineCursor j) := by
  unfold Dev.examineCursor
  exact Dev.goes_modSite_rest rfl

theorem Dev.goes_pruneCandidates (d : Dev) (j : SlotId) : d.Goes (d.pruneCandidates j) :=
  .ite (fun _ => .refl d) fun _ => Dev.goes_modSite_rest rfl

theorem Dev.goes_modCandidate (d : Dev) (j : SlotId) (s : Seq) (f : Candidate → Candidate) :
    d.Goes (d.modSite j (Site.modCandidate s f)) := Dev.goes_modSite_rest rfl

theorem Dev.goes_readCandidate (d : Dev) (j : SlotId) (s : Seq) : d.Goes (d.readCandidate j s) := by
  unfold Dev.readCandidate
  split
  · exact d.goes_modCandidate j s _
  · exact d.goes_modCandidate j s _
  · exact (d.goes_modCandidate j s _).trans (Dev.goes_enqueueRead _ _)
  · exact Dev.goes_modSite_rest rfl

theorem Dev.goes_modFetch (d : Dev) (f : FetchUnit → FetchUnit) : d.Goes (d.modFetch f) := .of_eq rfl

theorem Dev.goes_evictPayload {d e : Dev} (h : d.evictPayload = some e) : d.Goes e := by
  unfold Dev.evictPayload at h
  split at h
  · cases h
  · obtain rfl := Option.some.inj h
    exact .of_eq rfl

theorem Dev.goes_makeSpace (len n : Nat) (d : Dev) : d.Goes (d.makeSpace len n) := by
  induction n generalizing d with
  | zero => exact .refl d
  | succ n ih =>
    unfold Dev.makeSpace
    split
    · exact .refl d
    · split
      · exact .refl d
      · next h => exact (Dev.goes_evictPayload h).trans (ih _)

/-- Every slot's candidates change. -/
theorem Dev.goes_dropCandidates (d : Dev) (s : Seq) :
    d.Goes { d with sites := d.sites.map fun x => { x with candidates := x.candidates.filter fun c => c.seq != s } } :=
  d.goes_mapSites _ fun _ h => h

theorem Dev.goes_blockFetch (d : Dev) (s : Seq) : d.Goes (d.blockFetch s) := by
  have hblock (e : Dev) (x : Option Slot) : e.Goes
      (match x with
        | some x => e.putSlot s { x with fetchBlocked := true }
        | none => e) := by
    split
    · exact e.goes_putSlot s _
    · exact .refl e
  exact (d.goes_modFetch _).trans ((hblock _ _).trans (Dev.goes_dropCandidates _ s))

theorem Dev.goes_beginFetch (d : Dev) (r : FetchReq) : d.Goes (d.beginFetch r) := by
  unfold Dev.beginFetch
  split
  · exact d.goes_blockFetch r.seq
  · exact d.goes_modFetch _

theorem Dev.goes_startFetch (d : Dev) : d.Goes d.startFetch := by
  unfold Dev.startFetch
  split
  · exact .refl d
  · exact (d.goes_makeSpace _ _).then_ite fun _ => (Dev.goes_modFetch _ _).trans (Dev.goes_beginFetch _ _)

theorem Dev.goes_moveFetch (d : Dev) (s : Seq) (p : PortId) : d.Goes (d.moveFetch s p) := by
  unfold Dev.moveFetch
  split
  · exact d.goes_blockFetch s
  · exact d.goes_modFetch _

theorem Dev.goes_moveReads (d : Dev) (p : PortId) : d.Goes (d.moveReads p) :=
  Dev.Goes.foldl (fun d (s : Seq) => d.goes_moveFetch s p) _ d

theorem Dev.goes_digestFailed (d : Dev) (f : Fetch) (first second : PortId) : d.Goes (d.digestFailed f first second) := by
  unfold Dev.digestFailed
  refine Dev.Goes.trans (d.goes_modFetch fun u =>
    { u with active := u.active.filter fun a => a.req.seq != f.req.seq, fetchFailed := sat64 (u.fetchFailed + 1) }) ?_
  dsimp only
  split
  · exact .refl _
  · exact (Dev.goes_route _ _ _).trans <|
      (Dev.Goes.foldl (fun d (j : SlotId) => d.goes_latchSlot .digest j) _ _).trans (Dev.goes_failIntent _ _)

theorem Dev.goes_fetched (d : Dev) (f : Fetch) (data : List Byte) : d.Goes (d.fetched f data) := by
  have hport : d.Goes (d.modPort f.port fun q => { q with timeouts := 0 }) := Dev.goes_modPort_rest rfl
  have hretried (e : Dev) (x : Option Slot) : e.Goes
      (match x with
        | some x => e.putSlot f.req.seq { x with digestRetried := some f.port }
        | none => e) := by
    split
    · exact e.goes_putSlot _ _
    · exact .refl e
  refine hport.trans ?_
  unfold Dev.fetched
  dsimp only
  split
  · exact Dev.goes_modFetch _ _
  · refine (Dev.goes_modFetch _ fun u => { u with mismatches := sat64 (u.mismatches + 1) }).trans ?_
    split
    · exact Dev.goes_digestFailed _ _ _ _
    · exact (hretried _ _).trans ((Dev.goes_modFetch _ _).trans (Dev.goes_moveFetch _ _ _))

/-! ## Sends -/

theorem Dev.goes_modSpan (d : Dev) (sp : SpanId) (f : SpanPort → SpanPort) : d.Goes (d.modSpan sp f) := .of_eq rfl

theorem Dev.goes_countFrame (d : Dev) (j : SlotId) (len : Nat) : d.Goes (d.countFrame j len) := Dev.goes_modSite_rest rfl

/-- R61: an ACTIVE slot stays ACTIVE, and the part goes on. -/
def Dev.GoesActive (j : SlotId) (d e : Dev) : Prop := d.sites[j].state = .active → d.Goes e ∧ e.sites[j].state = .active

theorem Dev.GoesActive.trans {j : SlotId} {d e f : Dev} (h : d.GoesActive j e) (k : e.GoesActive j f) : d.GoesActive j f :=
  fun ha => ⟨(h ha).1.trans (k (h ha).2).1, (k (h ha).2).2⟩

theorem Dev.GoesActive.refl (j : SlotId) (d : Dev) : d.GoesActive j d := fun ha => ⟨.refl d, ha⟩

theorem Dev.GoesActive.ite {j : SlotId} {c : Prop} [Decidable c] {d e : Dev} (h : d.GoesActive j e) :
    d.GoesActive j (if c then e else d) := by
  split
  · exact h
  · exact .refl j d

theorem Dev.goesActive_modSite {d : Dev} {j : SlotId} {f : Site → Site} (hf : (f d.sites[j]).state = d.sites[j].state) :
    d.GoesActive j (d.modSite j f) := fun ha =>
  ⟨Dev.goes_modSite_active (hf.trans ha), by rw [Dev.modSite_site, if_pos rfl, hf, ha]⟩

theorem Dev.goesActive_moveMark (d : Dev) (j : SlotId) (s : Seq) (from_ : Mark → Bool) (new : Mark) :
    d.GoesActive j (d.moveMark j s from_ new) := fun ha =>
  ⟨d.goes_moveMark j s from_ new, by rw [show (d.moveMark j s from_ new).sites = d.sites from d.updateSlot_sites s _]; exact ha⟩

theorem Dev.goesActive_firstOpen (d : Dev) (j : SlotId) (r : IntentRec) : d.GoesActive j (d.firstOpen j r) := by
  unfold Dev.firstOpen
  exact (d.goesActive_moveMark j r.seq _ _).trans (Dev.goesActive_modSite rfl)

theorem Dev.goesActive_rest {d e : Dev} (j : SlotId) (h : d.Goes e) (hs : e.sites = d.sites) : d.GoesActive j e :=
  fun ha => ⟨h, hs ▸ ha⟩

/-- R70: a slot that has something to send is ACTIVE. -/
theorem Dev.active_of_nextSend {d : Dev} {j : SlotId} {x : Send × List Resend} (h : d.nextSend j = some x) :
    d.sites[j].state = .active := by
  by_contra hne
  rw [Dev.nextSend_of_not_active hne] at h
  cases h

theorem Dev.goes_handOver (d : Dev) (j : SlotId) : d.Goes (d.handOver j) := by
  unfold Dev.handOver
  split
  · exact .refl d
  · next k rs h =>
    have hactive := Dev.active_of_nextSend h
    split
    · next piece rest r _ _ =>
      have hsend : d.GoesActive j (d.modSite j fun x =>
        { x with send := if rest.isEmpty then none else some { k with pieces := rest }, resends := rs }) := Dev.goesActive_modSite rfl
      have hcount (e : Dev) (len : Nat) : e.GoesActive j (e.countFrame j len) := Dev.goesActive_modSite rfl
      have hlast (e : Dev) : e.GoesActive j (e.lastFrame j k.seq) := Dev.goesActive_modSite rfl
      have hcredit (e : Dev) (len : Nat) : e.GoesActive j (e.modSite j fun x => { x with credit := x.credit - len }) :=
        (Dev.goesActive_modSite rfl)
      have htouch (e : Dev) : e.GoesActive j (if piece = .opening then e else e.modFetch (FetchUnit.touch k.seq)) := by
        split
        · exact .refl j e
        · exact Dev.goesActive_rest j (e.goes_modFetch _) rfl
      exact ((hsend.trans <| (Dev.GoesActive.ite (Dev.goesActive_firstOpen _ j r)).trans <|
        (Dev.GoesActive.ite (hlast _)).trans <| (hcount _ _).trans <| (Dev.GoesActive.ite (hcredit _ _)).trans <|
          (htouch _).trans (Dev.goesActive_rest j (Dev.goes_modSpan _ _ _) rfl)) hactive).1
    · exact Dev.goes_modSite_active hactive

theorem Dev.goes_transmit {d e : Dev} {sp : SpanId} (h : d.transmit sp = some e) : d.Goes e := by
  unfold Dev.transmit at h
  dsimp only at h
  split at h
  · cases h
  · split at h
    · split at h
      · obtain rfl := Option.some.inj h
        exact d.goes_modSpan sp _
      · obtain rfl := Option.some.inj h
        exact (d.goes_modSpan sp _).trans ((Dev.goes_countFrame _ _ _).trans (Dev.goes_modSpan _ _ _))
    · obtain ⟨j, _, rfl⟩ := Option.map_eq_some_iff.1 h
      exact d.goes_handOver j

/-! ## Reclaim -/

theorem Dev.goes_modReclaim (d : Dev) (f : Reclaim → Reclaim) : d.Goes (d.modReclaim f) := .of_eq rfl

theorem Dev.goes_leaveChain (d : Dev) (n : Nat) : d.Goes (d.leaveChain n) :=
  Dev.Goes.trans (Dev.Goes.foldl (fun d (q : Seq) => d.goes_freeSlot q) (d.seg n).intents d) (.of_eq rfl)

theorem Dev.goes_setOp (d : Dev) (o : Option ArrayOp) : d.Goes { d with array := { d.array with op := o } } := .of_eq rfl

theorem Dev.goes_startErase (d : Dev) (n : Nat) : d.Goes (d.startErase n) := by
  have hbegin (e : Dev) : e.Goes (e.beginErase n) :=
    (e.goes_modSeg n _).trans ((Dev.goes_modReclaim _ _).trans (Dev.goes_setOp _ _))
  by_cases h : (d.seg n).state = .full
  · rw [Dev.startErase_full h]
    exact (d.goes_leaveChain n).trans (hbegin _)
  · rw [Dev.startErase_of_ne_full h]
    exact hbegin d

theorem Dev.goes_erased (d : Dev) (n : Nat) (ok : Bool) : d.Goes (d.erased n ok) := by
  have hlatch (e : Dev) : e.Goes (if ok then e else e.latch .journalMedia .part) :=
    .ite (fun _ => .refl e) fun _ => e.goes_latch _ _
  exact (d.goes_modSeg n _).trans ((Dev.goes_setOp _ none).trans ((Dev.goes_modReclaim _ _).trans (hlatch _)))

theorem Dev.goes_pressureNotice (d : Dev) (b : NoticeBody) : d.Goes (d.pressureNotice b) :=
  (d.goes_broadcast b).trans (Dev.goes_modReclaim _ _)

theorem Dev.goes_watchPressure (d : Dev) : d.Goes d.watchPressure := by
  unfold Dev.watchPressure
  refine Dev.Goes.then_ite ?armed fun _ => Dev.goes_modReclaim _ _
  refine .ite (fun _ => ?_) fun _ => .ite (fun _ => .refl d) fun _ => d.goes_modReclaim _
  exact .ite (fun _ => (d.goes_modReclaim _).trans (Dev.goes_pressureNotice _ _)) fun _ => .refl d

theorem Dev.goes_reportBlocked (d : Dev) (c : BlockCause) (seg : Option Nat) (heldSeq : Option Seq) (slot : Option SlotId) :
    d.Goes (d.reportBlocked c seg heldSeq slot) :=
  .ite (fun _ => .refl d) fun _ => (d.goes_modReclaim _).trans (Dev.goes_pressureNotice _ _)

theorem Dev.goes_examinedWith (d : Dev) (raise : Bool) : d.Goes (d.examinedWith raise) := by
  unfold Dev.examinedWith
  split <;> exact .of_eq rfl

theorem Dev.goes_examine (d : Dev) : d.Goes d.examine := by
  have hwith (f : Finding) (raise : Bool) : (d.examinedWith raise).Goes
      (match f with
        | .nothing => d.examinedWith raise
        | .blocked c seg h slot => (d.examinedWith raise).reportBlocked c seg h slot
        | .evict j => ((d.examinedWith raise).modReclaim fun r => { r with evictions := sat32 (r.evictions + 1) }).evictSlot j) := by
    split
    · exact .refl _
    · exact Dev.goes_reportBlocked _ _ _ _ _
    · exact (Dev.goes_modReclaim _ _).trans (Dev.goes_evictSlot _ _)
  exact (d.goes_examinedWith d.examination.2).trans (hwith d.examination.1 _)

/-! ## Reads and the array arbiter -/

theorem Dev.goes_answerKey (d : Dev) (tok : Tok) (q : KeyQuery) (way creation : Nat) (r : LookupResult) :
    d.Goes (d.answerKey tok q way creation r) := by
  unfold Dev.answerKey
  dsimp only
  split
  case h_1 | h_2 => exact d.goes_answer tok _ _ _
  case h_3 => exact d.goes_refuse tok _
  case h_4 =>
    refine .ite (fun _ => d.goes_answer tok _ _ _) fun _ => ?_
    split <;> exact d.goes_answer tok _ _ _

theorem Dev.goes_lookupRead (d : Dev) (p : PortId) (id : Nat) (r : Option IntentRec) : d.Goes (d.lookupRead p id r) := by
  unfold Dev.lookupRead
  split
  · exact .ite (fun _ => Dev.goes_modPort_rest rfl) fun _ => .refl d
  · exact .refl d

theorem Dev.goes_writeRecord (d : Dev) (tok : Tok) (addr : Nat) (r : IntentRec) (programmed : Bool) :
    d.Goes (d.writeRecord tok addr r programmed) := .of_eq rfl

theorem Dev.goes_readEnded (d : Dev) (q : ReadReq) (r : Option IntentRec) : d.Goes (d.readEnded q r) := by
  unfold Dev.readEnded
  split
  · exact d.goes_lookupRead _ _ r
  · exact d.goes_answerKey _ _ _ _ _
  · split
    · exact d.goes_writeRecord _ _ _ _
    · exact d.goes_refuse _ _
  · split
    · exact d.goes_modCandidate _ _ _
    · exact Dev.goes_modSite_rest rfl
  · exact d.goes_arrivalRead _ _ _ r

theorem Dev.goes_failPage (d : Dev) (seg page : Nat) : d.Goes (d.failPage seg page) := by
  unfold Dev.failPage
  split
  · exact .refl d
  · exact (((d.goes_latch _ _).trans <| (Dev.goes_modSeg _ seg _).trans <|
      Dev.Goes.foldl (fun d (s : Seq) => d.goes_failIntent s) _ _)).then_ite fun _ => Dev.goes_raiseCtrl _ _

theorem Dev.goes_setReads (d : Dev) (l : List ReadReq) : d.Goes { d with array := { d.array with reads := l } } := .of_eq rfl

theorem Dev.goes_readCompleted (d : Dev) (r : ReadReq) (ok : Bool) : d.Goes (d.readCompleted r ok) := by
  refine (d.goes_setOp none).trans (.ite (fun _ => Dev.goes_readEnded _ r _) fun _ => ?_)
  exact (Dev.goes_failPage _ _ _).trans <| (Dev.goes_setReads _ _).trans <|
    Dev.Goes.foldl (fun d (q : ReadReq) => d.goes_readEnded q none) _ _

theorem Dev.goes_startProgram (d : Dev) (buf : BufId) (n : Nat) : d.Goes (d.startProgram buf n) :=
  Dev.Goes.trans (d.goes_modSeg n fun s => { s with state := .filling }) (.of_eq rfl)

theorem Dev.goes_arbitrateIdle {d e : Dev} (h : d.arbitrateIdle = some e) : d.Goes e := by
  unfold Dev.arbitrateIdle at h
  split at h
  case h_1 r rest _ =>
    have hreads := d.goes_setReads rest
    dsimp only at h
    split at h <;> obtain rfl := Option.some.inj h
    · exact hreads.trans (Dev.goes_setOp _ _)
    · exact hreads.trans (Dev.goes_readEnded _ r none)
  case h_2 =>
    split at h
    · obtain rfl := Option.some.inj h
      exact (d.goes_modSeg _ fun s => { s with state := .reclaiming }).trans (.of_eq rfl)
    · split at h
      · obtain rfl := Option.some.inj h
        exact .ite (fun _ => d.goes_startErase _) fun _ => d.goes_modReclaim _
      · cases h

theorem Dev.goes_arbitrate {d e : Dev} (h : d.arbitrate = some e) : d.Goes e := by
  cases ho : d.array.op with
  | some o =>
    by_cases herase : ∃ n, o = .erase n
    · obtain ⟨n, rfl⟩ := herase
      rw [Dev.arbitrate_erase ho] at h
      split at h
      · obtain rfl := Option.some.inj h
        exact (d.goes_modSeg n _).trans ((Dev.goes_modReclaim _ _).trans (Dev.goes_setOp _ _))
      · cases h
    · rw [Dev.arbitrate_busy ho fun n hn => herase ⟨n, hn⟩] at h
      cases h
  | none =>
    by_cases hw : d.journal.progQ ≠ [] ∧ d.array.programTarget ≠ none
    · obtain ⟨buf, rest, hq⟩ := List.exists_cons_of_ne_nil hw.1
      obtain ⟨n, hn⟩ := Option.ne_none_iff_exists'.1 hw.2
      rw [Dev.arbitrate_program ho hq hn] at h
      obtain rfl := Option.some.inj h
      exact d.goes_startProgram buf n
    · rw [Dev.arbitrate_idle ho hw] at h
      split at h
      · exact Dev.goes_arbitrateIdle h
      · cases h

end Sys2Proof.Machine
end

section
/-!
SUPPORT of O6, O58, O59 and O60, continued: the ports' states, the commands, what follows from every change, the starts, the quiesce and
the end of a page program.
-/

open Sys2Proof Sys2Proof.Machine

namespace Sys2Proof.Machine

/-! ## The states of the ports -/

theorem Dev.goes_unblockFetches (d : Dev) : d.Goes d.unblockFetches :=
  Dev.Goes.foldl (fun d (s : Seq) => by
    split
    · exact (d.goes_putSlot s _).trans (Dev.goes_offer _ s)
    · exact .refl d) _ d

theorem Dev.goes_leftOnline (d : Dev) (p : PortId) : d.Goes (d.leftOnline p) :=
  (d.goes_returnDeliveries p).trans (Dev.goes_moveReads _ p)

theorem Dev.goes_closePort (d : Dev) (p : PortId) (new : PortState) (c : PortCause) : d.Goes (d.closePort p new c) := by
  have hstate : d.Goes (d.modPort p fun q => { q with state := new }) := Dev.goes_modPort_rest rfl
  exact (hstate.then_ite fun _ => Dev.goes_leftOnline _ p).trans (Dev.goes_portNotice _ p _ new c)

theorem Dev.goes_openPort (d : Dev) (p : PortId) : d.Goes (d.openPort p) := by
  have hstate : d.Goes (d.modPort p fun q => { q with state := .online, timeouts := 0 }) := Dev.goes_modPort_rest rfl
  exact ((hstate.trans <| (Dev.goes_unblockFetches _).trans (Dev.goes_notify _ p false _)).then_ite
    fun _ => Dev.goes_notify _ p false _).trans (Dev.goes_portNotice _ p _ .online .command)

theorem Dev.goes_settings (d : Dev) (c : Settings) : d.Goes { d with settings := c } := .of_eq rfl

theorem Dev.goes_fencePort (d : Dev) (p : PortId) : d.Goes (d.fencePort p) := by
  have hport (e : Dev) : e.Goes (e.modPort p fun q =>
      { q with
        taken := q.taken.map fun t => { t with discard := true, holds := false }
        respQ := q.respQ ++ q.cmdQ.map fun r => ⟨kindCode r.body, .fenced, 0, r.cid, .none⟩
        cmdQ := []
        lookup := none }) := Dev.goes_modPort (.of_notices (List.prefix_append _ _) rfl rfl rfl)
  exact (d.goes_settings _).trans ((hport _).trans (Dev.goes_closePort _ p .fenced .fence))

theorem Dev.goes_unfencePort (d : Dev) (p : PortId) : d.Goes (d.unfencePort p) :=
  (d.goes_settings _).trans (Dev.goes_closePort _ p .offline .fence)

/-- R177: a function reset empties the port's queues, and so keeps the invariants alone. -/
theorem Dev.keeps_functionReset (d : Dev) (p : PortId) : d.Keeps (d.functionReset p) := by
  have hreset (f : Port → Port) (hf : (f d.ports[p]).noticesOk = true) : d.Keeps (d.modPort p f) :=
    { Dev.Keeps.refl d with
      notices := fun q h => by
        rw [Dev.modPort_port]
        split
        · next hq => exact hq ▸ hf
        · exact h }
  by_cases h : d.ports[p].state.openOrLost
  · rw [Dev.functionReset_of_openOrLost h]
    exact (hreset _ rfl).trans ((Dev.goes_leftOnline _ p).trans (Dev.goes_portNotice _ p _ _ _)).keeps
  · rw [Dev.functionReset_of_not_openOrLost h]
    exact (hreset _ rfl).trans (Dev.goes_returnDeliveries _ p).keeps

theorem Dev.goes_fetchTimedOut (d : Dev) (f : Fetch) : d.Goes (d.fetchTimedOut f) := by
  have hport (e : Dev) (n : Nat) : e.Goes (e.modPort f.port fun q => { q with timeouts := n }) := Dev.goes_modPort_rest rfl
  exact (((d.goes_modFetch _).trans <| (hport _ _).trans (Dev.goes_modFetch _ _)).then_ite
    fun _ => Dev.goes_closePort _ f.port .lost .fetchTimeout).trans (Dev.goes_moveFetch _ _ f.port)

/-! ## The commands -/

theorem Dev.goes_grantRecords (d : Dev) (tok : Tok) (l : List Staged) (flush : Bool) : d.Goes (d.grantRecords tok l flush) :=
  .of_eq rfl

theorem Dev.goes_raiseOwn (d : Dev) (tok : Tok) (c : Cont) (l : List Rec) : d.Goes (d.raiseOwn tok c l) :=
  (d.goes_setCont tok c).trans (Dev.goes_grantRecords _ tok _ false)

theorem Dev.goes_raiseSettings (d : Dev) (tok : Tok) (c : Cont) : d.Goes (d.raiseSettings tok c) := d.goes_raiseOwn tok c _

/-- A command that changes a setting, whose new value its SETTINGS record carries. -/
theorem Dev.goes_modSettings (d : Dev) (f : Settings → Settings) : d.Goes (d.modSettings f) := .of_eq rfl

theorem Dev.goes_holdAppend (d : Dev) (seq : Seq) (held : Bool) : d.Goes (d.holdAppend seq held).1 := by
  unfold Dev.holdAppend
  split
  · exact .refl d
  · split <;> exact .of_eq rfl

theorem Dev.ascending_decideAppend (d : Dev) (b : AppendBody) (held : Bool) (o : Outcome27)
    (h : Tbl.ascending d.index.ways = true) : Tbl.ascending (d.decideAppend b held o).1.ways = true := by
  have hdecide := KeyIndex.ascending_decide d.journal.nextSeq b.bucket b.keyHash b.keyLen b.stamp
    (d.index.check b.bucket b.keyHash b.keyLen o) d.index h
  unfold Dev.decideAppend
  dsimp only
  split
  · exact hdecide
  · split
    · exact KeyIndex.ascending_countHeld _ _ _ _ _ _ h
    · split
      · exact hdecide
      · exact h

theorem Dev.goes_stageAppend (d : Dev) (tok : Tok) (b : AppendBody) (o : Outcome27) : d.Goes (d.stageAppend tok b o) := by
  have hindex (e : Dev) (held : Bool) (he : e.index = d.index) : e.Goes { e with index := (d.decideAppend b held o).1 } :=
    e.goes_index _ fun h => d.ascending_decideAppend b held o (he ▸ h)
  have hheld : (d.holdAppend d.journal.nextSeq (d.placement b.bucket).held).1.index = d.index := by
    unfold Dev.holdAppend
    split
    · rfl
    · split <;> rfl
  have hgrant (e : Dev) (g : Option Grant) : e.Goes { e with intake := { e.intake with grant := g } } := .of_eq rfl
  exact (d.goes_holdAppend _ _).trans <| (hindex _ _ hheld).trans <| (Dev.goes_fillSlot _ _ _).trans <|
    (Dev.goes_takeSeq _).trans <| (Dev.goes_place _ _).trans <| (Dev.goes_modTaken _ tok _).trans (hgrant _ _)

theorem Dev.goes_endGrant (d : Dev) : d.Goes d.endGrant := .of_eq rfl

theorem Dev.goes_examineAppend (d : Dev) (tok : Tok) (b : AppendBody) (o : Outcome27) : d.Goes (d.examineAppend tok b o) := by
  unfold Dev.examineAppend
  split
  · exact d.goes_endGrant.trans (Dev.goes_answer _ tok _ _ _)
  · exact d.goes_stageAppend tok b o

theorem Dev.goes_flushNow (d : Dev) (tok : Tok) : d.Goes (d.flushNow tok) := by
  have hclose : d.Goes (if d.quiescePlaces then d else d.closeBuffer) := .ite (fun _ => .refl d) fun _ => d.goes_closeBuffer
  exact hclose.trans (.ite (fun _ => Dev.goes_refuse _ tok .done) fun _ => .of_eq rfl)

theorem Dev.goes_actFlush (d : Dev) (tok : Tok) (field : Nat) : d.Goes (d.actFlush tok field) :=
  .ite (fun _ => d.goes_flushNow tok) fun _ => (d.goes_modSettings _).trans (Dev.goes_grantRecords _ tok _ true)

theorem Dev.goes_actReadJournal (d : Dev) (tok : Tok) (seq addr : Nat) : d.Goes (d.actReadJournal tok seq addr) := by
  refine .ite (fun _ => d.goes_answer tok _ _ _) fun _ => .ite (fun _ => d.goes_refuse tok _) fun _ =>
    .ite (fun _ => d.goes_refuse tok _) fun _ => ?_
  split
  · exact d.goes_writeRecord tok addr _ false
  · exact d.goes_writeRecord tok addr _ true
  · exact d.goes_enqueueRead _
  · exact d.goes_refuse tok _

theorem Dev.goes_actQueryKey (d : Dev) (tok : Tok) (q : KeyQuery) : d.Goes (d.actQueryKey tok q) := by
  refine .ite (fun _ => d.goes_answer tok _ _ _) fun _ => .ite (fun _ => d.goes_refuse tok _) fun _ => ?_
  split
  · exact d.goes_refuse tok _
  · exact d.goes_answerKey tok q _ _ _
  · exact d.goes_enqueueRead _

theorem Dev.goes_actSetPlacement (d : Dev) (tok : Tok) (b : SetPlacementBody) : d.Goes (d.actSetPlacement tok b) := by
  unfold Dev.actSetPlacement
  split
  · exact d.goes_refuse tok _
  · exact .ite (fun _ => d.goes_refuse tok _) fun _ => .ite (fun _ => d.goes_answer tok _ _ _) fun _ =>
      (d.goes_modSettings _).trans (Dev.goes_raiseSettings _ tok _)

theorem Dev.goes_actReadPlacement (d : Dev) (tok : Tok) (b : ReadPlacementBody) : d.Goes (d.actReadPlacement tok b) := by
  unfold Dev.actReadPlacement
  split
  · split
    · exact d.goes_answer tok _ _ _
    · exact d.goes_refuse tok _
  · exact d.goes_answer tok _ _ _
  · exact d.goes_answer tok _ _ _
  · exact d.goes_refuse tok _

theorem Dev.goes_actSetPlacementMode (d : Dev) (tok : Tok) (b : SetModeBody) : d.Goes (d.actSetPlacementMode tok b) := by
  unfold Dev.actSetPlacementMode
  split
  · exact d.goes_refuse tok _
  · exact .ite (fun _ => d.goes_answer tok _ _ _) fun _ => (d.goes_modSettings _).trans (Dev.goes_raiseSettings _ tok _)

theorem Dev.goes_setHeld (d : Dev) (s : Seq) (st : HeldState) : d.Goes (d.setHeld s st) := .of_eq rfl

theorem Dev.goes_decideHeld (d : Dev) (tok : Tok) (seq : Seq) (dn : Decision) (c : Cont) : d.Goes (d.decideHeld tok seq dn c) := by
  unfold Dev.decideHeld
  split
  · exact d.goes_refuse tok _
  · exact (d.goes_setHeld seq _).trans (Dev.goes_raiseOwn _ tok c _)

theorem Dev.goes_actAttachSite (d : Dev) (tok : Tok) (b : AttachSiteBody) : d.Goes (d.actAttachSite tok b) := by
  unfold Dev.actAttachSite
  refine .ite (fun _ => d.goes_refuse tok _) fun _ => ?_
  split
  · exact d.goes_refuse tok _
  · exact .ite (fun _ => d.goes_refuse tok _) fun _ => .ite (fun _ => d.goes_refuse tok _) fun _ =>
      (d.goes_attachSlot _ _).trans (Dev.goes_raiseOwn _ tok .done _)

theorem Dev.goes_siteCommand (d : Dev) (tok : Tok) (slot : Nat) (ok : SiteState → Bool) (effect : SlotId → Dev → Dev)
    (h : ∀ j, ok (d.siteState j) = true → d.Goes (effect j d)) : d.Goes (d.siteCommand tok slot ok effect) := by
  unfold Dev.siteCommand
  refine .ite (fun _ => d.goes_refuse tok _) fun _ => ?_
  split
  · exact d.goes_refuse tok _
  · exact .ite (h _) fun _ => d.goes_refuse tok _

theorem Dev.goes_actDetachSite (d : Dev) (tok : Tok) (slot : Nat) : d.Goes (d.actDetachSite tok slot) :=
  d.goes_siteCommand tok slot _ _ fun j _ => (d.goes_detachSlot j).trans (Dev.goes_raiseOwn _ tok _ _)

theorem Dev.goes_actFenceSite (d : Dev) (tok : Tok) (slot : Nat) : d.Goes (d.actFenceSite tok slot) :=
  d.goes_siteCommand tok slot _ _ fun j _ => (d.goes_fenceSlot j).trans (Dev.goes_raiseOwn _ tok .done _)

theorem Dev.goes_actUnfenceSite (d : Dev) (tok : Tok) (slot : Nat) : d.Goes (d.actUnfenceSite tok slot) :=
  d.goes_siteCommand tok slot _ _ fun j h =>
    (Dev.goes_unfenceSlot (by rw [beq_iff_eq.1 h]; decide)).trans (Dev.goes_raiseOwn _ tok .done _)

theorem Dev.goes_actRejoinSite (d : Dev) (tok : Tok) (slot : Nat) : d.Goes (d.actRejoinSite tok slot) :=
  d.goes_siteCommand tok slot _ _ fun j h =>
    (Dev.goes_rejoinSlot (by rw [beq_iff_eq.1 h]; decide)).trans (Dev.goes_raiseOwn _ tok .done _)

theorem Dev.goes_actRewindSite (d : Dev) (tok : Tok) (slot q : Nat) : d.Goes (d.actRewindSite tok slot q) := by
  unfold Dev.actRewindSite
  refine .ite (fun _ => d.goes_refuse tok _) fun _ => ?_
  split
  · exact d.goes_refuse tok _
  · exact .ite (fun _ => d.goes_refuse tok _) fun _ => .ite (fun _ => d.goes_refuse tok _) fun _ =>
      .ite (fun _ => d.goes_refuse tok _) fun _ => (d.goes_rewindSlot _ q).trans (Dev.goes_raiseOwn _ tok _ _)

theorem Dev.goes_actReadSite (d : Dev) (tok : Tok) (slot : Option Nat) : d.Goes (d.actReadSite tok slot) := by
  unfold Dev.actReadSite
  refine .ite (fun _ => d.goes_refuse tok _) fun _ => ?_
  split
  · exact d.goes_answer tok _ _ _
  · split
    · exact d.goes_refuse tok _
    · exact d.goes_answer tok _ _ _

theorem Dev.goes_actSetGenerator (d : Dev) (tok : Tok) (b : SetGeneratorBody) : d.Goes (d.actSetGenerator tok b) := by
  unfold Dev.actSetGenerator
  split
  · exact d.goes_refuse tok _
  · exact .ite (fun _ => d.goes_answer tok _ _ _) fun _ => (d.goes_modSettings _).trans <|
      (Dev.goes_clampMembers _ _).trans <| (Dev.goes_startGen _ _).trans (Dev.goes_raiseSettings _ tok _)

theorem Dev.goes_repace (d : Dev) (j : SlotId) (old new : SiteConfig) : d.Goes (d.repace j old new) := by
  have hcredit : d.Goes (if old.mode = new.mode then d else d.modSite j fun x => { x with credit := 0 }) :=
    .ite (fun _ => .refl d) fun _ => Dev.goes_modSite Site.restOk_noCredit
  exact .ite (fun _ => .refl d) fun _ => hcredit.trans (.ite (fun _ => .refl _) fun _ =>
    (Dev.goes_clampMembers _ _).trans (Dev.goes_clampMembers _ _))

theorem Dev.goes_actSetSitePacing (d : Dev) (tok : Tok) (b : SetSitePacingBody) : d.Goes (d.actSetSitePacing tok b) := by
  unfold Dev.actSetSitePacing
  split
  · exact d.goes_refuse tok _
  · exact .ite (fun _ => d.goes_refuse tok _) fun _ => .ite (fun _ => d.goes_answer tok _ _ _) fun _ =>
      (d.goes_modConfig _ _).trans ((Dev.goes_repace _ _ _ _).trans (Dev.goes_raiseSettings _ tok _))

theorem Dev.goes_actQueryIntent (d : Dev) (tok : Tok) (s : Seq) : d.Goes (d.actQueryIntent tok s) := by
  refine .ite (fun _ => d.goes_answer tok _ _ _) fun _ => .ite (fun _ => d.goes_refuse tok _) fun _ =>
    .ite (fun _ => d.goes_refuse tok _) fun _ => ?_
  split <;> exact d.goes_answer tok _ _ _

theorem Dev.goes_actPostLanding (d : Dev) (tok : Tok) (id addr capacity : Nat) : d.Goes (d.actPostLanding tok id addr capacity) := by
  have hport : d.Goes (d.modPort tok.port fun q => { q with landings := q.landings ++ [⟨id, addr, capacity⟩] }) :=
    (Dev.goes_modPort_rest rfl)
  exact .ite (fun _ => d.goes_refuse tok _) fun _ => .ite (fun _ => d.goes_refuse tok _) fun _ =>
    hport.trans (Dev.goes_answer _ tok _ _ _)

theorem Dev.goes_actStored (d : Dev) (tok : Tok) (arrival outcome : Nat) : d.Goes (d.actStored tok arrival outcome) := by
  unfold Dev.actStored
  split
  · exact d.goes_refuse tok _
  · split
    · exact d.goes_refuse tok _
    · exact .ite (fun _ => (d.goes_finish _ _).trans (Dev.goes_refuse _ tok _)) fun _ => d.goes_refuse tok _

theorem Dev.goes_actReadInbound (d : Dev) (tok : Tok) (arrival : Nat) : d.Goes (d.actReadInbound tok arrival) := by
  refine .ite (fun _ => d.goes_answer tok _ _ _) fun _ => ?_
  split
  · exact d.goes_refuse tok _
  · exact d.goes_answer tok _ _ _

theorem Dev.goes_withdrawGuarded (d : Dev) : d.Goes d.withdrawGuarded := by
  unfold Dev.withdrawGuarded
  split
  · exact .ite (fun _ => d.goes_modReclaim _) fun _ => .refl d
  · exact .refl d

theorem Dev.goes_guard (d : Dev) (g : Guard) : d.Goes { d with guard := g } := .of_eq rfl

theorem Dev.goes_actGuardOn (d : Dev) (tok : Tok) : d.Goes (d.actGuardOn tok) := by
  have hon : d.Goes d.turnGuardOn := .ite (fun _ => .refl d) fun _ => (d.goes_guard _).trans (Dev.goes_withdrawGuarded _)
  exact hon.trans (Dev.goes_answer _ tok _ _ _)

theorem Dev.goes_actGuardOff (d : Dev) (tok : Tok) : d.Goes (d.actGuardOff tok) :=
  .ite (fun _ => d.goes_refuse tok _) fun _ => (d.goes_guard _).trans (Dev.goes_refuse _ tok _)

theorem Dev.goes_actSetGuardMap (d : Dev) (tok : Tok) (m : Word64) : d.Goes (d.actSetGuardMap tok m) :=
  .ite (fun _ => d.goes_refuse tok _) fun _ => .ite (fun _ => d.goes_answer tok _ _ _) fun _ =>
    (d.goes_modSettings _).trans (Dev.goes_raiseSettings _ tok _)

theorem Dev.goes_actSetPressureLimits (d : Dev) (tok : Tok) (lw cr : Nat) : d.Goes (d.actSetPressureLimits tok lw cr) :=
  .ite (fun _ => d.goes_answer tok _ _ _) fun _ => (d.goes_modSettings _).trans <| (Dev.goes_watchPressure _).trans
    (Dev.goes_raiseSettings _ tok _)

theorem Dev.goes_actReadSegments (d : Dev) (tok : Tok) (seg : Option Nat) : d.Goes (d.actReadSegments tok seg) := by
  unfold Dev.actReadSegments
  split
  · exact d.goes_answer tok _ _ _
  · exact .ite (fun _ => d.goes_refuse tok _) fun _ => d.goes_answer tok _ _ _

theorem Dev.goes_actAttachPort (d : Dev) (tok : Tok) : d.Goes (d.actAttachPort tok) :=
  .ite (fun _ => d.goes_refuse tok _) fun _ => (d.goes_openPort _).trans (Dev.goes_answer _ tok _ _ _)

theorem Dev.goes_portCommand (d : Dev) (tok : Tok) (port : Nat) (ok : PortState → Bool) (effect : PortId → Dev → Dev)
    (h : ∀ p, d.Goes (effect p d)) : d.Goes (d.portCommand tok port ok effect) := by
  unfold Dev.portCommand
  split
  · exact d.goes_refuse tok _
  · exact .ite (fun _ => d.goes_refuse tok _) fun _ => .ite (fun _ => (h _).trans (Dev.goes_raiseSettings _ tok _)) fun _ =>
      d.goes_refuse tok _

theorem Dev.goes_actClearFaults (d : Dev) (tok : Tok) (kinds : Byte) : d.Goes (d.actClearFaults tok kinds) :=
  (Dev.Goes.foldl (fun d (e : FaultKind × FaultScope) => d.goes_setLatch false e.1 e.2) _ d).trans (Dev.goes_answer _ tok _ _ _)

theorem Dev.goes_actSetNoticeMask (d : Dev) (tok : Tok) (l : List Nat) : d.Goes (d.actSetNoticeMask tok l) := by
  unfold Dev.actSetNoticeMask
  split
  · exact d.goes_refuse tok _
  · exact .ite (fun _ => d.goes_answer tok _ _ _) fun _ => (d.goes_modSettings _).trans (Dev.goes_raiseSettings _ tok _)

theorem Dev.goes_actSetLocalSite (d : Dev) (tok : Tok) (site : Nat) : d.Goes (d.actSetLocalSite tok site) :=
  .ite (fun _ => d.goes_refuse tok _) fun _ => .ite (fun _ => d.goes_refuse tok _) fun _ =>
    (d.goes_modSettings _).trans (Dev.goes_raiseSettings _ tok _)

theorem Dev.goes_act (d : Dev) (tok : Tok) (o : Outcome27) (b : CmdBody) : d.Goes (d.act tok o b) := by
  cases b with
  | append b => exact .of_eq rfl
  | flush n => exact d.goes_actFlush tok n
  | readJournal s a => exact d.goes_actReadJournal tok s a
  | queryKey q => exact d.goes_actQueryKey tok q
  | setPlacement b => exact d.goes_actSetPlacement tok b
  | readPlacement b => exact d.goes_actReadPlacement tok b
  | setPlacementMode b => exact d.goes_actSetPlacementMode tok b
  | release s => exact d.goes_decideHeld tok s _ _
  | deny s => exact d.goes_decideHeld tok s _ _
  | attachSite b => exact d.goes_actAttachSite tok b
  | detachSite n => exact d.goes_actDetachSite tok n
  | fenceSite n => exact d.goes_actFenceSite tok n
  | unfenceSite n => exact d.goes_actUnfenceSite tok n
  | rejoinSite n => exact d.goes_actRejoinSite tok n
  | rewindSite n q => exact d.goes_actRewindSite tok n q
  | readSite n => exact d.goes_actReadSite tok n
  | setGenerator b => exact d.goes_actSetGenerator tok b
  | setSitePacing b => exact d.goes_actSetSitePacing tok b
  | queryIntent s => exact d.goes_actQueryIntent tok s
  | postLanding i a c => exact d.goes_actPostLanding tok i a c
  | stored i o => exact d.goes_actStored tok i o
  | readInbound i => exact d.goes_actReadInbound tok i
  | guardOn => exact d.goes_actGuardOn tok
  | guardOff => exact d.goes_actGuardOff tok
  | setGuardMap m => exact d.goes_actSetGuardMap tok m
  | setPressureLimits l c => exact d.goes_actSetPressureLimits tok l c
  | readSegments n => exact d.goes_actReadSegments tok n
  | attachPort => exact d.goes_actAttachPort tok
  | detachPort => exact (d.goes_closePort _ _ _).trans (Dev.goes_refuse _ tok _)
  | fencePort n => exact d.goes_portCommand tok n (fun s => s != .fenced) Dev.fencePort d.goes_fencePort
  | unfencePort n => exact d.goes_portCommand tok n (fun s => s == .fenced) Dev.unfencePort d.goes_unfencePort
  | readStatus => exact d.goes_answer tok _ _ _
  | clearFaults k => exact d.goes_actClearFaults tok k
  | setNoticeMask l => exact d.goes_actSetNoticeMask tok l
  | setLocalSite n => exact d.goes_actSetLocalSite tok n
  | unknown c => exact d.goes_refuse tok _

theorem Dev.goes_answerCont (d : Dev) (tok : Tok) (c : Cont) : d.Goes (d.answerCont tok c) := by
  cases c with
  | none => exact .refl d
  | _ => exact d.goes_answer tok _ _ _

/-! ## What follows from every change of the tables -/

theorem Dev.goes_refreshFrontier (d : Dev) (j : SlotId) : d.Goes (d.refreshFrontier j) := by
  unfold Dev.refreshFrontier
  refine .ite (fun _ => .refl d) fun _ => (d.goes_setFrontier j (some (d.frontierOf j))).trans ?_
  exact .ite (fun _ => .refl _) fun _ => Dev.goes_modSite_rest rfl

theorem Dev.goes_checkpointIfDue (d : Dev) : d.Goes d.checkpointIfDue :=
  .ite (fun _ => d.goes_raiseFrontier) fun _ => .refl d

theorem Dev.goes_refresh (d : Dev) : d.Goes d.refresh := by
  have hfrontiers : d.Goes d.refreshFrontiers := Dev.Goes.foldl (fun d j => d.goes_refreshFrontier j) _ d
  have hprune (e : Dev) : e.Goes e.pruneAll := Dev.Goes.foldl (fun d j => d.goes_pruneCandidates j) _ e
  exact .ite (fun _ => .refl d) fun _ => hfrontiers.trans <| (hprune _).trans <| (Dev.goes_checkpointIfDue _).trans
    (Dev.goes_watchPressure _)

end Sys2Proof.Machine
end

section
/-!
SUPPORT of O6, O58, O59 and O60. What a start keeps: it empties the ports' queues, and so it keeps the three invariants alone.
-/

open Sys2Proof Sys2Proof.Machine

namespace Sys2Proof.Machine

/-! ## What every start resets -/

theorem Dev.Keeps.foldl {α : Type} {f : Dev → α → Dev} (h : ∀ (d : Dev) (a : α), d.Keeps (f d a)) (l : List α) (d : Dev) :
    d.Keeps (l.foldl f d) := by
  induction l generalizing d with
  | nil => exact .refl d
  | cons a t ih => exact (h d a).trans (ih _)

/-- Each of four ports is one of four values. -/
theorem ports_all {P : Port → Prop} {a b c d : Port} (ha : P a) (hb : P b) (hc : P c) (hd : P d) :
    ∀ p : PortId, P (#v[a, b, c, d] : Vector Port 4)[p]
  | 0 => ha
  | 1 => hb
  | 2 => hc
  | 3 => hd

/-- Each of eight slots is one of eight values. -/
theorem sites_all {P : Site → Prop} {f : SlotId → Site} (h : ∀ j, P (f j)) :
    ∀ j : SlotId, P (#v[f 0, f 1, f 2, f 3, f 4, f 5, f 6, f 7] : Vector Site 8)[j]
  | 0 => h 0
  | 1 => h 1
  | 2 => h 2
  | 3 => h 3
  | 4 => h 4
  | 5 => h 5
  | 6 => h 6
  | 7 => h 7

/-- R190: what the start finds of each segment leaves the keys of the table. -/
theorem Dev.keeps_readArray (d : Dev) : d.Keeps d.readArray :=
  { Dev.Keeps.refl d with segs := Tbl.ascending_map _ _ }

/-- R177, R166: a start gives every port new notices, and both buffers are EMPTY. -/
theorem Dev.keeps_resetVolatile (kind : StartKind) (d : Dev) : d.Keeps (d.resetVolatile kind) :=
  { Dev.Keeps.refl d with
    notices := fun p _ =>
      ports_all (P := fun q => q.noticesOk = true) (a := d.startPort 0) (b := d.startPort 1) (c := d.startPort 2)
        (d := d.startPort 3) rfl rfl rfl rfl p
    buffers := fun _ => rfl }

/-! ## FIRST and WARM -/

theorem ArrayBlk.ascending_eraseFold (a : ArrayBlk) (fails keys : List Nat) (b : ArrayBlk) (h : Tbl.ascending b.segs = true) :
    Tbl.ascending (keys.foldl (fun b n => b.putSeg n ((a.seg n).eraseAtFirst (fails.contains n))) b).segs = true := by
  induction keys generalizing b with
  | nil => exact h
  | cons n t ih => exact ih _ (ArrayBlk.ascending_putSeg b n _ h)

theorem Dev.keeps_settings (d : Dev) (c : Settings) : d.Keeps { d with settings := c } := .of_eq rfl

/-- R191: the tables of a FIRST start are empty. -/
theorem Dev.keeps_firstTables (d : Dev) (fails : List Nat) :
    d.Keeps
      { d with
        array := d.array.eraseAll fails
        journal := { d.journal with ctrlQ := [], nextPos := 1, nextSeq := 1, passedOver := [] }
        index := {}
        held := {}
        status := { d.status with slots := [] }
        sites := Vector.replicate 8 {} } :=
  { Dev.Keeps.refl d with
    rest := fun j _ => by
      show ((Vector.replicate 8 ({} : Site))[j]).restOk = true
      rw [Fin.getElem_fin, Vector.getElem_replicate]
      rfl
    slots := fun _ => rfl
    ways := fun _ => rfl
    segs := fun _ => ArrayBlk.ascending_eraseFold _ _ _ _ rfl }

theorem Dev.keeps_firstStart (d : Dev) : d.Keeps d.firstStart :=
  (d.keeps_settings {}).trans <| (Dev.keeps_resetVolatile .first _).trans (Dev.keeps_firstTables _ _)

/-- R62: a slot is at rest after a start. -/
theorem Dev.restartSite_quiet (d : Dev) (st : SiteState) (j : SlotId) : (d.restartSite st j).Quiet := by
  unfold Dev.restartSite
  split <;> exact ⟨rfl, rfl, rfl, rfl⟩

theorem Dev.keeps_restartSites (d : Dev) (states : SlotId → SiteState) : d.Keeps (d.restartSites states) :=
  { Dev.Keeps.refl d with
    rest := fun j _ => sites_all (P := fun x => x.restOk = true) (fun j => (d.restartSite_quiet (states j) j).restOk) j }

/-- R192: the tables that a WARM start takes as they stood. -/
theorem Dev.keeps_warmTables (d : Dev) (f : Seq × Slot → Slot) (pos : Nat) (seq : Seq) :
    d.Keeps
      { d with
        status := { d.status with slots := d.status.slots.map fun e => (e.1, f e) }
        held := d.held.stop
        journal := { d.journal with nextPos := pos, nextSeq := seq } } :=
  { Dev.Keeps.refl d with slots := Tbl.ascending_map _ _ }

theorem Dev.keeps_warmStart (c : Settings) (d : Dev) : d.Keeps (d.warmStart c) :=
  (d.keeps_settings c).trans <| (Dev.keeps_resetVolatile .warm _).trans <|
    (Dev.keeps_warmTables _ _ _ _).trans (Dev.keeps_restartSites _ _)

/-! ## COLD -/

theorem Dev.goes_dropTorn (d : Dev) : d.Goes d.dropTorn := by
  unfold Dev.dropTorn
  split
  · exact .of_eq rfl
  · next n p _ => exact (d.goes_modSeg n _).trans (.of_eq rfl)

theorem Dev.goes_dropUnreadable (from_ : Nat) (d : Dev) : d.Goes (d.dropUnreadable from_) := by
  have hsegs (f : Nat × Segment → Segment) :
      d.Goes { d with array := { d.array with segs := d.array.segs.map fun e => (e.1, f e) } } :=
    { Dev.Goes.refl d with segs := Tbl.ascending_map _ _ }
  unfold Dev.dropUnreadable
  dsimp only
  split
  · exact hsegs fun e => if e.2.state == .full || e.2.state == .filling then e.2.dropUnreadable from_ else e.2
  · exact (hsegs fun e => if e.2.state == .full || e.2.state == .filling then e.2.dropUnreadable from_ else e.2).trans
      (Dev.goes_latch _ .journalMedia .part)

/-- R39: the key index after the lookup of a replayed intent. -/
theorem Dev.goes_replayIntent (marks : List (SlotId × Mark)) (r : IntentRec) (d : Dev) : d.Goes (d.replayIntent marks r) := by
  have hslot (k : KeyIndex) (x : Slot) (hk : Tbl.ascending d.index.ways = true → Tbl.ascending k.ways = true) :
      d.Goes (({ d with index := k }.putSlot r.seq x).writeSlot r) :=
    (d.goes_index k hk).trans <| (Dev.goes_putSlot _ r.seq x).trans (Dev.goes_writeSlot _ r)
  unfold Dev.replayIntent
  dsimp only
  by_cases hdone : (!r.held && !marks.any fun e => e.2.isOpen) = true
  · rw [if_pos hdone]
    exact hslot _ _ id
  · rw [if_neg hdone]
    by_cases hheld : r.held = true
    · rw [if_pos hheld]
      exact hslot _ _ (KeyIndex.ascending_countHeld _ _ _ _ _ _)
    · rw [if_neg hheld]
      exact hslot _ _ (KeyIndex.ascending_decide _ _ _ _ _ _ _)

theorem Dev.goes_replayDecision (s : Seq) (dn : Decision) (d : Dev) : d.Goes (d.replayDecision s dn) := by
  unfold Dev.replayDecision
  split
  · cases dn with
    | released => exact d.goes_releaseHeld s _
    | denied => exact d.goes_denyHeld s
  · exact .refl d

theorem Dev.goes_replay (slots : SlotId → Rebuilt) (scan : Seq) (e : (Nat × Nat) × Rec) (d : Dev) :
    d.Goes (d.replay slots scan e) := by
  unfold Dev.replay
  split
  · exact .ite (fun _ => d.goes_replayIntent _ _) fun _ => .refl d
  · exact d.goes_replayDecision _ _
  · exact .refl d

theorem Dev.goes_replayAll (slots : SlotId → Rebuilt) (scan : Seq) (l : List ((Nat × Nat) × Rec)) (d : Dev) :
    d.Goes (l.foldl (fun d e => d.replay slots scan e) d) := Dev.Goes.foldl (fun d e => d.goes_replay slots scan e) l d

theorem Dev.goes_holdAgain (d : Dev) : d.Goes d.holdAgain := .of_eq rfl

/-- R193: the tables that a COLD start rebuilds start empty. -/
theorem Dev.keeps_emptied (d : Dev) :
    d.Keeps
      { d with
        journal := { d.journal with ctrlQ := [] }
        index := {}
        held := {}
        status := { d.status with slots := [] }
        sites := Vector.replicate 8 {} } :=
  { Dev.Keeps.refl d with
    rest := fun j _ => by
      show ((Vector.replicate 8 ({} : Site))[j]).restOk = true
      rw [Fin.getElem_fin, Vector.getElem_replicate]
      rfl
    slots := fun _ => rfl
    ways := fun _ => rfl }

theorem Dev.keeps_coldStart (c : Settings) (d : Dev) : d.Keeps (d.coldStart c) := by
  have hlost (e : Dev) (info : StartInfo) :
      e.forgetCounts.Keeps { e.forgetCounts with retentionLost := true, power := { e.forgetCounts.power with info := info } } :=
    .of_eq rfl
  have hforget (e : Dev) : e.Keeps e.forgetCounts := .of_eq rfl
  have hpass (e : Dev) : e.Keeps e.passOver := .of_eq rfl
  exact (d.keeps_settings c).trans <| (Dev.keeps_resetVolatile .cold _).trans <| (Dev.goes_dropTorn _).keeps.trans <|
    (hpass _).trans <| (Dev.keeps_emptied _).trans <| (Dev.goes_dropUnreadable _ _).keeps.trans <|
    (Dev.goes_replayAll _ _ _ _).keeps.trans <| (Dev.goes_holdAgain _).keeps.trans <|
    (Dev.keeps_restartSites _ _).trans <| (hforget _).trans (hlost _ _)

/-! ## The start -/

theorem Dev.keeps_startWork (d : Dev) : d.Keeps d.startWork := by
  unfold Dev.startWork
  split
  · exact d.keeps_firstStart
  · dsimp only
    split
    · exact d.keeps_warmStart _
    · exact d.keeps_coldStart _

theorem Dev.keeps_beginStart (d : Dev) : d.Keeps d.beginStart :=
  d.keeps_readArray.trans <| (Dev.keeps_startWork _).trans (.of_eq rfl)

theorem Dev.goes_probeAll (test : SiteState → Bool) (d : Dev) : d.Goes (d.probeAll test) :=
  Dev.Goes.foldl (fun d j => .ite (fun _ => d.goes_probe j) fun _ => .refl d) _ d

theorem Dev.goes_setHoldDeadlines (d : Dev) : d.Goes d.setHoldDeadlines := .of_eq rfl

/-- R196: a start's end clears the latches of the ports and of the slots, and nothing else of them. -/
theorem Dev.goes_clearLatches (d : Dev) : d.Goes d.clearLatches :=
  { Dev.Goes.refl d with
    ports := fun p => by
      show d.ports[p].Grows (d.ports.map _)[p]
      rw [Fin.getElem_fin, Fin.getElem_fin, Vector.getElem_map]
      exact .of_notices List.prefix_rfl rfl rfl rfl
    rest := fun j h => by
      show (d.sites.map Site.clearFlags)[j].restOk = true
      rw [Fin.getElem_fin, Vector.getElem_map]
      exact h }

theorem Dev.keeps_endStart (d : Dev) : d.Keeps d.endStart := by
  have hready (e : Dev) (k : Power) (c : Checkpoint) :
      e.Keeps { e with part := .ready, power := k, status := { e.status with checkpoint := c } } := .of_eq rfl
  have hrest (e : Dev) : e.Goes (e.clearLatches.startGens.setHoldDeadlines.probeAll (· == .probing)) :=
    e.goes_clearLatches.trans <| (Dev.goes_startGens _).trans <| (Dev.goes_setHoldDeadlines _).trans (Dev.goes_probeAll _ _)
  have harmed (e : Dev) (f : Reclaim → Reclaim) : e.Keeps (e.modReclaim f) := (e.goes_modReclaim f).keeps
  unfold Dev.endStart
  exact (hready d _ _).trans <| (harmed _ _).trans (hrest _).keeps

end Sys2Proof.Machine
end

section
/-!
SUPPORT of O6, O58, O59 and O60. What the quiesce, the lines, the end of a page program, the engines and the events keep.
-/

open Sys2Proof Sys2Proof.Machine

namespace Sys2Proof.Machine

/-! ## Power -/

theorem Dev.goes_stopReclaim (d : Dev) : d.Goes d.stopReclaim := by
  unfold Dev.stopReclaim
  split
  · exact .refl d
  · exact d.goes_modReclaim _
  · next n _ => exact (d.goes_modSeg n fun s => { s with state := .damaged, pages := [] }).trans (.of_eq rfl)

theorem Site.restOk_stopSend {x : Site} (h : x.restOk = true) : { x with send := none }.restOk = true := by
  rw [Site.restOk_iff] at h ⊢
  exact fun hne => ⟨(h hne).1, (h hne).2.1, (h hne).2.2.1, rfl⟩

theorem Dev.goes_stopSpan (d : Dev) : d.Goes d.stopSpan :=
  (d.goes_mapSites _ fun _ => Site.restOk_stopSend).trans (.of_eq rfl)

theorem Dev.keeps_enterQuiesce (line : Line) (d : Dev) : d.Keeps (d.enterQuiesce line) := by
  have hpart (e : Dev) (k : Power) (h : HeldList) (c : Checkpoint) :
      e.Keeps { e with part := .quiescing, power := k, held := h, status := { e.status with checkpoint := c } } := .of_eq rfl
  have hstop (e : Dev) : e.Goes ((((e.stopGens).stopSilence).stopReclaim).stopSpan.stopFetches) :=
    e.goes_stopGens.trans <| (Dev.goes_stopSilence _).trans <| (Dev.goes_stopReclaim _).trans <|
      (Dev.goes_stopSpan _).trans (Dev.goes_modFetch _ _)
  exact (hpart d _ _ _).trans (hstop _).keeps

theorem Dev.goes_setPhase (ph : QuiescePhase) (d : Dev) : d.Goes (d.setPhase ph) := .of_eq rfl

theorem Dev.goes_frontierRaised (d : Dev) : d.Goes d.frontierRaised := .of_eq rfl

/-- R187: one step of the engines goes on with the part, or lets the start begin that the reset line asks for. -/
def Dev.Advances (d e : Dev) : Prop := (d.startsStalled = true ∧ e = d.beginStart) ∨ d.Goes e

theorem Dev.advances_quiesceStep {d e : Dev} (h : d.quiesceStep = some e) : d.Advances e := by
  unfold Dev.quiesceStep at h
  split at h
  case isTrue hstart => exact .inl ⟨hstart, (Option.some.inj h).symm⟩
  case isFalse =>
    right
    split at h
    · cases h
    split at h
    · obtain rfl := Option.some.inj h
      exact .of_eq rfl
    split at h
    · cases h
    split at h
    · split at h
      · cases h
      · dsimp only at h
        split at h
        · obtain rfl := Option.some.inj h
          exact (d.goes_place _).trans <| (Dev.goes_frontierRaised _).trans (Dev.goes_setPhase _ _)
        · cases h
    · dsimp only at h
      split at h
      · obtain rfl := Option.some.inj h
        exact (d.goes_place _).trans <| (Dev.goes_closeBuffer _).trans (Dev.goes_setPhase _ _)
      · cases h
    · cases h

theorem Dev.keeps_startIfAllowed (d : Dev) : d.Keeps d.startIfAllowed := by
  unfold Dev.startIfAllowed
  dsimp only
  split
  · exact d.keeps_beginStart
  · exact .refl d

theorem Dev.keeps_enterRetention (d : Dev) : d.Keeps d.enterRetention := .of_eq rfl

theorem Dev.keeps_quiesceComplete (d : Dev) : d.Keeps d.quiesceComplete :=
  d.goes_refresh.keeps.trans <| (Dev.keeps_enterRetention _).trans <| (Dev.goes_setPhase .complete _).keeps.trans
    (Dev.keeps_startIfAllowed _)

/-- R189: the entries of a slot that has none stay none. -/
theorem Site.restOk_resumeDeadlines (now : Time) {x : Site} (h : x.restOk = true) : (x.resumeDeadlines now).restOk = true := by
  rw [Site.restOk_iff] at h ⊢
  intro hne
  obtain ⟨hcredit, hflight, hresends, hsend⟩ := h hne
  exact ⟨hcredit, by rw [Site.resumeDeadlines, hflight]; rfl, hresends, hsend⟩

theorem Dev.goes_resumeFetches (d : Dev) : d.Goes d.resumeFetches :=
  Dev.Goes.foldl (fun d _ => .ite (fun _ => d.goes_modFetch _) fun _ => d.goes_moveFetch _ _) _ d

theorem Dev.keeps_returnToReady (d : Dev) : d.Keeps d.returnToReady := by
  have hready (k : Power) (c : Checkpoint) :
      d.Keeps
        { d with
          part := .ready, power := k, status := { d.status with checkpoint := c }
          sites := d.sites.map (Site.resumeDeadlines d.now) } :=
    { Dev.Keeps.refl d with rest := (d.goes_mapSites _ fun _ => Site.restOk_resumeDeadlines d.now).rest }
  have hrest (e : Dev) :
      e.Goes (((e.startGens.setHoldDeadlines).restartSilence.probeAll fun s => s == .probing || s == .stalled).resumeFetches) :=
    e.goes_startGens.trans <| (Dev.goes_setHoldDeadlines _).trans <| (Dev.goes_restartSilence _).trans <|
      (Dev.goes_probeAll _ _).trans (Dev.goes_resumeFetches _)
  unfold Dev.returnToReady
  exact (hready _ _).trans (hrest _).keeps

theorem Dev.keeps_endQuiesce (d : Dev) : d.Keeps d.endQuiesce := by
  have hraise : d.Goes ((({ d with journal := d.journal.closeOwed } : Dev).raiseCtrl (.resume d.power.startCount)).setPhase
      .returning) :=
    (d.goes_journal _ Journal.buffersOk_closeOwed).trans <| (Dev.goes_raiseCtrl _ _).trans (Dev.goes_setPhase _ _)
  unfold Dev.endQuiesce
  dsimp only
  split
  · exact hraise.keeps.trans (Dev.keeps_returnToReady _)
  · exact hraise.keeps

theorem Dev.keeps_stopStart (d : Dev) : d.Keeps d.stopStart := by
  unfold Dev.stopStart
  dsimp only
  split
  · exact .of_eq rfl
  · exact .of_eq rfl

theorem Dev.keeps_lineAsserts (line : Line) (d : Dev) : d.Keeps (d.lineAsserts line) := by
  unfold Dev.lineAsserts
  split
  · exact d.keeps_enterQuiesce line
  · split
    · exact d.keeps_enterQuiesce line
    · cases line with
      | power => exact .of_eq rfl
      | reset => exact .of_eq rfl
  · exact d.keeps_stopStart

theorem Dev.keeps_power (d : Dev) (k : Power) : d.Keeps { d with power := k } := .of_eq rfl

theorem Dev.keeps_powerWarnAsserts (d : Dev) : d.Keeps d.powerWarnAsserts := by
  unfold Dev.powerWarnAsserts
  split
  · exact .refl d
  · exact (d.keeps_power _).trans (Dev.keeps_lineAsserts .power _)

theorem Dev.keeps_resetLineAsserts (d : Dev) : d.Keeps d.resetLineAsserts := by
  unfold Dev.resetLineAsserts
  split
  · exact .refl d
  · exact (d.keeps_power _).trans (Dev.keeps_lineAsserts .reset _)

theorem Dev.keeps_powerWarnDeasserts (d : Dev) : d.Keeps d.powerWarnDeasserts := by
  unfold Dev.powerWarnDeasserts
  split
  · exact .refl d
  · dsimp only
    split
    · exact (d.keeps_power _).trans (Dev.keeps_endQuiesce _)
    · exact (d.keeps_power _).trans (Dev.keeps_startIfAllowed _)

theorem Dev.keeps_resetLineDeasserts (d : Dev) : d.Keeps d.resetLineDeasserts := by
  unfold Dev.resetLineDeasserts
  split
  · exact .refl d
  · exact (d.keeps_power _).trans (Dev.keeps_startIfAllowed _)

theorem Dev.keeps_losePower (d : Dev) : d.Keeps d.losePower := by
  have hoff (e : Dev) :
      e.Keeps { e with array := { e.array with op := none }, power := { e.power with powered := false } } := .of_eq rfl
  unfold Dev.losePower
  split
  · exact (d.goes_modSeg _ _).keeps.trans (hoff _)
  · exact hoff d

theorem Dev.keeps_applyPower (m : StartMedia) (d : Dev) : d.Keeps (d.applyPower m) :=
  (d.keeps_power _).trans (Dev.keeps_beginStart _)

/-! ## The end of a page program -/

theorem Dev.goes_pageValid (seg num pos : Nat) (recs : List Rec) (buf : BufId) (d : Dev) :
    d.Goes (d.pageValid seg num pos recs buf) := (d.goes_modSeg seg _).trans (.of_eq rfl)

theorem Dev.goes_heldWritten (r : IntentRec) (d : Dev) : d.Goes (d.heldWritten r) := by
  unfold Dev.heldWritten
  split
  · exact .refl d
  · exact .ite (fun _ => (d.goes_route _ _).trans (Dev.goes_setHeld _ _ _)) fun _ => .refl d

theorem Dev.goes_recordPassed (s : Staged) (d : Dev) : d.Goes (d.recordPassed s) := by
  unfold Dev.recordPassed
  split
  · exact (d.goes_writeSlot _).trans (Dev.goes_heldWritten _ _)
  · next q dn _ =>
    obtain ⟨⟨e, o⟩, hdone⟩ : ∃ r, d.applyDecision q dn = r := ⟨_, rfl⟩
    have happlied := d.goes_applyDecision q dn
    rw [hdone] at happlied
    rw [hdone]
    cases s.owner with
    | none => exact happlied
    | some tok =>
      cases o with
      | none => exact happlied
      | some o => exact happlied.trans (e.goes_setCont tok _)
  · exact .refl d

theorem Dev.goes_answerOwner (tok : Tok) (d : Dev) : d.Goes (d.answerOwner tok) := by
  unfold Dev.answerOwner
  split
  · exact d.goes_answerCont tok _
  · exact .refl d

/-- R14: the buffer becomes EMPTY and leaves the waiting programs. -/
theorem Journal.buffersOk_emptied (buf : BufId) {j : Journal} (h : j.buffersOk = true) : (j.emptied buf).buffersOk = true := by
  cases buf <;> simp_all [Journal.buffersOk, Journal.emptied, Journal.putBuf]

theorem Dev.goes_flushPassed (buf : BufId) (d : Dev) : d.Goes (d.flushPassed buf) := by
  have hflushes (l : List FlushWait) : d.Goes { d with journal := { d.journal with flushes := l } } := .of_eq rfl
  exact (hflushes _).trans (Dev.Goes.foldl (fun (d : Dev) (w : FlushWait) => d.goes_refuse w.tok .done) _ _)

theorem Dev.keeps_quiescePassed (recs : List Rec) (d : Dev) : d.Keeps (d.quiescePassed recs) := by
  unfold Dev.quiescePassed
  split
  · exact .refl d
  split
  · exact d.keeps_quiesceComplete
  split
  · exact d.keeps_returnToReady
  · exact .refl d

theorem Dev.keeps_programPassed (buf : BufId) (seg num pos : Nat) (d : Dev) : d.Keeps (d.programPassed buf seg num pos) := by
  have hrecs (e : Dev) (l : List Staged) : e.Goes (l.foldl (fun d s => d.recordPassed s) e) :=
    Dev.Goes.foldl (fun d s => d.goes_recordPassed s) l e
  have howners (e : Dev) (l : List Tok) : e.Goes (l.foldl (fun d tok => d.answerOwner tok) e) :=
    Dev.Goes.foldl (fun d tok => d.goes_answerOwner tok) l e
  have hempty (e : Dev) : e.Goes { e with journal := e.journal.emptied buf } :=
    e.goes_journal _ (Journal.buffersOk_emptied buf)
  exact (d.goes_pageValid seg num pos _ buf).keeps.trans <| (hrecs _ _).keeps.trans <| (howners _ _).keeps.trans <|
    (hempty _).keeps.trans <| (Dev.goes_flushPassed buf _).keeps.trans (Dev.keeps_quiescePassed _ _)

theorem Dev.goes_programFailed (seg num pos : Nat) (d : Dev) : d.Goes (d.programFailed seg num pos) := by
  have hcounts (e : Dev) (m n : Nat) :
      e.Goes
        { e with
          array := { e.array with op := none }
          journal := { e.journal with progFails := m, consecFails := n } } := .of_eq rfl
  unfold Dev.programFailed
  dsimp only
  split
  · exact (d.goes_modSeg seg _).trans <| (hcounts _ _ _).trans (Dev.goes_latch _ _ _)
  · exact (d.goes_modSeg seg _).trans (hcounts _ _ _)

theorem Dev.keeps_programCompleted (ok : Bool) (d : Dev) : d.Keeps (d.programCompleted ok) := by
  unfold Dev.programCompleted
  split
  · split
    · exact d.keeps_programPassed _ _ _ _
    · exact (d.goes_programFailed _ _ _).keeps
  · exact .refl d

/-! ## The engines' steps -/

theorem Dev.goes_take (p : PortId) (r : CmdRec) (rest : List CmdRec) (d : Dev) : d.Goes (d.take p r rest) :=
  Dev.Goes.trans (e := { d with nextToken := d.nextToken + 1 }) (.of_eq rfl)
    (Dev.goes_modPort_rest (f := fun q =>
      { q with cmdQ := rest, lookup := none, taken := q.taken ++ [{ id := d.nextToken, cid := r.cid, kind := kindCode r.body }] }) rfl)

theorem Dev.goes_takeStep {d e : Dev} {p : PortId} (h : d.takeStep p = some e) : d.Goes e := by
  unfold Dev.takeStep at h
  split at h
  · cases h
  split at h
  · cases h
  next r rest _ =>
    split at h
    · obtain rfl := Option.some.inj h
      exact (d.goes_take p r rest).trans (Dev.goes_refuse _ _ _)
    · obtain rfl := Option.some.inj h
      exact (d.goes_take p r rest).trans (Dev.goes_act _ _ _ _)
    · cases h

theorem Dev.goes_beginLookup (p : PortId) (b : AppendBody) (d : Dev) : d.Goes (d.beginLookup p b) := by
  have hport (x : Option Lookup) : d.Goes (d.modPort p fun q => { q with lookup := x }) := Dev.goes_modPort_rest rfl
  unfold Dev.beginLookup
  split
  · exact hport _
  · exact (hport (some (.reading d.nextToken _ _))).trans (.of_eq rfl)

theorem Dev.goes_lookupStep {d e : Dev} {p : PortId} (h : d.lookupStep p = some e) : d.Goes e := by
  unfold Dev.lookupStep at h
  split at h
  · split at h
    · obtain rfl := Option.some.inj h
      exact d.goes_beginLookup p _
    · cases h
  · cases h

theorem Dev.goes_intake (d : Dev) (k : Intake) : d.Goes { d with intake := k } := .of_eq rfl

theorem Dev.goes_grantPort (p : PortId) (d : Dev) : d.Goes (d.grantPort p) := by
  unfold Dev.grantPort
  split
  · exact .refl d
  · exact (d.goes_intake _).trans <| (Dev.goes_take p _ _ _).trans (Dev.goes_act _ _ _ _)

theorem Dev.goes_tryPlace {d e : Dev} {s : Staged} {next : Dev → Dev} (hnext : ∀ e : Dev, e.Goes (next e))
    (h : d.tryPlace s next = some e) : d.Goes e := by
  unfold Dev.tryPlace at h
  dsimp only at h
  split at h
  · obtain rfl := Option.some.inj h
    exact (d.goes_place s).trans (hnext _)
  split at h
  · cases h
  · obtain rfl := Option.some.inj h
    exact d.goes_place s

theorem Dev.goes_controlStep {d e : Dev} (h : d.controlStep = some e) : d.Goes e := by
  have hplaced (e : Dev) (rest : List Rec) (b : Bool) :
      e.Goes { e with journal := { e.journal with ctrlQ := rest }, examined := b } := .of_eq rfl
  unfold Dev.controlStep at h
  split at h
  · cases h
  split at h
  · exact Dev.goes_tryPlace (fun e => hplaced e _ _) h
  · cases h

theorem Dev.goes_grantedStep {d e : Dev} (h : d.grantedStep = some e) : d.Goes e := by
  unfold Dev.grantedStep at h
  split at h
  · cases h
  split at h
  case isFalse => cases h
  case isTrue =>
    split at h
    · split at h
      · cases h
      split at h
      · obtain rfl := Option.some.inj h
        exact d.goes_examineAppend _ _ _
      dsimp only at h
      split at h
      · cases h
      · obtain rfl := Option.some.inj h
        exact d.goes_journal _ (Journal.buffersOk_makeRoom _)
    · exact Dev.goes_tryPlace (fun e => e.goes_intake _) h
    · obtain rfl := Option.some.inj h
      split
      · exact d.goes_endGrant.trans (Dev.goes_flushNow _ _)
      · exact d.goes_endGrant
    · exact Dev.goes_tryPlace Dev.goes_endGrant h

theorem Dev.goes_grantedSteps (n : Nat) (d : Dev) : d.Goes (Dev.grantedSteps n d) := by
  induction n generalizing d with
  | zero => exact .refl d
  | succ n ih =>
    unfold Dev.grantedSteps
    split
    · next e h => exact (Dev.goes_grantedStep h).trans (ih e)
    · exact .refl d

theorem Dev.goes_firstOf {α : Type} {d e : Dev} {l : List α} {f : α → Option Dev} (hf : ∀ a e, f a = some e → d.Goes e)
    (h : firstOf l f = some e) : d.Goes e := by
  obtain ⟨a, _, ha⟩ := List.exists_of_findSome?_eq_some h
  exact hf a e ha

theorem Dev.goes_reclaimStep {d e : Dev} (h : d.reclaimStep = some e) : d.Goes e := by
  unfold Dev.reclaimStep at h
  split at h
  · cases h
  split at h
  · obtain rfl := Option.some.inj h
    exact d.goes_modReclaim _
  split at h
  · obtain rfl := Option.some.inj h
    exact d.goes_examine
  · cases h

theorem Dev.goes_dispatchStep {d e : Dev} (h : d.dispatchStep = some e) : d.Goes e := by
  refine Dev.goes_firstOf (fun j e h => ?_) h
  split at h
  · obtain rfl := Option.some.inj h
    exact d.goes_examineCursor j
  split at h
  · obtain rfl := Option.some.inj h
    exact d.goes_readCandidate j _
  · obtain ⟨r, _, rfl⟩ := Option.map_eq_some_iff.1 h
    exact d.goes_modFetch _

theorem Dev.goes_deliveryStep {d e : Dev} (h : d.deliveryStep = some e) : d.Goes e := by
  obtain ⟨a, _, rfl⟩ := Option.map_eq_some_iff.1 h
  exact d.goes_startDelivery _ _

theorem Dev.goes_fetchStep {d e : Dev} (h : d.fetchStep = some e) : d.Goes e := by
  unfold Dev.fetchStep at h
  split at h
  · obtain rfl := Option.some.inj h
    exact d.goes_startFetch
  · cases h

/-- The first of two engines that can act. -/
theorem orElse_some_cases {α : Type} {a : Option α} {f : Unit → Option α} {x : α} (h : a.orElse f = some x) :
    a = some x ∨ f () = some x := by
  cases a with
  | none => exact .inr h
  | some y => exact .inl h

theorem Dev.goes_readyStep {d e : Dev} (h : d.readyStep = some e) : d.Goes e := by
  unfold Dev.readyStep at h
  split at h
  · cases h
  rcases orElse_some_cases h with h | h
  · exact Dev.goes_reclaimStep h
  rcases orElse_some_cases h with h | h
  · exact Dev.goes_dispatchStep h
  rcases orElse_some_cases h with h | h
  · exact Dev.goes_fetchStep h
  · exact Dev.goes_deliveryStep h

theorem Dev.goes_receiptStep {d e : Dev} (h : d.receiptStep = some e) : d.Goes e := by
  unfold Dev.receiptStep at h
  split at h
  · cases h
  split at h
  · obtain rfl := Option.some.inj h
    exact d.goes_flushReceipts
  · obtain rfl := Option.some.inj h
    exact d.goes_modInbound _

theorem Dev.goes_sendStep {d e : Dev} (h : d.sendStep = some e) : d.Goes e := by
  unfold Dev.sendStep at h
  split at h
  · rcases orElse_some_cases h with h | h
    · exact Dev.goes_transmit h
    · exact Dev.goes_transmit h
  · cases h

theorem Dev.advances_internalStep {d e : Dev} (h : d.internalStep = some e) : d.Advances e := by
  unfold Dev.internalStep at h
  rcases orElse_some_cases h with h | h
  · exact .inr (Dev.goes_controlStep h)
  rcases orElse_some_cases h with h | h
  · exact .inr (Dev.goes_grantedStep h)
  rcases orElse_some_cases h with h | h
  · exact Dev.advances_quiesceStep h
  right
  rcases orElse_some_cases h with h | h
  · exact Dev.goes_firstOf (fun _ _ => Dev.goes_takeStep) h
  rcases orElse_some_cases h with h | h
  · exact Dev.goes_firstOf (fun _ _ => Dev.goes_lookupStep) h
  rcases orElse_some_cases h with h | h
  · obtain ⟨p, _, rfl⟩ := Option.map_eq_some_iff.1 h
    exact d.goes_grantPort p
  rcases orElse_some_cases h with h | h
  · exact Dev.goes_arbitrate h
  rcases orElse_some_cases h with h | h
  · exact Dev.goes_readyStep h
  rcases orElse_some_cases h with h | h
  · exact Dev.goes_receiptStep h
  · exact Dev.goes_sendStep h

theorem Dev.Advances.keeps {d e : Dev} (h : d.Advances e) : d.Keeps e := by
  rcases h with ⟨_, rfl⟩ | h
  · exact d.keeps_beginStart
  · exact h.keeps

theorem Dev.keeps_settleN (n : Nat) (d : Dev) : d.Keeps (settleN n d) := by
  induction n generalizing d with
  | zero => exact d.goes_refresh.keeps
  | succ n ih =>
    unfold settleN
    split
    · next e h => exact d.goes_refresh.keeps.trans <| (Dev.advances_internalStep h).keeps.trans (ih e)
    · exact d.goes_refresh.keeps

theorem Dev.keeps_settle (d : Dev) : d.Keeps d.settle := Dev.keeps_settleN _ d

end Sys2Proof.Machine
end

section
/-!
SUPPORT of O6, O58, O59 and O60. What the events keep, and with it every command of the table.
-/

open Sys2Proof Sys2Proof.Machine

namespace Sys2Proof.Machine

/-! ## The frame of the events -/

theorem Dev.goes_tick (d : Dev) (t : Time) : d.Goes (d.tick t) := .of_eq rfl

theorem Dev.keeps_event {f : Dev → Dev} (h : ∀ d : Dev, d.Keeps (f d)) (t : Time) (d : Dev) : d.Keeps (d.event t f) := by
  unfold Dev.event
  dsimp only
  split
  · exact (d.goes_tick t).keeps.trans <| (h _).trans (Dev.keeps_settle _)
  · exact (d.goes_tick t).keeps

theorem Dev.keeps_expiry {f : Dev → Dev} (h : ∀ d : Dev, d.Goes (f d)) (due : Option Time) (gate : Bool) (d : Dev) :
    d.Keeps (d.expiry due gate f) := by
  unfold Dev.expiry
  split
  · next t =>
    split
    · exact (d.goes_tick t).keeps.trans <| (h _).keeps.trans (Dev.keeps_settle _)
    · exact .refl d
  · exact .refl d

theorem Dev.goes_serve (p : PortId) (d : Dev) : d.Goes (d.serve p) := by
  unfold Dev.serve
  split
  · next e h => exact Dev.goes_takeStep h
  · have hlook : d.Goes ((d.lookupStep p).getD d) := by
      cases h : d.lookupStep p with
      | none => exact .refl d
      | some e => exact Dev.goes_lookupStep h
    exact hlook.then_ite fun _ => (Dev.goes_grantPort p _).trans (Dev.goes_grantedSteps 4 _)

theorem Dev.goes_postCommand (p : PortId) (r : CmdRec) (d : Dev) : d.Goes (d.postCommand p r) := by
  have hpost : d.Goes (d.modPort p fun q => { q with cmdQ := q.cmdQ ++ [r] }) := Dev.goes_modPort_rest rfl
  exact .ite (fun _ => d.goes_latch _ _) fun _ => hpost.trans (Dev.goes_serve p _)

/-! ## Frames -/

theorem Dev.goes_badFrame (sp : SpanId) (d : Dev) : d.Goes (d.badFrame sp) := d.goes_modSpan sp _

theorem Dev.goes_receiveOpen (j : SlotId) (sender frameLen : Nat) (o : OpenDesc) (d : Dev) :
    d.Goes (d.receiveOpen j sender frameLen o) := by
  unfold Dev.receiveOpen
  split
  · exact d.goes_latchSlot .protocol j
  · exact d.goes_takeOpen j o _

theorem Dev.goes_receiveCarry (j : SlotId) (s k : Nat) (data : List Byte) (d : Dev) : d.Goes (d.receiveCarry j s k data) := by
  unfold Dev.receiveCarry
  split
  · exact d.goes_countInbound _
  · exact d.goes_latchSlot .protocol j
  · exact d.goes_countInbound _
  · exact d.goes_addChunk _ k data

theorem Dev.goes_handFrame (j : SlotId) (h : FrameHdr) (b : InBody) (d : Dev) : d.Goes (d.handFrame j h b) := by
  unfold Dev.handFrame
  split
  · exact d.goes_takeHello j h.start
  · exact d.goes_takeHelloAck j h.start _
  · exact d.goes_receiveOpen j h.sender _ _
  · exact d.goes_receiveCarry j _ _ _
  · exact Dev.Goes.foldl (fun (d : Dev) (e : Seq × Nat) => d.goes_takeReceipt j e.1 e.2) _ d
  · exact d.goes_takeGap j _ _
  · exact d.goes_takeBusy j _
  · exact .refl d

theorem Dev.goes_frameNotReady (j : SlotId) (b : InBody) (d : Dev) : d.Goes (d.frameNotReady j b) := by
  unfold Dev.frameNotReady
  split
  · exact d.goes_countInbound _
  · exact d.goes_countInbound _
  · exact d.goes_staleFrame j

theorem Dev.goes_receive (sp : SpanId) (h : FrameHdr) (b : InBody) (d : Dev) : d.Goes (d.receive sp h b) := by
  unfold Dev.receive
  split
  · exact d.goes_badFrame sp
  split
  · exact .of_eq rfl
  · next j _ =>
    exact .ite (fun _ => d.goes_staleFrame j) fun _ => .ite (fun _ => d.goes_latchSlot .protocol j) fun _ =>
      .ite (fun _ => d.goes_frameNotReady j b) fun _ => .ite (fun _ => d.goes_handFrame j h b) fun _ => d.goes_staleFrame j

theorem Dev.goes_receiveBytes (sp : SpanId) (l : List Byte) (d : Dev) : d.Goes (d.receiveBytes sp l) := by
  unfold Dev.receiveBytes
  split
  · exact d.goes_badFrame sp
  · exact d.goes_receive sp _ _

/-! ## The effects of the other events -/

/-- R166: a controller takes the first notice. -/
theorem Port.noticesOk_removed {x : Port} (h : x.noticesOk = true) : { x with noticeQ := x.noticeQ.drop 1 }.noticesOk = true := by
  simp only [Port.noticesOk, Bool.and_eq_true, decide_eq_true_eq, List.length_drop] at h ⊢
  omega

theorem Dev.keeps_modPort {d : Dev} {p : PortId} {f : Port → Port}
    (h : d.ports[p].noticesOk = true → (f d.ports[p]).noticesOk = true) : d.Keeps (d.modPort p f) :=
  { Dev.Keeps.refl d with
    notices := fun q => by
      rw [Dev.modPort_port]
      split
      · next hq => exact hq ▸ h
      · exact id }

theorem Dev.keeps_removeResponse (p : PortId) (d : Dev) : d.Keeps (d.removeResponse p) := Dev.keeps_modPort id

theorem Dev.keeps_removeNotice (p : PortId) (d : Dev) : d.Keeps (d.removeNotice p) := Dev.keeps_modPort Port.noticesOk_removed

theorem Dev.goes_recordWritten (p : PortId) (d : Dev) : d.Goes (d.recordWritten p) := by
  have hdma (l : List DmaWrite) : d.Goes { d with dma := l } := .of_eq rfl
  unfold Dev.recordWritten
  split
  · exact .refl d
  · dsimp only
    split
    · exact (hdma _).trans (Dev.goes_answer _ _ _ _ _)
    · exact hdma _

theorem Dev.goes_pageRead (ok : Bool) (d : Dev) : d.Goes (d.pageRead ok) := by
  unfold Dev.pageRead
  split
  · exact d.goes_readCompleted _ ok
  · exact .refl d

theorem Dev.goes_suspended (d : Dev) : d.Goes d.suspended := by
  unfold Dev.suspended
  split
  · exact .of_eq rfl
  · exact .refl d

theorem Dev.goes_eraseDone (ok : Bool) (d : Dev) : d.Goes (d.eraseDone ok) := by
  unfold Dev.eraseDone
  split
  · exact d.goes_erased _ ok
  · exact .refl d

theorem Dev.goes_holdExpired (s : Seq) (d : Dev) : d.Goes (d.holdExpired s) :=
  (d.goes_setHeld s _).trans (Dev.goes_raiseCtrl _ _)

theorem Dev.goes_periodEnds (g : GenId) (due : Time) (d : Dev) : d.Goes (d.periodEnds g due) :=
  (d.goes_pacingGrant g).trans (Dev.goes_setGenDue _ g _)

/-! ## The timers -/

theorem Dev.keeps_commitExpiry (d : Dev) : d.Keeps d.commitExpiry := Dev.keeps_expiry Dev.goes_closeBuffer _ _ d

theorem Dev.keeps_checkpointExpiry (d : Dev) : d.Keeps d.checkpointExpiry := by
  have hexpired (e : Dev) : e.Goes { e with status := { e.status with checkpoint := .expired } } := .of_eq rfl
  exact Dev.keeps_expiry hexpired _ _ d

theorem Dev.keeps_holdExpiry (s : Seq) (d : Dev) : d.Keeps (d.holdExpiry s) := Dev.keeps_expiry (Dev.goes_holdExpired s) _ _ d

theorem Dev.keeps_probeExpiry (j : SlotId) (d : Dev) : d.Keeps (d.probeExpiry j) :=
  Dev.keeps_expiry (fun d => d.goes_probe j) _ _ d

theorem Dev.keeps_busyExpiry (j : SlotId) (d : Dev) : d.Keeps (d.busyExpiry j) := by
  have hend (e : Dev) : e.Goes (e.modSite j fun x => { x with busyEnd := none }) := Dev.goes_modSite_rest rfl
  exact Dev.keeps_expiry hend _ _ d

theorem Dev.keeps_retryExpiry (j : SlotId) (s : Seq) (d : Dev) : d.Keeps (d.retryExpiry j s) :=
  Dev.keeps_expiry (fun d => d.goes_retryExpired j s) _ _ d

theorem Dev.keeps_pacingExpiry (g : GenId) (d : Dev) : d.Keeps (d.pacingExpiry g) :=
  Dev.keeps_expiry (fun d => d.goes_periodEnds g _) _ _ d

theorem Dev.keeps_silenceExpiry (id : Nat) (d : Dev) : d.Keeps (d.silenceExpiry id) :=
  Dev.keeps_expiry (fun d => d.goes_silenceExpired id) _ _ d

theorem Dev.keeps_guardExpiry (d : Dev) : d.Keeps d.guardExpiry := Dev.keeps_expiry (fun d => d.goes_guard _) _ _ d

/-! ## The guard line, fetches, the lines and power -/

theorem Dev.keeps_guardChange (t : Time) (raw : Bool) (d : Dev) : d.Keeps (d.guardChange t raw) := by
  unfold Dev.guardChange
  split
  · exact Dev.keeps_event (fun d => (d.goes_guard _).keeps) t d
  · exact (d.goes_tick t).keeps.trans (.of_eq rfl)

theorem Dev.goes_fetchDone (r : ReadName) (data : List Byte) (d : Dev) : d.Goes (d.fetchDone r data) := by
  unfold Dev.fetchDone
  split
  · exact .refl d
  · exact .ite (fun _ => d.goes_fetched _ data) fun _ => .refl d

theorem Dev.keeps_fetchExpiry (s : Seq) (d : Dev) : d.Keeps (d.fetchExpiry s) := by
  unfold Dev.fetchExpiry
  split
  · exact .refl d
  · exact Dev.keeps_expiry (fun d => d.goes_fetchTimedOut _) _ _ d

theorem Dev.keeps_lineEvent {f g : Dev → Dev} (hf : ∀ d : Dev, d.Keeps (f d)) (hg : ∀ d : Dev, d.Keeps (g d)) (t : Time) (d : Dev) :
    d.Keeps (d.lineEvent t f g) := by
  unfold Dev.lineEvent
  split
  · exact Dev.keeps_event hg t d
  · exact (d.goes_tick t).keeps.trans (hf _)

theorem Dev.keeps_powerUp (t : Time) (m : StartMedia) (d : Dev) : d.Keeps (d.powerUp t m) := by
  unfold Dev.powerUp
  split
  · exact .refl d
  · exact (d.goes_tick t).keeps.trans <| (Dev.keeps_applyPower m _).trans (Dev.keeps_settle _)

theorem Dev.keeps_startEnds (d : Dev) : d.Keeps d.startEnds := by
  unfold Dev.startEnds
  split
  · exact d.keeps_endStart
  · exact .refl d

theorem Dev.keeps_powerLost (t : Time) (d : Dev) : d.Keeps (d.powerLost t) := by
  unfold Dev.powerLost
  split
  · exact (d.goes_tick t).keeps.trans (Dev.keeps_losePower _)
  · exact .refl d

/-! ## Every command of the table -/

/-- The outcome goes on with the queue as it is, and keeps the invariants. -/
def State.KeepsTo (s : State) (o : Host.Outcome State Fault Refusal) : Prop := ∃ d, o = .next { s with dev := d } ∧ s.dev.Keeps d

theorem State.keeps_goOn {s : State} {f : Dev → Dev} (h : s.dev.Keeps (f s.dev)) : s.KeepsTo (s.goOn f) := ⟨_, rfl, h⟩

/-- A row that stands for a command of the command summary posts that command's record. -/
theorem exec_of_posts {c : Instr} {t : Time} {p : PortId} {r : CmdRec} (h : c.posts = some (t, p, r)) (s : State) :
    exec c s = exec (.commandPosted t p r) s := by
  cases c <;> cases h <;> rfl

theorem exec_keeps (c : Instr) (s : State) : s.KeepsTo (exec c s) := by
  have hevent (t : Time) {f : Dev → Dev} (h : ∀ d : Dev, d.Goes (f d)) : s.KeepsTo (s.goOn (Dev.event t f)) :=
    State.keeps_goOn (Dev.keeps_event (fun d => (h d).keeps) t _)
  have hstart (t : Time) {f : Dev → Dev} (h : ∀ d : Dev, d.Keeps (f d)) : s.KeepsTo (s.goOn (Dev.event t f)) :=
    State.keeps_goOn (Dev.keeps_event h t _)
  cases hposts : c.posts with
  | some r =>
    rw [exec_of_posts hposts]
    exact hevent r.1 (Dev.goes_postCommand r.2.1 r.2.2)
  | none =>
    cases c with
    | responseRemoved t p => exact hstart t (Dev.keeps_removeResponse p)
    | noticeRemoved t p => exact hstart t (Dev.keeps_removeNotice p)
    | journalRecordWriteDone t p => exact hevent t (Dev.goes_recordWritten p)
    | commitTimerExpiry => exact State.keeps_goOn (Dev.keeps_commitExpiry _)
    | pageProgramComplete t ok => exact hstart t (Dev.keeps_programCompleted ok)
    | checkpointTimerExpiry => exact State.keeps_goOn (Dev.keeps_checkpointExpiry _)
    | pageReadComplete t ok => exact hevent t (Dev.goes_pageRead ok)
    | eraseSuspendComplete t => exact hevent t Dev.goes_suspended
    | eraseComplete t ok => exact hevent t (Dev.goes_eraseDone ok)
    | holdDeadlineExpiry seq => exact State.keeps_goOn (Dev.keeps_holdExpiry seq _)
    | helloReceived t sp h n => exact hevent t (Dev.goes_receive sp h _)
    | helloAckReceived t sp h n => exact hevent t (Dev.goes_receive sp h _)
    | openReceived t sp h n o => exact hevent t (Dev.goes_receive sp h _)
    | carryReceived t sp h q k l => exact hevent t (Dev.goes_receive sp h _)
    | receiptReceived t sp h l => exact hevent t (Dev.goes_receive sp h _)
    | gapReceived t sp h q l => exact hevent t (Dev.goes_receive sp h _)
    | busyReceived t sp h q => exact hevent t (Dev.goes_receive sp h _)
    | badFrame t sp l => exact hevent t (Dev.goes_receiveBytes sp l)
    | probeTimerExpiry j => exact State.keeps_goOn (Dev.keeps_probeExpiry j _)
    | busyPauseExpiry j => exact State.keeps_goOn (Dev.keeps_busyExpiry j _)
    | retryDeadlineExpiry j seq => exact State.keeps_goOn (Dev.keeps_retryExpiry j seq _)
    | frameTransmitted t sp => exact hevent t fun d => d.goes_modSpan sp _
    | pacingGrant g => exact State.keeps_goOn (Dev.keeps_pacingExpiry g _)
    | silenceTimerExpiry id => exact State.keeps_goOn (Dev.keeps_silenceExpiry id _)
    | landingWriteComplete t p => exact hevent t fun d => d.goes_landed p
    | guardLineChange t raw => exact State.keeps_goOn (Dev.keeps_guardChange t raw _)
    | guardSettlingExpiry => exact State.keeps_goOn (Dev.keeps_guardExpiry _)
    | functionReset t p => exact hstart t fun d => d.keeps_functionReset p
    | fetchReadComplete t r l => exact hevent t (Dev.goes_fetchDone r l)
    | fetchTimeout seq => exact State.keeps_goOn (Dev.keeps_fetchExpiry seq _)
    | powerWarnAssert t =>
      exact State.keeps_goOn (Dev.keeps_lineEvent (fun d => d.keeps_power _) Dev.keeps_powerWarnAsserts t _)
    | resetLineAssert t =>
      exact State.keeps_goOn (Dev.keeps_lineEvent (fun d => d.keeps_power _) Dev.keeps_resetLineAsserts t _)
    | powerWarnDeassert t =>
      exact State.keeps_goOn (Dev.keeps_lineEvent (fun d => d.keeps_power _) Dev.keeps_powerWarnDeasserts t _)
    | resetLineDeassert t =>
      exact State.keeps_goOn (Dev.keeps_lineEvent (fun d => d.keeps_power _) Dev.keeps_resetLineDeasserts t _)
    | backupCellLow t => exact State.keeps_goOn (Dev.keeps_lineEvent (fun d => d.keeps_power _) (fun d => d.keeps_power _) t _)
    | powerUp t m => exact State.keeps_goOn (Dev.keeps_powerUp t m _)
    | startEnd t => exact hstart t Dev.keeps_startEnds
    | powerLoss t => exact State.keeps_goOn (Dev.keeps_powerLost t _)
    | _ => cases hposts

/-- On an empty queue the part idles; else the front command runs. -/
theorem step_keeps {s t : State} (h : step s = .next t) : s.dev.Keeps t.dev := by
  unfold step at h
  split at h
  · cases h
    exact .refl _
  · next c rest _ =>
    obtain ⟨d, hd, hkeeps⟩ := exec_keeps c { s with pending := rest }
    rw [hd] at h
    cases h
    exact hkeeps

end Sys2Proof.Machine

/-- Settles O58: a step keeps each port's notices within their limits. -/
theorem everyStepKeepsNoticeQueues : Obligations.EveryStepKeepsNoticeQueues := by
  intro s t h hstep
  have hall : ∀ p : PortId, s.dev.ports[p].noticesOk = true := fun p => List.all_eq_true.1 h p (mem_allPorts p)
  exact List.all_eq_true.2 fun p _ => (step_keeps hstep).notices p (hall p)

/-- Settles O59: a step keeps each slot that is not ACTIVE at rest. -/
theorem everyStepKeepsInactiveSlotsAtRest : Obligations.EveryStepKeepsInactiveSlotsAtRest := by
  intro s t h hstep
  have hall : ∀ j : SlotId, s.dev.sites[j].restOk = true := fun j => List.all_eq_true.1 h j (mem_allSlots j)
  exact List.all_eq_true.2 fun j _ => (step_keeps hstep).rest j (hall j)

/-- Settles O60: a step keeps the staging buffers and the order of the tables' keys. -/
theorem everyStepKeepsBuffersAndTables : Obligations.EveryStepKeepsBuffersAndTables := by
  intro s t hbuffers htables hstep
  simp only [Dev.tablesOk, Bool.and_eq_true] at htables ⊢
  obtain ⟨⟨hslots, hways⟩, hsegs⟩ := htables
  have hkeeps := step_keeps hstep
  exact ⟨hkeeps.buffers hbuffers, ⟨hkeeps.slots hslots, hkeeps.ways hways⟩, hkeeps.segs hsegs⟩

end

section
/-!
SUPPORT and settlement of O6 (R166, R168, R187). The engines only add records to the ports' queues: a start, which empties them,
begins in the engines' run only when the reset line has begun the quiesce and both lines are deasserted, and no engine changes
that.
-/

open Sys2Proof Sys2Proof.Machine

namespace Sys2Proof.Machine

/-- R187: the reset line lets no start begin: the part is not QUIESCING by it, or a line is still asserted. -/
def Dev.HoldsStart (d : Dev) : Prop :=
  d.part = .quiescing → d.power.causeReset = true → d.power.warn = true ∨ d.power.resetLine = true

theorem Dev.HoldsStart.goes {d e : Dev} (h : d.HoldsStart) (hgoes : d.Goes e) : e.HoldsStart := by
  obtain ⟨hcause, hwarn, hline⟩ := hgoes.lines
  unfold Dev.HoldsStart
  rw [hgoes.part, hcause, hwarn, hline]
  exact h

theorem Dev.HoldsStart.not_startsStalled {d : Dev} (h : d.HoldsStart) : d.startsStalled ≠ true := by
  intro hstart
  simp only [Dev.startsStalled, Bool.and_eq_true, beq_iff_eq, Bool.not_eq_true'] at hstart
  obtain ⟨⟨⟨⟨hpart, hcause⟩, hwarn⟩, hline⟩, _⟩ := hstart
  rcases h hpart hcause with h | h
  · simp [h] at hwarn
  · simp [h] at hline

/-- While no start can begin, the engines' run goes on with the part. -/
theorem Dev.goes_settleN {d : Dev} (n : Nat) (h : d.HoldsStart) : d.Goes (settleN n d) := by
  induction n generalizing d with
  | zero => exact d.goes_refresh
  | succ n ih =>
    have hrefresh := h.goes d.goes_refresh
    unfold settleN
    split
    · next e hstep =>
      rcases Dev.advances_internalStep hstep with ⟨hstart, _⟩ | hgoes
      · exact absurd hstart hrefresh.not_startsStalled
      · exact d.goes_refresh.trans (hgoes.trans (ih (hrefresh.goes hgoes)))
    · exact d.goes_refresh

/-- The event of a powered part. -/
theorem State.goOn_event {s : State} (hpow : s.dev.power.powered = true) (t : Time) (f : Dev → Dev) :
    s.goOn (Dev.event t f) = .next { s with dev := (f (s.dev.tick t)).settle } := by
  rw [State.goOn_next, Dev.event_powered _ _ _ hpow]

end Sys2Proof.Machine

/-- Settles O6: a removal is the event of a powered part; the engines' run goes on with the part (R166, R168, R187). -/
theorem recordsLeaveTheQueuesInOrder : Obligations.RecordsLeaveTheQueuesInOrder := by
  refine ⟨fun s t p hpow => ⟨?_, ?_⟩, fun d p h => ?_⟩
  case refine_1 =>
    refine (State.goOn_event hpow t (Dev.removeResponse p)).trans ?_
    simp only [Dev.removeResponse, List.drop_one]
  case refine_2 =>
    refine (State.goOn_event hpow t (Dev.removeNotice p)).trans ?_
    simp only [Dev.removeNotice, List.drop_one]
  case refine_3 =>
    have hports := (Dev.goes_settleN 1099511627776 h).ports p
    exact ⟨hports.responses, hports.queued⟩

end


section
/-!
SUPPORT and settlement of O1 to O5: the block, the rows, and what happens to a posted command before its own rule (R164 to R167).
-/

open Sys2Proof Sys2Proof.Machine

namespace Sys2Proof.Machine

/-- A command joins the queue of a port with room. -/
theorem Dev.postCommand_joins {d : Dev} {p : PortId} {r : CmdRec} (h : d.ports[p].outstanding < 64) :
    d.postCommand p r = (d.modPort p fun q => { q with cmdQ := q.cmdQ ++ [r] }).serve p := if_neg (Nat.not_le.2 h)

/-- R164, R167: a port takes nothing while it is held or the part is QUIESCING. -/
theorem Dev.takeStep_waits {d : Dev} {p : PortId} (h : d.ports[p].isHeld = true ∨ d.part = .quiescing) : d.takeStep p = none :=
  if_pos h.symm

/-- R27: a head command that is no APPEND is not looked up. -/
theorem Dev.lookupStep_other {d : Dev} {p : PortId} {r : CmdRec} {rest : List CmdRec} (hq : d.ports[p].cmdQ = r :: rest)
    (h : ∀ b, r.body ≠ .append b) : d.lookupStep p = none := by
  obtain ⟨cid, body⟩ := r
  unfold Dev.lookupStep
  rw [hq]
  split
  · next b _ heq _ => exact absurd (congrArg CmdRec.body (List.cons.inj heq).1) (h b)
  · rfl

/-- R167, R170: the arbiter grants no port that is held, and none while the part is QUIESCING. -/
theorem Dev.grantChoice_waits {d : Dev} {p : PortId} (h : d.ports[p].isHeld = true ∨ d.part = .quiescing) :
    d.grantChoice ≠ some p := by
  intro hgrant
  unfold Dev.grantChoice at hgrant
  split at hgrant
  · next hready =>
    have hp := List.find?_some hgrant
    rcases h with h | h
    · rw [Dev.readyCommand, h] at hp
      cases hp
    · exact absurd (hready.1.symm.trans h) (by decide)
  · cases hgrant

theorem Dev.serve_waits {d : Dev} {p : PortId} {r : CmdRec} {rest : List CmdRec}
    (h : d.ports[p].isHeld = true ∨ d.part = .quiescing) (hq : d.ports[p].cmdQ = r :: rest) (hr : ∀ b, r.body ≠ .append b) :
    d.serve p = d := by
  unfold Dev.serve
  rw [Dev.takeStep_waits h, Dev.lookupStep_other hq hr]
  exact if_neg (Dev.grantChoice_waits h)

theorem Dev.postCommand_waits {d : Dev} {p : PortId} {r : CmdRec} (hout : d.ports[p].outstanding < 64)
    (h : d.ports[p].isHeld = true ∨ d.part = .quiescing) (hq : d.ports[p].cmdQ = []) (hr : ∀ b, r.body ≠ .append b) :
    d.postCommand p r = d.modPort p fun q => { q with cmdQ := q.cmdQ ++ [r] } := by
  rw [Dev.postCommand_joins hout]
  refine Dev.serve_waits (r := r) (rest := []) ?_ ?_ hr
  · rw [Dev.modPort_self]
    exact h
  · rw [Dev.modPort_self, hq]
    rfl

/-- R166, R176: an overrun latches at its port, and is told when it was clear. -/
theorem Dev.overrun_port (d : Dev) (p q : PortId) :
    let old : Port := { d.ports[q] with overrun := if q = p then true else d.ports[q].overrun }
    (d.latch .queueOverrun (.port p)).ports[q] =
      if d.ports[p].overrun = false ∧ d.ports[q].state = .online ∧ d.settings.masks[q].getLsbD 2 = true then
        old.addNotice false (.fault .queueOverrun (.port p))
      else old := by
  intro old
  have hold : (d.setLatch true .queueOverrun (.port p)).ports[q] = old := by
    rw [Dev.setLatch, Dev.modPort_port]
    split
    · next hq => simp only [old, hq, if_true]
    · next hq => simp only [old, hq, if_false]
  by_cases hclear : d.ports[p].overrun = false
  · have hlatch : d.latch .queueOverrun (.port p) =
        (d.setLatch true .queueOverrun (.port p)).faultNotice .queueOverrun (.port p) :=
      if_neg (by rw [Dev.latched, hclear]; exact Bool.false_ne_true)
    rw [hlatch, Dev.faultNotice_port, hold]
    simp only [hclear, true_and]
    rfl
  · have hset : d.ports[p].overrun = true := by simpa using hclear
    rw [show d.latch .queueOverrun (.port p) = d from if_pos hset, if_neg fun h => hclear h.1]
    by_cases hq : q = p
    · subst hq
      simp only [old, if_true, ← hset]
    · simp only [old, hq, if_false]

theorem Dev.overrun_rest (d : Dev) (p : PortId) : { d.latch .queueOverrun (.port p) with ports := d.ports } = d := by
  unfold Dev.latch
  split
  · rfl
  · have h := Dev.faultNotice_rest (d.setLatch true .queueOverrun (.port p)) .queueOverrun (.port p)
    exact congrArg (fun e : Dev => { e with ports := d.ports }) h

theorem answerOf_starting (st : PortState) {b : CmdBody} (h : b ≠ .readStatus) : answerOf .starting st b = .status .starting :=
  if_neg h

theorem answerOf_closed {st : PortState} {b : CmdBody} (h : st = .offline ∨ st = .lost) (hattach : b ≠ .attachPort)
    (hread : b ≠ .readStatus) : answerOf .ready st b = .status .notAttached := by
  have hb : ¬ (b = .readStatus ∨ b = .attachPort) := not_or_intro hread hattach
  rcases h with rfl | rfl
  · exact if_neg hb
  · exact if_neg hb

/-- R164, R167: a port that is not held takes a command that waits for no arbiter, and refuses it. -/
theorem Dev.takeStep_refused {d : Dev} {p : PortId} {r : CmdRec} {rest : List CmdRec} {st : Status}
    (hpart : d.part ≠ .quiescing) (hheld : d.ports[p].isHeld = false) (hq : d.ports[p].cmdQ = r :: rest)
    (ha : answerOf d.part d.ports[p].state r.body = .status st) :
    d.takeStep p = some ((d.take p r rest).refuse (d.nextTok p) st) := by
  unfold Dev.takeStep
  rw [if_neg (not_or_intro hpart (by rw [hheld]; exact Bool.false_ne_true)), hq]
  dsimp only
  rw [ha]

/-- R164: a command that is refused before its own rule, at an idle port. -/
theorem Dev.postCommand_refused {d : Dev} {p : PortId} {r : CmdRec} {st : Status} (hidle : d.portIdle p)
    (hpart : d.part ≠ .quiescing) (ha : answerOf d.part d.ports[p].state r.body = .status st) :
    d.postCommand p r = d.replied p r.cid (kindCode r.body) st 0 .none := by
  obtain ⟨hq, htaken, hlookup, hresp⟩ := hidle
  have hout : d.ports[p].outstanding < 64 := by rwa [Port.outstanding_free hq htaken]
  have hheld : d.ports[p].isHeld = false := Port.isHeld_free htaken
  have hport : (d.modPort p fun q => { q with cmdQ := q.cmdQ ++ [r] }).ports[p] = { d.ports[p] with cmdQ := [r] } := by
    rw [Dev.modPort_self, hq]
    rfl
  have htake : (d.modPort p fun q => { q with cmdQ := q.cmdQ ++ [r] }).takeStep p =
      some ((d.take p r []).refuse (d.nextTok p) st) := by
    have h := Dev.takeStep_refused (d := d.modPort p fun q => { q with cmdQ := q.cmdQ ++ [r] }) (p := p) (r := r) (rest := [])
      hpart (by rw [hport]; exact hheld) (by rw [hport]) (by rw [hport]; exact ha)
    rw [h, Dev.take_enqueued]
    rfl
  rw [Dev.postCommand_joins hout, Dev.serve, htake]
  exact Dev.take_refuse r st ⟨hq, htaken, hlookup, hresp⟩

/-- The posting of a command record to a powered part. -/
theorem commandPosted_next {s : State} (hpow : s.dev.power.powered = true) (t : Time) (p : PortId) (r : CmdRec) :
    exec (.commandPosted t p r) s = .next { s with dev := ((s.dev.tick t).postCommand p r).settle } :=
  State.goOn_event hpow t (Dev.postCommand p r)

end Sys2Proof.Machine

/-- Settles O1. -/
theorem stepRunsFront : Obligations.StepRunsFront := fun _ _ _ => rfl

/-- Settles O2: each command's meaning is an update of the part. -/
theorem everyStepGoesOn : Obligations.EveryStepGoesOn := by
  refine ⟨fun c s => ?_, fun d => rfl⟩
  obtain ⟨d, hd, _⟩ := exec_keeps c s
  exact ⟨d, hd⟩

/-- Settles O3. -/
theorem commandRowsPostTheirRecord : Obligations.CommandRowsPostTheirRecord := fun _ s _ _ _ h => exec_of_posts h s

/-- Settles O4: a waiting command joins the queue; one too many is dropped and latches the overrun. -/
theorem postedCommandWaitsOrOverruns : Obligations.PostedCommandWaitsOrOverruns := by
  refine ⟨fun s t p r hpow hout hwaits hq hr => ?_, fun s t p r hpow hout => ?_⟩
  · rw [commandPosted_next hpow, Dev.postCommand_waits (d := s.dev.tick t) hout hwaits hq hr]
  · refine ⟨(s.dev.tick t).latch .queueOverrun (.port p), ?_, (s.dev.tick t).overrun_rest p, (s.dev.tick t).overrun_port p⟩
    rw [commandPosted_next hpow, show (s.dev.tick t).postCommand p r = _ from if_pos hout]

/-- Settles O5: the part's state and the port's state choose the refusal (R164). -/
theorem answersBeforeTheCommandsRule : Obligations.AnswersBeforeTheCommandsRule := by
  refine ⟨fun s t p r hpow hidle => ⟨fun hpart hr => ?_, fun hpart hport => ?_, fun hpart hport hattach hread => ?_⟩,
    fun s t p cid code hup hfree => ?_⟩
  case refine_1 =>
    have hquiet : s.dev.part ≠ .quiescing := by rw [hpart]; decide
    rw [commandPosted_next hpow, Dev.postCommand_refused (d := s.dev.tick t) hidle hquiet]
    exact hpart ▸ answerOf_starting _ hr
  case refine_2 =>
    have hquiet : s.dev.part ≠ .quiescing := by rw [hpart]; decide
    rw [commandPosted_next hpow, Dev.postCommand_refused (d := s.dev.tick t) hidle hquiet]
    show answerOf s.dev.part s.dev.ports[p].state r.body = _
    rw [hpart, hport]
    rfl
  case refine_3 =>
    have hquiet : s.dev.part ≠ .quiescing := by rw [hpart]; decide
    rw [commandPosted_next hpow, Dev.postCommand_refused (d := s.dev.tick t) hidle hquiet]
    show answerOf s.dev.part s.dev.ports[p].state r.body = _
    rw [hpart]
    exact answerOf_closed hport hattach hread
  case refine_4 => exact Dev.posted_replies hup hfree rfl rfl

end

section
/-!
SUPPORT and settlement of O7: READ STATUS, which an idle port's part takes at once also while it is STARTING (R164, R181).
-/

open Sys2Proof Sys2Proof.Machine

namespace Sys2Proof.Machine

/-- R164, R167: a port that is not held takes a command that waits for no arbiter, and the command acts. -/
theorem Dev.takeStep_acts {d : Dev} {p : PortId} {r : CmdRec} {rest : List CmdRec} (hpart : d.part ≠ .quiescing)
    (hheld : d.ports[p].isHeld = false) (hq : d.ports[p].cmdQ = r :: rest)
    (ha : answerOf d.part d.ports[p].state r.body = .acts) :
    d.takeStep p = some ((d.take p r rest).act (d.nextTok p) .none r.body) := by
  unfold Dev.takeStep
  rw [if_neg (not_or_intro hpart (by rw [hheld]; exact Bool.false_ne_true)), hq]
  dsimp only
  rw [ha]

/-- R164: a command that acts at once, at an idle port. -/
theorem Dev.postCommand_taken {d : Dev} {p : PortId} {r : CmdRec} (hidle : d.portIdle p) (hpart : d.part ≠ .quiescing)
    (ha : answerOf d.part d.ports[p].state r.body = .acts) :
    d.postCommand p r = (d.take p r []).act (d.nextTok p) .none r.body := by
  obtain ⟨hq, htaken, hlookup, hresp⟩ := hidle
  have hout : d.ports[p].outstanding < 64 := by rwa [Port.outstanding_free hq htaken]
  have hheld : d.ports[p].isHeld = false := Port.isHeld_free htaken
  have hport : (d.modPort p fun q => { q with cmdQ := q.cmdQ ++ [r] }).ports[p] = { d.ports[p] with cmdQ := [r] } := by
    rw [Dev.modPort_self, hq]
    rfl
  have htake := Dev.takeStep_acts (d := d.modPort p fun q => { q with cmdQ := q.cmdQ ++ [r] }) (p := p) (r := r) (rest := [])
    hpart (by rw [hport]; exact hheld) (by rw [hport]) (by rw [hport]; exact ha)
  rw [Dev.postCommand_joins hout, Dev.serve, htake, Dev.take_enqueued]
  rfl

theorem answerOf_readStatus {part : PartState} {st : PortState} (h : part = .starting ∨ (part = .ready ∧ st ≠ .fenced)) :
    answerOf part st .readStatus = .acts := by
  rcases h with rfl | ⟨rfl, hst⟩
  · rfl
  · cases st with
    | fenced => exact absurd rfl hst
    | _ => rfl

/-- The command that an idle port has taken counts as outstanding. -/
theorem Dev.take_outstanding {d : Dev} {p : PortId} (h : d.portIdle p) (r : CmdRec) (q : PortId) :
    (d.take p r []).ports[q].outstanding = d.ports[q].outstanding + (if q = p then 1 else 0) := by
  by_cases hq : q = p
  · subst hq
    obtain ⟨hcmd, htaken, _, _⟩ := h
    rw [Dev.take_port_self, Port.outstanding_free hcmd htaken, if_pos rfl, htaken]
    exact Nat.add_comm 1 _
  · rw [Dev.take_port_other _ _ _ _ _ hq, if_neg hq, Nat.add_zero]

/-- Taking a command leaves the latches. -/
theorem Dev.take_latchedFaults (d : Dev) (p : PortId) (r : CmdRec) (rest : List CmdRec) :
    (d.take p r rest).latchedFaults = d.latchedFaults := by
  refine Dev.latchedFaults_congr rfl rfl rfl (fun q => ?_) fun j => rfl
  rw [Dev.take, Dev.modPort_port]
  split <;> rfl

theorem allPorts_getElem? (q : PortId) : allPorts[q.val]? = some q := by revert q; decide

/-- R181: what the report says of each port, when the part has just taken the command. -/
theorem Dev.statusReport_port (d : Dev) (q : PortId) : d.statusReport.ports[q.val]? = some (d.portReport q) := by
  show (allPorts.map d.portReport)[q.val]? = _
  rw [List.getElem?_map, allPorts_getElem?]
  rfl

theorem Dev.take_portReport {d : Dev} {p : PortId} (h : d.portIdle p) (r : CmdRec) (q : PortId) :
    (d.take p r []).portReport q =
      { d.portReport q with outstanding := d.ports[q].outstanding + (if q = p then 1 else 0) } := by
  rw [← Dev.take_outstanding h r q]
  by_cases hq : q = p
  · subst hq
    simp only [Dev.portReport, Dev.take_port_self]
    rfl
  · simp only [Dev.portReport, Dev.take_port_other _ _ _ _ _ hq]
    rfl

end Sys2Proof.Machine

/-- Settles O7: the report is made from the part that has just taken the command. -/
theorem readStatusReports : Obligations.ReadStatusReports := by
  intro s t p cid hpow hidle hstate
  have hpart : s.dev.part ≠ .quiescing := by
    rcases hstate with h | h
    · rw [h]; decide
    · rw [h.1]; decide
  refine ⟨((s.dev.tick t).take p ⟨cid, .readStatus⟩ []).statusReport, ?_, rfl, rfl, rfl, rfl, rfl, rfl, rfl, rfl, rfl, rfl, rfl,
    Dev.take_latchedFaults (s.dev.tick t) p _ _, rfl, rfl, fun q => ⟨_, Dev.statusReport_port _ q, ?_⟩⟩
  · have hpost := Dev.postCommand_taken (d := s.dev.tick t) (r := ⟨cid, .readStatus⟩) hidle hpart (answerOf_readStatus hstate)
    refine (State.goOn_event hpow t (Dev.postCommand p ⟨cid, .readStatus⟩)).trans ?_
    rw [hpost]
    have hanswer := Dev.take_answer (d := s.dev.tick t) (p := p) ⟨cid, .readStatus⟩ .done 0
      (.status ((s.dev.tick t).take p ⟨cid, .readStatus⟩ []).statusReport) hidle
    exact congrArg (fun d : Dev => Host.Outcome.next { s with dev := d.settle }) hanswer
  · rw [Dev.take_portReport (d := s.dev.tick t) hidle]
    exact ⟨rfl, rfl, rfl, rfl, rfl, rfl, rfl, rfl⟩

end

section
/-!
SUPPORT and settlement of O8: CLEAR FAULTS (R176, R182). A latch is one Boolean for each kind and scope.
-/

open Sys2Proof Sys2Proof.Machine

namespace Sys2Proof.Machine

/-- R78: the latch of a kind in a slot. -/
def Site.flag (k : FaultKind) (x : Site) : Bool :=
  match k with
  | .stall => x.stall
  | .overrun => x.overrun
  | .digest => x.digest
  | .protocol => x.protocol
  | _ => false

/-- The slot with one latch clear. -/
def Site.clearFlag (k : FaultKind) (x : Site) : Site :=
  match k with
  | .stall => { x with stall := false }
  | .overrun => { x with overrun := false }
  | .digest => { x with digest := false }
  | .protocol => { x with protocol := false }
  | _ => x

theorem Site.flag_clearFlag (k l : FaultKind) (x : Site) : (x.clearFlag l).flag k = (x.flag k && !decide (k = l)) := by
  cases k <;> cases l <;> simp [Site.flag, Site.clearFlag]

theorem Dev.latched_slot (d : Dev) (k : FaultKind) (j : SlotId) (c : Option Nat) :
    d.latched k (.slot j c) = d.sites[j].flag k := by
  cases k <;> rfl

theorem Dev.latched_port (d : Dev) (k : FaultKind) (p : PortId) :
    d.latched k (.port p) = (decide (k = .queueOverrun) && d.ports[p].overrun) := by
  cases k <;> rfl

/-- The latch of a slot is cleared in the slot; the kinds that stand elsewhere change nothing. -/
theorem Dev.setLatch_slot (d : Dev) (k : FaultKind) (j i : SlotId) (c : Option Nat) :
    (d.setLatch false k (.slot j c)).sites[i] = if i = j then d.sites[i].clearFlag k else d.sites[i] := by
  cases k with
  | stall => exact d.modSite_site j i _
  | overrun => exact d.modSite_site j i _
  | digest => exact d.modSite_site j i _
  | protocol => exact d.modSite_site j i _
  | _ => exact (ite_self _).symm

theorem Dev.setLatch_port (d : Dev) (p q : PortId) :
    (d.setLatch false .queueOverrun (.port p)).ports[q] =
      if q = p then { d.ports[q] with overrun := false } else d.ports[q] := d.modPort_port p q _

/-- R176: where the latches of each kind stand. -/
theorem Dev.mem_scopes_slot {d : Dev} {k : FaultKind} {j : SlotId} {c : Option Nat} (h : .slot j c ∈ d.scopes k) :
    c = (d.config j).site := by
  have hslots (h : .slot j c ∈ allSlots.map d.slotScope) : c = (d.config j).site := by
    obtain ⟨i, _, hi⟩ := List.mem_map.1 h
    cases hi
    rfl
  cases k with
  | journalMedia | retentionLost => cases List.mem_singleton.1 h
  | queueOverrun =>
    obtain ⟨q, _, hq⟩ := List.mem_map.1 h
    cases hq
  | _ => exact hslots h

theorem Dev.mem_scopes_port {d : Dev} {k : FaultKind} {p : PortId} (h : .port p ∈ d.scopes k) : k = .queueOverrun := by
  have hslots (h : .port p ∈ allSlots.map d.slotScope) : False := by
    obtain ⟨i, _, hi⟩ := List.mem_map.1 h
    cases hi
  cases k with
  | journalMedia | retentionLost => cases List.mem_singleton.1 h
  | queueOverrun => rfl
  | _ => exact (hslots h).elim

theorem Dev.mem_scopes_part {d : Dev} {k : FaultKind} (h : .part ∈ d.scopes k) : k = .journalMedia ∨ k = .retentionLost := by
  have hslots (h : .part ∈ allSlots.map d.slotScope) : False := by
    obtain ⟨i, _, hi⟩ := List.mem_map.1 h
    cases hi
  cases k with
  | journalMedia => exact .inl rfl
  | retentionLost => exact .inr rfl
  | queueOverrun =>
    obtain ⟨q, _, hq⟩ := List.mem_map.1 h
    cases hq
  | _ => exact (hslots h).elim

/-- A latch is cleared where it stands. -/
theorem Dev.latched_setLatch_self {d : Dev} {k : FaultKind} {sc : FaultScope} (h : sc ∈ d.scopes k) :
    (d.setLatch false k sc).latched k sc = false := by
  cases sc with
  | part =>
    rcases Dev.mem_scopes_part h with rfl | rfl
    · rfl
    · rfl
  | port p =>
    obtain rfl := Dev.mem_scopes_port h
    rw [Dev.latched_port, Dev.setLatch_port, if_pos rfl]
    rfl
  | slot j c =>
    rw [Dev.latched_slot, Dev.setLatch_slot, if_pos rfl, Site.flag_clearFlag]
    simp

/-- A latch that stands elsewhere is left. -/
theorem Dev.latched_setLatch_other {d : Dev} {k l : FaultKind} {sc sd : FaultScope} (h : sc ∈ d.scopes k) (hd : sd ∈ d.scopes l)
    (hne : (k, sc) ≠ (l, sd)) : (d.setLatch false l sd).latched k sc = d.latched k sc := by
  cases sd with
  | part =>
    cases sc with
    | part =>
      rcases Dev.mem_scopes_part h with rfl | rfl <;> rcases Dev.mem_scopes_part hd with rfl | rfl
      · exact absurd rfl hne
      · rfl
      · rfl
      · exact absurd rfl hne
    | port q => cases k <;> rcases Dev.mem_scopes_part hd with rfl | rfl <;> rfl
    | slot j c => cases k <;> rcases Dev.mem_scopes_part hd with rfl | rfl <;> rfl
  | port p =>
    obtain rfl := Dev.mem_scopes_port hd
    cases sc with
    | part => cases k <;> rfl
    | port q =>
      obtain rfl := Dev.mem_scopes_port h
      have hq : q ≠ p := fun hq => hne (hq ▸ rfl)
      rw [Dev.latched_port, Dev.setLatch_port, if_neg hq, Dev.latched_port]
    | slot j c => cases k <;> rfl
  | slot i c =>
    cases sc with
    | part => cases k <;> cases l <;> rfl
    | port q => cases k <;> cases l <;> rfl
    | slot j c' =>
      rw [Dev.latched_slot, Dev.latched_slot, Dev.setLatch_slot]
      split
      · next hj =>
        have hkind : k ≠ l := fun hk => hne (by rw [hk, hj, Dev.mem_scopes_slot h, Dev.mem_scopes_slot hd, hj])
        rw [Site.flag_clearFlag]
        simp [hkind]
      · rfl

/-- R182: the latches of a list are cleared. -/
def Dev.clearAll (l : List (FaultKind × FaultScope)) (d : Dev) : Dev := l.foldl (fun d e => d.setLatch false e.1 e.2) d

theorem Dev.setLatch_settings (d : Dev) (v : Bool) (k : FaultKind) (sc : FaultScope) :
    (d.setLatch v k sc).settings = d.settings := by
  unfold Dev.setLatch
  split <;> rfl

/-- Where the latches stand follows from the settings. -/
theorem Dev.scopes_congr {d e : Dev} (h : e.settings = d.settings) (k : FaultKind) : e.scopes k = d.scopes k := by
  have hscope : e.slotScope = d.slotScope := by
    funext j
    rw [Dev.slotScope, Dev.config, h]
    rfl
  cases k with
  | stall | overrun | digest | protocol => exact congrArg (fun f => allSlots.map f) hscope
  | _ => rfl

theorem Dev.latched_clearAll (l : List (FaultKind × FaultScope)) {d : Dev} (hl : ∀ e ∈ l, e.2 ∈ d.scopes e.1) {k : FaultKind}
    {sc : FaultScope} (h : sc ∈ d.scopes k) :
    (d.clearAll l).latched k sc = (d.latched k sc && !decide ((k, sc) ∈ l)) := by
  induction l generalizing d with
  | nil => simp [Dev.clearAll]
  | cons e t ih =>
    have hs := Dev.scopes_congr (d.setLatch_settings false e.1 e.2)
    have hrest := ih (d := d.setLatch false e.1 e.2) (fun x hx => hs x.1 ▸ hl x (List.mem_cons_of_mem _ hx)) (hs k ▸ h)
    refine hrest.trans ?_
    by_cases he : (k, sc) = e
    · subst he
      rw [Dev.latched_setLatch_self h]
      simp
    · rw [Dev.latched_setLatch_other h (hl e List.mem_cons_self) he]
      simp [he]

/-- R176: a latch that stands is one of its kind's places. -/
theorem Dev.mem_latchedFaults {d : Dev} {e : FaultKind × FaultScope} (h : e ∈ d.latchedFaults) : e.2 ∈ d.scopes e.1 := by
  obtain ⟨k, _, hk⟩ := List.mem_flatMap.1 h
  obtain ⟨sc, hsc, rfl⟩ := List.mem_map.1 hk
  exact (List.mem_filter.1 hsc).1

/-- R182: the clearing of the latches that a test selects leaves the others. -/
theorem Dev.latchedFaults_clearAll (d : Dev) (test : FaultKind × FaultScope → Bool) :
    (d.clearAll (d.latchedFaults.filter test)).latchedFaults = d.latchedFaults.filter fun e => !test e := by
  have hsettings (l : List (FaultKind × FaultScope)) (e : Dev) : (e.clearAll l).settings = e.settings := by
    induction l generalizing e with
    | nil => rfl
    | cons x t ih => exact (ih _).trans (e.setLatch_settings false x.1 x.2)
  have hfilter : (d.latchedFaults.filter fun e => !test e) =
      faultKinds.flatMap fun k =>
        (((d.scopes k).filter fun sc => d.latched k sc).map fun sc => (k, sc)).filter fun e => !test e := List.filter_flatMap
  rw [hfilter]
  refine List.flatMap_congr fun k hk => ?_
  rw [Dev.scopes_congr (hsettings _ d), List.filter_map, List.filter_filter]
  refine congrArg (List.map fun sc => (k, sc)) (List.filter_congr fun sc hsc => ?_)
  have hclear := Dev.latched_clearAll (d.latchedFaults.filter test)
    (fun e he => Dev.mem_latchedFaults (List.mem_filter.1 he).1) hsc
  refine hclear.trans ?_
  by_cases hlatched : d.latched k sc = true
  · have hmem : (k, sc) ∈ d.latchedFaults :=
      List.mem_flatMap.2 ⟨k, hk, List.mem_map.2 ⟨sc, List.mem_filter.2 ⟨hsc, hlatched⟩, rfl⟩⟩
    simp [hlatched, hmem]
  · simp [hlatched]

/-! ## What the clearing leaves -/

theorem Dev.setLatch_rest (d : Dev) (v : Bool) (k : FaultKind) (sc : FaultScope) :
    { d.setLatch v k sc with
      ports := d.ports, sites := d.sites, journalMedia := d.journalMedia, retentionLost := d.retentionLost } = d := by
  unfold Dev.setLatch
  split <;> rfl

theorem Dev.setLatch_port_rest (d : Dev) (v : Bool) (k : FaultKind) (sc : FaultScope) (q : PortId) (b : Bool) :
    { (d.setLatch v k sc).ports[q] with overrun := b } = { d.ports[q] with overrun := b } := by
  unfold Dev.setLatch
  split
  case h_3 p =>
    rw [Dev.modPort_port]
    split <;> rfl
  all_goals rfl

/-- The slot with its four flags as given. -/
def Site.withFlags (x y : Site) : Site :=
  { x with stall := y.stall, overrun := y.overrun, digest := y.digest, protocol := y.protocol }

theorem Dev.setLatch_site_rest (d : Dev) (v : Bool) (k : FaultKind) (sc : FaultScope) (j : SlotId) (y : Site) :
    (d.setLatch v k sc).sites[j].withFlags y = d.sites[j].withFlags y := by
  unfold Dev.setLatch
  split
  case h_4 | h_5 | h_6 | h_7 =>
    rw [Dev.modSite_site]
    split <;> rfl
  all_goals rfl

theorem Dev.clearAll_rest (l : List (FaultKind × FaultScope)) (d : Dev) :
    { d.clearAll l with
      ports := d.ports, sites := d.sites, journalMedia := d.journalMedia, retentionLost := d.retentionLost } = d := by
  refine foldl_keeps (fun e : Dev => { e with
    ports := d.ports, sites := d.sites, journalMedia := d.journalMedia, retentionLost := d.retentionLost }) _ (fun e x => ?_) l d
  exact congrArg (fun e : Dev => { e with
    ports := d.ports, sites := d.sites, journalMedia := d.journalMedia, retentionLost := d.retentionLost })
    (e.setLatch_rest false x.1 x.2)

theorem Dev.clearAll_port (l : List (FaultKind × FaultScope)) (d : Dev) (q : PortId) (b : Bool) :
    { (d.clearAll l).ports[q] with overrun := b } = { d.ports[q] with overrun := b } :=
  foldl_keeps (fun e : Dev => ({ e.ports[q] with overrun := b } : Port)) _ (fun e x => e.setLatch_port_rest false x.1 x.2 q b) l d

theorem Dev.clearAll_site (l : List (FaultKind × FaultScope)) (d : Dev) (j : SlotId) (y : Site) :
    (d.clearAll l).sites[j].withFlags y = d.sites[j].withFlags y :=
  foldl_keeps (fun e : Dev => e.sites[j].withFlags y) _ (fun e x => e.setLatch_site_rest false x.1 x.2 j y) l d

/-- A port that holds no command and no lookup. -/
theorem Port.idle_eq {x : Port} (hq : x.cmdQ = []) (ht : x.taken = []) (hl : x.lookup = none) :
    { x with cmdQ := [], lookup := none, taken := [] } = x := by
  cases x
  cases hq
  cases ht
  cases hl
  rfl

/-- A change of a port that leaves its overrun latch leaves the latches. -/
theorem Dev.modPort_latchedFaults (d : Dev) (p : PortId) (f : Port → Port) (h : (f d.ports[p]).overrun = d.ports[p].overrun) :
    (d.modPort p f).latchedFaults = d.latchedFaults := by
  refine Dev.latchedFaults_congr rfl rfl rfl (fun q => ?_) fun j => rfl
  rw [Dev.modPort_port]
  split
  · next hq => exact hq ▸ h
  · rfl

/-- R182: the answer of a CLEAR FAULTS whose command is the one that its port has taken. -/
theorem Dev.clearAll_answer {d : Dev} {p : PortId} {x : Taken} (l : List (FaultKind × FaultScope)) (b : RespBody)
    (ht : d.ports[p].taken = [x]) (hd : x.discard = false) :
    (d.clearAll l).answer ⟨p, x.id⟩ .done 0 b =
      (d.clearAll l).modPort p fun q => { q with taken := [], respQ := q.respQ ++ [⟨x.kind, .done, 0, x.cid, b⟩] } :=
  Dev.answer_only x .done 0 b ((congrArg Port.taken (d.clearAll_port l p false) :).trans ht) hd

/-- R182: whether the condition of a latch has ended, once a command of an idle port has been taken. -/
theorem Dev.take_conditionEnded {d : Dev} {p : PortId} (h : d.portIdle p) (r : CmdRec) (e : FaultKind × FaultScope) :
    (d.take p r []).conditionEnded e.1 e.2 =
      match e with
      | (.queueOverrun, .port q) => decide (d.ports[q].outstanding + (if q = p then 1 else 0) < 64)
      | (.stall, .slot j _) => d.sites[j].state != .stalled && decide (d.sites[j].probeCount < 30)
      | (.overrun, .slot j _) => decide (d.sites[j].busyCount < 16)
      | _ => true := by
  obtain ⟨k, sc⟩ := e
  cases sc with
  | part => cases k <;> rfl
  | slot j c => cases k <;> rfl
  | port q =>
    cases k with
    | queueOverrun =>
      show decide ((d.take p r []).ports[q].outstanding < 64) = _
      rw [Dev.take_outstanding h]
    | _ => rfl

end Sys2Proof.Machine

/-- Settles O8: the named latches whose condition has ended are cleared, and the command is answered with them. -/
theorem clearFaultsClears : Obligations.ClearFaultsClears := by
  intro s t p cid kinds hup hfree ended named
  obtain ⟨_, hidle⟩ := id hfree
  obtain ⟨hq, htaken, hlookup, _⟩ := id hidle
  let e : Dev := (s.dev.tick t).take p ⟨cid, .clearFaults kinds⟩ []
  let x : Taken := { id := s.dev.nextToken, cid := cid, kind := 33 }
  have hx : e.ports[p].taken = [x] := by
    rw [show e.ports[p] = _ from Dev.take_port_self _ p _ _]
    exact congrArg (· ++ [x]) htaken
  have hnamed : e.namedLatches kinds = named := congrArg _ (Dev.take_latchedFaults (s.dev.tick t) p _ _)
  have hended : (fun y : FaultKind × FaultScope => e.conditionEnded y.1 y.2) = ended :=
    funext fun y => Dev.take_conditionEnded (d := s.dev.tick t) hidle _ y
  have hact : e.act (s.dev.nextTok p) .none (.clearFaults kinds) =
      (e.clearAll (named.filter ended)).modPort p fun q =>
        { q with
          taken := []
          respQ := q.respQ ++ [⟨33, .done, 0, cid, .cleared (named.filter ended) (named.filter fun y => !ended y)⟩] } := by
    rw [← Dev.clearAll_answer (named.filter ended) _ hx rfl, ← hended, ← hnamed]
    rfl
  have hself : { e.ports[p] with taken := [] } = s.dev.ports[p] := by
    rw [show e.ports[p] = _ from Dev.take_port_self _ p _ _]
    exact Port.idle_eq hq htaken hlookup
  have hother {q : PortId} (h : q ≠ p) : e.ports[q] = s.dev.ports[q] := Dev.take_port_other _ _ _ _ _ h
  have hcleared (q : PortId) := e.clearAll_port (named.filter ended) q s.dev.ports[q].overrun
  refine ⟨_, Dev.posted_acts cid (.clearFaults kinds) hup hfree rfl, ?_⟩
  rw [hact]
  refine ⟨?resp, ?latches, ?rest, fun q => ?port, fun q hne => ?other, fun j => ?site⟩
  case resp =>
    rw [Dev.modPort_self]
    exact congrArg (· ++ _) ((congrArg Port.respQ (hcleared p) :).trans (congrArg Port.respQ hself :))
  case latches =>
    have hfaults : s.dev.latchedFaults = e.latchedFaults := (Dev.take_latchedFaults (s.dev.tick t) p _ _).symm
    rw [Dev.modPort_latchedFaults _ p _ rfl, List.filter_filter, hfaults]
    refine (e.latchedFaults_clearAll fun y => ended y && kinds.getLsbD y.1.index).trans ?_
    simp only [Bool.and_comm]
  case rest =>
    exact congrArg (fun d : Dev => { d with nextToken := s.dev.nextToken, ports := s.dev.ports })
      (e.clearAll_rest (named.filter ended))
  case port =>
    rw [Dev.modPort_port]
    split
    · next hqp =>
      subst hqp
      have h := congrArg (fun y : Port => { y with taken := [], respQ := s.dev.ports[q].respQ }) (hcleared q)
      exact h.trans (congrArg (fun y : Port => { y with overrun := s.dev.ports[q].overrun, respQ := s.dev.ports[q].respQ }) hself)
    · next hqp =>
      have h := congrArg (fun y : Port => { y with respQ := s.dev.ports[q].respQ }) (hcleared q)
      rw [hother hqp] at h
      exact h
  case other =>
    rw [Dev.modPort_other _ _ _ _ hne]
    exact (congrArg Port.respQ (hcleared q) :).trans (congrArg Port.respQ (hother hne) :)
  case site => exact e.clearAll_site (named.filter ended) j s.dev.sites[j]

end

section
/-!
SUPPORT of O12, O14 to O18, O26 to O31: a command that the arbiter grants in the event of its posting, and what its rule gives.
-/

open Sys2Proof Sys2Proof.Machine

namespace Sys2Proof.Machine

/-- R170: the part when it has granted a command and taken it; its port is the one granted last. -/
def Dev.grantTaken (p : PortId) (r : CmdRec) (d : Dev) : Dev := Dev.take p r [] { d with intake := { d.intake with last := p } }

section Granted

variable {s : State} {t : Time} {p : PortId} {cid : Word32} {b : CmdBody} (hup : s.dev.up) (hf : s.dev.portFree p)
  (hi : s.dev.intakeFree) (ha : usesArbiter b = true) (hn : ∀ x, b ≠ .append x)
include hup hf hi ha hn

/-- A granted command that is answered in the event of its posting. -/
theorem Dev.posted_answered {st : Status} {fl : Byte} {body : RespBody}
    (hact : ((s.dev.tick t).grantTaken p ⟨cid, b⟩).act (s.dev.nextTok p) .none b =
      ((s.dev.tick t).grantTaken p ⟨cid, b⟩).answer (s.dev.nextTok p) st fl body) :
    s.goOn (Dev.posted t p cid b) =
      .next { s with dev := ((s.dev.tick t).grantedReply p cid (kindCode b) st fl body).settle } := by
  rw [Dev.posted_granted cid b hup hf hi ha hn]
  have h := Dev.answered_granted (d := s.dev.tick t) (p := p) ⟨cid, b⟩ st fl body hf.2 hi
  rw [← h]
  exact congrArg (fun d : Dev => Host.Outcome.next { s with dev := d.grantedNow.settle }) hact

/-- A granted command that stores a setting and places its SETTINGS record. -/
theorem Dev.posted_stored {c : Settings} {cont : Cont} (hs : s.dev.canPlace 1536)
    (hact : ((s.dev.tick t).grantTaken p ⟨cid, b⟩).act (s.dev.nextTok p) .none b =
      Dev.raiseSettings (s.dev.nextTok p) cont { (s.dev.tick t).grantTaken p ⟨cid, b⟩ with settings := c }) :
    s.goOn (Dev.posted t p cid b) =
      .next { s with dev :=
        (({ s.dev.tick t with settings := c }.recorded p (.settings c)).granted p cid (kindCode b) cont).settle } := by
  rw [Dev.posted_granted cid b hup hf hi ha hn]
  have h := Dev.settings_granted (d := s.dev.tick t) (p := p) ⟨cid, b⟩ c cont hup.2 hf.2 hi hs
  rw [← h]
  exact congrArg (fun d : Dev => Host.Outcome.next { s with dev := d.grantedNow.settle }) hact

end Granted

/-! ## SET NOTICE MASK and SET LOCAL SITE -/

theorem maskOf_bad {l : List Nat} (h : ∃ k ∈ l, k ≠ 1 ∧ k ≠ 2) : maskOf l = none := by
  obtain ⟨k, hk, h1, h2⟩ := h
  refine if_neg fun ⟨_, hall⟩ => ?_
  have hon := List.all_eq_true.1 hall k hk
  simp [onOffOf] at hon

theorem maskOf_settings (m : BitVec 7) : maskOf ((List.range 7).map fun k => if m.getLsbD k then 1 else 2) = some m := by
  revert m
  decide +kernel

theorem Dev.actSetNoticeMask_bad {d : Dev} {l : List Nat} (tok : Tok) (h : maskOf l = none) :
    d.actSetNoticeMask tok l = d.refuse tok .badField := by
  rw [Dev.actSetNoticeMask, h]

theorem Dev.actSetNoticeMask_same {d : Dev} {tok : Tok} {l : List Nat} {m : BitVec 7} (h : maskOf l = some m)
    (hm : m = d.settings.masks[tok.port]) : d.actSetNoticeMask tok l = d.answer tok .done 0 (.mask m) := by
  rw [Dev.actSetNoticeMask, h]
  exact if_pos hm

theorem Dev.actSetNoticeMask_new {d : Dev} {tok : Tok} {l : List Nat} {m : BitVec 7} (h : maskOf l = some m)
    (hm : m ≠ d.settings.masks[tok.port]) :
    d.actSetNoticeMask tok l =
      Dev.raiseSettings tok .mask { d with settings := { d.settings with masks := d.settings.masks.set tok.port m } } := by
  rw [Dev.actSetNoticeMask, h]
  exact if_neg hm

theorem Dev.actSetLocalSite_bad {d : Dev} {n : Nat} (tok : Tok) (h : 15 < n) :
    d.actSetLocalSite tok n = d.refuse tok .badField := if_pos h

theorem Dev.actSetLocalSite_set {d : Dev} {n : Nat} (tok : Tok) (h : n ≤ 15) (hsite : d.settings.localSite ≠ none) :
    d.actSetLocalSite tok n = d.refuse tok .wrongState :=
  (if_neg (Nat.not_lt.2 h)).trans (if_pos (Option.isSome_iff_ne_none.2 hsite))

theorem Dev.actSetLocalSite_new {d : Dev} {n : Nat} (tok : Tok) (h : n ≤ 15) (hsite : d.settings.localSite = none) :
    d.actSetLocalSite tok n = Dev.raiseSettings tok .done { d with settings := { d.settings with localSite := some n } } :=
  (if_neg (Nat.not_lt.2 h)).trans (if_neg (by simp [hsite]))

end Sys2Proof.Machine

/-- Settles O12: each case is a granted command that is answered at once or stores its setting. -/
theorem setNoticeMaskAndSetLocalSite : Obligations.SetNoticeMaskAndSetLocalSite := by
  intro s t p cid hup hf hi d
  refine ⟨fun l _ hbad => ?_, fun m => ⟨fun hm => ?_, fun hm hs => ?_⟩, fun n => ⟨fun hn => ?_, fun hn hsite => ?_, fun hn hsite hs => ?_⟩⟩
  · exact Dev.posted_answered hup hf hi rfl (by nofun) (Dev.actSetNoticeMask_bad _ (maskOf_bad hbad))
  · exact Dev.posted_answered hup hf hi rfl (by nofun) (Dev.actSetNoticeMask_same (maskOf_settings m) hm)
  · exact Dev.posted_stored hup hf hi rfl (by nofun) hs (Dev.actSetNoticeMask_new (maskOf_settings m) hm)
  · exact Dev.posted_answered hup hf hi rfl (by nofun) (Dev.actSetLocalSite_bad _ hn)
  · exact Dev.posted_answered hup hf hi rfl (by nofun) (Dev.actSetLocalSite_set _ hn hsite)
  · exact Dev.posted_stored hup hf hi rfl (by nofun) hs (Dev.actSetLocalSite_new _ hn hsite)

end

section
/-!
SUPPORT and settlement of O15: SET PLACEMENT and SET PLACEMENT MODE (R55, R57).
-/

open Sys2Proof Sys2Proof.Machine

namespace Sys2Proof.Machine

theorem entryOf_fin (n : Fin 48) : entryOf n.val = some n := by revert n; decide

theorem entryOf_outside {n : Nat} (h : 47 < n) : entryOf n = none := dif_neg (by omega)

/-- A set of slots that is not empty names a slot. -/
theorem slotsOf_length_pos {m : BitVec 8} (h : m ≠ 0) : 1 ≤ (slotsOf m).length := by
  revert m
  decide +kernel

/-- R55: the fields of a SET PLACEMENT are out of range. -/
def placementBad (b : SetPlacementBody) : Prop := b.quorum = 0 ∨ (b.enabled = true ∧ b.allSites = false ∧ b.slots = 0)

/-- R55: the quorum is clamped to the set. -/
theorem placementResult_eq {b : SetPlacementBody} (hq : b.quorum ≠ 0) :
    placementResult b =
      { enabled := b.enabled, bucket := b.bucket, mask := b.mask, allSites := b.allSites, slots := b.slots
        quorum :=
          if b.allSites = true then min b.quorum 8
          else if b.slots = 0 then 1 else min (min b.quorum 8) (slotsOf b.slots).length
        hold := b.hold } := by
  unfold placementResult
  congr 1
  split
  · rfl
  split
  · next h =>
    rw [h, show (slotsOf (0 : BitVec 8)).length = 0 from rfl]
    omega
  · next h =>
    have := slotsOf_length_pos h
    omega

theorem Dev.actSetPlacement_bad {d : Dev} {b : SetPlacementBody} (tok : Tok) (h : 47 < b.entry ∨ placementBad b) :
    d.actSetPlacement tok b = d.refuse tok .badField := by
  unfold Dev.actSetPlacement
  split
  · rfl
  · next n hn =>
    rcases h with h | h
    · rw [entryOf_outside h] at hn
      cases hn
    · exact if_pos h

theorem Dev.actSetPlacement_same {d : Dev} {b : SetPlacementBody} {n : Fin 48} (tok : Tok) (hn : b.entry = n.val) (h : ¬ placementBad b)
    (he : placementResult b = d.settings.placement[n]) :
    d.actSetPlacement tok b = d.answer tok .done 0 (.placementEntry (placementResult b)) := by
  rw [Dev.actSetPlacement, hn, entryOf_fin]
  exact (if_neg h).trans (if_pos he)

theorem Dev.actSetPlacement_new {d : Dev} {b : SetPlacementBody} {n : Fin 48} (tok : Tok) (hn : b.entry = n.val) (h : ¬ placementBad b)
    (he : placementResult b ≠ d.settings.placement[n]) :
    d.actSetPlacement tok b =
      Dev.raiseSettings tok (.setPlacement n.val)
        { d with settings := { d.settings with placement := d.settings.placement.set n (placementResult b) } } := by
  rw [Dev.actSetPlacement, hn, entryOf_fin]
  exact (if_neg h).trans (if_neg he)

theorem expiryActionOf_bad {n : Nat} (h : n ≠ 1 ∧ n ≠ 2) : expiryActionOf n = none := by
  unfold expiryActionOf
  split
  · exact absurd rfl h.1
  · exact absurd rfl h.2
  · rfl

theorem expiryActionOf_good {n : Nat} (h : n = 1 ∨ n = 2) :
    expiryActionOf n = some (if n = 1 then .released else .denied) := by
  rcases h with rfl | rfl
  · rfl
  · rfl

theorem Dev.actSetPlacementMode_bad {d : Dev} {b : SetModeBody} (tok : Tok) (h : expiryActionOf b.expiryAction = none) :
    d.actSetPlacementMode tok b = d.refuse tok .badField := by
  rw [Dev.actSetPlacementMode, h]

theorem Dev.actSetPlacementMode_same {d : Dev} {b : SetModeBody} {a : Decision} (tok : Tok)
    (h : expiryActionOf b.expiryAction = some a) (hm : modeResult b a d.settings.mode = d.settings.mode) :
    d.actSetPlacementMode tok b = d.answer tok .done 0 (.modeSettings (modeResult b a d.settings.mode)) := by
  rw [Dev.actSetPlacementMode, h]
  exact if_pos hm

theorem Dev.actSetPlacementMode_new {d : Dev} {b : SetModeBody} {a : Decision} (tok : Tok)
    (h : expiryActionOf b.expiryAction = some a) (hm : modeResult b a d.settings.mode ≠ d.settings.mode) :
    d.actSetPlacementMode tok b =
      Dev.raiseSettings tok .setMode { d with settings := { d.settings with mode := modeResult b a d.settings.mode } } := by
  rw [Dev.actSetPlacementMode, h]
  exact if_neg hm

end Sys2Proof.Machine

/-- Settles O15: each command is refused, answered at once, or stores its setting. -/
theorem placementSettingsAreStored : Obligations.PlacementSettingsAreStored := by
  constructor
  · intro s t p cid b hup hf hi d bad e
    refine ⟨fun hbad => ?_, fun n hn hgood => ?_⟩
    · have h : 47 < b.entry ∨ placementBad b := hbad.imp id (Or.imp id fun ⟨h1, h2, h3⟩ => ⟨h1, h3, h2⟩)
      exact Dev.posted_answered hup hf hi rfl (by nofun) (Dev.actSetPlacement_bad _ h)
    · have h : ¬ placementBad b := fun h => hgood (.inr (Or.imp id (fun ⟨h1, h2, h3⟩ => ⟨h1, h3, h2⟩) h))
      have he : placementResult b = e := placementResult_eq fun hq => hgood (.inr (.inl hq))
      refine ⟨fun hsame => ?_, fun hnew hs => ?_⟩
      · rw [← he]
        exact Dev.posted_answered hup hf hi rfl (by nofun) (Dev.actSetPlacement_same _ hn h (he.trans hsame))
      · rw [← he]
        exact Dev.posted_stored hup hf hi rfl (by nofun) hs (Dev.actSetPlacement_new _ hn h (he ▸ hnew))
  · intro s t p cid b hup hf hi d
    constructor
    · intro hbad
      exact Dev.posted_answered hup hf hi rfl (by nofun) (Dev.actSetPlacementMode_bad _ (expiryActionOf_bad hbad))
    · intro hgood m c
      refine ⟨fun hm => ?_, fun hm hs => ?_⟩
      · exact Dev.posted_answered hup hf hi rfl (by nofun) (Dev.actSetPlacementMode_same _ (expiryActionOf_good hgood) hm)
      · exact Dev.posted_stored hup hf hi rfl (by nofun) hs (Dev.actSetPlacementMode_new _ (expiryActionOf_good hgood) hm)

end

section
/-!
SUPPORT of O11, O14, O18, O27 to O31: a granted command whose rule changes more than the settings, and the records that it places.
-/

open Sys2Proof Sys2Proof.Machine

namespace Sys2Proof.Machine

/-- A record finds the room that the journal and the array give. -/
theorem Dev.canPlace_congr {d e : Dev} {n : Nat} (hj : e.journal = d.journal) (ha : e.array = d.array) (h : d.canPlace n) :
    e.canPlace n := by
  unfold Dev.canPlace Dev.programStalled at *
  rwa [hj, ha]

theorem Dev.canPlaceBoth_congr {d e : Dev} (hj : e.journal = d.journal) (ha : e.array = d.array) (h : d.canPlaceBoth) :
    e.canPlaceBoth := by
  obtain ⟨hplace, hroom⟩ := h
  refine ⟨Dev.canPlace_congr hj ha hplace, ?_⟩
  rwa [hj, ha]

/-- What the placing of a record does to the journal follows from the journal, the array, the clock and the commit delay. -/
theorem Dev.place_congr {d e : Dev} (s : Staged) (hj : e.journal = d.journal) (ha : e.array = d.array) (hn : e.now = d.now)
    (hc : e.settings.commitDelay = d.settings.commitDelay) : (e.place s).1.journal = (d.place s).1.journal := by
  unfold Dev.place Dev.programStalled
  rw [hj, ha, hn, hc]

/-- The part when the records of a granted command have been placed, the journal as given (R12). -/
def Dev.withRecords (tok : Tok) (c : Cont) (j : Journal) (d : Dev) : Dev :=
  { d.setCont tok c with journal := j, intake := { d.intake with grant := none } }

theorem Journal.close_nextSeq (j : Journal) : j.close.nextSeq = j.nextSeq := by
  unfold Journal.close
  split
  · rfl
  · next id _ => cases id <;> rfl

theorem Journal.makeRoom_nextSeq (n : Nat) (j : Journal) : (j.makeRoom n).nextSeq = j.nextSeq := by
  unfold Journal.makeRoom
  split
  · split
    · rfl
    · exact j.close_nextSeq
  · rfl

/-- R9: a record that is placed takes no sequence. -/
theorem Dev.place_nextSeq (s : Staged) (d : Dev) : (d.place s).1.journal.nextSeq = d.journal.nextSeq := by
  cases h : d.programStalled with
  | true => rw [Dev.place_stalled s h]
  | false =>
    rw [Dev.place_journal s h]
    unfold Journal.place
    dsimp only
    split
    · exact Journal.makeRoom_nextSeq _ _
    · next id _ => cases id <;> exact Journal.makeRoom_nextSeq s.item.size d.journal

/-- R156: the level follows from the array, the next sequence and the settings. -/
theorem Dev.level_withRecords (tok : Tok) (c : Cont) (s : Staged) (d : Dev) :
    (d.withRecords tok c (d.place s).1.journal).level = d.level := by
  have hseq := Dev.place_nextSeq s d
  have hlowest : (d.withRecords tok c (d.place s).1.journal).lowest = d.lowest := congrArg (fun n => Option.getD _ n) hseq
  have hheadroom : (d.withRecords tok c (d.place s).1.journal).headroom = d.headroom := by
    unfold Dev.headroom
    rw [hlowest, show (d.withRecords tok c (d.place s).1.journal).journal.nextSeq = _ from hseq]
  unfold Dev.level
  rw [hheadroom]
  rfl

section Granted

variable {s : State} {t : Time} {p : PortId} {cid : Word32} {b : CmdBody} (hup : s.dev.up) (hf : s.dev.portFree p)
  (hi : s.dev.intakeFree) (ha : usesArbiter b = true) (hn : ∀ x, b ≠ .append x)
include hup hf hi ha hn

/-- A granted command that places one record. -/
theorem Dev.posted_recorded {e : Dev} {c : Cont} {r : Rec}
    (hact : ((s.dev.tick t).grantTaken p ⟨cid, b⟩).act (s.dev.nextTok p) .none b = e.raiseOwn (s.dev.nextTok p) c [r])
    (hp : e.part = .ready) (hc : e.journal.ctrlQ = []) (hs : e.canPlace r.size) :
    s.goOn (Dev.posted t p cid b) =
      .next { s with dev :=
        (e.withRecords (s.dev.nextTok p) c (e.place ⟨r, some (s.dev.nextTok p)⟩).1.journal).settle } := by
  rw [Dev.posted_granted cid b hup hf hi ha hn]
  have h := Dev.one_record (tok := s.dev.nextTok p) (c := c) hp hc hs
  exact congrArg (fun d : Dev => Host.Outcome.next { s with dev := d.settle }) ((congrArg Dev.grantedNow hact).trans h)

/-- A granted command that places a SETTINGS record and a SITE-EVENT record. -/
theorem Dev.posted_recorded_two {e : Dev} {c : Cont} {r1 r2 : Rec}
    (hact : ((s.dev.tick t).grantTaken p ⟨cid, b⟩).act (s.dev.nextTok p) .none b = e.raiseOwn (s.dev.nextTok p) c [r1, r2])
    (h1 : r1.size = 1536) (h2 : r2.size = 32) (hp : e.part = .ready) (hc : e.journal.ctrlQ = [])
    (hb : e.journal.buffersOk = true) (hs : e.canPlaceBoth) :
    s.goOn (Dev.posted t p cid b) =
      .next { s with dev :=
        (e.withRecords (s.dev.nextTok p) c
          ((e.place ⟨r1, some (s.dev.nextTok p)⟩).1.place ⟨r2, some (s.dev.nextTok p)⟩).1.journal).settle } := by
  rw [Dev.posted_granted cid b hup hf hi ha hn]
  have h := Dev.two_records (tok := s.dev.nextTok p) (c := c) h1 h2 hp hc hb hs
  exact congrArg (fun d : Dev => Host.Outcome.next { s with dev := d.settle }) ((congrArg Dev.grantedNow hact).trans h)

end Granted

/-- The command that a port has just taken, and what its answer will be made from. -/
theorem Dev.setCont_taken {d : Dev} {p : PortId} {x : Taken} (c : Cont) (h : d.ports[p].taken = [x]) :
    (d.setCont ⟨p, x.id⟩ c).ports[p].taken = [{ x with cont := c }] := by
  rw [Dev.setCont, Dev.modTaken, Dev.modPort_self, h]
  simp

theorem Dev.setCont_port (d : Dev) (tok : Tok) (c : Cont) (q : PortId) :
    { (d.setCont tok c).ports[q] with taken := d.ports[q].taken } = d.ports[q] := by
  rw [Dev.setCont, Dev.modTaken, Dev.modPort_port]
  split <;> rfl

/-- R169: a notice joins the queue by the queue's length and the number that comes next. -/
theorem Port.addNotice_noticeQ_congr {x y : Port} (hq : x.noticeQ = y.noticeQ) (hn : x.noticeNumber = y.noticeNumber) (r : Bool)
    (b : NoticeBody) : (x.addNotice r b).noticeQ = (y.addNotice r b).noticeQ := by
  unfold Port.addNotice
  rw [hq, hn]
  split <;> rfl

/-- An idle port's command, granted and taken. -/
theorem Dev.grantTaken_taken {d : Dev} {p : PortId} (r : CmdRec) (h : d.portIdle p) :
    (d.grantTaken p r).ports[p].taken = [{ id := d.nextToken, cid := r.cid, kind := kindCode r.body }] := by
  obtain ⟨_, htaken, _, _⟩ := h
  rw [Dev.grantTaken, Dev.take_port_self]
  exact congrArg (· ++ _) htaken

theorem Dev.grantTaken_port {d : Dev} {p : PortId} (r : CmdRec) (h : d.portIdle p) (q : PortId) :
    { (d.grantTaken p r).ports[q] with taken := d.ports[q].taken } = d.ports[q] := by
  rw [Dev.grantTaken]
  by_cases hq : q = p
  · subst hq
    obtain ⟨hcmd, htaken, hlookup, _⟩ := h
    rw [Dev.take_port_self, htaken]
    exact Port.idle_eq hcmd htaken hlookup
  · rw [Dev.take_port_other _ _ _ _ _ hq]

end Sys2Proof.Machine
end

section
/-!
SUPPORT and settlement of O14: SET GUARD MAP and SET PRESSURE LIMITS (R156, R161, R162).
-/

open Sys2Proof Sys2Proof.Machine

namespace Sys2Proof.Machine

theorem Dev.actSetGuardMap_guarded {d : Dev} (tok : Tok) (m : Word64) (h : d.guard.filtered = true) :
    d.actSetGuardMap tok m = d.refuse tok .guardLine := if_pos h

theorem Dev.actSetGuardMap_same {d : Dev} {m : Word64} (tok : Tok) (h : d.guard.filtered = false) (hm : m = d.settings.guardMap) :
    d.actSetGuardMap tok m = d.answer tok .done 0 (.guardMap m) :=
  (if_neg (by rw [h]; exact Bool.false_ne_true)).trans (if_pos hm)

theorem Dev.actSetGuardMap_new {d : Dev} {m : Word64} (tok : Tok) (h : d.guard.filtered = false) (hm : m ≠ d.settings.guardMap) :
    d.actSetGuardMap tok m = Dev.raiseSettings tok .guardMap { d with settings := { d.settings with guardMap := m } } :=
  (if_neg (by rw [h]; exact Bool.false_ne_true)).trans (if_neg hm)

/-! ## R156: what follows F and the level -/

/-- R156, R158: F at or below the low watermark, while the flag is armed. -/
def Dev.Warns (d : Dev) : Prop := d.free ≤ d.settings.lowWatermark ∧ d.reclaim.armed = true

/-- The first part of `watchPressure`: the armed flag and the LOW_WATERMARK notice. -/
def Dev.watchFree (d : Dev) : Dev :=
  if d.free ≤ d.settings.lowWatermark then
    if d.reclaim.armed then
      (d.modReclaim fun r => { r with armed := false }).pressureNotice
        (.lowWatermark d.free d.headroom d.level d.settings.lowWatermark d.settings.criticalReserve)
    else d
  else if d.reclaim.armed then d else d.modReclaim fun r => { r with armed := true }

/-- The second part: the last blocked notice stands while the level is CRITICAL. -/
def Dev.watchLevel (d : Dev) : Dev :=
  if d.level ≠ .critical ∧ d.reclaim.lastBlocked.isSome = true then d.modReclaim fun r => { r with lastBlocked := none } else d

theorem Dev.watchPressure_eq (d : Dev) : d.watchPressure = d.watchFree.watchLevel := rfl

theorem Dev.watchFree_rest (d : Dev) : { d.watchFree with ports := d.ports, reclaim := d.reclaim } = d := by
  unfold Dev.watchFree
  split
  · split
    · exact congrArg (fun e : Dev => { e with reclaim := d.reclaim })
        (Dev.pressureNotice_rest (d.modReclaim fun r => { r with armed := false }) _)
    · rfl
  · split <;> rfl

theorem Dev.watchPressure_rest (d : Dev) : { d.watchPressure with ports := d.ports, reclaim := d.reclaim } = d := by
  rw [Dev.watchPressure_eq]
  unfold Dev.watchLevel
  split
  · exact congrArg (fun e : Dev => { e with reclaim := d.reclaim }) d.watchFree_rest
  · exact d.watchFree_rest

theorem Dev.watchFree_port (d : Dev) (q : PortId) :
    d.watchFree.ports[q] =
      if d.free ≤ d.settings.lowWatermark ∧ d.reclaim.armed = true ∧ d.ports[q].state = .online then
        d.ports[q].addNotice false
          (.lowWatermark d.free d.headroom d.level d.settings.lowWatermark d.settings.criticalReserve)
      else d.ports[q] := by
  unfold Dev.watchFree
  split
  · next hfree =>
    split
    · next harmed =>
      refine (Dev.broadcast_port (d.modReclaim fun r => { r with armed := false }) _ q).trans ?_
      simp only [hfree, harmed, true_and]
      rfl
    · next harmed => exact (if_neg fun h => harmed h.2.1).symm
  · next hfree =>
    refine Eq.trans ?_ (if_neg fun h => hfree h.1).symm
    split <;> rfl

theorem Dev.watchPressure_port (d : Dev) (q : PortId) :
    d.watchPressure.ports[q] =
      if d.free ≤ d.settings.lowWatermark ∧ d.reclaim.armed = true ∧ d.ports[q].state = .online then
        d.ports[q].addNotice false
          (.lowWatermark d.free d.headroom d.level d.settings.lowWatermark d.settings.criticalReserve)
      else d.ports[q] := by
  rw [← Dev.watchFree_port, Dev.watchPressure_eq]
  unfold Dev.watchLevel
  split <;> rfl

theorem Dev.watchFree_armed (d : Dev) : d.watchFree.reclaim.armed = decide (d.settings.lowWatermark < d.free) := by
  unfold Dev.watchFree
  split
  · next hfree =>
    rw [decide_eq_false (Nat.not_lt.2 hfree)]
    split
    · exact (congrArg (fun e : Dev => e.reclaim.armed) (Dev.broadcast_rest (d.modReclaim fun r => { r with armed := false }) _) :)
    · next harmed => exact Bool.eq_false_iff.2 harmed
  · next hfree =>
    rw [decide_eq_true (Nat.not_le.1 hfree)]
    split
    · assumption
    · rfl

theorem Dev.watchPressure_armed (d : Dev) : d.watchPressure.reclaim.armed = decide (d.settings.lowWatermark < d.free) := by
  rw [← Dev.watchFree_armed, Dev.watchPressure_eq]
  unfold Dev.watchLevel
  split <;> rfl

theorem Dev.watchFree_lastBlocked (d : Dev) : d.watchFree.reclaim.lastBlocked = d.reclaim.lastBlocked := by
  unfold Dev.watchFree
  split
  · split
    · exact (congrArg (fun e : Dev => e.reclaim.lastBlocked)
        (Dev.broadcast_rest (d.modReclaim fun r => { r with armed := false }) _) :)
    · rfl
  · split <;> rfl

theorem Dev.watchPressure_lastBlocked (d : Dev) :
    d.watchPressure.reclaim.lastBlocked = if d.level = .critical then d.reclaim.lastBlocked else none := by
  have hlevel : d.watchFree.level = d.level := (congrArg Dev.level d.watchFree_rest :)
  have hblocked := d.watchFree_lastBlocked
  rw [Dev.watchPressure_eq]
  unfold Dev.watchLevel
  rw [hlevel]
  by_cases hcritical : d.level = .critical
  · rw [if_neg fun h => h.1 hcritical, if_pos hcritical, hblocked]
  · rw [if_neg hcritical]
    split
    · rfl
    · next hnone => simpa [hcritical] using hnone

/-! ## SET PRESSURE LIMITS -/

theorem Dev.actSetPressureLimits_same {d : Dev} {lw cr w r : Nat} (tok : Tok) (h : pressureLimits d.settings lw cr = (w, r))
    (hw : w = d.settings.lowWatermark) (hr : r = d.settings.criticalReserve) :
    d.actSetPressureLimits tok lw cr = d.answer tok .done 0 (.pressure w r d.level) := by
  rw [Dev.actSetPressureLimits, h, hw, hr]
  exact if_pos ⟨rfl, rfl⟩

theorem Dev.actSetPressureLimits_new {d e : Dev} {lw cr w r : Nat} (tok : Tok) (h : pressureLimits d.settings lw cr = (w, r))
    (hne : w ≠ d.settings.lowWatermark ∨ r ≠ d.settings.criticalReserve)
    (he : e = { d with settings := { d.settings with lowWatermark := w, criticalReserve := r } }) :
    d.actSetPressureLimits tok lw cr = e.watchPressure.raiseSettings tok .pressure := by
  rw [Dev.actSetPressureLimits, h, he]
  exact if_neg (by tauto)

end Sys2Proof.Machine

/-- Settles O14: the stored limits decide the level, the armed flag and the notice in the event of the grant. -/
theorem guardMapAndPressureLimitsStore : Obligations.GuardMapAndPressureLimitsStore := by
  constructor
  · intro s t p cid m hup hf hi d c
    refine ⟨fun hg => ?_, fun hg hm => ?_, fun hg hm hs => ?_⟩
    · exact Dev.posted_answered hup hf hi rfl (by nofun) (Dev.actSetGuardMap_guarded _ m hg)
    · exact Dev.posted_answered hup hf hi rfl (by nofun) (Dev.actSetGuardMap_same _ hg hm)
    · exact Dev.posted_stored hup hf hi rfl (by nofun) hs (Dev.actSetGuardMap_new _ hg hm)
  · intro s t p cid lw cr hup hf hi d r w level
    have hlimits : pressureLimits s.dev.settings lw cr = (w, r) := rfl
    constructor
    · intro hw hr
      have h := Dev.posted_answered (t := t) (cid := cid) (b := .setPressureLimits lw cr) hup hf hi rfl (by nofun)
        (Dev.actSetPressureLimits_same (s.dev.nextTok p) hlimits hw hr)
      refine h.trans ?_
      rw [show level = s.dev.level from by simp only [level, hw, hr]; rfl]
      rfl
    · intro hne hs c
      obtain ⟨e, he⟩ : ∃ e : Dev, e = { d.grantTaken p ⟨cid, .setPressureLimits lw cr⟩ with settings := c } := ⟨_, rfl⟩
      have hport (q : PortId) : { e.ports[q] with taken := s.dev.ports[q].taken } = s.dev.ports[q] :=
        he ▸ Dev.grantTaken_port (d := d) _ hf.2 q
      have htaken : e.ports[p].taken = [{ id := s.dev.nextToken, cid := cid, kind := 26 }] :=
        he ▸ Dev.grantTaken_taken (d := d) _ hf.2
      have hact := Dev.actSetPressureLimits_new (d := d.grantTaken p ⟨cid, .setPressureLimits lw cr⟩) (s.dev.nextTok p) hlimits hne he
      have hfree : e.free = s.dev.free := by rw [he]; rfl
      have hheadroom : e.headroom = s.dev.headroom := by rw [he]; rfl
      have hlevel : e.level = level := by rw [he]; rfl
      have harmed : e.reclaim = s.dev.reclaim := by rw [he]; rfl
      have hlimited : e.settings = c := by rw [he]
      have hold : { e with ports := d.ports, settings := d.settings, nextToken := d.nextToken, intake := d.intake } = d := by
        rw [he]; rfl
      have hnotices := e.watchPressure_port
      have harmed' := e.watchPressure_armed
      have hblocked := e.watchPressure_lastBlocked
      have hwatched := e.watchPressure_rest
      generalize e.watchPressure = u at *
      have hsettings : u.settings = c := (congrArg Dev.settings hwatched :).trans hlimited
      have hjournal : u.journal = s.dev.journal := (congrArg Dev.journal hwatched :).trans (congrArg Dev.journal hold :)
      have harray : u.array = s.dev.array := (congrArg Dev.array hwatched :).trans (congrArg Dev.array hold :)
      have hnow : u.now = d.now := (congrArg Dev.now hwatched :).trans (congrArg Dev.now hold :)
      have hpart : u.part = .ready := ((congrArg Dev.part hwatched :).trans (congrArg Dev.part hold :)).trans hup.2
      have hctrl : u.journal.ctrlQ = [] := hjournal ▸ hi.2.1
      have hnext := Dev.posted_recorded (t := t) (cid := cid) (b := .setPressureLimits lw cr) (e := u) (c := .pressure)
        (r := .settings u.settings) hup hf hi rfl (by nofun) hact hpart hctrl (Dev.canPlace_congr hjournal harray hs)
      refine ⟨_, hnext, hsettings, ?level, ?armed, ?blocked, fun q => ?notice, ?journal, ?taken, ?sites, harray, ?status⟩
      case level =>
        exact (Dev.level_withRecords _ _ _ u).trans ((congrArg Dev.level hwatched :).trans hlevel)
      case armed => exact harmed'.trans (by rw [hlimited, hfree])
      case blocked => exact hblocked.trans (by rw [hlevel, harmed])
      case notice =>
        have hq : (u.setCont (s.dev.nextTok p) .pressure).ports[q].noticeQ = u.ports[q].noticeQ :=
          (congrArg Port.noticeQ (u.setCont_port (s.dev.nextTok p) .pressure q) :)
        refine hq.trans ?_
        have hqueue : e.ports[q].noticeQ = s.dev.ports[q].noticeQ := (congrArg Port.noticeQ (hport q) :)
        have hnumber : e.ports[q].noticeNumber = s.dev.ports[q].noticeNumber := (congrArg Port.noticeNumber (hport q) :)
        have hstate : e.ports[q].state = s.dev.ports[q].state := (congrArg Port.state (hport q) :)
        rw [hnotices, hfree, hheadroom, hlevel, harmed, hlimited, hstate]
        split
        · exact Port.addNotice_noticeQ_congr hqueue hnumber _ _
        · exact hqueue
      case journal =>
        rw [hsettings]
        exact Dev.place_congr _ hjournal harray hnow (congrArg Settings.commitDelay hsettings :)
      case taken =>
        refine Dev.setCont_taken (x := { id := s.dev.nextToken, cid := cid, kind := 26 }) .pressure ?_
        rw [hnotices]
        split
        · exact (congrArg Port.taken (Port.addNotice_same _ _ _) :).trans htaken
        · exact htaken
      case sites => exact (congrArg Dev.sites hwatched :).trans (congrArg Dev.sites hold :)
      case status => exact (congrArg Dev.status hwatched :).trans (congrArg Dev.status hold :)

end

section
/-!
SUPPORT and settlement of O16: the placement of a bucket (R46, R47) and READ PLACEMENT (R56).
-/

open Sys2Proof Sys2Proof.Machine

namespace Sys2Proof.Machine

theorem getLsbD_slotBit (k j : SlotId) : (1 <<< k.val : BitVec 8).getLsbD j.val = true ↔ j = k := by
  revert j k
  decide +kernel

/-- R198: the bits of a set of slots. -/
theorem getLsbD_foldl_slots (l : List SlotId) (m : SlotSet) (j : SlotId) :
    (l.foldl (fun s j => s ||| (1 <<< j.val : BitVec 8)) m).getLsbD j.val = true ↔ m.getLsbD j.val = true ∨ j ∈ l := by
  induction l generalizing m with
  | nil => simp
  | cons k t ih =>
    rw [List.foldl_cons, ih, BitVec.getLsbD_or, Bool.or_eq_true, getLsbD_slotBit, List.mem_cons, or_assoc]

theorem mem_setOfSlots (l : List SlotId) (j : SlotId) : (setOfSlots l).getLsbD j.val = true ↔ j ∈ l := by
  have h := getLsbD_foldl_slots l 0 j
  simpa [setOfSlots] using h

theorem mem_slotsOf (m : SlotSet) (j : SlotId) : j ∈ slotsOf m ↔ m.getLsbD j.val = true := by
  simp [slotsOf]

/-- A set of slots, given in their order, names these slots. -/
theorem slotsOf_setOfSlots (f : SlotId → Bool) : slotsOf (setOfSlots ((List.finRange 8).filter f)) = (List.finRange 8).filter f := by
  unfold slotsOf
  refine List.filter_congr fun j hj => ?_
  rw [Bool.eq_iff_iff, mem_setOfSlots, List.mem_filter]
  exact and_iff_right hj

theorem allSlots_eq_finRange : allSlots = List.finRange 8 := by decide

/-- R46: a slot that takes part in a placement is not DETACHED and not EVICTED. -/
theorem Dev.placeable_iff (d : Dev) (j : SlotId) :
    d.placeable j = true ↔ ¬ (d.sites[j].state = .detached ∨ d.sites[j].state = .evicted) := by
  simp [Dev.placeable, Dev.siteState]

/-- R46, R47: the set is that of the slots listed that are placeable, and the quorum is clamped to its size. -/
theorem Dev.placed_set (d : Dev) (n : Option Nat) (f : SlotId → Bool) (q : Nat) (h : Bool) :
    (d.placed n ((List.finRange 8).filter f) q h).quorum =
        min q (slotsOf (d.placed n ((List.finRange 8).filter f) q h).set).length ∧
      ∀ j : SlotId, (d.placed n ((List.finRange 8).filter f) q h).set.getLsbD j.val = true ↔
        f j = true ∧ ¬ (d.sites[j].state = .detached ∨ d.sites[j].state = .evicted) := by
  have hslots : ((List.finRange 8).filter f).filter d.placeable = (List.finRange 8).filter fun j => d.placeable j && f j :=
    List.filter_filter
  unfold Dev.placed
  dsimp only
  rw [hslots, slotsOf_setOfSlots]
  refine ⟨rfl, fun j => ?_⟩
  rw [mem_setOfSlots, List.mem_filter, Bool.and_eq_true, Dev.placeable_iff]
  simp [and_comm]

theorem entrySlots_eq (e : PlacementEntry) :
    (if e.allSites then allSlots else slotsOf e.slots) =
      (List.finRange 8).filter fun j => e.allSites || e.slots.getLsbD j.val := by
  cases h : e.allSites with
  | true => simp [allSlots_eq_finRange]
  | false => simp [slotsOf]

/-! ## READ PLACEMENT -/

theorem Dev.actReadPlacement_entry {d : Dev} {b : ReadPlacementBody} {n : Fin 48} (tok : Tok) (hs : b.selector = 1)
    (hn : b.entry = n.val) : d.actReadPlacement tok b = d.answer tok .done 0 (.placementEntry d.settings.placement[n]) := by
  unfold Dev.actReadPlacement
  rw [hs, hn, entryOf_fin]
  rfl

theorem Dev.actReadPlacement_bad {d : Dev} {b : ReadPlacementBody} (tok : Tok)
    (h : (b.selector = 1 ∧ 47 < b.entry) ∨ b.selector = 0 ∨ 3 < b.selector) :
    d.actReadPlacement tok b = d.refuse tok .badField := by
  unfold Dev.actReadPlacement
  rcases h with ⟨hs, he⟩ | hs
  · rw [hs, entryOf_outside he]
    rfl
  · split
    · omega
    · omega
    · omega
    · rfl

theorem Dev.actReadPlacement_mode {d : Dev} {b : ReadPlacementBody} (tok : Tok) (hs : b.selector = 2) :
    d.actReadPlacement tok b = d.answer tok .done 0 d.modeReport := by
  unfold Dev.actReadPlacement
  rw [hs]
  rfl

theorem Placement.notPlaced_iff (pl : Placement) : pl.notPlaced = true ↔ pl.deciding = none ∨ pl.set = 0 := by
  simp [Placement.notPlaced]

theorem Dev.actReadPlacement_probe {d : Dev} {b : ReadPlacementBody} (tok : Tok) (hs : b.selector = 3) :
    d.actReadPlacement tok b =
      d.answer tok .done (if (d.placement b.bucket).deciding = none ∨ (d.placement b.bucket).set = 0 then 1 else 0)
        (.probe (d.placement b.bucket).deciding (d.placement b.bucket).set (d.placement b.bucket).quorum
          (d.placement b.bucket).held) := by
  unfold Dev.actReadPlacement
  rw [hs]
  dsimp only
  simp only [Placement.notPlaced_iff]
  rfl

/-- R56: the counts of the mode report. -/
theorem Dev.modeReport_eq (d : Dev) :
    d.modeReport =
      (let count (f : HeldState → Bool) : Nat := (d.held.entries.filter fun e => f e.state).length
      .placementMode d.settings.mode (count fun x => x == .staged)
        (count fun x => match x with | .waiting _ => true | _ => false)
        (count fun x => match x with | .deciding .. => true | _ => false)
        (minOf (d.held.entries.filterMap fun e => match e.state with | .waiting t => t | _ => none))
        d.held.overflow) := by
  have hstaged : HeldState.isStaged = fun x => x == .staged := by
    funext x
    cases x <;> rfl
  have hwaiting : HeldState.isWaiting = fun x => match x with | .waiting _ => true | _ => false := by
    funext x
    cases x <;> rfl
  have hdeciding : HeldState.isDeciding = fun x => match x with | .deciding .. => true | _ => false := by
    funext x
    cases x <;> rfl
  have hdeadline : (fun e : HeldEntry => e.state.deadline) = fun e => match e.state with | .waiting t => t | _ => none := by
    funext e
    unfold HeldState.deadline
    cases e.state <;> rfl
  unfold Dev.modeReport
  rw [hstaged, hwaiting, hdeciding, hdeadline]

end Sys2Proof.Machine

/-- Settles O16: the placement is that of the deciding entry, of MIRROR-ALL, or none; the command reports it. -/
theorem placementIsDecidedAndReported : Obligations.PlacementIsDecidedAndReported := by
  constructor
  · intro d bucket pl out
    refine ⟨fun n hn => ?_, fun hn hmirror => ?_, fun hn hmirror => ?_⟩
    · have hpl : pl = d.placed (some n.val) (if d.settings.placement[n].allSites then allSlots else slotsOf d.settings.placement[n].slots)
          d.settings.placement[n].quorum d.settings.placement[n].hold := by
        simp only [pl, Dev.placement, hn]
      rw [hpl, entrySlots_eq]
      obtain ⟨hquorum, hset⟩ := d.placed_set (some n.val)
        (fun j => d.settings.placement[n].allSites || d.settings.placement[n].slots.getLsbD j.val) d.settings.placement[n].quorum
        d.settings.placement[n].hold
      refine ⟨rfl, rfl, hquorum, fun j => (hset j).trans ?_⟩
      rw [Bool.or_eq_true]
    · have hpl : pl = d.placed none ((List.finRange 8).filter fun _ => true) d.settings.mode.defaultQuorum false := by
        simp only [pl, Dev.placement, hn, hmirror, if_true, allSlots_eq_finRange, List.filter_true]
      rw [hpl]
      obtain ⟨hquorum, hset⟩ := d.placed_set none (fun _ => true) d.settings.mode.defaultQuorum false
      exact ⟨rfl, rfl, hquorum, fun j => (hset j).trans (and_iff_right rfl)⟩
    · have hpl : pl = ⟨none, 0, 0, false⟩ := by simp only [pl, Dev.placement, hn, hmirror]; rfl
      rw [hpl]
      exact ⟨rfl, rfl⟩
  · intro s t p cid b hup hf d count pl
    refine ⟨fun n hs hn => ?_, fun hbad => ?_, fun hs => ?_, fun hs => ?_⟩
    · exact Dev.posted_replies hup hf rfl (Dev.actReadPlacement_entry _ hs hn)
    · exact Dev.posted_replies hup hf rfl (Dev.actReadPlacement_bad _ hbad)
    · refine Dev.posted_replies hup hf rfl ((Dev.actReadPlacement_mode _ hs).trans ?_)
      rw [Dev.modeReport_eq]
      rfl
    · exact Dev.posted_replies hup hf rfl (Dev.actReadPlacement_probe _ hs)

end

section
/-!
SUPPORT and settlement of O21: the round-trip estimate, the intervals and the window (R98 to R102).
-/

open Sys2Proof Sys2Proof.Machine

namespace Sys2Proof.Machine

theorem clampSample_eq (n : Nat) : clampSample n = max 100 (min 4000000 (n : Int)) := by
  unfold clampSample clamp
  omega

theorem rttAfter_some (srtt rttvar S : Int) :
    rttAfter (some (srtt, rttvar)) S = (srtt + (S - srtt).tdiv 8, rttvar + (|S - srtt| - rttvar).tdiv 4) := by
  have hdev : |S - srtt| = if S ≤ srtt then srtt - S else S - srtt := by
    split
    · next h => rw [abs_of_nonpos (by omega)]; omega
    · next h => exact abs_of_nonneg (by omega)
  rw [hdev]
  rfl

/-- R99: a value moved toward another by a part of the distance, truncated, stays between bounds of both. -/
theorem tdiv_step_bounds {a b n lo hi : Int} (hn : 1 ≤ n) (hla : lo ≤ a) (hah : a ≤ hi) (hlb : lo ≤ b) (hbh : b ≤ hi) :
    lo ≤ a + (b - a).tdiv n ∧ a + (b - a).tdiv n ≤ hi := by
  rcases le_total a b with h | h
  · have hlow : 0 ≤ (b - a).tdiv n := Int.tdiv_nonneg (by omega) (by omega)
    have hhigh : (b - a).tdiv n ≤ b - a := Int.tdiv_le_self n (by omega)
    omega
  · have hneg : (b - a).tdiv n = -(a - b).tdiv n := by rw [← Int.neg_tdiv, Int.neg_sub]
    have hlow : 0 ≤ (a - b).tdiv n := Int.tdiv_nonneg (by omega) (by omega)
    have hhigh : (a - b).tdiv n ≤ a - b := Int.tdiv_le_self n (by omega)
    omega

theorem rttAfter_bounds {srtt rttvar S : Int} (h1 : 0 ≤ srtt) (h2 : srtt ≤ 4000000) (h3 : 0 ≤ rttvar) (h4 : rttvar ≤ 4000000)
    (h5 : 100 ≤ S) (h6 : S ≤ 4000000) :
    0 ≤ (rttAfter (some (srtt, rttvar)) S).1 ∧ (rttAfter (some (srtt, rttvar)) S).1 ≤ 4000000 ∧
      0 ≤ (rttAfter (some (srtt, rttvar)) S).2 ∧ (rttAfter (some (srtt, rttvar)) S).2 ≤ 4000000 := by
  have hdev : |S - srtt| ≤ 4000000 := abs_le.2 ⟨by omega, by omega⟩
  obtain ⟨hs, hs'⟩ := tdiv_step_bounds (n := 8) (by omega) h1 h2 (show 0 ≤ S by omega) h6
  obtain ⟨hv, hv'⟩ := tdiv_step_bounds (n := 4) (by omega) h3 h4 (abs_nonneg (S - srtt)) hdev
  rw [rttAfter_some]
  exact ⟨hs, hs', hv, hv'⟩

theorem rtoOf_pos (r : Option (Int × Int)) : 0 ≤ rtoOf r := by
  cases r with
  | none => decide
  | some x => exact le_trans (by decide) (le_max_left _ _)

theorem intervalOf_eq (r : Option (Int × Int)) (k : Nat) : (intervalOf r k : Int) = min (rtoOf r * 2 ^ (k - 1)) 8000000 :=
  Int.toNat_of_nonneg (le_min (Int.mul_nonneg (rtoOf_pos r) (by positivity)) (by decide))

/-- The two ways to write a division that is rounded up. -/
theorem add_pred_div {p : Nat} (q : Nat) (hp : 0 < p) : (q + (p - 1)) / p = if q % p = 0 then q / p else q / p + 1 := by
  have hq : q = p * (q / p) + q % p := (Nat.div_add_mod q p).symm
  have hr : q % p < p := Nat.mod_lt q hp
  have hsplit : (q + (p - 1)) / p = q / p + (q % p + (p - 1)) / p := by
    conv_lhs => rw [hq, Nat.add_assoc, Nat.mul_add_div hp]
  rw [hsplit]
  split
  · next h => rw [h, Nat.div_eq_of_lt (show 0 + (p - 1) < p by omega), Nat.add_zero]
  · next h =>
    have : (q % p + (p - 1)) / p = 1 := Nat.div_eq_of_lt_le (by omega) (by omega : q % p + (p - 1) < (1 + 1) * p)
    rw [this]

theorem Dev.window_unpaced {d : Dev} {j : SlotId} (h : (d.config j).mode = .unpaced) : d.window j = (d.config j).maxWindow := by
  rw [Dev.window, h]

theorem Dev.window_paced {d : Dev} {j : SlotId} (h : (d.config j).mode = .paced) :
    d.window j = pacedWindow (d.add j) d.settings.gens[(d.config j).gen].period d.sites[j].rtt := by
  rw [Dev.window, h]

/-- R102: the window by the smoothed round-trip time, which is 200,000 before the first sample. -/
theorem pacedWindow_eq {r : Option (Int × Int)} {srtt : Nat} (a : Nat) {p : Nat} (hp : 0 < p)
    (h : r = none ∧ srtt = 200000 ∨ ∃ v, r = some ((srtt : Int), v)) :
    pacedWindow a p r =
      max 65536 (min 67108864
        (if a * srtt * 5 % (4 * p) = 0 then a * srtt * 5 / (4 * p) else a * srtt * 5 / (4 * p) + 1)) := by
  rw [← add_pred_div _ (show 0 < 4 * p by omega)]
  rcases h with ⟨rfl, rfl⟩ | ⟨v, rfl⟩ <;> rfl

end Sys2Proof.Machine

/-- Settles O21: the clamps are read off, the estimate moves toward the sample by a part of the distance, and the window is the
division rounded up. -/
theorem roundTripEstimateAndIntervals : Obligations.RoundTripEstimateAndIntervals := by
  refine ⟨clampSample_eq, fun S => rfl, fun srtt rttvar S => ⟨rttAfter_some srtt rttvar S, ?bounds⟩, rfl, fun _ _ => rfl,
    fun r k _ _ => intervalOf_eq r k, fun d j srtt hmode hrtt hp => ?paced, fun d j => Dev.window_unpaced⟩
  case bounds =>
    intro h1 h2 h3 h4 h5 h6
    exact rttAfter_bounds h1 h2 h3 h4 h5 h6
  case paced => exact (Dev.window_paced hmode).trans (pacedWindow_eq _ hp hrtt)

end

section
/-!
SUPPORT and settlement of O57: the reset state.
-/

open Sys2Proof Sys2Proof.Machine

namespace Sys2Proof.Machine

/-- R43: before the first segment is opened, every segment is BLANK. -/
theorem Dev.reset_seg (n : Nat) : (Dev.reset.seg n).state = .blank := rfl

end Sys2Proof.Machine

/-- Settles O57: each part of the reset state is read off; the tables are looked up at every index. -/
theorem resetIsTheEndOfAFirstStart : Obligations.ResetIsTheEndOfAFirstStart := by
  refine ⟨rfl, rfl, rfl, rfl, rfl, rfl, rfl, rfl, by decide, by decide, by decide, rfl, rfl, rfl,
    by decide, rfl, Dev.reset_seg, by decide, rfl, rfl, rfl, rfl, rfl, rfl, rfl, rfl, rfl, rfl, rfl, rfl, rfl, rfl, by decide, rfl,
    by decide, by decide, by decide, by decide⟩

end

section
/-!
SUPPORT and settlement of O18: SET GENERATOR and SET SITE PACING (R104 to R106).
-/

open Sys2Proof Sys2Proof.Machine

namespace Sys2Proof.Machine

/-! ## A granted command that changes more than the settings -/

/-- What the placing of a record depends on is as it was. -/
structure Dev.PlacesAs (e d : Dev) : Prop where
  part : e.part = d.part
  journal : e.journal = d.journal
  array : e.array = d.array
  now : e.now = d.now
  commitDelay : e.settings.commitDelay = d.settings.commitDelay

theorem Dev.PlacesAs.place_journal {e d : Dev} (h : e.PlacesAs d) (x : Staged) :
    (e.place x).1.journal = (d.place x).1.journal :=
  Dev.place_congr x h.journal h.array h.now h.commitDelay

/-- R12: a granted command whose rule leaves what the placing depends on, and places one record. -/
theorem Dev.posted_placed {s : State} {t : Time} {p : PortId} {cid : Word32} {b : CmdBody} (hup : s.dev.up)
    (hf : s.dev.portFree p) (hi : s.dev.intakeFree) (ha : usesArbiter b = true) (hn : ∀ x, b ≠ .append x) {e : Dev} {c : Cont}
    {r : Rec} (hs : s.dev.canPlace r.size)
    (hact : ((s.dev.tick t).grantTaken p ⟨cid, b⟩).act (s.dev.nextTok p) .none b = e.raiseOwn (s.dev.nextTok p) c [r])
    (he : e.PlacesAs (s.dev.tick t)) :
    s.goOn (Dev.posted t p cid b) =
      .next { s with dev :=
        (e.withRecords (s.dev.nextTok p) c ((s.dev.tick t).place ⟨r, some (s.dev.nextTok p)⟩).1.journal).settle } := by
  have hnext := Dev.posted_recorded (t := t) (cid := cid) hup hf hi ha hn hact (he.part.trans hup.2)
    (by rw [he.journal]; exact hi.2.1) (Dev.canPlace_congr he.journal he.array hs)
  rw [hnext, he.place_journal]

/-! ## The fields -/

theorem onOffOf_eq {n : Nat} (h : n = 1 ∨ n = 2) : onOffOf n = some (decide (n = 1)) := by
  rcases h with rfl | rfl <;> rfl

theorem onOffOf_bad {n : Nat} (h : n ≠ 1 ∧ n ≠ 2) : onOffOf n = none := by
  unfold onOffOf
  split
  · exact absurd rfl h.1
  · exact absurd rfl h.2
  · rfl

theorem paceModeOf_eq {n : Nat} (h : n = 1 ∨ n = 2) : paceModeOf n = some (if n = 1 then .paced else .unpaced) := by
  rcases h with rfl | rfl <;> rfl

theorem paceModeOf_bad {n : Nat} (h : n ≠ 1 ∧ n ≠ 2) : paceModeOf n = none := by
  unfold paceModeOf
  split
  · exact absurd rfl h.1
  · exact absurd rfl h.2
  · rfl

theorem genOf_val (g : GenId) : genOf g.val = some g := dif_pos g.isLt

theorem genOf_of_gt {n : Nat} (h : 7 < n) : genOf n = none := dif_neg (by omega)

theorem genIndexOf_val (g : Fin 4) : genIndexOf g.val = some g := dif_pos g.isLt

theorem genIndexOf_of_gt {n : Nat} (h : 3 < n) : genIndexOf n = none := dif_neg (by omega)

/-! ## SET GENERATOR -/

/-- R104: the fields that a SET GENERATOR may not have. -/
def setGeneratorBad (b : SetGeneratorBody) : Prop :=
  7 < b.generator ∨ b.rate = 0 ∨ (b.period ≠ 250 ∧ b.period ≠ 500 ∧ b.period ≠ 1000 ∧ b.period ≠ 2000) ∨
    (b.enable ≠ 1 ∧ b.enable ≠ 2)

theorem generatorResult_bad {b : SetGeneratorBody} (h : setGeneratorBad b) : generatorResult b = none := by
  unfold generatorResult
  rcases h with h | h | h | h
  · rw [genOf_of_gt h]
  · split
    · exact if_neg (by simp [h])
    · rfl
  · split
    · exact if_neg (by omega)
    · rfl
  · rw [onOffOf_bad h]
    split
    · contradiction
    · rfl

theorem generatorResult_good {b : SetGeneratorBody} {g : GenId} (hg : b.generator = g.val) (h : ¬ setGeneratorBad b) :
    generatorResult b = some (g, ⟨decide (b.enable = 1), min b.rate 1000, b.period⟩) := by
  unfold setGeneratorBad at h
  unfold generatorResult
  rw [hg, genOf_val, onOffOf_eq (by omega)]
  exact if_pos ⟨by omega, by omega⟩

theorem Dev.actSetGenerator_bad {d : Dev} {b : SetGeneratorBody} (tok : Tok) (h : generatorResult b = none) :
    d.actSetGenerator tok b = d.refuse tok .badField := by rw [Dev.actSetGenerator, h]

theorem Dev.actSetGenerator_same {d : Dev} {b : SetGeneratorBody} {g : GenId} {x : GenSettings} (tok : Tok)
    (h : generatorResult b = some (g, x)) (hx : x = d.settings.gens[g]) :
    d.actSetGenerator tok b = d.answer tok .done 0 (.gen (d.genReport g)) := by
  rw [Dev.actSetGenerator, h]
  exact if_pos hx

/-- R104, R97: the part in which the generator has its new settings, before the record. -/
def Dev.generatorSet (g : GenId) (c : Settings) (d : Dev) : Dev := ({ d with settings := c }.clampMembers g).startGen g

theorem Dev.actSetGenerator_new {d : Dev} {b : SetGeneratorBody} {g : GenId} {x : GenSettings} {c : Settings} (tok : Tok)
    (h : generatorResult b = some (g, x)) (hx : x ≠ d.settings.gens[g])
    (hc : c = { d.settings with gens := d.settings.gens.set g x }) :
    d.actSetGenerator tok b = (d.generatorSet g c).raiseOwn tok (.setGenerator g) [.settings c] := by
  have hsettings : (d.generatorSet g c).settings = c := Dev.clampMembers_settings _ g
  rw [Dev.actSetGenerator, h, hc] at *
  refine (if_neg hx).trans ?_
  exact congrArg (fun c : Settings => (d.generatorSet g _).raiseOwn tok (.setGenerator g) [.settings c]) hsettings

theorem Dev.generatorSet_rest (g : GenId) (c : Settings) (d : Dev) :
    { d.generatorSet g c with settings := d.settings, sites := d.sites, gens := d.gens } = d :=
  congrArg (fun e : Dev => { e with settings := d.settings, gens := d.gens }) (Dev.clampMembers_rest { d with settings := c } g)

theorem Dev.generatorSet_gens {g : GenId} {c : Settings} {x : GenSettings} (d : Dev) (h : c.gens[g] = x) :
    (d.generatorSet g c).gens = d.gens.set g { d.gens[g] with due := if x.enable then some (d.now + x.period) else none } := by
  have hrest := Dev.clampMembers_rest { d with settings := c } g
  have hgens : ({ d with settings := c }.clampMembers g).gens = d.gens := (congrArg Dev.gens hrest :)
  have hnow : ({ d with settings := c }.clampMembers g).now = d.now := (congrArg Dev.now hrest :)
  have hsettings : ({ d with settings := c }.clampMembers g).settings = c := Dev.clampMembers_settings _ g
  unfold Dev.generatorSet Dev.startGen Dev.setGenDue
  dsimp only
  rw [hgens, hnow, hsettings, h]

/-! ## SET SITE PACING -/

/-- R105: the fields that a SET SITE PACING may not have. -/
def setSitePacingBad (b : SetSitePacingBody) : Prop :=
  7 < b.slot ∨ 3 < b.generator ∨ (b.mode ≠ 1 ∧ b.mode ≠ 2) ∨ (b.lend ≠ 1 ∧ b.lend ≠ 2)

/-- R105: the configuration that a SET SITE PACING leaves. -/
def sitePacingResult (b : SetSitePacingBody) (g : Fin 4) (old : SiteConfig) : SiteConfig :=
  { old with
    generator := g, share := min b.share 1024, mode := if b.mode = 1 then .paced else .unpaced
    lend := decide (b.lend = 1), maxWindow := max 65536 (min 67108864 b.maxWindow) }

theorem pacingResult_bad {b : SetSitePacingBody} (d : Dev) (h : setSitePacingBad b) : pacingResult b d = none := by
  unfold pacingResult
  split
  · next hslot hgen hmode hlend =>
    rcases h with h | h | h | h
    · rw [slotOf_of_gt h] at hslot; contradiction
    · rw [genIndexOf_of_gt h] at hgen; contradiction
    · rw [paceModeOf_bad h] at hmode; contradiction
    · rw [onOffOf_bad h] at hlend; contradiction
  · rfl

theorem pacingResult_good {b : SetSitePacingBody} {d : Dev} {j : SlotId} {g : Fin 4} (hj : b.slot = j.val)
    (hg : b.generator = g.val) (h : ¬ setSitePacingBad b) :
    pacingResult b d = some (j, sitePacingResult b g (d.config j)) := by
  unfold setSitePacingBad at h
  unfold pacingResult
  rw [hj, hg, slotOf_val, genIndexOf_val, paceModeOf_eq (by omega), onOffOf_eq (by omega)]
  rfl

theorem Dev.actSetSitePacing_bad {d : Dev} {b : SetSitePacingBody} (tok : Tok) (h : pacingResult b d = none) :
    d.actSetSitePacing tok b = d.refuse tok .badField := by rw [Dev.actSetSitePacing, h]

section Paced

variable {d : Dev} {b : SetSitePacingBody} {j : SlotId} {x : SiteConfig} (tok : Tok) (h : pacingResult b d = some (j, x))
include h

theorem Dev.actSetSitePacing_detached (hst : d.siteState j = .detached) :
    d.actSetSitePacing tok b = d.refuse tok .wrongState := by
  rw [Dev.actSetSitePacing, h]
  exact if_pos hst

theorem Dev.actSetSitePacing_same (hst : d.siteState j ≠ .detached) (hx : x = d.config j) :
    d.actSetSitePacing tok b = d.answer tok .done 0 (d.pacingReport j) := by
  rw [Dev.actSetSitePacing, h]
  exact (if_neg hst).trans (if_pos hx)

theorem Dev.actSetSitePacing_new (hst : d.siteState j ≠ .detached) (hx : x ≠ d.config j) :
    d.actSetSitePacing tok b = ((d.modConfig j fun _ => x).repace j (d.config j) x).raiseSettings tok (.setSitePacing j) := by
  rw [Dev.actSetSitePacing, h]
  exact (if_neg hst).trans (if_neg hx)

end Paced

/-! ## The effects on the credits (R97, R106) -/

/-- R106: what changes the members or their adds. -/
abbrev SiteConfig.Moved (old new : SiteConfig) : Prop :=
  new.mode ≠ old.mode ∨ new.generator ≠ old.generator ∨ new.share ≠ old.share

theorem Dev.repace_inactive {d : Dev} {j : SlotId} (old new : SiteConfig) (h : d.siteState j ≠ .active) :
    d.repace j old new = d := if_pos h

/-- R106: a slot that changes its mode starts with credit 0. -/
def Dev.creditReset (j : SlotId) (old new : SiteConfig) (d : Dev) : Dev :=
  if old.mode = new.mode then d else d.modSite j fun x => { x with credit := 0 }

theorem Dev.creditReset_rest (d : Dev) (j : SlotId) (old new : SiteConfig) :
    { d.creditReset j old new with sites := d.sites } = d := by
  unfold Dev.creditReset
  split <;> rfl

theorem Dev.creditReset_site (d : Dev) (j : SlotId) (old new : SiteConfig) (k : SlotId) :
    (d.creditReset j old new).sites[k] =
      { d.sites[k] with credit := if k = j ∧ new.mode ≠ old.mode then 0 else d.sites[k].credit } := by
  unfold Dev.creditReset
  split
  · next h => simp [h]
  · next h =>
    rw [Dev.modSite_site]
    by_cases hk : k = j <;> simp [hk, Ne.symm h]

theorem Dev.creditReset_state (d : Dev) (j : SlotId) (old new : SiteConfig) (k : SlotId) :
    (d.creditReset j old new).siteState k = d.siteState k :=
  (congrArg Site.state (d.creditReset_site j old new k) :)

theorem Dev.repace_active {d : Dev} {j : SlotId} (old new : SiteConfig) (h : d.siteState j = .active) :
    d.repace j old new =
      if old.Moved new then ((d.creditReset j old new).clampMembers old.gen).clampMembers new.gen
      else d.creditReset j old new := by
  have hmoved : old.Moved new ↔ ¬ (old.mode = new.mode ∧ old.generator = new.generator ∧ old.share = new.share) := by
    unfold SiteConfig.Moved
    simp only [not_and_or, ne_eq, eq_comm]
  rw [if_congr hmoved rfl rfl, ite_not]
  exact if_neg (not_not.2 h)

theorem Dev.repace_rest (d : Dev) (j : SlotId) (old new : SiteConfig) : { d.repace j old new with sites := d.sites } = d := by
  by_cases h : d.siteState j = .active
  · have hreset := d.creditReset_rest j old new
    rw [Dev.repace_active old new h]
    split
    · refine Eq.trans ?_ hreset
      have h1 := Dev.clampMembers_rest ((d.creditReset j old new).clampMembers old.gen) new.gen
      have h2 := Dev.clampMembers_rest (d.creditReset j old new) old.gen
      exact (congrArg (fun e : Dev => { e with sites := d.sites }) h1).trans
        (congrArg (fun e : Dev => { e with sites := d.sites }) h2)
    · exact hreset
  · rw [Dev.repace_inactive old new h]

/-- R97: two clamps in a row limit the credit once, as the caps stay. -/
theorem Dev.clampMembers_clampMembers_site (d : Dev) (f g : GenId) (k : SlotId) :
    ((d.clampMembers f).clampMembers g).sites[k] =
      { d.sites[k] with
        credit :=
          if d.isMember g k = true ∨ d.isMember f k = true then min d.sites[k].credit (d.cap k : Nat)
          else d.sites[k].credit } := by
  have hs := Dev.clampMembers_settings d f
  have hst := Dev.clampMembers_state d f
  rw [Dev.clampMembers_site, Dev.isMember_congr hs hst, Dev.cap_congr hs hst, Dev.clampMembers_site]
  by_cases hg : d.isMember g k = true <;> by_cases hf : d.isMember f k = true <;> simp [hg, hf]

theorem Dev.repace_site {d : Dev} {j : SlotId} (old new : SiteConfig) (h : d.siteState j = .active) (k : SlotId) :
    (d.repace j old new).sites[k] =
      { d.sites[k] with
        credit :=
          let base : Int := if k = j ∧ new.mode ≠ old.mode then 0 else d.sites[k].credit
          if old.Moved new ∧ (d.isMember new.gen k = true ∨ d.isMember old.gen k = true) then min base (d.cap k : Nat)
          else base } := by
  have hs : (d.creditReset j old new).settings = d.settings := (congrArg Dev.settings (d.creditReset_rest j old new) :)
  have hst := d.creditReset_state j old new
  rw [Dev.repace_active old new h]
  by_cases hmoved : old.Moved new
  · rw [if_pos hmoved, Dev.clampMembers_clampMembers_site, Dev.isMember_congr hs hst, Dev.isMember_congr hs hst,
      Dev.cap_congr hs hst, Dev.creditReset_site]
    simp [hmoved]
  · rw [if_neg hmoved, Dev.creditReset_site]
    simp [hmoved]

theorem Dev.repace_site_rest (d : Dev) (j : SlotId) (old new : SiteConfig) (k : SlotId) :
    { (d.repace j old new).sites[k] with credit := d.sites[k].credit } = d.sites[k] := by
  by_cases h : d.siteState j = .active
  · rw [Dev.repace_site old new h]
  · rw [Dev.repace_inactive old new h]

end Sys2Proof.Machine

/-- Settles O18: the checks in their order; a new value is stored, the credits are limited and the record is placed. -/
theorem pacingSettingsAreStored : Obligations.PacingSettingsAreStored := by
  constructor
  · intro s t p cid b hup hf hi d bad
    refine ⟨fun hbad => ?bad, ?good⟩
    case bad =>
      exact Dev.posted_answered (b := .setGenerator b) hup hf hi rfl (by nofun)
        (Dev.actSetGenerator_bad _ (generatorResult_bad hbad))
    case good =>
      intro g hg hgood x c
      have hresult : generatorResult b = some (g, x) := generatorResult_good hg hgood
      refine ⟨fun hsame => ?_, fun hnew hs => ?_⟩
      · exact Dev.posted_answered (b := .setGenerator b) hup hf hi rfl (by nofun) (Dev.actSetGenerator_same _ hresult hsame)
      · obtain ⟨e, he⟩ : ∃ e : Dev, e = d.grantTaken p ⟨cid, .setGenerator b⟩ := ⟨_, rfl⟩
        have hact := Dev.actSetGenerator_new (d := e) (c := c) (s.dev.nextTok p) hresult (by rw [he]; exact hnew) (by rw [he]; rfl)
        have htaken : e.ports[p].taken = [{ id := s.dev.nextToken, cid := cid, kind := 17 }] :=
          he ▸ Dev.grantTaken_taken (d := d) _ hf.2
        have hport (q : PortId) : { e.ports[q] with taken := s.dev.ports[q].taken } = s.dev.ports[q] :=
          he ▸ Dev.grantTaken_port (d := d) _ hf.2 q
        have hold : { e with nextToken := d.nextToken, ports := d.ports, intake := d.intake } = d := by rw [he]; rfl
        have hrest := e.generatorSet_rest g c
        have hsites (j : SlotId) : (e.generatorSet g c).sites[j] = _ := Dev.clampMembers_site { e with settings := c } g j
        have hgens := e.generatorSet_gens (g := g) (c := c) (x := x) (Vector.getElem_set_self _)
        have hsettings : (e.generatorSet g c).settings = c := Dev.clampMembers_settings { e with settings := c } g
        generalize e.generatorSet g c = u at *
        have hports : u.ports = e.ports := (congrArg Dev.ports hrest :)
        subst he
        have hlike : u.PlacesAs d :=
          ⟨(congrArg Dev.part hrest :).trans (congrArg Dev.part hold :),
            (congrArg Dev.journal hrest :).trans (congrArg Dev.journal hold :),
            (congrArg Dev.array hrest :).trans (congrArg Dev.array hold :),
            (congrArg Dev.now hrest :).trans (congrArg Dev.now hold :), (congrArg Settings.commitDelay hsettings :)⟩
        have hnext := Dev.posted_placed (t := t) (cid := cid) (b := .setGenerator b) hup hf hi rfl (by nofun)
          (r := .settings c) hs hact hlike
        refine ⟨_, hnext, hsettings, ?gens, fun j => ?site, rfl, ?taken, fun q => ?port, ?rest⟩
        case gens =>
          refine hgens.trans (congrArg (fun v => s.dev.gens.set g { s.dev.gens[g] with due := v }) ?_)
          exact if_congr decide_eq_true_iff rfl rfl
        case site => exact hsites j
        case taken => exact Dev.setCont_taken (x := { id := s.dev.nextToken, cid := cid, kind := 17 }) (.setGenerator g) (hports ▸ htaken)
        case port =>
          have hq := u.setCont_port (s.dev.nextTok p) (.setGenerator g) q
          have hkeep := congrArg (fun x : Port => { x with taken := s.dev.ports[q].taken }) hq
          exact hkeep.trans ((congrArg (fun x : Vector Port 4 => { x[q] with taken := s.dev.ports[q].taken }) hports).trans (hport q))
        case rest =>
          exact congrArg (fun x : Dev => { x with
            nextToken := s.dev.nextToken, settings := s.dev.settings, gens := s.dev.gens, sites := s.dev.sites
            journal := s.dev.journal, ports := s.dev.ports, intake := s.dev.intake }) hrest
  · intro s t p cid b hup hf hi d bad
    refine ⟨fun hbad => ?bad, ?good⟩
    case bad =>
      exact Dev.posted_answered (b := .setSitePacing b) hup hf hi rfl (by nofun)
        (Dev.actSetSitePacing_bad _ (pacingResult_bad _ hbad))
    case good =>
      intro j g hj hg hgood old x c
      obtain ⟨e, he⟩ : ∃ e : Dev, e = d.grantTaken p ⟨cid, .setSitePacing b⟩ := ⟨_, rfl⟩
      have hconfig : e.config j = old := by rw [he]; rfl
      have hstate (k : SlotId) : e.siteState k = s.dev.sites[k].state := by rw [he]; rfl
      have hresult : pacingResult b e = some (j, x) := (pacingResult_good hj hg hgood).trans (by rw [hconfig]; rfl)
      refine ⟨fun hst => ?detached, fun hst hsame => ?same, fun hst hnew hs => ?new⟩
      case detached =>
        subst he
        exact Dev.posted_answered (b := .setSitePacing b) hup hf hi rfl (by nofun) (Dev.actSetSitePacing_detached _ hresult hst)
      case same =>
        subst he
        have h := Dev.posted_answered (b := .setSitePacing b) (cid := cid) hup hf hi rfl (by nofun)
          (Dev.actSetSitePacing_same _ hresult hst hsame)
        have hreport : (d.grantTaken p ⟨cid, .setSitePacing b⟩).pacingReport j = .sitePacing g (min b.share 1024) x.mode x.lend x.maxWindow s.dev.sites[j].credit
            (s.dev.window j) :=
          congrArg (fun c : SiteConfig => RespBody.sitePacing c.generator c.share c.mode c.lend c.maxWindow s.dev.sites[j].credit
            (s.dev.window j)) hsame.symm
        rw [hreport] at h
        exact h
      case new =>
        have hact := Dev.actSetSitePacing_new (s.dev.nextTok p) hresult (by rwa [hstate]) (by rwa [hconfig])
        obtain ⟨f, hf'⟩ : ∃ f : Dev, f = e.modConfig j fun _ => x := ⟨_, rfl⟩
        have hsettings' : f.settings = c := by rw [hf', he]; rfl
        have hold : { f with nextToken := d.nextToken, settings := d.settings, ports := d.ports, intake := d.intake } = d := by
          rw [hf', he]; rfl
        have htaken : f.ports[p].taken = [{ id := s.dev.nextToken, cid := cid, kind := 18 }] := by
          rw [hf', he]; exact Dev.grantTaken_taken (d := d) _ hf.2
        have hsites' : f.sites = s.dev.sites := by rw [hf', he]; rfl
        rw [hconfig, ← hf'] at hact
        have hrest := f.repace_rest j old x
        have hactive := Dev.repace_site (d := f) (j := j) old x
        have hinactive := Dev.repace_inactive (d := f) (j := j) old x
        have hcredit := f.repace_site_rest j old x
        rw [show f.siteState j = s.dev.sites[j].state from congrArg (fun v : Vector Site 8 => v[j].state) hsites'] at hactive hinactive
        generalize f.repace j old x = u at *
        have hsettings : u.settings = c := (congrArg Dev.settings hrest :).trans hsettings'
        have hports : u.ports = f.ports := (congrArg Dev.ports hrest :)
        have hlike : u.PlacesAs d :=
          ⟨(congrArg Dev.part hrest :).trans (congrArg Dev.part hold :),
            (congrArg Dev.journal hrest :).trans (congrArg Dev.journal hold :),
            (congrArg Dev.array hrest :).trans (congrArg Dev.array hold :),
            (congrArg Dev.now hrest :).trans (congrArg Dev.now hold :), (congrArg Settings.commitDelay hsettings :)⟩
        rw [show u.raiseSettings (s.dev.nextTok p) (.setSitePacing j) =
          u.raiseOwn (s.dev.nextTok p) (.setSitePacing j) [.settings c] from hsettings ▸ rfl, he] at hact
        have hnext := Dev.posted_placed (t := t) (cid := cid) (b := .setSitePacing b) hup hf hi rfl (by nofun)
          (r := .settings c) hs hact hlike
        refine ⟨_, hnext, hsettings, fun hst => ?inactive, fun k => ?kept, fun hst => ?active, rfl, ?taken, ?rest⟩
        case inactive => exact (congrArg Dev.sites (hinactive hst) :).trans hsites'
        case kept =>
          have h := hcredit k
          rw [hsites'] at h
          exact h
        case active =>
          intro moved k base
          have h := congrArg Site.credit (hactive hst k)
          have hs : (u.withRecords (s.dev.nextTok p) (.setSitePacing j) (d.place ⟨.settings c, some (s.dev.nextTok p)⟩).1.journal).settings =
            f.settings := hsettings.trans hsettings'.symm
          have hst (l : SlotId) : (u.withRecords (s.dev.nextTok p) (.setSitePacing j)
            (d.place ⟨.settings c, some (s.dev.nextTok p)⟩).1.journal).siteState l = f.siteState l := (congrArg Site.state (hcredit l) :)
          refine Eq.trans ?_ (Eq.trans h ?_)
          · rfl
          · have hsite : f.sites[k] = s.dev.sites[k] := congrArg (fun v : Vector Site 8 => v[k]) hsites'
            rw [hsite, ← Dev.isMember_congr hs hst, ← Dev.isMember_congr hs hst, ← Dev.cap_congr hs hst]
        case taken => exact Dev.setCont_taken (x := { id := s.dev.nextToken, cid := cid, kind := 18 }) (.setSitePacing j) (hports ▸ htaken)
        case rest =>
          exact (congrArg (fun x : Dev => { x with
            nextToken := s.dev.nextToken, settings := s.dev.settings, sites := s.dev.sites
            journal := s.dev.journal, ports := s.dev.ports, intake := s.dev.intake }) hrest).trans
            (congrArg (fun x : Dev => { x with sites := s.dev.sites, journal := s.dev.journal }) hold)

end

section
/-!
SUPPORT and settlement of O19: the pacing grant of a generator (R91 to R94).
-/

open Sys2Proof Sys2Proof.Machine

namespace Sys2Proof.Machine

/-! ## What changes each site of a list -/

theorem Dev.foldl_modSite_site (f : SlotId → Site → Site) {l : List SlotId} (hl : l.Nodup) (d : Dev) (k : SlotId) :
    (l.foldl (fun e j => e.modSite j (f j)) d).sites[k] = if k ∈ l then f k d.sites[k] else d.sites[k] := by
  induction l generalizing d with
  | nil => rfl
  | cons j t ih =>
    rw [List.nodup_cons] at hl
    rw [List.foldl_cons, ih hl.2, Dev.modSite_site]
    by_cases hk : k = j
    · subst hk
      simp [hl.1]
    · simp [hk]

theorem Dev.foldl_modSite_rest (f : SlotId → Site → Site) (l : List SlotId) (d : Dev) :
    { l.foldl (fun e j => e.modSite j (f j)) d with sites := d.sites } = d :=
  foldl_keeps (fun e : Dev => { e with sites := d.sites }) (fun e j => e.modSite j (f j)) (fun _ _ => rfl) l d

/-! ## Credits decide nothing else -/

/-- The part differs in the credits of its slots only. -/
structure Dev.CreditsOnly (e d : Dev) : Prop where
  rest : { e with sites := d.sites } = d
  site (k : SlotId) : { e.sites[k] with credit := d.sites[k].credit } = d.sites[k]

namespace Dev.CreditsOnly

variable {e d : Dev} (h : e.CreditsOnly d)
include h

theorem settings : e.settings = d.settings := (congrArg Dev.settings h.rest :)

theorem state (k : SlotId) : e.siteState k = d.siteState k := (congrArg Site.state (h.site k) :)

theorem members (g : GenId) : e.members g = d.members g :=
  List.filter_congr fun k _ => Dev.isMember_congr h.settings h.state g k

theorem cap (k : SlotId) : e.cap k = d.cap k := Dev.cap_congr h.settings h.state k

theorem add (k : SlotId) : e.add k = d.add k := by
  simp only [Dev.add, Dev.divisor, Dev.shareSum, Dev.config, h.members, h.settings]

theorem window (k : SlotId) : e.window k = d.window k := by
  have hrtt : e.sites[k].rtt = d.sites[k].rtt := (congrArg Site.rtt (h.site k) :)
  simp only [Dev.window, Dev.config, h.add, h.settings, hrtt]

theorem sendPermitted (k : SlotId) (c : Candidate) : e.sendPermitted k c = d.sendPermitted k c := by
  have hready : e.candidateReady c = d.candidateReady c := (congrArg (fun x : Dev => x.candidateReady c) h.rest :)
  have hnow : e.now = d.now := (congrArg Dev.now h.rest :)
  have hbusy : e.sites[k].busyEnd = d.sites[k].busyEnd := (congrArg Site.busyEnd (h.site k) :)
  have hflight : e.sites[k].inFlight = d.sites[k].inFlight := (congrArg Site.inFlight (h.site k) :)
  have hpause : e.busyPause k = d.busyPause k := by rw [Dev.busyPause, hbusy, hnow]; rfl
  have hwindow (n : Nat) : e.windowPermits k n = d.windowPermits k n := by
    simp only [Dev.windowPermits, Site.inFlightBytes, hflight, h.window]
    rfl
  rw [Dev.sendPermitted, hready, hpause]
  simp only [hwindow]
  rfl

/-- R94: what a member wants does not follow from its credit. -/
theorem wantsCredit (k : SlotId) : e.wantsCredit k = d.wantsCredit k := by
  have hsend : e.sites[k].send = d.sites[k].send := (congrArg Site.send (h.site k) :)
  have hresends : e.sites[k].resends = d.sites[k].resends := (congrArg Site.resends (h.site k) :)
  have hcandidates : e.sites[k].candidates = d.sites[k].candidates := (congrArg Site.candidates (h.site k) :)
  have hpermit : e.sendPermitted k = d.sendPermitted k := funext (h.sendPermitted k)
  simp only [Dev.wantsCredit, hsend, hresends, hcandidates, hpermit]

end Dev.CreditsOnly

/-! ## The grant -/

/-- R93: what a member keeps of its credit and its add. -/
def Dev.keptCredit (d : Dev) (j : SlotId) : Int := min (d.sites[j].credit + d.add j) (d.cap j)

theorem Dev.addAll_site (d : Dev) (g : GenId) (k : SlotId) :
    (d.addAll g).sites[k] = if k ∈ d.members g then { d.sites[k] with credit := d.keptCredit k } else d.sites[k] :=
  Dev.foldl_modSite_site (fun j x => { x with credit := min (x.credit + d.add j) (d.cap j) }) (d.members_nodup g) d k

theorem Dev.addAll_creditsOnly (d : Dev) (g : GenId) : (d.addAll g).CreditsOnly d where
  rest := Dev.foldl_modSite_rest (fun j x => { x with credit := min (x.credit + d.add j) (d.cap j) }) _ d
  site k := by
    rw [Dev.addAll_site]
    split <;> rfl

/-- R94: the receivers by the part before the adds. -/
theorem Dev.receivers_addAll (d : Dev) (g : GenId) :
    (d.addAll g).receivers g = (d.members g).filter fun j => decide (d.keptCredit j < d.cap j) && d.wantsCredit j := by
  have h := d.addAll_creditsOnly g
  unfold Dev.receivers
  rw [h.members]
  refine List.filter_congr fun j hj => ?_
  rw [h.cap, h.wantsCredit, Dev.addAll_site, if_pos hj]

theorem Dev.giveAll_site {l : List SlotId} (hl : l.Nodup) (q : Int) (d : Dev) (k : SlotId) :
    (d.giveAll l q).sites[k] =
      if k ∈ l then { d.sites[k] with credit := min (d.sites[k].credit + q) (d.cap k) } else d.sites[k] :=
  Dev.foldl_modSite_site (fun j x => { x with credit := min (x.credit + q) (d.cap j) }) hl d k

theorem Dev.giveAll_rest (l : List SlotId) (q : Int) (d : Dev) : { d.giveAll l q with sites := d.sites } = d :=
  Dev.foldl_modSite_rest (fun j x => { x with credit := min (x.credit + q) (d.cap j) }) l d

/-- R94: the equal share of the pool. -/
def Dev.eachShare (d : Dev) (g : GenId) : Int :=
  let n : Int := ((d.addAll g).receivers g).length
  if n = 0 then 0 else d.lentBy g true / n

/-- R94: what the receivers cannot keep of their shares. -/
def Dev.shareSurplus (d : Dev) (g : GenId) : Int :=
  (((d.addAll g).receivers g).map fun j => excessOf ((d.addAll g).sites[j].credit + d.eachShare g) ((d.addAll g).cap j)).sum

/-- The part when the receivers have their shares. -/
def Dev.shared (d : Dev) (g : GenId) : Dev := (d.addAll g).giveAll ((d.addAll g).receivers g) (d.eachShare g)

/-- R92, R94: what nobody receives. -/
def Dev.unreceived (d : Dev) (g : GenId) : Int :=
  (d.settings.gens[g].grant : Int) - ((d.members g).map d.add).sum + d.lentBy g false +
    (d.lentBy g true - ((d.addAll g).receivers g).length * d.eachShare g) + d.shareSurplus g

/-- R91 to R94: the grant is an add for every member, then a share for every receiver. -/
theorem Dev.pacingGrant_shared (d : Dev) (g : GenId) :
    d.pacingGrant g =
      { d.shared g with
        gens := (d.shared g).gens.set g
          { (d.shared g).gens[g] with lastPool := d.lentBy g true, lastDiscarded := d.unreceived g } } := rfl

theorem Dev.mem_members_of_receives {d : Dev} {g : GenId} {k : SlotId} (h : k ∈ (d.addAll g).receivers g) : k ∈ d.members g := by
  rw [Dev.receivers_addAll] at h
  exact List.mem_of_mem_filter h

theorem Dev.shareSurplus_eq (d : Dev) (g : GenId) :
    d.shareSurplus g = (((d.addAll g).receivers g).map fun j => max 0 (d.keptCredit j + d.eachShare g - d.cap j)).sum := by
  refine congrArg List.sum (List.map_congr_left fun j hj => ?_)
  rw [(d.addAll_creditsOnly g).cap, Dev.addAll_site, if_pos (Dev.mem_members_of_receives hj), excessOf]

theorem Dev.shared_rest (d : Dev) (g : GenId) : { d.shared g with sites := d.sites } = d := by
  have hshares := Dev.giveAll_rest ((d.addAll g).receivers g) (d.eachShare g) (d.addAll g)
  exact (congrArg (fun e : Dev => { e with sites := d.sites }) hshares).trans (d.addAll_creditsOnly g).rest

theorem Dev.shared_site (d : Dev) (g : GenId) (k : SlotId) :
    (d.shared g).sites[k] =
      { d.sites[k] with
        credit :=
          if k ∈ (d.addAll g).receivers g then min (d.keptCredit k + d.eachShare g) (d.cap k)
          else if k ∈ d.members g then d.keptCredit k else d.sites[k].credit } := by
  have hnodup : ((d.addAll g).receivers g).Nodup := (Dev.members_nodup _ g).filter _
  have hsite := Dev.giveAll_site hnodup (d.eachShare g) (d.addAll g) k
  refine hsite.trans ?_
  rw [(d.addAll_creditsOnly g).cap, Dev.addAll_site]
  by_cases hk : k ∈ (d.addAll g).receivers g
  · rw [if_pos hk, if_pos (Dev.mem_members_of_receives hk), if_pos hk]
  · rw [if_neg hk, if_neg hk]
    split <;> rfl

/-! ## The end of a period (R90) -/

theorem Dev.periodEnds_site (d : Dev) (g : GenId) (due : Time) (k : SlotId) :
    (d.periodEnds g due).sites[k] = (d.shared g).sites[k] := by
  rw [Dev.periodEnds, Dev.setGenDue, Dev.pacingGrant_shared]

theorem Dev.periodEnds_rest (d : Dev) (g : GenId) (due : Time) :
    { d.periodEnds g due with sites := d.sites, gens := d.gens } = d := by
  rw [Dev.periodEnds, Dev.setGenDue, Dev.pacingGrant_shared]
  exact congrArg (fun e : Dev => { e with gens := d.gens }) (d.shared_rest g)

theorem Dev.periodEnds_gens (d : Dev) (g : GenId) (due : Time) :
    (d.periodEnds g due).gens =
      d.gens.set g
        { due := some (due + d.settings.gens[g].period), lastPool := d.lentBy g true, lastDiscarded := d.unreceived g } := by
  have hgens : (d.shared g).gens = d.gens := (congrArg Dev.gens (d.shared_rest g) :)
  rw [Dev.periodEnds, Dev.setGenDue, Dev.pacingGrant_shared, hgens]
  simp

theorem Dev.members_eq_filter (d : Dev) (g : GenId) :
    d.members g = allSlots.filter fun j => d.sites[j].state = .active ∧ (d.config j).mode = .paced ∧ (d.config j).gen = g :=
  List.filter_congr fun j _ => by simp [Dev.isMember, Dev.siteState, Bool.decide_and, Bool.and_assoc, beq_eq_decide]

end Sys2Proof.Machine

/-- Settles O19: an add for every member, the pool of the lenders' excess, and an equal share of it for every receiver. -/
theorem pacingGrantDividesTheGrant : Obligations.PacingGrantDividesTheGrant := by
  intro s g due hup hdue d c grant conf members w add cap after excess kept pool dropped receivers each surplus
  have hmembers : d.members g = members := d.members_eq_filter g
  have hadd (j : SlotId) (hj : j ∈ members) : d.add j = add j := by
    rw [Dev.add_of_member (hmembers ▸ hj), Dev.divisor, Dev.shareSum, hmembers]
    rfl
  have hcap (j : SlotId) (hj : j ∈ members) : (d.cap j : Int) = cap j := by rw [Dev.cap, capOf, hadd j hj]
  have hafter (j : SlotId) (hj : j ∈ members) : d.sites[j].credit + d.add j = after j := by rw [hadd j hj]; rfl
  have hkept (j : SlotId) (hj : j ∈ members) : d.keptCredit j = kept j := by rw [Dev.keptCredit, hafter j hj, hcap j hj]
  have hlent (l : Bool) : d.lentBy g l = ((members.filter fun j => (conf j).lend = l).map excess).sum := by
    rw [Dev.lentBy, hmembers, List.filter_congr (p := fun j => (d.config j).lend == l) (q := fun j => decide ((conf j).lend = l)) fun j _ =>
      beq_eq_decide _ _]
    refine congrArg List.sum (List.map_congr_left fun j hj => ?_)
    have hj := List.mem_of_mem_filter hj
    rw [excessOf, hafter j hj, hcap j hj]
  have hreceivers : (d.addAll g).receivers g = receivers := by
    rw [Dev.receivers_addAll, hmembers]
    refine List.filter_congr fun j hj => ?_
    rw [hkept j hj, hcap j hj, Bool.decide_and, Bool.decide_eq_true]
  have heach : d.eachShare g = each := by
    rw [Dev.eachShare, hreceivers, hlent]
    exact if_congr (by simp) rfl rfl
  have hsurplus : d.shareSurplus g = surplus := by
    rw [Dev.shareSurplus_eq, hreceivers, heach]
    refine congrArg List.sum (List.map_congr_left fun j hj => ?_)
    have hj := List.mem_of_mem_filter hj
    rw [hkept j hj, hcap j hj]
  have hadds : (members.map d.add).sum = (members.map add).sum := congrArg List.sum (List.map_congr_left hadd)
  refine ⟨_, pacingGrant_next hup hdue, fun j => ?site, ?gens, ?rest⟩
  case site =>
    refine ((d.periodEnds_site g due j).trans (d.shared_site g j)).trans (congrArg (fun v : Int => { s.dev.sites[j] with credit := v }) ?_)
    rw [hreceivers, hmembers, heach]
    by_cases hj : j ∈ members
    · rw [hkept j hj, hcap j hj]
      rfl
    · have hnot : j ∉ receivers := fun h => hj (List.mem_of_mem_filter h)
      rw [if_neg hnot, if_neg hnot, if_neg hj, if_neg hj]
      rfl
  case gens =>
    have h := d.periodEnds_gens g due
    rw [Dev.unreceived, hmembers, hreceivers, hlent, hlent, heach, hsurplus, hadds] at h
    exact h
  case rest => exact d.periodEnds_rest g due

end

section
/-!
SUPPORT and settlement of O27: RELEASE and DENY (R51, R58, R59).
-/

open Sys2Proof Sys2Proof.Machine

namespace Sys2Proof.Machine

/-! ## A granted command whose rule changes the part and places one record -/

/-- The records of a granted command of an idle port, written as the command that is granted. -/
theorem Dev.grantTaken_withRecords {d : Dev} {p : PortId} (r : CmdRec) (c : Cont) (x : Rec) (h : d.portIdle p)
    (hi : d.intakeFree) :
    (d.grantTaken p r).withRecords (d.nextTok p) c (d.place ⟨x, some (d.nextTok p)⟩).1.journal =
      (d.recorded p x).granted p r.cid (kindCode r.body) c := by
  have htaken : (d.grantTaken p r).setCont (d.nextTok p) c = d.granted p r.cid (kindCode r.body) c := Dev.take_granted r c h
  rw [Dev.withRecords, htaken, Dev.recorded, Dev.place_fst]
  have hnone : d.intake.grant = none := hi.1
  unfold Dev.granted
  dsimp only
  rw [← hnone]
  rfl

theorem Dev.posted_decided {s : State} {t : Time} {p : PortId} {cid : Word32} {b : CmdBody} (hup : s.dev.up)
    (hf : s.dev.portFree p) (hi : s.dev.intakeFree) (ha : usesArbiter b = true) (hn : ∀ x, b ≠ .append x) {h : HeldList} {c : Cont}
    {r : Rec} (hs : s.dev.canPlace r.size)
    (hact : ((s.dev.tick t).grantTaken p ⟨cid, b⟩).act (s.dev.nextTok p) .none b =
      { (s.dev.tick t).grantTaken p ⟨cid, b⟩ with held := h }.raiseOwn (s.dev.nextTok p) c [r]) :
    s.goOn (Dev.posted t p cid b) =
      .next { s with dev := (({ s.dev.tick t with held := h }.recorded p r).granted p cid (kindCode b) c).settle } := by
  rw [Dev.posted_placed hup hf hi ha hn hs hact ⟨rfl, rfl, rfl, rfl, rfl⟩]
  have hrecords := Dev.grantTaken_withRecords (d := { s.dev.tick t with held := h }) ⟨cid, b⟩ c r hf.2 hi
  exact congrArg (fun d : Dev => Host.Outcome.next { s with dev := d.settle }) hrecords

/-! ## The decision by a command -/

/-- R51: the entry waits for a decision. -/
def Dev.waits (d : Dev) (q : Seq) : Prop := ∃ e due, d.heldEntry q = some e ∧ e.state = .waiting due

theorem Dev.decisionRefusal_zero (d : Dev) : d.decisionRefusal 0 = some .badField := if_pos rfl

theorem Dev.decisionRefusal_gone {d : Dev} {q : Seq} (hq : q ≠ 0) (h : d.goneSeq q) : d.decisionRefusal q = some .notFound := by
  refine (if_neg hq).trans (if_pos ?_)
  rw [Bool.or_eq_true]
  exact (d.goneSeq_iff q).1 h

theorem Dev.decisionRefusal_present {d : Dev} {q : Seq} (hq : q ≠ 0) (h : ¬ d.goneSeq q) :
    d.decisionRefusal q =
      match d.heldEntry q with
      | some ⟨_, .waiting _⟩ => none
      | _ => some .wrongState := by
  refine (if_neg hq).trans (if_neg ?_)
  rw [Bool.or_eq_true]
  exact (d.goneSeq_iff q).not.1 h

theorem Dev.decisionRefusal_idle {d : Dev} {q : Seq} (hq : q ≠ 0) (h : ¬ d.goneSeq q) (hw : ¬ d.waits q) :
    d.decisionRefusal q = some .wrongState := by
  rw [Dev.decisionRefusal_present hq h]
  split
  · next n due hentry => exact absurd ⟨⟨n, .waiting due⟩, due, hentry, rfl⟩ hw
  · rfl

theorem Dev.decisionRefusal_waits {d : Dev} {q : Seq} (hq : q ≠ 0) (h : ¬ d.goneSeq q) (hw : d.waits q) :
    d.decisionRefusal q = none := by
  obtain ⟨⟨n, st⟩, due, hentry, hstate⟩ := hw
  obtain rfl : st = .waiting due := hstate
  rw [Dev.decisionRefusal_present hq h, hentry]

theorem Dev.decideHeld_refused {d : Dev} {q : Seq} {st : Status} (tok : Tok) (dn : Decision) (c : Cont)
    (h : d.decisionRefusal q = some st) : d.decideHeld tok q dn c = d.refuse tok st := by
  rw [Dev.decideHeld, h]

/-- R51: the held list when a command has decided on an entry. -/
def HeldList.decidedBy (q : Seq) (dn : Decision) (h : HeldList) : HeldList :=
  { h with entries := h.entries.map fun (e : HeldEntry) => if e.seq = q then { e with state := .deciding dn .command } else e }

theorem Dev.decideHeld_taken {d : Dev} {q : Seq} (tok : Tok) (dn : Decision) (c : Cont) (h : d.decisionRefusal q = none) :
    d.decideHeld tok q dn c = { d with held := d.held.decidedBy q dn }.raiseOwn tok c [.decision q dn] := by
  rw [Dev.decideHeld, h]
  unfold Dev.setHeld HeldList.decidedBy
  simp only [beq_iff_eq]

/-- R58, R59: what RELEASE and DENY have in common: their rule takes a decision. -/
theorem Dev.posted_decides {s : State} {t : Time} {p : PortId} {cid : Word32} {b : CmdBody} {q : Seq} {dn : Decision} {c : Cont}
    (hup : s.dev.up) (hf : s.dev.portFree p) (hi : s.dev.intakeFree) (ha : usesArbiter b = true) (hn : ∀ x, b ≠ .append x)
    (hact : ∀ d : Dev, d.act (s.dev.nextTok p) .none b = d.decideHeld (s.dev.nextTok p) q dn c) :
    let d := s.dev.tick t
    (q = 0 → s.goOn (Dev.posted t p cid b) =
      .next { s with dev := (d.grantedReply p cid (kindCode b) .badField 0 .none).settle }) ∧
    (q ≠ 0 → s.dev.goneSeq q → s.goOn (Dev.posted t p cid b) =
      .next { s with dev := (d.grantedReply p cid (kindCode b) .notFound 0 .none).settle }) ∧
    (q ≠ 0 → ¬ s.dev.goneSeq q → ¬ s.dev.waits q → s.goOn (Dev.posted t p cid b) =
      .next { s with dev := (d.grantedReply p cid (kindCode b) .wrongState 0 .none).settle }) ∧
    (q ≠ 0 → ¬ s.dev.goneSeq q → s.dev.waits q → s.dev.canPlace 32 → s.goOn (Dev.posted t p cid b) =
      .next { s with dev :=
        (({ d with held := d.held.decidedBy q dn }.recorded p (.decision q dn)).granted p cid (kindCode b) c).settle }) := by
  intro d
  have hrefused {st : Status} (h : (d.grantTaken p ⟨cid, b⟩).decisionRefusal q = some st) := Dev.posted_answered (t := t) (cid := cid)
    hup hf hi ha hn ((hact (d.grantTaken p ⟨cid, b⟩)).trans (Dev.decideHeld_refused (s.dev.nextTok p) dn c h))
  refine ⟨fun hq => ?_, fun hq hgone => ?_, fun hq hgone hwaits => ?_, fun hq hgone hwaits hs => ?_⟩
  · exact hrefused (hq ▸ Dev.decisionRefusal_zero _)
  · exact hrefused (Dev.decisionRefusal_gone hq hgone)
  · exact hrefused (Dev.decisionRefusal_idle hq hgone hwaits)
  · exact Dev.posted_decided hup hf hi ha hn hs
      ((hact _).trans (Dev.decideHeld_taken _ dn c (Dev.decisionRefusal_waits hq hgone hwaits)))

end Sys2Proof.Machine

/-- Settles O27: both commands are one rule, with the decision and the answer as its operands. -/
theorem releaseAndDenyDecide : Obligations.ReleaseAndDenyDecide := by
  intro s t p cid q release hup hf hi
  cases release with
  | true => exact Dev.posted_decides (b := .release q) hup hf hi rfl (by nofun) fun _ => rfl
  | false => exact Dev.posted_decides (b := .deny q) hup hf hi rfl (by nofun) fun _ => rfl

end

section
/-!
SUPPORT and settlement of O26: FLUSH (R21).
-/

open Sys2Proof Sys2Proof.Machine

namespace Sys2Proof.Machine

/-! ## The closing of the FILLING buffer (R13) -/

/-- R13: a buffer when the FILLING one has closed. -/
def Buffer.closed (b : Buffer) : Buffer := { b with state := if b.state = .filling then .programming else b.state }

theorem Buffer.closed_empty (b : Buffer) : (b.closed.state != .empty) = (b.state != .empty) := by
  unfold Buffer.closed
  split
  · next h => rw [h]; rfl
  · rfl

theorem Buffer.closed_filling (b : Buffer) : b.closed.state ≠ .filling := by
  unfold Buffer.closed
  split
  · nofun
  · assumption

/-- R12: both buffers follow the closing, because at most one of them is FILLING. -/
theorem Journal.close_buffers {j : Journal} (h : j.buffersOk = true) : j.close.bufA = j.bufA.closed ∧ j.close.bufB = j.bufB.closed := by
  have hone : ¬ (j.bufA.state = .filling ∧ j.bufB.state = .filling) := by
    rintro ⟨ha, hb⟩
    simp [Journal.buffersOk, ha, hb] at h
  unfold Journal.close Journal.fillingBuf Buffer.closed
  by_cases ha : j.bufA.state = .filling
  · have hb : j.bufB.state ≠ .filling := fun hb => hone ⟨ha, hb⟩
    simp [ha, hb, Journal.putBuf, Journal.buf]
  · by_cases hb : j.bufB.state = .filling <;> simp [ha, hb, Journal.putBuf, Journal.buf]

theorem Journal.close_flushes (j : Journal) : j.close.flushes = j.flushes := by
  unfold Journal.close
  split
  · rfl
  · next id _ => cases id <;> rfl

theorem Journal.close_commitDue {j : Journal} (h : j.fillingBuf ≠ none) : j.close.commitDue = none := by
  unfold Journal.close
  split
  · contradiction
  · rfl

theorem Journal.makeRoom_flushes (n : Nat) (j : Journal) : (j.makeRoom n).flushes = j.flushes := by
  unfold Journal.makeRoom
  split
  · split
    · rfl
    · exact j.close_flushes
  · rfl

theorem Dev.place_flushes (s : Staged) (d : Dev) : (d.place s).1.journal.flushes = d.journal.flushes := by
  cases h : d.programStalled with
  | true => rw [Dev.place_stalled s h]
  | false =>
    rw [Dev.place_journal s h]
    unfold Journal.place
    dsimp only
    split
    · exact Journal.makeRoom_flushes _ _
    · next id _ => cases id <;> exact Journal.makeRoom_flushes s.item.size d.journal

theorem Dev.buffersOk_place {d : Dev} (s : Staged) (h : d.journal.buffersOk = true) : (d.place s).1.journal.buffersOk = true := by
  cases hst : d.programStalled with
  | true => rwa [Dev.place_stalled s hst]
  | false =>
    rw [Dev.place_journal s hst]
    exact Journal.buffersOk_place _ _ s h

/-- R12: a record that is placed leaves a FILLING buffer. -/
theorem Dev.place_filling {d : Dev} {s : Staged} (h : d.canPlace s.item.size) :
    (d.place s).1.journal.bufA.state = .filling ∨ (d.place s).1.journal.bufB.state = .filling := by
  obtain ⟨hst, htarget⟩ := h
  obtain ⟨id, hid⟩ := Option.isSome_iff_exists.1 htarget
  have hbuf := congrArg Buffer.state (Journal.place_buf (now := d.now) (delay := d.settings.commitDelay) hid)
  rw [Dev.place_journal s hst]
  cases id with
  | a => exact .inl hbuf
  | b => exact .inr hbuf

/-! ## FLUSH in a READY part -/

/-- R21: no buffer holds a record. -/
def Journal.drained (j : Journal) : Prop := j.bufA.state = .empty ∧ j.bufB.state = .empty

/-- R21: the journal with a FLUSH that waits. -/
def Journal.flushWaits (tok : Tok) (j : Journal) : Journal :=
  { j.close with flushes := j.flushes ++ [⟨tok, j.bufA.state != .empty, j.bufB.state != .empty⟩] }

theorem Dev.flushNow_ready {d : Dev} (tok : Tok) (hp : d.part = .ready) :
    d.flushNow tok =
      if (!(d.journal.close.bufA.state != .empty) && !(d.journal.close.bufB.state != .empty)) = true then
        d.closeBuffer.refuse tok .done
      else
        { d with
          journal := { d.journal.close with
            flushes := d.journal.close.flushes ++
              [⟨tok, d.journal.close.bufA.state != .empty, d.journal.close.bufB.state != .empty⟩] } } := by
  have hq : d.quiescePlaces = false := by simp [Dev.quiescePlaces, hp]
  unfold Dev.flushNow
  rw [hq]
  rfl

theorem Dev.flushNow_drained {d : Dev} (tok : Tok) (hp : d.part = .ready) (h : d.journal.drained) :
    d.flushNow tok = d.refuse tok .done := by
  obtain ⟨ha, hb⟩ := h
  have hclose : d.journal.close = d.journal := by simp [Journal.close, Journal.fillingBuf, ha, hb]
  rw [Dev.flushNow_ready tok hp, Dev.closeBuffer, hclose, ha, hb]
  rfl

theorem Dev.flushNow_waits {d : Dev} (tok : Tok) (hp : d.part = .ready) (hok : d.journal.buffersOk = true) (h : ¬ d.journal.drained) :
    d.flushNow tok = { d with journal := d.journal.flushWaits tok } := by
  obtain ⟨ha, hb⟩ := Journal.close_buffers hok
  rw [Dev.flushNow_ready tok hp, ha, hb, Buffer.closed_empty, Buffer.closed_empty, Journal.close_flushes]
  refine if_neg fun hnone => h ?_
  simpa [Journal.drained] using hnone

/-- What a FLUSH that waits leaves in the buffers. -/
theorem Journal.flushWaits_buffers {j : Journal} (tok : Tok) (h : j.buffersOk = true) :
    (j.flushWaits tok).bufA = j.bufA.closed ∧ (j.flushWaits tok).bufB = j.bufB.closed := Journal.close_buffers h

theorem Dev.actFlush_kept {d : Dev} {n : Nat} (tok : Tok) (h : flushDelay d.settings.commitDelay n = d.settings.commitDelay) :
    d.actFlush tok n = d.flushNow tok := if_pos h

theorem Dev.actFlush_changed {d : Dev} {n : Nat} {c : Settings} (tok : Tok)
    (h : flushDelay d.settings.commitDelay n ≠ d.settings.commitDelay)
    (hc : c = { d.settings with commitDelay := flushDelay d.settings.commitDelay n }) :
    d.actFlush tok n = { d with settings := c }.grantRecords tok [⟨.settings c, none⟩] true := by
  subst hc
  exact if_neg h

theorem Dev.flushNow_grant (d : Dev) (tok : Tok) : (d.flushNow tok).intake = d.intake := by
  unfold Dev.flushNow
  dsimp only
  split
  · split <;> rfl
  · split <;> rfl

/-- R21: the commit delay's SETTINGS record is placed, and then the buffer closes. -/
theorem Dev.grantedNow_flush {d : Dev} {tok : Tok} {s : Staged} (hp : d.part = .ready) (hc : d.journal.ctrlQ = [])
    (hg : d.intake.grant = some ⟨tok, .place [s] true⟩) (hs : d.canPlace s.item.size) :
    d.grantedNow = (d.place s).1.endGrant.flushNow tok := by
  have hplaced : Dev.grantedStep { (d.place s).1 with intake := { d.intake with grant := some ⟨tok, .place [] true⟩ } } =
      some ((d.place s).1.endGrant.flushNow tok) := by
    have hctrl : (d.place s).1.journal.ctrlQ = [] := (Dev.place_ctrlQ s d).trans hc
    have hready : Dev.placesGranted { (d.place s).1 with intake := { d.intake with grant := some ⟨tok, .place [] true⟩ } } = true := by
      simp [Dev.placesGranted, hp, hctrl]
    unfold Dev.grantedStep
    dsimp only
    rw [if_pos hready]
    rfl
  rw [Dev.grantedNow, Dev.grantedSteps_place 3 hp hc hg hs, Dev.grantedSteps, hplaced]
  exact Dev.grantedSteps_idle _ (congrArg Intake.grant (Dev.flushNow_grant _ tok) :)

end Sys2Proof.Machine

/-- Settles O26: the commit delay stays or its record is placed; then the FILLING buffer closes and the FLUSH waits. -/
theorem flushClosesTheFillingBuffer : Obligations.FlushClosesTheFillingBuffer := by
  intro s t p cid n hup hf hi hok d v
  have hgranted := Dev.posted_granted (t := t) cid (.flush n) hup hf hi rfl (by nofun)
  obtain ⟨g, hg⟩ : ∃ g : Dev, g = d.grantTaken p ⟨cid, .flush n⟩ := ⟨_, rfl⟩
  have htaken : g.ports[p].taken = [{ id := s.dev.nextToken, cid := cid, kind := 2 }] :=
    hg ▸ Dev.grantTaken_taken (d := d) _ hf.2
  have hresp : g.ports[p].respQ = s.dev.ports[p].respQ := by
    rw [hg]
    exact (congrArg Port.respQ (Dev.grantTaken_port (d := d) ⟨cid, .flush n⟩ hf.2 p) :)
  refine ⟨fun hv ha hb => ?drained, fun hv hsome => ?waits, ?changed⟩
  case drained =>
    have hact := (Dev.actFlush_kept (d := g) (s.dev.nextTok p) (by rw [hg]; exact hv)).trans
      (Dev.flushNow_drained _ (by rw [hg]; exact hup.2) (by rw [hg]; exact ⟨ha, hb⟩))
    rw [hg] at hact
    exact Dev.posted_answered (b := .flush n) hup hf hi rfl (by nofun) hact
  case waits =>
    obtain ⟨hbufA, hbufB⟩ := Journal.flushWaits_buffers (s.dev.nextTok p) hok
    have hact := (Dev.actFlush_kept (d := g) (s.dev.nextTok p) (by rw [hg]; exact hv)).trans
      (Dev.flushNow_waits _ (by rw [hg]; exact hup.2) (by rw [hg]; exact hok) (by rw [hg]; exact hsome))
    have hnow : (g.actFlush (s.dev.nextTok p) n).grantedNow =
        { g with journal := s.dev.journal.flushWaits (s.dev.nextTok p) } := by
      rw [hact]
      refine (Dev.grantedNow_idle (by rw [hg]; exact hi.1)).trans ?_
      rw [hg]
      rfl
    have hnext := hgranted.trans (congrArg (fun d : Dev => Host.Outcome.next { s with dev := d.settle }) (hg ▸ hnow))
    refine ⟨_, hnext, (congrArg Buffer.recs hbufA :),
      (congrArg Buffer.recs hbufB :), congrArg Buffer.state hbufA, congrArg Buffer.state hbufB, Journal.close_commitDue, rfl,
      rfl, hg ▸ hresp, hg ▸ htaken⟩
  case changed =>
    intro hv hs c e
    obtain ⟨x, hx⟩ : ∃ x : Dev, x = { g with settings := c }.grantRecords (s.dev.nextTok p) [⟨.settings c, none⟩] true := ⟨_, rfl⟩
    have hact : g.actFlush (s.dev.nextTok p) n = x :=
      (Dev.actFlush_changed (c := c) (s.dev.nextTok p) (by rw [hg]; exact hv) (by rw [hg]; rfl)).trans hx.symm
    have hjournal : (x.place ⟨.settings c, none⟩).1.journal = e.journal := by rw [hx, hg]; rfl
    have hplaced := Dev.place_filling (d := { d with settings := c }) (s := ⟨.settings c, none⟩) hs
    have hsome : ¬ e.journal.drained := fun ⟨ha, hb⟩ =>
      hplaced.elim (fun h => BufState.noConfusion (h.symm.trans ha)) fun h => BufState.noConfusion (h.symm.trans hb)
    have heok : e.journal.buffersOk = true := Dev.buffersOk_place _ hok
    obtain ⟨hbufA, hbufB⟩ := Journal.flushWaits_buffers (s.dev.nextTok p) heok
    have hnow : (g.actFlush (s.dev.nextTok p) n).grantedNow =
        { (x.place ⟨.settings c, none⟩).1.endGrant with journal := e.journal.flushWaits (s.dev.nextTok p) } := by
      rw [hact, Dev.grantedNow_flush (tok := s.dev.nextTok p) (s := ⟨.settings c, none⟩) (by rw [hx, hg]; exact hup.2)
        (by rw [hx, hg]; exact hi.2.1) (by rw [hx]; rfl) (by rw [hx, hg]; exact hs)]
      refine (Dev.flushNow_waits _ (by rw [hx, hg]; exact hup.2) ?ok ?some).trans ?_
      case ok => exact (congrArg Journal.buffersOk hjournal).trans heok
      case some =>
        rw [← hjournal] at hsome
        exact hsome
      exact congrArg (fun j : Journal => { (x.place ⟨.settings c, none⟩).1.endGrant with journal := j.flushWaits (s.dev.nextTok p) })
        hjournal
    rw [hx] at hnow
    have hnext := hgranted.trans (congrArg (fun d : Dev => Host.Outcome.next { s with dev := d.settle }) (hg ▸ hnow))
    refine ⟨_, hnext, rfl,
      (congrArg Buffer.recs hbufA :), (congrArg Buffer.recs hbufB :),
      fun h => Buffer.closed_filling e.journal.bufA (hbufA ▸ h), fun h => Buffer.closed_filling e.journal.bufB (hbufB ▸ h),
      ?flushes, hg ▸ hresp, hg ▸ htaken⟩
    case flushes =>
      exact congrArg (· ++ [(⟨s.dev.nextTok p, e.journal.bufA.state != .empty, e.journal.bufB.state != .empty⟩ : FlushWait)])
        (Dev.place_flushes _ _)

end

section
/-!
SUPPORT and settlement of O45: the commit timer, the checkpoint timer, the hold deadlines and the test of R120.
-/

open Sys2Proof Sys2Proof.Machine

namespace Sys2Proof.Machine

/-! ## Expiries -/

/-- An expiry of a timer that runs in READY. -/
theorem Dev.expiry_up {d : Dev} {t : Time} (f : Dev → Dev) (hup : d.up) : d.expiry (some t) d.isReady f = (f (d.tick t)).settle :=
  Dev.expiry_running d t d.isReady f (beq_iff_eq.2 hup.2) hup.1

theorem Dev.expiry_gated (d : Dev) (due : Option Time) (f : Dev → Dev) : d.expiry due false f = d := by
  cases due <;> rfl

theorem Dev.quiescePlaces_iff (d : Dev) :
    d.quiescePlaces = true ↔ d.part = .quiescing ∧ (d.power.phase = .placing ∨ d.power.phase = .frontierPlaced) := by
  simp [Dev.quiescePlaces]

/-! ## The commit timer (R13) -/

theorem Dev.commitExpiry_quiescing {d : Dev} (h : d.quiescePlaces = true) : d.commitExpiry = d := by
  rw [Dev.commitExpiry, h, Bool.not_true, Bool.and_false, Dev.expiry_gated]

theorem Dev.commitExpiry_running {d : Dev} {due : Time} (hpow : d.power.powered = true) (hpart : d.part ≠ .starting)
    (hdue : d.journal.commitDue = some due) (h : ¬ d.quiescePlaces = true) : d.commitExpiry = (d.tick due).closeBuffer.settle := by
  rw [Dev.commitExpiry, hdue]
  exact Dev.expiry_running _ _ _ _ (by simp [hpart, h]) hpow

theorem Journal.close_a {j : Journal} (h : j.bufA.state = .filling) :
    j.close = { j with bufA := { j.bufA with state := .programming }, progQ := j.progQ ++ [.a], commitDue := none } := by
  simp [Journal.close, Journal.fillingBuf, h, Journal.putBuf, Journal.buf]

theorem Journal.close_b {j : Journal} (hok : j.buffersOk = true) (h : j.bufB.state = .filling) :
    j.close = { j with bufB := { j.bufB with state := .programming }, progQ := j.progQ ++ [.b], commitDue := none } := by
  have ha : j.bufA.state ≠ .filling := fun ha => by simp [Journal.buffersOk, ha, h] at hok
  simp [Journal.close, Journal.fillingBuf, h, ha, Journal.putBuf, Journal.buf]

/-! ## The hold deadlines (R51) -/

theorem Dev.holdExpired_eq (d : Dev) (q : Seq) :
    d.holdExpired q =
      { d with
        held := { d.held with
          entries := d.held.entries.map fun (e : HeldEntry) =>
            if e.seq = q then { e with state := .deciding d.settings.mode.expiryAction .expiry } else e }
        journal := { d.journal with ctrlQ := d.journal.ctrlQ ++ [.decision q d.settings.mode.expiryAction] } } := by
  unfold Dev.holdExpired Dev.setHeld
  simp only [beq_iff_eq]
  rfl

/-! ## The FRONTIER record (R120) -/

theorem Dev.frontierDue_iff (d : Dev) :
    d.frontierDue = true ↔
      d.status.frontierChanged = true ∧ (d.status.checkpoint = .expired ∨ 1024 ≤ d.status.resolutions) := by
  simp [Dev.frontierDue]

/-- R11: a FRONTIER record takes the place of one that waits. -/
theorem Dev.raiseCtrl_frontier (v : Vector (SiteState × Option Seq) 8) (d : Dev) :
    d.raiseCtrl (.frontier v) =
      { d with
        journal := { d.journal with
          ctrlQ :=
            if d.journal.ctrlQ.any Rec.isFrontier then
              d.journal.ctrlQ.map fun x => if x.isFrontier then .frontier v else x
            else d.journal.ctrlQ ++ [.frontier v] } } := by
  have hkind : (Rec.frontier v).isFrontier = true ∧ (Rec.frontier v).isSettings = false ∧ (Rec.frontier v).isResume = false :=
    ⟨rfl, rfl, rfl⟩
  simp only [Dev.raiseCtrl, hkind, Bool.true_and, Bool.false_and, Bool.false_eq_true, if_false]

theorem Dev.raiseFrontier_eq (d : Dev) :
    d.raiseFrontier =
      { d with
        journal := { d.journal with
          ctrlQ :=
            if d.journal.ctrlQ.any Rec.isFrontier then
              d.journal.ctrlQ.map fun x => if x.isFrontier then .frontier (d.sites.map fun x => (x.state, x.frontier)) else x
            else d.journal.ctrlQ ++ [.frontier (d.sites.map fun x => (x.state, x.frontier))] }
        status := { d.status with
          frontierChanged := false, resolutions := 0, checkpoint := .running (d.now + 250000)
          lastFrontier := some d.now } } := by
  rw [Dev.raiseFrontier, Dev.frontierRec, Dev.raiseCtrl_frontier]
  rfl

end Sys2Proof.Machine

/-- Settles O45: each timer's effect comes at its due time, and the FRONTIER record when both conditions of R120 hold. -/
theorem journalTimersExpire : Obligations.JournalTimersExpire := by
  refine ⟨?commit, ?ready, ?frontier⟩
  case commit =>
    intro s due hpow hpart hdue hok quiescing
    have hnext (h : ¬ quiescing) : s.dev.commitExpiry = (s.dev.tick due).closeBuffer.settle :=
      Dev.commitExpiry_running hpow hpart hdue (s.dev.quiescePlaces_iff.not.2 h)
    have hclosed {j : Journal} (h : ¬ quiescing) (hj : s.dev.journal.close = j) :
        s.dev.commitExpiry = Dev.settle { s.dev.tick due with journal := j } :=
      (hnext h).trans (congrArg (fun j : Journal => Dev.settle { s.dev.tick due with journal := j }) hj)
    have hexec {e : Dev} (h : s.dev.commitExpiry = e) : exec .commitTimerExpiry s = .next { s with dev := e } :=
      congrArg (fun x : Dev => Host.Outcome.next (State.mk s.pending x)) h
    exact ⟨fun hq => hexec (Dev.commitExpiry_quiescing (s.dev.quiescePlaces_iff.2 hq)),
      fun hq ha => hexec (hclosed hq (Journal.close_a ha)), fun hq hb => hexec (hclosed hq (Journal.close_b hok hb))⟩
  case ready =>
    intro s due hup
    constructor
    · intro hdue
      show State.goOn Dev.checkpointExpiry s = _
      rw [State.goOn_next, Dev.checkpointExpiry, hdue]
      exact congrArg (fun d : Dev => Host.Outcome.next { s with dev := d }) (Dev.expiry_up _ hup)
    · intro q hentry
      show State.goOn (Dev.holdExpiry q) s = _
      rw [State.goOn_next, Dev.holdExpiry, hentry]
      refine congrArg (fun d : Dev => Host.Outcome.next { s with dev := d }) ((Dev.expiry_up _ hup).trans ?_)
      rw [Dev.holdExpired_eq]
      rfl
  case frontier =>
    intro d due r
    exact ⟨fun h => if_neg (d.frontierDue_iff.not.2 h), fun h => (if_pos (d.frontierDue_iff.2 h)).trans d.raiseFrontier_eq⟩

end

section
/-!
SUPPORT and settlement of O34: one evaluation, its verdict and its notice (R113 to R118).
-/

open Sys2Proof Sys2Proof.Machine

namespace Sys2Proof.Machine

/-! ## Where a routed notice goes (R118, R169) -/

theorem Dev.online_iff (d : Dev) (p : PortId) : d.online p = true ↔ d.ports[p].state = .online := by
  simp [Dev.online]

/-- R169: the first ONLINE port. -/
theorem Dev.onlinePorts_head {d : Dev} {o : PortId} (ho : d.ports[o].state = .online)
    (hfirst : ∀ p : PortId, p < o → d.ports[p].state ≠ .online) : d.onlinePorts.head? = some o := by
  have hon (p : PortId) (h : p < o) : d.online p = false := Bool.eq_false_of_not_eq_true ((d.online_iff p).not.2 (hfirst p h))
  have hself : d.online o = true := (d.online_iff o).2 ho
  rw [Dev.onlinePorts, List.head?_filter]
  refine List.find?_eq_some_iff_append.2 ⟨hself, ?_⟩
  refine ⟨allPorts.take o, allPorts.drop (o + 1), ?_, fun p hp => ?_⟩
  · clear hfirst hon hself ho
    revert o; decide
  · have hlt : p < o := by
      clear hfirst hon hself ho
      revert p o; decide
    rw [hon p hlt]
    rfl

theorem Dev.onlinePorts_none {d : Dev} (h : ∀ p : PortId, d.ports[p].state ≠ .online) : d.onlinePorts = [] :=
  List.filter_eq_nil_iff.2 fun p _ => (d.online_iff p).not.2 (h p)

/-- R118, R169: a notice has been given to the origin port, or to its successor, or is lost. -/
def Dev.RoutedNotice (d u : Dev) (origin : PortId) (b : NoticeBody) : Prop :=
  (d.ports[origin].state = .online →
    ∀ p : PortId, u.ports[p] = if p = origin then d.ports[p].addNotice false b else d.ports[p]) ∧
  (d.ports[origin].state ≠ .online → ∀ o : PortId, d.ports[o].state = .online →
    (∀ p : PortId, p < o → d.ports[p].state ≠ .online) →
    ∀ p : PortId, u.ports[p] = if p = o then d.ports[p].addNotice true b else d.ports[p]) ∧
  ((∀ p : PortId, d.ports[p].state ≠ .online) → u.ports = d.ports ∧ u.partLost = min (d.partLost + 1) 65535)

theorem Dev.route_online {d : Dev} {o : PortId} (b : NoticeBody) (h : d.ports[o].state = .online) :
    d.route o b = d.notify o false b := by
  unfold Dev.route Dev.successor
  rw [if_pos ((d.online_iff o).2 h)]
  simp

theorem Dev.route_offline {d : Dev} {p : PortId} (b : NoticeBody) (h : d.ports[p].state ≠ .online) :
    d.route p b = match d.onlinePorts.head? with
      | some q => d.notify q (q != p) b
      | none => { d with partLost := sat16 (d.partLost + 1) } := by
  unfold Dev.route Dev.successor
  rw [if_neg ((d.online_iff p).not.2 h)] <;> rfl

theorem Dev.notify_port (d : Dev) (o p : PortId) (r : Bool) (b : NoticeBody) :
    (d.notify o r b).ports[p] = if p = o then d.ports[p].addNotice r b else d.ports[p] := Dev.modPort_port _ _ _ _

theorem Dev.routedNotice_route (d : Dev) (origin : PortId) (b : NoticeBody) : d.RoutedNotice (d.route origin b) origin b := by
  refine ⟨fun h p => ?_, fun h o ho hfirst p => ?_, fun h => ?_⟩
  · rw [Dev.route_online b h, Dev.notify_port]
  · have hne : (o != origin) = true := bne_iff_ne.2 fun he => h (he ▸ ho)
    rw [Dev.route_offline b h, Dev.onlinePorts_head ho hfirst]
    dsimp only
    rw [hne, Dev.notify_port]
  · rw [Dev.route_offline b (h origin), Dev.onlinePorts_none h]
    exact ⟨rfl, rfl⟩

theorem Dev.RoutedNotice.of_ports {d e u : Dev} {o : PortId} {b : NoticeBody} (h : e.RoutedNotice u o b) (hp : e.ports = d.ports)
    (hl : e.partLost = d.partLost) : d.RoutedNotice u o b := by
  unfold Dev.RoutedNotice at *
  rwa [hp, hl] at h

/-! ## The verdict tests (R114, R115) -/

theorem Dev.testVerdict_same {d : Dev} {q : Seq} {x : Slot} (hx : d.slot? q = some x) (h : x.testedVerdict = x.verdict) :
    d.testVerdict q = d := by
  unfold Slot.testedVerdict at h
  unfold Dev.testVerdict
  rw [hx]
  dsimp only
  split
  · rfl
  · next hnone =>
    have hverdict : x.verdict = none := by
      rw [Bool.or_eq_true, not_or, Option.not_isSome_iff_eq_none] at hnone
      exact hnone.2
    rw [if_neg hnone, hverdict] at h
    split
    · next hq => rw [if_pos hq] at h; contradiction
    · next hq =>
      rw [if_neg hq] at h
      split
      · next hs => rw [if_pos hs] at h; contradiction
      · rfl

/-- R114, R115: a new verdict is counted, and its notice is routed. -/
theorem Dev.testVerdict_new {d : Dev} {q : Seq} {x : Slot} {v : Verdict} (hx : d.slot? q = some x) (hnone : x.verdict = none)
    (h : x.testedVerdict = some v) :
    (v = .durable ∧ d.testVerdict q = (d.setVerdict q x v).route x.origin (.durable (x.noticeRoute q) x.acked x.quorum)) ∨
      (v = .shortfall ∧
        d.testVerdict q = (d.setVerdict q x v).route x.origin (.shortfall (x.noticeRoute q) x.acked x.quorum x.closed)) := by
  unfold Slot.testedVerdict at h
  unfold Dev.testVerdict
  rw [hx]
  dsimp only
  rw [hnone] at h
  split at h
  · contradiction
  · next hopen =>
    rw [hnone, if_neg hopen]
    split at h
    · next hq =>
      obtain rfl : Verdict.durable = v := Option.some.inj h
      exact .inl ⟨rfl, if_pos hq⟩
    · next hq =>
      split at h
      · next hs =>
        obtain rfl : Verdict.shortfall = v := Option.some.inj h
        exact .inr ⟨rfl, (if_neg hq).trans (if_pos hs)⟩
      · contradiction

/-! ## The evaluation (R113) -/

/-- R113: the intent becomes resolved. -/
def Slot.newly (x : Slot) (was : Bool) : Prop := x.held = false ∧ x.openMarks = 0 ∧ was = false

theorem Slot.newly_iff {x : Slot} {was : Bool} (h : x.written = true) : (x.resolved && !was) = true ↔ x.newly was := by
  simp [Slot.resolved_iff, h, Slot.newly, and_comm, and_left_comm]

/-- The part when the intent's resolution is counted, before the verdict tests. -/
def Dev.counted (q : Seq) (x : Slot) (was : Bool) (d : Dev) : Dev := if x.resolved && !was then d.resolve q x else d

theorem Dev.evaluate_written {d : Dev} {q : Seq} {x : Slot} (was : Bool) (hx : d.slot? q = some x) (h : x.written = true) :
    d.evaluate q was = (d.counted q x was).testVerdict q := by
  unfold Dev.evaluate
  rw [hx]
  dsimp only
  rw [if_neg (by rw [h]; exact Bool.false_ne_true)]
  rfl

theorem Dev.evaluate_staged {d : Dev} {q : Seq} {x : Slot} (was : Bool) (hx : d.slot? q = some x) (h : x.written = false) :
    d.evaluate q was = d := by
  unfold Dev.evaluate
  rw [hx]
  dsimp only
  rw [if_pos (by rw [h]; rfl)]

theorem Dev.resolve_rest (d : Dev) (q : Seq) (x : Slot) : { d.resolve q x with status := d.status, index := d.index } = d := by
  unfold Dev.resolve
  cases x.link <;> rfl

theorem Dev.resolve_resolutions (d : Dev) (q : Seq) (x : Slot) : (d.resolve q x).status.resolutions = d.status.resolutions + 1 := by
  unfold Dev.resolve
  cases x.link <;> rfl

theorem Dev.resolve_index (d : Dev) (q : Seq) (x : Slot) :
    (∀ w, x.link = some w → (d.resolve q x).index = d.index.release w) ∧ (x.link = none → (d.resolve q x).index = d.index) := by
  unfold Dev.resolve
  constructor
  · intro w h
    rw [h]
    rfl
  · intro h
    rw [h]
    rfl

/-- The slot after the count. -/
def Slot.unlinked (x : Slot) (was : Bool) : Slot := { x with link := if x.resolved && !was then none else x.link }

theorem Dev.counted_slot {d : Dev} {q : Seq} {x : Slot} (was : Bool) (hx : d.slot? q = some x) :
    (d.counted q x was).slot? q = some (x.unlinked was) := by
  unfold Dev.counted Slot.unlinked
  cases x.resolved && !was
  · exact hx
  · exact Dev.resolve_slot q x d

theorem Dev.counted_rest (d : Dev) (q : Seq) (x : Slot) (was : Bool) :
    { d.counted q x was with status := d.status, index := d.index } = d := by
  unfold Dev.counted
  split
  · exact d.resolve_rest q x
  · rfl

theorem Dev.setVerdict_resolutions (d : Dev) (q : Seq) (x : Slot) (v : Verdict) :
    (d.setVerdict q x v).status.resolutions = d.status.resolutions := by cases v <;> rfl

theorem Dev.testVerdict_resolutions (d : Dev) (q : Seq) : (d.testVerdict q).status.resolutions = d.status.resolutions := by
  have hroute (e : Dev) (p : PortId) (b : NoticeBody) : (e.route p b).status = e.status := (congrArg Dev.status (e.route_rest p b) :)
  unfold Dev.testVerdict
  split
  · rfl
  · split
    · rfl
    · split
      · rw [hroute, Dev.setVerdict_resolutions]
      · split
        · rw [hroute, Dev.setVerdict_resolutions]
        · rfl

theorem Slot.testedVerdict_eq (x : Slot) :
    x.testedVerdict =
      if x.held = true ∨ x.verdict ≠ none then x.verdict
      else if x.quorum ≤ x.acked then some .durable
      else if x.acked + x.openMarks < x.quorum then some .shortfall else none := by
  unfold Slot.testedVerdict
  cases x.verdict <;> simp

end Sys2Proof.Machine

/-- Settles O34: the evaluation counts the resolution and then tests the verdict. -/
theorem evaluationGivesOneVerdict : Obligations.EvaluationGivesOneVerdict := by
  intro d q x was hx u acked opened newly route told verdict
  have hacked : x.acked = acked := x.acked_eq
  have hopen : x.openMarks = opened := x.openMarks_eq
  have hverdict : x.testedVerdict = verdict := by
    rw [Slot.testedVerdict_eq, hacked, hopen]
  refine ⟨Dev.evaluate_staged was hx, fun hw => ?_⟩
  have hnewly : (x.resolved && !was) = true ↔ newly := by rw [Slot.newly_iff hw, Slot.newly, hopen]
  obtain ⟨e, he⟩ : ∃ e : Dev, e = d.counted q x was := ⟨_, rfl⟩
  have hu : u = e.testVerdict q := he ▸ Dev.evaluate_written was hx hw
  have hslot : e.slot? q = some (x.unlinked was) := he ▸ Dev.counted_slot was hx
  have hrest : { e with status := d.status, index := d.index } = d := he ▸ d.counted_rest q x was
  have hports : e.ports = d.ports := (congrArg Dev.ports hrest :)
  have hlost : e.partLost = d.partLost := (congrArg Dev.partLost hrest :)
  have htested : (x.unlinked was).testedVerdict = verdict := hverdict
  obtain ⟨heval, -, hslots⟩ := Dev.evaluate_kept q was d
  obtain ⟨-, -, -, hindex⟩ := Dev.testVerdict_kept q e
  have hnotice {v : Verdict} {b : NoticeBody} (h : u = (e.setVerdict q (x.unlinked was) v).route x.origin b) : told b := by
    have htold := Dev.routedNotice_route (e.setVerdict q (x.unlinked was) v) x.origin b
    rw [← h] at htold
    exact htold.of_ports hports hlost
  refine ⟨?slot, hslots.1, ?resolutions, ?released, ?kept, ?same, ?durable, ?shortfall, (congrArg Dev.sites heval :),
    (congrArg Dev.journal heval :), (congrArg Dev.settings heval :), (congrArg Dev.held heval :)⟩
  case slot =>
    rw [Dev.evaluate_slot was hx, Slot.evaluated, if_pos hw, hverdict, if_congr hnewly rfl rfl]
  case resolutions =>
    rw [hu, Dev.testVerdict_resolutions, he, Dev.counted]
    by_cases h : newly
    · rw [if_pos (hnewly.2 h), if_pos h, Dev.resolve_resolutions]
    · rw [if_neg (hnewly.not.2 h), if_neg h]
  case released =>
    intro h w hlink
    rw [hu, hindex, he, Dev.counted, if_pos (hnewly.2 h)]
    exact (d.resolve_index q x).1 w hlink
  case kept =>
    intro h
    rw [hu, hindex, he, Dev.counted]
    split
    · next hr => exact (d.resolve_index q x).2 (h.resolve_left (not_not.2 (hnewly.1 hr)))
    · rfl
  case same =>
    intro h
    rw [hu, Dev.testVerdict_same hslot (htested.trans h)]
    exact ⟨hports, hlost⟩
  case durable =>
    intro hnone hv
    rcases Dev.testVerdict_new hslot hnone (htested.trans hv) with ⟨-, h⟩ | ⟨h, -⟩
    · have := hnotice (hu.trans h)
      rwa [show (x.unlinked was).acked = acked from hacked] at this
    · contradiction
  case shortfall =>
    intro hnone hv
    rcases Dev.testVerdict_new hslot hnone (htested.trans hv) with ⟨h, -⟩ | ⟨-, h⟩
    · contradiction
    · have := hnotice (hu.trans h)
      rwa [show (x.unlinked was).acked = acked from hacked] at this

end

section
/-!
SUPPORT of O28 to O31, O47 to O49, O52 and O53: the latches of a slot, one transition of a mark, and the frames that are handed to
their slot.
-/

open Sys2Proof Sys2Proof.Machine

namespace Sys2Proof.Machine

/-! ## The latches of a slot (R78, R176) -/

/-- R78: the four kinds that are latched at a slot. -/
def FaultKind.ofSite : FaultKind → Bool
  | .stall | .overrun | .digest | .protocol => true
  | _ => false

def FaultKind.latchedAt (k : FaultKind) (x : Site) : Bool :=
  match k with
  | .stall => x.stall
  | .overrun => x.overrun
  | .digest => x.digest
  | .protocol => x.protocol
  | _ => false

def FaultKind.latchAt (k : FaultKind) (x : Site) : Site :=
  match k with
  | .stall => { x with stall := true }
  | .overrun => { x with overrun := true }
  | .digest => { x with digest := true }
  | .protocol => { x with protocol := true }
  | _ => x

theorem FaultKind.latchAt_of_latched {k : FaultKind} {x : Site} (h : k.latchedAt x = true) : k.latchAt x = x := by
  cases k with
  | stall | overrun | digest | protocol =>
    cases x
    dsimp only [FaultKind.latchedAt] at h
    subst h
    rfl
  | _ => rfl

section Latch

variable {k : FaultKind} (hk : k.ofSite = true) (d : Dev) (j : SlotId)
include hk

theorem Dev.latchSlot_eq :
    d.latchSlot k j =
      if k.latchedAt d.sites[j] = true then d else (d.modSite j k.latchAt).faultNotice k (.slot j (d.config j).site) := by
  cases k with
  | stall | overrun | digest | protocol => rfl
  | _ => cases hk

theorem Dev.latchSlot_sites : (d.latchSlot k j).sites = d.sites.set j (k.latchAt d.sites[j]) := by
  rw [Dev.latchSlot_eq hk]
  split
  · next h =>
    rw [FaultKind.latchAt_of_latched h]
    exact (Vector.set_getElem_self j.isLt).symm
  · exact (congrArg Dev.sites (Dev.faultNotice_rest (d.modSite j k.latchAt) _ _) :)

theorem Dev.latchSlot_port (q : PortId) :
    (d.latchSlot k j).ports[q] =
      if k.latchedAt d.sites[j] = false ∧ d.ports[q].state = .online ∧ d.settings.masks[q].getLsbD k.index = true then
        d.ports[q].addNotice false (.fault k (.slot j (d.config j).site))
      else d.ports[q] := by
  rw [Dev.latchSlot_eq hk]
  split
  · next h => exact (if_neg fun hn => Bool.false_ne_true (hn.1.symm.trans h)).symm
  · next h =>
    rw [Dev.faultNotice_port]
    exact if_congr ⟨fun hn => ⟨Bool.eq_false_of_not_eq_true h, hn⟩, And.right⟩ rfl rfl

theorem Dev.latchSlot_rest : { d.latchSlot k j with sites := d.sites, ports := d.ports } = d := by
  rw [Dev.latchSlot_eq hk]
  split
  · rfl
  · exact congrArg (fun e : Dev => { e with sites := d.sites }) (Dev.faultNotice_rest (d.modSite j k.latchAt) _ _)

end Latch

/-! ## One transition of a mark (R111) -/

section Mark

variable (d : Dev) (j : SlotId) (q : Seq) (from_ : Mark → Bool) (new : Mark)

theorem Dev.moveMark_kept : d.EvalKept (d.moveMark j q from_ new) := (d.updateSlot_kept q _).1

theorem Dev.moveMark_sites : (d.moveMark j q from_ new).sites = d.sites := (congrArg Dev.sites (d.moveMark_kept j q from_ new) :)

theorem Dev.moveMark_slot_other {r : Seq} (h : r ≠ q) : (d.moveMark j q from_ new).slot? r = d.slot? r :=
  (d.updateSlot_kept q _).2.2.1 r h

theorem Dev.moveMark_slot_self {x : Slot} (hx : d.slot? q = some x) :
    ∃ y, (d.moveMark j q from_ new).slot? q = some y ∧
      y.mark j = (x.mark j).map (fun m => if from_ m then new else m) ∧ ∀ k, k ≠ j → y.mark k = x.mark k := by
  obtain ⟨-, -, -, -, hslot⟩ := d.updateSlot_kept q fun x => x.move j from_ new
  obtain ⟨y, hy, hsame⟩ := hslot x hx
  exact ⟨y, hy, (hsame.mark j).trans (x.move_mark_self j from_ new), fun k hk => (hsame.mark k).trans (x.move_mark_other j k from_ new hk)⟩

end Mark

/-- R72, R77: the mark of an intent in flight. -/
theorem mark_map_inFlight (m : Option Mark) (new : Mark) :
    m.map (fun m => if m == .inFlight then new else m) = if m = some .inFlight then some new else m := by
  cases m with
  | none => rfl
  | some m => by_cases h : m = .inFlight <;> simp [h]

/-! ## A frame that is handed to its slot (R64, R65) -/

theorem InBody.badContents_hello_self (n : Nat) : (InBody.hello n).badContents n = false := by simp [InBody.badContents]

theorem InBody.badContents_receipt_good {l : List (Nat × Nat)} (receiver : Nat) (h : l ≠ []) (hl : l.length ≤ 64) :
    (InBody.receipt l).badContents receiver = false := by
  simp [InBody.badContents, h, hl]

theorem InBody.badContents_gap_good {q : Nat} {l : List (Nat × Nat)} (receiver : Nat) (h : l ≠ []) (hl : l.length ≤ 32)
    (hr : ∀ r ∈ l, r.1 ≤ r.2) : (InBody.gap q l).badContents receiver = false := by
  simp only [InBody.badContents]
  simp [h, hl]
  exact fun a b hab => hr (a, b) hab

section Handed

variable {d : Dev} {h : FrameHdr} {j : SlotId} (sp : SpanId) {b : InBody} (hl : d.settings.localSite = some h.receiver)
  (hj : d.hearsAt j h.sender) (hr : d.part = .ready) (hb : b.badContents h.receiver = false)
include hl hj hr hb

theorem Dev.receive_handed (ha : (d.siteState j).admits b = true) (hk : d.startKnown j h b = true) :
    d.receive sp h b = d.handFrame j h b := by
  rw [Dev.receive_heard sp hl hj, if_neg (by rw [ha]; exact Bool.false_ne_true), if_neg (by rw [hb]; exact Bool.false_ne_true),
    if_neg (not_not_intro hr), if_pos hk]

/-- R65: a frame that carries the recorded start count, at a slot that is not PROBING. -/
theorem Dev.receive_known (hst : d.sites[j].state ≠ .probing) (hk : d.sites[j].peerStart = some h.start) :
    d.receive sp h b = d.handFrame j h b := by
  refine Dev.receive_handed sp hl hj hr hb (SiteState.admits_of_ne_probing b hst) ?_
  unfold Dev.startKnown
  rw [hk, beq_self_eq_true, Bool.or_true]

/-- R67: a HELLO or HELLO-ACK, whatever count it carries. -/
theorem Dev.receive_hello (hh : b.isHello = true) (hk : d.startKnown j h b = true) : d.receive sp h b = d.handFrame j h b :=
  Dev.receive_handed sp hl hj hr hb (SiteState.admits_of_isHello _ hh) hk

end Handed

end Sys2Proof.Machine
end

section
/-!
SUPPORT and settlement of O48: RECEIPT (R77, R98, R111).
-/

open Sys2Proof Sys2Proof.Machine

namespace Sys2Proof.Machine

theorem receiptOutcomeOf_eq_none {code : Nat} (h : ¬ (code = 1 ∨ code = 2 ∨ code = 3)) : receiptOutcomeOf code = none := by
  unfold receiptOutcomeOf
  split
  iterate 3 omega
  rfl

/-- R77: the outcome that a known code stands for. -/
theorem receiptOutcomeOf_known {code : Nat} (h : code = 1 ∨ code = 2 ∨ code = 3) :
    ∃ o, receiptOutcomeOf code = some o ∧ (o = .stored ↔ code = 1) ∧ o.mark = if code = 3 then .failed else .acked := by
  rcases h with rfl | rfl | rfl
  · exact ⟨.stored, rfl, by decide, rfl⟩
  · exact ⟨.supersededAtPeer, rfl, by decide, rfl⟩
  · exact ⟨.refused, rfl, by decide, rfl⟩

theorem Dev.takeReceipt_unknown {d : Dev} {code : Nat} (j : SlotId) (q : Seq) (h : receiptOutcomeOf code = none) :
    d.takeReceipt j q code = (d.latchSlot .protocol j).duplicate j := by
  rw [Dev.takeReceipt, h]

theorem Dev.takeReceipt_duplicate {d : Dev} {j : SlotId} {q : Seq} {code : Nat} {o : ReceiptOutcome}
    (h : receiptOutcomeOf code = some o) (he : d.sites[j].entry q = none) : d.takeReceipt j q code = d.duplicate j := by
  rw [Dev.takeReceipt, h]
  dsimp only
  rw [he]

/-- R77, R98: what a receipt does at its slot. -/
def Site.receipted (now : Time) (q : Seq) (e : InFlight) (o : ReceiptOutcome) (x : Site) : Site :=
  let y := x.dropInFlight q
  let y := match e.sentOnce, e.lastSend with
    | true, some t => y.sample now t
    | _, _ => y
  if o = .stored then { y with busyCount := 0, busyEnd := none } else y

theorem Dev.takeReceipt_entry {d : Dev} {j : SlotId} {q : Seq} {code : Nat} {o : ReceiptOutcome} {e : InFlight}
    (h : receiptOutcomeOf code = some o) (he : d.sites[j].entry q = some e) :
    d.takeReceipt j q code = (d.modSite j (Site.receipted d.now q e o)).moveMark j q (· == .inFlight) o.mark := by
  rw [Dev.takeReceipt, h]
  dsimp only
  rw [he]
  rfl

theorem Site.receipted_eq (now : Time) (q : Seq) (e : InFlight) (o : ReceiptOutcome) (x : Site) :
    x.receipted now q e o =
      { x with
        inFlight := x.inFlight.filter fun y => y.seq != q
        resends := x.resends.filter fun y => y.seq != q
        send := x.send.filter fun y => y.seq != q
        rtt :=
          match e.sentOnce, e.lastSend with
          | true, some last => some (rttAfter x.rtt (clampSample (now - last)))
          | _, _ => x.rtt
        busyCount := if o = .stored then 0 else x.busyCount
        busyEnd := if o = .stored then none else x.busyEnd } := by
  unfold Site.receipted
  cases e.sentOnce <;> cases e.lastSend <;> by_cases ho : o = .stored <;> simp [ho, Site.dropInFlight, Site.sample]

end Sys2Proof.Machine

/-- Settles O48: each entry of a RECEIPT is a duplicate, or removes its in-flight entry and closes its mark. -/
theorem receiptClosesTheMark : Obligations.ReceiptClosesTheMark := by
  constructor
  · intro s t sp h j l hup hl hj hst hk hne hlen
    exact exec_arrives_next hup.1 rfl (Dev.receive_known (d := s.dev.tick t) sp hl hj hup.2
      (InBody.badContents_receipt_good h.receiver hne hlen) hst hk)
  · intro d j q code x u duplicate known
    refine ⟨fun hknown he => ?duplicate, fun hunknown => ?protocol, fun hknown e he => ?entry⟩
    case duplicate =>
      obtain ⟨o, ho, -, -⟩ := receiptOutcomeOf_known hknown
      exact Dev.takeReceipt_duplicate ho he
    case protocol =>
      have hu : u = (d.latchSlot .protocol j).duplicate j := Dev.takeReceipt_unknown j q (receiptOutcomeOf_eq_none hunknown)
      have hsites := Dev.latchSlot_sites (k := .protocol) rfl d j
      have hrest := Dev.latchSlot_rest (k := .protocol) rfl d j
      rw [hu]
      refine ⟨?_, (congrArg Dev.status hrest :), (congrArg Dev.index hrest :)⟩
      rw [Dev.duplicate, Dev.modSite_sites, hsites]
      simp only [Fin.getElem_fin, Vector.getElem_set_self, Vector.set_set]
      rfl
    case entry =>
      obtain ⟨o, ho, hstored, hmark⟩ := receiptOutcomeOf_known hknown
      have hu : u = _ := Dev.takeReceipt_entry ho he
      have hkept := (d.modSite j (Site.receipted d.now q e o)).moveMark_kept j q (· == .inFlight) o.mark
      rw [hu]
      refine ⟨?sites, fun y hy => ?mark, fun r hr => Dev.moveMark_slot_other _ j q _ _ hr, (congrArg Dev.journal hkept :),
        (congrArg Dev.settings hkept :), (congrArg Dev.array hkept :), (congrArg Dev.held hkept :)⟩
      case sites =>
        rw [Dev.moveMark_sites, Dev.modSite_sites, Site.receipted_eq, if_congr hstored rfl rfl, if_congr hstored rfl rfl] <;> rfl
      case mark =>
        obtain ⟨z, hz, hself, hother⟩ := Dev.moveMark_slot_self (d.modSite j (Site.receipted d.now q e o)) j q (· == .inFlight) o.mark hy
        refine ⟨z, hz, ?_, hother⟩
        rw [hself, mark_map_inFlight, hmark]

end

section
/-!
SUPPORT and settlement of O49: GAP and BUSY (R69, R75, R76).
-/

open Sys2Proof Sys2Proof.Machine

namespace Sys2Proof.Machine

/-! ## GAP -/

/-- R75: the chunk is due already, or the send in progress has not yet handed it over. -/
def Site.ChunkPending (x : Site) (q : Seq) (k : Nat) : Prop :=
  (∃ r ∈ x.resends, r.seq = q ∧ (r.chunks = none ∨ ∃ m, r.chunks = some m ∧ k ∈ m)) ∨
    ∃ y, x.send = some y ∧ y.seq = q ∧ .chunk k ∈ y.pieces

theorem Site.chunkDue_iff (x : Site) (q : Seq) (k : Nat) : x.chunkDue q k = true ↔ x.ChunkPending q k := by
  have hresend (r : Resend) : (match r.chunks with | none => true | some l => l.contains k) = true ↔
      r.chunks = none ∨ ∃ m, r.chunks = some m ∧ k ∈ m := by
    cases r.chunks <;> simp
  unfold Site.chunkDue Site.ChunkPending
  rw [Bool.or_eq_true, List.any_eq_true]
  refine or_congr ?_ ?_
  · simp only [Bool.and_eq_true, beq_iff_eq]
    exact exists_congr fun r => and_congr_right fun _ => and_congr_right fun _ => hresend r
  · cases x.send <;> simp

/-- R75: the chunks that a GAP makes due are those that its ranges name and that are not due already, ascending. -/
theorem gapChunks_filter_eq {x : Site} {q : Seq} {count : Nat} {l : List (Nat × Nat)} {m : List Nat}
    (hin : ¬ (count = 0 ∨ ∃ r ∈ l, count ≤ r.2)) (hsorted : m.Pairwise (· < ·))
    (hm : ∀ k, k ∈ m ↔ (∃ r ∈ l, r.1 ≤ k ∧ k ≤ r.2) ∧ ¬ x.ChunkPending q k) :
    ((gapChunks count l).filter fun k => !x.chunkDue q k) = m := by
  have hascending : ((gapChunks count l).filter fun k => !x.chunkDue q k).Pairwise (· < ·) :=
    (List.pairwise_lt_range.filter _).filter _
  refine hascending.eq_of_mem_iff hsorted fun k => ?_
  rw [hm, List.mem_filter, Bool.not_eq_true', ← Bool.not_eq_true, Site.chunkDue_iff, gapChunks, List.mem_filter, List.mem_range]
  simp only [List.any_eq_true, Bool.and_eq_true, decide_eq_true_iff]
  refine and_congr_left fun _ => and_iff_right_of_imp ?_
  rintro ⟨r, hr, -, hk⟩
  by_contra hcount
  exact hin (.inr ⟨r, hr, by omega⟩)

theorem any_beyond_iff (count : Nat) (l : List (Nat × Nat)) :
    (l.any (fun r => decide (count ≤ r.2)) = true) ↔ ∃ r ∈ l, count ≤ r.2 := by
  simp only [List.any_eq_true, decide_eq_true_iff]

theorem Dev.takeGap_duplicate {d : Dev} {j : SlotId} {q : Seq} (l : List (Nat × Nat)) (h : d.sites[j].entry q = none) :
    d.takeGap j q l = d.duplicate j := by
  rw [Dev.takeGap, h]

theorem Dev.takeGap_beyond {d : Dev} {j : SlotId} {q : Seq} {l : List (Nat × Nat)} {e : InFlight}
    (h : d.sites[j].entry q = some e)
    (hb : (e.record.payloadLen + 8191) / 8192 = 0 ∨ ∃ r ∈ l, (e.record.payloadLen + 8191) / 8192 ≤ r.2) :
    d.takeGap j q l = d.latchSlot .protocol j := by
  rw [Dev.takeGap, h]
  exact if_pos ((or_congr_right (any_beyond_iff _ l)).2 hb)

theorem Dev.takeGap_due {d : Dev} {j : SlotId} {q : Seq} {l : List (Nat × Nat)} {e : InFlight} {m : List Nat}
    (h : d.sites[j].entry q = some e)
    (hin : ¬ ((e.record.payloadLen + 8191) / 8192 = 0 ∨ ∃ r ∈ l, (e.record.payloadLen + 8191) / 8192 ≤ r.2))
    (hsorted : m.Pairwise (· < ·))
    (hm : ∀ k, k ∈ m ↔ (∃ r ∈ l, r.1 ≤ k ∧ k ≤ r.2) ∧ ¬ d.sites[j].ChunkPending q k) :
    d.takeGap j q l =
      d.modSite j fun y =>
        { y with
          inFlight := y.inFlight.map fun (z : InFlight) =>
            if z.seq = q then { z with deadline := none, sentOnce := false } else z
          resends := if m = [] then y.resends else y.resends ++ [⟨q, some m⟩] } := by
  rw [Dev.takeGap, h]
  refine (if_neg ((or_congr_right (any_beyond_iff _ l)).not.2 hin)).trans (Dev.modSite_congr ?_)
  · dsimp only
    rw [chunkCount, gapChunks_filter_eq hin hsorted hm]
    simp only [Site.modEntry, beq_iff_eq, List.isEmpty_iff]

/-! ## BUSY -/

theorem Dev.takeBusy_duplicate {d : Dev} {j : SlotId} {q : Seq} (h : d.sites[j].entry q = none) :
    d.takeBusy j q = d.duplicate j := by
  rw [Dev.takeBusy, h]

/-- R69, R76: what a BUSY does at its slot but for the latch. -/
def Site.busied (now : Time) (q : Seq) (x : Site) : Site :=
  let n := min (x.busyCount + 1) 65535
  let c := min x.cursor q
  { x.dropInFlight q with
    cursor := c, candidates := x.candidates.filter fun y => decide (y.seq < c)
    busyCount := n, busyEnd := some (max (x.busyEnd.getD 0) (now + min (10000 * 2 ^ (n - 1)) 1000000)) }

/-- The part after a BUSY but for the latch. -/
def Dev.busied (j : SlotId) (q : Seq) (d : Dev) : Dev :=
  let e := ((d.modSite j (Site.dropInFlight q)).moveMark j q (· == .inFlight) .pending).lowerCursor j q
  let n := sat16 (d.sites[j].busyCount + 1)
  e.modSite j fun x => { x with busyCount := n, busyEnd := some (max (x.busyEnd.getD 0) (e.now + busyInterval n)) }

theorem Dev.takeBusy_entry {d : Dev} {j : SlotId} {q : Seq} {e : InFlight} (h : d.sites[j].entry q = some e) :
    d.takeBusy j q =
      if min (d.sites[j].busyCount + 1) 65535 = 16 then (d.busied j q).latchSlot .overrun j else d.busied j q := by
  rw [Dev.takeBusy, h]
  rfl

theorem Dev.busied_kept (d : Dev) (j : SlotId) (q : Seq) :
    { d.busied j q with
      sites := d.sites, ports := d.ports, partLost := d.partLost, status := d.status, index := d.index } = d := by
  have hmove := (d.modSite j (Site.dropInFlight q)).moveMark_kept j q (· == .inFlight) .pending
  exact congrArg (fun e : Dev => { e with sites := d.sites }) hmove

theorem Dev.busied_sites (d : Dev) (j : SlotId) (q : Seq) :
    (d.busied j q).sites = d.sites.set j (d.sites[j].busied d.now q) := by
  have hmove := (d.modSite j (Site.dropInFlight q)).moveMark_sites j q (· == .inFlight) .pending
  have hnow : ((d.modSite j (Site.dropInFlight q)).moveMark j q (· == .inFlight) .pending).now = d.now :=
    (congrArg Dev.now ((d.modSite j (Site.dropInFlight q)).moveMark_kept j q (· == .inFlight) .pending) :)
  unfold Dev.busied Dev.lowerCursor
  dsimp only
  generalize (d.modSite j (Site.dropInFlight q)).moveMark j q (· == .inFlight) .pending = e at *
  rw [Dev.modSite_modSite, Dev.modSite_sites, hmove, Dev.modSite_now, hnow, Dev.modSite_sites]
  simp only [Fin.getElem_fin, Vector.getElem_set_self, Vector.set_set]
  rfl

theorem Dev.busied_slot (d : Dev) (j : SlotId) (q r : Seq) :
    (d.busied j q).slot? r = ((d.modSite j (Site.dropInFlight q)).moveMark j q (· == .inFlight) .pending).slot? r := rfl

end Sys2Proof.Machine

/-- Settles O49: without an in-flight entry both frames are duplicates; else the entry's chunks become due, or it is removed. -/
theorem gapAndBusyActOnTheEntry : Obligations.GapAndBusyActOnTheEntry := by
  intro s t sp h j q hup hl hj hst hk d x duplicate
  have hgap {l : List (Nat × Nat)} {u : Dev} (hne : l ≠ []) (hlen : l.length ≤ 32) (hr : ∀ r ∈ l, r.1 ≤ r.2)
      (hu : d.takeGap j q l = u) : exec (.gapReceived t sp h q l) s = .next { s with dev := u.settle } :=
    exec_arrives_next hup.1 rfl ((Dev.receive_known (d := d) sp hl hj hup.2
      (InBody.badContents_gap_good h.receiver hne hlen hr) hst hk).trans hu)
  have hbusy {u : Dev} (hu : d.takeBusy j q = u) : exec (.busyReceived t sp h q) s = .next { s with dev := u.settle } :=
    exec_arrives_next hup.1 rfl ((Dev.receive_known (d := d) sp hl hj hup.2 rfl hst hk).trans hu)
  refine ⟨fun l hne hlen hr => ⟨fun he => ?gapDuplicate, fun e he => ?gap⟩, fun he => ?busyDuplicate, fun e he => ?busy⟩
  case gapDuplicate => exact hgap hne hlen hr (Dev.takeGap_duplicate l he)
  case gap =>
    intro count beyond pending
    refine ⟨fun hb => ?_, fun hin m hsorted hm => ?_⟩
    · refine ⟨_, hgap hne hlen hr (Dev.takeGap_beyond (d := d) he hb), Dev.latchSlot_sites (k := .protocol) rfl d j, ?_⟩
      exact (congrArg Dev.status (Dev.latchSlot_rest (k := .protocol) rfl d j) :)
    · exact hgap hne hlen hr (Dev.takeGap_due (d := d) he hin hsorted hm)
  case busyDuplicate => exact hbusy (Dev.takeBusy_duplicate he)
  case busy =>
    intro n c
    have hkept := d.busied_kept j q
    have hsites := d.busied_sites j q
    have hother (r : Seq) (hr : r ≠ q) : (d.busied j q).slot? r = d.slot? r := Dev.moveMark_slot_other _ j q _ _ hr
    have hself (y : Slot) (hy : d.slot? q = some y) : ∃ z, (d.busied j q).slot? q = some z ∧ _ :=
      Dev.moveMark_slot_self (d.modSite j (Site.dropInFlight q)) j q (· == .inFlight) .pending hy
    have htaken := hbusy (Dev.takeBusy_entry (d := d) he)
    generalize d.busied j q = v at *
    obtain ⟨u, hu, husites, hurest⟩ : ∃ u : Dev,
        (if min (x.busyCount + 1) 65535 = 16 then v.latchSlot .overrun j else v) = u ∧
        u.sites = v.sites.set j { v.sites[j] with overrun := if n = 16 then true else v.sites[j].overrun } ∧
        { u with sites := v.sites, ports := v.ports } = v := by
      by_cases hn : n = 16
      · refine ⟨_, if_pos hn, ?_, Dev.latchSlot_rest (k := .overrun) rfl v j⟩
        rw [Dev.latchSlot_sites (k := .overrun) rfl, if_pos hn]
        rfl
      · refine ⟨_, if_neg hn, ?_, rfl⟩
        rw [if_neg hn]
        exact (Vector.set_getElem_self j.isLt).symm
    have hslot (r : Seq) : u.slot? r = v.slot? r := (congrArg (fun e : Dev => e.slot? r) hurest :)
    refine ⟨u, htaken.trans (congrArg (fun e : Dev => Host.Outcome.next { s with dev := e.settle }) hu), ?sites, fun y hy => ?mark,
      fun r hr => (hslot r).trans (hother r hr), (congrArg Dev.journal hurest :).trans (congrArg Dev.journal hkept :),
      (congrArg Dev.settings hurest :).trans (congrArg Dev.settings hkept :),
      (congrArg Dev.array hurest :).trans (congrArg Dev.array hkept :)⟩
    case sites =>
      rw [husites, hsites]
      simp only [Fin.getElem_fin, Vector.getElem_set_self, Vector.set_set]
      rfl
    case mark =>
      obtain ⟨z, hz, hmark, hrest⟩ := hself y hy
      refine ⟨z, (hslot q).trans hz, ?_, hrest⟩
      rw [hmark, mark_map_inFlight]

end

section
/-!
SUPPORT of O30, O47 and O52: a slot's in-flight entries return, and its cursor goes to the frontier (R67, R69, R74, R80).
-/

open Sys2Proof Sys2Proof.Machine

namespace Sys2Proof.Machine

/-- R67: the mark of an intent that was in flight. -/
def Site.Returns (x : Site) (j : SlotId) (q : Seq) (y : Slot) : Prop := y.mark j = some .inFlight ∧ ∃ e ∈ x.inFlight, e.seq = q

/-- R67, R74, R80: nothing is in flight, due or being sent. -/
def Site.emptied (x : Site) : Site := { x with inFlight := [], resends := [], send := none }

section Returned

variable (d : Dev) (j : SlotId)

theorem Dev.returnInFlight_eq :
    d.returnInFlight j =
      (d.sites[j].inFlight.map (·.seq)).foldl (fun d s => d.moveMark j s (· == .inFlight) .pending) (d.modSite j Site.emptied) := rfl

theorem Dev.returnInFlight_kept : (d.modSite j Site.emptied).EvalKept (d.returnInFlight j) :=
  (Dev.foldl_moveMark j (· == .inFlight) .pending rfl _ (d.modSite j Site.emptied)).1

theorem Dev.returnInFlight_sites : (d.returnInFlight j).sites = d.sites.set j d.sites[j].emptied := d.returnInFlight_site j

/-- R67: the marks of the intents in flight return to PENDING, and no other mark changes. -/
theorem Dev.returnInFlight_slot {q : Seq} {x : Slot} (hx : d.slot? q = some x) :
    ∃ y, (d.returnInFlight j).slot? q = some y ∧ (d.sites[j].Returns j q x → y.mark j = some .pending) ∧
      (¬ d.sites[j].Returns j q x → y.mark j = x.mark j) ∧ ∀ k, k ≠ j → y.mark k = x.mark k := by
  obtain ⟨-, -, -, hslot⟩ := Dev.foldl_moveMark j (· == .inFlight) .pending rfl (d.sites[j].inFlight.map (·.seq))
    (d.modSite j Site.emptied)
  obtain ⟨y, hy, hself, hother⟩ := hslot q x hx
  have hmem : q ∈ d.sites[j].inFlight.map (·.seq) ↔ ∃ e ∈ d.sites[j].inFlight, e.seq = q := List.mem_map
  rw [mark_map_inFlight] at hself
  refine ⟨y, hy, fun h => ?_, fun h => ?_, hother⟩
  · rw [hself, if_pos (hmem.2 h.2), if_pos h.1]
  · rw [hself]
    split
    · next hin => exact if_neg fun hm => h ⟨hm, hmem.1 hin⟩
    · rfl

theorem Dev.returnInFlight_idle (h : d.sites[j].inFlight = []) : d.returnInFlight j = d.modSite j Site.emptied := by
  rw [Dev.returnInFlight_eq, h]
  rfl

theorem Dev.returnInFlight_notices : d.NoticesGrow (d.returnInFlight j) :=
  Dev.noticesGrow_updateSlots (fun x => x.move j (· == .inFlight) .pending) _ (d.modSite j Site.emptied)

theorem Dev.returnInFlight_ports : d.PortsKept (d.returnInFlight j) :=
  (Dev.foldl_moveMark j (· == .inFlight) .pending rfl _ (d.modSite j Site.emptied)).2.1

/-- The slot when its in-flight entries have returned and its cursor stands at the frontier. -/
def Site.withdrawn (frontier : Seq) (x : Site) : Site := { x.emptied with cursor := frontier, candidates := [] }

/-- R67, R69, R74: the part then. -/
def Dev.withdrawn : Dev := (d.returnInFlight j).cursorToFrontier j

theorem Dev.withdrawn_sites :
    (d.withdrawn j).sites = d.sites.set j (d.sites[j].withdrawn ((d.returnInFlight j).frontierOf j)) := by
  rw [Dev.withdrawn, Dev.cursorToFrontier, Dev.modSite_sites, Dev.returnInFlight_sites]
  simp only [Fin.getElem_fin, Vector.getElem_set_self, Vector.set_set]
  rfl

theorem Dev.withdrawn_kept :
    { d.withdrawn j with
      sites := d.sites, ports := d.ports, partLost := d.partLost, status := d.status, index := d.index } = d :=
  congrArg (fun e : Dev => { e with sites := d.sites }) (d.returnInFlight_kept j)

theorem Dev.withdrawn_slot (q : Seq) : (d.withdrawn j).slot? q = (d.returnInFlight j).slot? q := rfl

theorem Dev.withdrawn_frontier (k : SlotId) : (d.withdrawn j).frontierOf k = (d.returnInFlight j).frontierOf k := rfl

theorem Dev.withdrawn_ports : (d.withdrawn j).ports = (d.returnInFlight j).ports := rfl

end Returned

/-- The frontier follows from the status array and the next sequence (R69). -/
theorem Dev.frontierOf_congr {d e : Dev} (hs : e.status.slots = d.status.slots) (hj : e.journal.nextSeq = d.journal.nextSeq)
    (k : SlotId) : e.frontierOf k = d.frontierOf k := by
  unfold Dev.frontierOf
  rw [hs, hj]

end Sys2Proof.Machine
end

section
/-!
SUPPORT and settlement of O47: HELLO, HELLO-ACK and the peer's start count (R66, R67, R138).
-/

open Sys2Proof Sys2Proof.Machine

namespace Sys2Proof.Machine

/-! ## The start count (R67, R138) -/

/-- R138: the arrivals of a slot whose start count is new. -/
def Inbound.countSeen (j : SlotId) (now : Time) (x : Inbound) : Inbound :=
  { x with
    arrivals := x.arrivals.map fun (a : Arrival) =>
      if a.slot = j ∧ a.state = .assembling then
        { a with gaps := 0, silenceDue := a.silenceDue.map fun _ => now + 20000 }
      else a }

theorem Dev.peerStartArrivals_eq (d : Dev) (j : SlotId) :
    d.peerStartArrivals j = { d with inbound := d.inbound.countSeen j d.now } := by
  unfold Dev.peerStartArrivals Dev.modInbound Inbound.countSeen
  simp only [Bool.and_eq_true, beq_iff_eq]

theorem Dev.setPeerStart_eq (d : Dev) (j : SlotId) (n : Nat) :
    d.setPeerStart j n =
      { d with
        inbound := if d.sites[j].peerStart = some n then d.inbound else d.inbound.countSeen j d.now
        sites := d.sites.set j { d.sites[j] with peerStart := some n } } := by
  unfold Dev.setPeerStart
  split
  · next h =>
    have hsame : { d.sites[j] with peerStart := some n } = d.sites[j] := by rw [← h]
    rw [hsame]
    simp
  · rw [Dev.peerStartArrivals_eq]
    rfl

/-- R67: the recorded count of an ACTIVE slot changes. -/
def Site.Restarts (x : Site) (start : Nat) : Prop := x.state = .active ∧ ∃ n, x.peerStart = some n ∧ n ≠ start

theorem Site.restarts_iff (x : Site) (start : Nat) :
    x.Restarts start ↔ x.state = .active ∧ x.peerStart.isSome = true ∧ x.peerStart ≠ some start := by
  unfold Site.Restarts
  cases x.peerStart <;> simp

theorem Dev.peerStartSeen_restart {d : Dev} {j : SlotId} {start : Nat} (h : d.sites[j].Restarts start) :
    d.peerStartSeen j start = d.peerRestart j start := if_pos ((Site.restarts_iff _ _).1 h)

theorem Dev.peerStartSeen_recorded {d : Dev} {j : SlotId} {start : Nat} (h : ¬ d.sites[j].Restarts start) :
    d.peerStartSeen j start = d.setPeerStart j start := if_neg ((Site.restarts_iff _ _).not.1 h)

section Restart

variable {d : Dev} {j : SlotId} {start : Nat} (h : d.sites[j].Restarts start)
include h

/-- R67: the part when the restart is recorded, before the notice. -/
theorem Dev.peerRestart_eq :
    d.peerRestart j start =
      ((d.withdrawn j).setPeerStart j start).siteNotice j (d.config j).site .active .active .peerRestart := by
  have hsites := d.withdrawn_sites j
  have hkept := d.withdrawn_kept j
  have hset := (d.withdrawn j).setPeerStart_eq j start
  have hstate : ((d.withdrawn j).setPeerStart j start).siteState j = .active := by
    rw [hset, Dev.siteState, hsites]
    simp only [Fin.getElem_fin, Vector.getElem_set_self]
    exact h.1
  have hconfig : ((d.withdrawn j).setPeerStart j start).config j = d.config j := by
    rw [hset]
    exact (congrArg (fun e : Dev => e.config j) hkept :)
  unfold Dev.peerRestart
  rw [← Dev.withdrawn]
  dsimp only
  rw [hstate, hconfig]

/-- What a peer restart leaves but for the notices. -/
theorem Dev.restarted_eq :
    (d.withdrawn j).setPeerStart j start =
      { d.withdrawn j with
        inbound := d.inbound.countSeen j d.now
        sites := d.sites.set j { d.sites[j].withdrawn ((d.returnInFlight j).frontierOf j) with peerStart := some start } } := by
  obtain ⟨-, n, hn, hne⟩ := h
  have hcount : ((d.withdrawn j).sites[j]).peerStart ≠ some start := by
    rw [d.withdrawn_sites j]
    simp only [Fin.getElem_fin, Vector.getElem_set_self]
    exact fun hsame => hne (Option.some.inj (hn.symm.trans hsame))
  have hkept := d.withdrawn_kept j
  have hinbound : (d.withdrawn j).inbound.countSeen j (d.withdrawn j).now = d.inbound.countSeen j d.now :=
    (congrArg (fun e : Dev => e.inbound.countSeen j e.now) hkept :)
  rw [Dev.setPeerStart_eq, if_neg hcount, hinbound, d.withdrawn_sites j]
  simp only [Fin.getElem_fin, Vector.getElem_set_self, Vector.set_set]

/-- R67: a peer restart, told in the words of the part before it. -/
theorem Dev.peerRestart_effect {site : Nat} (hsite : (d.config j).site = some site) :
    (d.peerRestart j start).sites =
        d.sites.set j
          { d.sites[j] with
            inFlight := [], resends := [], send := none, candidates := [], cursor := (d.peerRestart j start).frontierOf j
            peerStart := some start } ∧
      (∀ (q : Seq) (y : Slot), d.slot? q = some y →
        ∃ z, (d.peerRestart j start).slot? q = some z ∧ (d.sites[j].Returns j q y → z.mark j = some .pending) ∧
          (¬ d.sites[j].Returns j q y → z.mark j = y.mark j) ∧ ∀ k, k ≠ j → z.mark k = y.mark k) ∧
      (d.peerRestart j start).inbound = d.inbound.countSeen j d.now ∧
      (d.sites[j].inFlight = [] → ∀ q : PortId, (d.peerRestart j start).ports[q] =
        if d.ports[q].state = .online then
          d.ports[q].addNotice false (.siteState j (some site) .active .active .peerRestart)
        else d.ports[q]) ∧
      { d.peerRestart j start with
        sites := d.sites, ports := d.ports, partLost := d.partLost, status := d.status, index := d.index
        inbound := d.inbound } = d := by
  have hrest := Dev.broadcast_rest ((d.withdrawn j).setPeerStart j start) (.siteState j (d.config j).site .active .active .peerRestart)
  have hport := Dev.broadcast_port ((d.withdrawn j).setPeerStart j start) (.siteState j (d.config j).site .active .active .peerRestart)
  have hkept := d.withdrawn_kept j
  rw [Dev.peerRestart_eq h, Dev.siteNotice]
  rw [hsite] at *
  have hrestarted := Dev.restarted_eq h
  generalize (d.withdrawn j).setPeerStart j start = e at *
  generalize e.broadcast (.siteState j (some site) .active .active .peerRestart) = u at *
  have hslot (q : Seq) : u.slot? q = (d.returnInFlight j).slot? q := by
    rw [show u.slot? q = e.slot? q from (congrArg (fun e : Dev => e.slot? q) hrest :), hrestarted]
    rfl
  have hfrontier : u.frontierOf j = (d.returnInFlight j).frontierOf j := by
    rw [show u.frontierOf j = e.frontierOf j from (congrArg (fun e : Dev => e.frontierOf j) hrest :), hrestarted]
    rfl
  refine ⟨?sites, fun q y hy => ?mark, ?inbound, fun hidle q => ?port, ?rest⟩
  case sites =>
    rw [show u.sites = e.sites from (congrArg Dev.sites hrest :), hrestarted, hfrontier]
    rfl
  case mark =>
    rw [hslot]
    exact d.returnInFlight_slot j hy
  case inbound =>
    rw [show u.inbound = e.inbound from (congrArg Dev.inbound hrest :), hrestarted]
  case port =>
    have hports : e.ports = d.ports := by
      rw [hrestarted]
      exact (congrArg Dev.ports (d.returnInFlight_idle j hidle) :)
    rw [hport, hports]
  case rest =>
    rw [hrestarted] at hrest
    have hmiddle := congrArg (fun e : Dev => { e with
      sites := d.sites, ports := d.ports, partLost := d.partLost, status := d.status, index := d.index
      inbound := d.inbound }) hrest
    exact hmiddle.trans (congrArg (fun e : Dev => { e with inbound := d.inbound }) hkept)

end Restart

/-! ## HELLO (R67) -/

theorem Dev.raiseFrame_eq {d : Dev} {j : SlotId} {own site : Nat} (b : FrameBody) (hl : d.settings.localSite = some own)
    (hsite : (d.config j).site = some site) :
    d.raiseFrame j b =
      { d with
        span := d.span.set (d.config j).spanPort
          { d.span[(d.config j).spanPort] with
            ctrlQ :=
              if d.span[(d.config j).spanPort].ctrlQ.length < 4096 then
                d.span[(d.config j).spanPort].ctrlQ ++ [⟨own, site, d.power.startCount, b⟩]
              else d.span[(d.config j).spanPort].ctrlQ } } := by
  unfold Dev.raiseFrame Dev.modSpan
  rw [hl, hsite]
  by_cases hroom : d.span[(d.config j).spanPort].ctrlQ.length < 4096
  · simp only [if_pos hroom, Option.getD_some]
  · simp only [if_neg hroom]

end Sys2Proof.Machine
end

section
/-!
SUPPORT of O29 to O31, O47 and O52: a change of a slot's state with its notice, and the members' credits after it; and the settlement
of O47.
-/

open Sys2Proof Sys2Proof.Machine

namespace Sys2Proof.Machine

/-! ## A change of state and its notice (R79) -/

section SiteState

variable (d : Dev) (j : SlotId) (new : SiteState) (c : SiteCause)

theorem Dev.setSiteState_rest : { d.setSiteState j new c with ports := d.ports, sites := d.sites } = d :=
  congrArg (fun e : Dev => { e with sites := d.sites })
    (Dev.broadcast_rest (d.modSite j fun x => { x with state := new }) (.siteState j (d.config j).site (d.siteState j) new c))

theorem Dev.setSiteState_sites : (d.setSiteState j new c).sites = d.sites.set j { d.sites[j] with state := new } :=
  (congrArg Dev.sites
    (Dev.broadcast_rest (d.modSite j fun x => { x with state := new }) (.siteState j (d.config j).site (d.siteState j) new c)) :)

theorem Dev.setSiteState_port (q : PortId) :
    (d.setSiteState j new c).ports[q] =
      if d.ports[q].state = .online then
        d.ports[q].addNotice false (.siteState j (d.config j).site (d.siteState j) new c)
      else d.ports[q] :=
  Dev.broadcast_port (d.modSite j fun x => { x with state := new }) _ q

end SiteState

/-! ## The members' credits (R97) -/

theorem Dev.membershipChanged_rest (d : Dev) (j : SlotId) : { d.membershipChanged j with sites := d.sites } = d :=
  d.clampMembers_rest _

/-- R97: the credits after a change of the members, by the part after it. -/
theorem Dev.membershipChanged_site (d : Dev) (j k : SlotId) :
    (d.membershipChanged j).sites[k] =
      if (d.membershipChanged j).isMember (d.config j).gen k = true then
        { d.sites[k] with credit := min d.sites[k].credit ((d.membershipChanged j).cap k : Nat) }
      else d.sites[k] := by
  have hs := d.clampMembers_settings (d.config j).gen
  have hst := d.clampMembers_state (d.config j).gen
  unfold Dev.membershipChanged
  rw [Dev.isMember_congr hs hst, Dev.cap_congr hs hst]
  exact d.clampMembers_site (d.config j).gen k

/-! ## HELLO-ACK (R66) -/

theorem Dev.takeHelloAck_unanswered {d : Dev} {n : Nat} (j : SlotId) (start : Nat) (h : n ≠ d.power.startCount) :
    d.takeHelloAck j start n = d.staleFrame j := if_pos h

theorem Dev.takeHelloAck_evicted {d : Dev} {j : SlotId} (start n : Nat) (h : d.siteState j = .evicted) :
    d.takeHelloAck j start n = d.staleFrame j := by
  unfold Dev.takeHelloAck
  rw [h]
  exact ite_self _

theorem Dev.takeHelloAck_active {d : Dev} {j : SlotId} {n : Nat} (start : Nat) (hn : n = d.power.startCount)
    (h : d.siteState j = .active) : d.takeHelloAck j start n = d.peerStartSeen j start := by
  unfold Dev.takeHelloAck
  rw [h]
  exact if_neg (not_not_intro hn)

theorem Dev.takeHelloAck_probing {d : Dev} {j : SlotId} {n : Nat} (start : Nat) (hn : n = d.power.startCount)
    (h : d.siteState j = .probing ∨ d.siteState j = .stalled) : d.takeHelloAck j start n = d.probeAnswered j start := by
  unfold Dev.takeHelloAck
  rcases h with h | h <;> rw [h] <;> exact if_neg (not_not_intro hn)

/-- R66: the slot when its probe has been answered. -/
def Site.answered (start : Nat) (x : Site) : Site :=
  { x with state := .active, peerStart := some start, probeCount := 0, busyCount := 0, busyEnd := none, probeDue := none }

/-- The part when the probe is answered, before the members' credits are limited. -/
def Dev.answeredProbe (j : SlotId) (start : Nat) (d : Dev) : Dev :=
  ((d.setPeerStart j start).modSite j fun x =>
    { x with probeCount := 0, busyCount := 0, busyEnd := none, probeDue := none }).setSiteState j .active .probeAnswered

theorem Dev.probeAnswered_eq (d : Dev) (j : SlotId) (start : Nat) :
    d.probeAnswered j start = (d.answeredProbe j start).membershipChanged j := rfl

theorem Dev.answeredProbe_sites (d : Dev) (j : SlotId) (start : Nat) :
    (d.answeredProbe j start).sites = d.sites.set j (d.sites[j].answered start) := by
  rw [Dev.answeredProbe, Dev.setSiteState_sites, Dev.setPeerStart_eq]
  simp only [Dev.modSite_sites, Fin.getElem_fin, Vector.getElem_set_self, Vector.set_set]
  rfl

theorem Dev.answeredProbe_rest (d : Dev) (j : SlotId) (start : Nat) :
    { d.answeredProbe j start with sites := d.sites, ports := d.ports } =
      { d with
        inbound := if d.sites[j].peerStart = some start then d.inbound else d.inbound.countSeen j d.now } := by
  have hset := Dev.setSiteState_rest ((d.setPeerStart j start).modSite j fun x =>
    { x with probeCount := 0, busyCount := 0, busyEnd := none, probeDue := none }) j .active .probeAnswered
  refine (congrArg (fun e : Dev => { e with sites := d.sites, ports := d.ports }) hset).trans ?_
  rw [Dev.setPeerStart_eq]
  rfl

theorem Dev.answeredProbe_port (d : Dev) (j : SlotId) (start : Nat) (q : PortId) :
    (d.answeredProbe j start).ports[q] =
      if d.ports[q].state = .online then
        d.ports[q].addNotice false (.siteState j (d.config j).site (d.siteState j) .active .probeAnswered)
      else d.ports[q] := by
  have hport := Dev.setSiteState_port ((d.setPeerStart j start).modSite j fun x =>
    { x with probeCount := 0, busyCount := 0, busyEnd := none, probeDue := none }) j .active .probeAnswered q
  have hstate : ((d.setPeerStart j start).modSite j fun x =>
      { x with probeCount := 0, busyCount := 0, busyEnd := none, probeDue := none }).siteState j = d.siteState j := by
    rw [Dev.siteState, Dev.modSite_self, Dev.setPeerStart_eq]
    simp only [Fin.getElem_fin, Vector.getElem_set_self]
    rfl
  rw [hstate] at hport
  refine hport.trans ?_
  rw [Dev.setPeerStart_eq]
  rfl

end Sys2Proof.Machine

/-- Settles O47: a HELLO is answered and records the count; a HELLO-ACK of this start does so too, or ends the probing. -/
theorem helloAndHelloAckRecordThePeer : Obligations.HelloAndHelloAckRecordThePeer := by
  intro s t sp h j hup hl hj d x out f queue answered told restarts restarted recorded stale
  have hsite : s.dev.settings.sites[j].site = some h.sender := hj.2.1
  have hhello {u : Dev} (hu : d.takeHello j h.start = u) :
      exec (.helloReceived t sp h h.receiver) s = .next { s with dev := u.settle } :=
    exec_arrives_next hup.1 rfl ((Dev.receive_hello (d := d) (b := .hello h.receiver) sp hl hj hup.2
      (InBody.badContents_hello_self _) rfl rfl).trans hu)
  have hack {n : Nat} {u : Dev} (hu : d.takeHelloAck j h.start n = u) :
      exec (.helloAckReceived t sp h n) s = .next { s with dev := u.settle } :=
    exec_arrives_next hup.1 rfl ((Dev.receive_hello (d := d) (b := .helloAck n) sp hl hj hup.2 rfl rfl rfl).trans hu)
  have htold : (if x.peerStart = some h.start then s.dev.inbound else s.dev.inbound.countSeen j d.now) = told := rfl
  have hrestarted {c : Instr} {span : Vector SpanPort 2} (hr : restarts)
      (hc : exec c s = .next { s with dev := (Dev.peerRestart j h.start { d with span := span }).settle }) : restarted c span := by
    have hcount : ¬ x.peerStart = some h.start := by
      obtain ⟨-, n, hn, hne⟩ := hr
      rw [hn]
      exact fun hsame => hne (Option.some.inj hsame)
    obtain ⟨hsites, hmarks, hinbound, hports, hrest⟩ := Dev.peerRestart_effect (d := { d with span := span }) hr hsite
    exact ⟨_, hc, hsites, hmarks, hinbound.trans ((if_neg hcount).symm.trans htold), (congrArg Dev.span hrest :), hports,
      (congrArg Dev.settings hrest :), (congrArg Dev.journal hrest :), (congrArg Dev.array hrest :), (congrArg Dev.held hrest :)⟩
  have hanswer : d.raiseFrame j (.helloAck h.start) = { d with span := answered } :=
    Dev.raiseFrame_eq (d := d) (.helloAck h.start) hl hsite
  have hseen (span : Vector SpanPort 2) (hr : ¬ restarts) :
      Dev.peerStartSeen j h.start { d with span := span } = recorded span :=
    (Dev.peerStartSeen_recorded (d := { d with span := span }) hr).trans (Dev.setPeerStart_eq { d with span := span } j h.start)
  refine ⟨fun hr => ?helloRestart, fun hr => ?hello, fun n hn => ?stale, fun n hn => ⟨fun hr => ?ackRestart, fun hst hr => ?ack,
    fun hst => ?probe⟩⟩
  case helloRestart =>
    refine hrestarted hr (hhello ?_)
    rw [Dev.takeHello, hanswer]
    exact Dev.peerStartSeen_restart (d := { d with span := answered }) hr
  case hello =>
    refine hhello ?_
    rw [Dev.takeHello, hanswer]
    exact hseen answered hr
  case stale =>
    rcases hn with hn | hn
    · exact hack (Dev.takeHelloAck_unanswered j h.start hn)
    · exact hack (Dev.takeHelloAck_evicted h.start n hn)
  case ackRestart =>
    exact hrestarted (span := s.dev.span) hr (hack ((Dev.takeHelloAck_active (d := d) h.start hn hr.1).trans
      (Dev.peerStartSeen_restart (d := d) hr)))
  case ack => exact hack ((Dev.takeHelloAck_active (d := d) h.start hn hst).trans (hseen s.dev.span hr))
  case probe =>
    have hrest := Dev.membershipChanged_rest (d.answeredProbe j h.start) j
    have hrest' := d.answeredProbe_rest j h.start
    have hsites := d.answeredProbe_sites j h.start
    have hport := d.answeredProbe_port j h.start
    have hcredit := Dev.membershipChanged_site (d.answeredProbe j h.start) j
    have hconfig : (d.answeredProbe j h.start).config j = s.dev.config j := (congrArg (fun e : Dev => e.config j) hrest' :)
    have hnext := hack ((Dev.takeHelloAck_probing (d := d) h.start hn hst).trans (d.probeAnswered_eq j h.start))
    rw [hconfig] at hcredit
    generalize d.answeredProbe j h.start = e at *
    generalize e.membershipChanged j = u at *
    refine ⟨u, hnext, ?sites, fun q => ?port, ?inbound, ?rest⟩
    case sites =>
      intro y k
      have hz : e.sites[k] = if k = j then y else s.dev.sites[k] := by
        by_cases hk : k = j
        · rw [if_pos hk, hk, hsites]
          simp only [Fin.getElem_fin, Vector.getElem_set_self]
          rfl
        · have hne : (j : Nat) ≠ k := fun he => hk (Fin.ext he.symm)
          rw [if_neg hk, hsites]
          simp only [Fin.getElem_fin, Vector.getElem_set_ne _ _ hne]
          rfl
      rw [hcredit, hz]
    case port =>
      rw [show u.ports = e.ports from (congrArg Dev.ports hrest :), hport, show (d.config j).site = some h.sender from hsite]
      rfl
    case inbound =>
      exact (congrArg Dev.inbound hrest :).trans (congrArg Dev.inbound hrest' :)
    case rest =>
      exact (congrArg (fun e : Dev => { e with sites := s.dev.sites, ports := s.dev.ports, inbound := s.dev.inbound }) hrest).trans
        (congrArg (fun e : Dev => { e with inbound := s.dev.inbound }) hrest')

end

section
/-!
SUPPORT of O28, O30, O31 and O52: a HELLO that is sent and counted (R66), and the return of in-flight marks that gives no verdict.
-/

open Sys2Proof Sys2Proof.Machine

namespace Sys2Proof.Machine

theorem sites_set_get (v : Vector Site 8) (j k : SlotId) (x : Site) : (v.set j x)[k] = if k = j then x else v[k] := by
  by_cases hk : k = j
  · rw [if_pos hk, hk]
    simp only [Fin.getElem_fin, Vector.getElem_set_self]
  · have hne : (j : Nat) ≠ k := fun he => hk (Fin.ext he.symm)
    rw [if_neg hk]
    simp only [Fin.getElem_fin, Vector.getElem_set_ne _ _ hne]

/-! ## A probe (R66, R78) -/

/-- R66: the slot when a HELLO has been counted. -/
def Site.probed (now : Time) (x : Site) : Site :=
  let n := min (x.probeCount + 1) 65535
  { x with probeCount := n, probeDue := some (now + 1000000), stall := if n = 30 then true else x.stall }

/-- R66: the part when the HELLO has been counted, before the thirtieth latches STALL. -/
def Dev.helloSent (j : SlotId) (d : Dev) : Dev :=
  (d.raiseFrame j (.hello ((d.config j).site.getD 0))).modSite j fun x =>
    { x with probeCount := min (d.sites[j].probeCount + 1) 65535, probeDue := some (d.now + 1000000) }

theorem Dev.probe_eq (d : Dev) (j : SlotId) :
    d.probe j =
      if min (d.sites[j].probeCount + 1) 65535 = 30 then (d.helloSent j).latchSlot .stall j else d.helloSent j := rfl

theorem Dev.helloSent_site (d : Dev) (j : SlotId) :
    (d.helloSent j).sites[j] =
      { d.sites[j] with probeCount := min (d.sites[j].probeCount + 1) 65535, probeDue := some (d.now + 1000000) } :=
  Dev.modSite_self _ _ _

theorem Dev.probe_sites (d : Dev) (j : SlotId) : (d.probe j).sites = d.sites.set j (d.sites[j].probed d.now) := by
  rw [Dev.probe_eq]
  by_cases hn : min (d.sites[j].probeCount + 1) 65535 = 30
  · rw [if_pos hn, Dev.latchSlot_sites (k := .stall) rfl, Dev.helloSent_site]
    unfold Dev.helloSent
    rw [Dev.modSite_sites, Vector.set_set]
    simp only [Site.probed, if_pos hn]
    rfl
  · rw [if_neg hn]
    simp only [Site.probed, if_neg hn]
    rfl

theorem Dev.probe_rest (d : Dev) (j : SlotId) :
    { d.probe j with sites := d.sites, ports := d.ports } = d.raiseFrame j (.hello ((d.config j).site.getD 0)) := by
  rw [Dev.probe_eq]
  split
  · exact congrArg (fun e : Dev => { e with sites := d.sites, ports := d.ports }) (Dev.latchSlot_rest (k := .stall) rfl (d.helloSent j) j)
  · rfl

theorem Dev.probe_port (d : Dev) (j : SlotId) (q : PortId) :
    (d.probe j).ports[q] =
      if min (d.sites[j].probeCount + 1) 65535 = 30 ∧ d.sites[j].stall = false ∧ d.ports[q].state = .online ∧
          d.settings.masks[q].getLsbD 3 = true then
        d.ports[q].addNotice false (.fault .stall (.slot j (d.config j).site))
      else d.ports[q] := by
  rw [Dev.probe_eq]
  split
  · next hn =>
    have hport := Dev.latchSlot_port (k := .stall) rfl (d.helloSent j) j q
    rw [Dev.helloSent_site] at hport
    exact hport.trans (if_congr (and_iff_right hn).symm rfl rfl)
  · next hn => exact (if_neg fun h => hn h.1).symm

/-- R66: a slot whose STALL is latched already gives no second notice. -/
theorem Dev.probe_port_stalled {d : Dev} {j : SlotId} (h : d.sites[j].stall = true) : (d.probe j).ports = d.ports := by
  refine Vector.ext fun i hi => ?_
  have hport := d.probe_port j ⟨i, hi⟩
  rw [if_neg (by rw [h]; simp)] at hport
  exact hport

/-! ## Marks that return and give no verdict (R113 to R115) -/

/-- R114 to R116: an evaluation finds no new verdict. -/
def Slot.NoVerdictDue (z : Slot) : Prop :=
  z.written = false ∨ z.held = true ∨ z.verdict ≠ none ∨ (z.acked < z.quorum ∧ z.quorum ≤ z.acked + z.openMarks)

theorem Slot.testedVerdict_of_none {z : Slot} (h : z.NoVerdictDue) (hw : z.written = true) : z.testedVerdict = z.verdict := by
  rw [Slot.testedVerdict_eq]
  by_cases hset : z.held = true ∨ z.verdict ≠ none
  · rw [if_pos hset]
  · obtain ⟨hlow, hhigh⟩ : z.acked < z.quorum ∧ z.quorum ≤ z.acked + z.openMarks := by
      rcases h with h | h | h | h
      · exact absurd (hw.symm.trans h) (by decide)
      · exact absurd (.inl h) hset
      · exact absurd (.inr h) hset
      · exact h
    have hnone : z.verdict = none := not_not.1 fun h => hset (.inr h)
    rw [if_neg hset, if_neg (by omega), if_neg (by omega), hnone]

/-- The transition from IN_FLIGHT to PENDING counts the same marks. -/
theorem Slot.returned_counts (z : Slot) (j : SlotId) :
    (z.move j (· == .inFlight) .pending).acked = z.acked ∧ (z.move j (· == .inFlight) .pending).openMarks = z.openMarks := by
  unfold Slot.acked Slot.openMarks
  rw [Slot.move_marks]
  simp only [List.filter_map, List.length_map]
  have hacked : ((fun e : SlotId × Mark => e.2 == .acked) ∘ fun e : SlotId × Mark =>
      if e.1 == j then (e.1, if e.2 == .inFlight then .pending else e.2) else e) = fun e => e.2 == .acked := by
    funext ⟨i, m⟩
    cases m <;> by_cases hi : i = j <;> simp [hi]
  have hopen : ((fun e : SlotId × Mark => e.2.isOpen) ∘ fun e : SlotId × Mark =>
      if e.1 == j then (e.1, if e.2 == .inFlight then .pending else e.2) else e) = fun e => e.2.isOpen := by
    funext ⟨i, m⟩
    cases m <;> by_cases hi : i = j <;> simp [hi, Mark.isOpen]
  rw [hacked, hopen]
  exact ⟨rfl, rfl⟩

theorem Slot.NoVerdictDue.returned {z : Slot} (h : z.NoVerdictDue) (j : SlotId) :
    (z.move j (· == .inFlight) .pending).NoVerdictDue := by
  obtain ⟨hacked, hopen⟩ := z.returned_counts j
  unfold Slot.NoVerdictDue at *
  rw [hacked, hopen]
  exact h

theorem Slot.NoVerdictDue.evaluated {z : Slot} (h : z.NoVerdictDue) (was : Bool) : (z.evaluated was).NoVerdictDue := by
  unfold Slot.evaluated
  split
  · next hw =>
    rw [Slot.testedVerdict_of_none h hw]
    exact h
  · exact h

theorem Dev.evaluate_ports_of_none {d : Dev} {q : Seq} {z : Slot} (was : Bool) (hz : d.slot? q = some z) (h : z.NoVerdictDue) :
    (d.evaluate q was).ports = d.ports := by
  cases hw : z.written with
  | false => rw [Dev.evaluate_staged was hz hw]
  | true =>
    have htested : (z.unlinked was).testedVerdict = (z.unlinked was).verdict := Slot.testedVerdict_of_none h hw
    rw [Dev.evaluate_written was hz hw, Dev.testVerdict_same (Dev.counted_slot was hz) htested]
    exact (congrArg Dev.ports (d.counted_rest q z was) :)

theorem Dev.moveMark_ports_of_none {d : Dev} (j : SlotId) {q : Seq} (h : ∀ z, d.slot? q = some z → z.NoVerdictDue) :
    (d.moveMark j q (· == .inFlight) .pending).ports = d.ports := by
  unfold Dev.moveMark Dev.updateSlot
  cases hz : d.slot? q with
  | none => rfl
  | some z => exact Dev.evaluate_ports_of_none _ (Dev.putSlot_slot_self q _ d) ((h z hz).returned j)

theorem Dev.moveMark_noVerdictDue {d : Dev} (j : SlotId) {q r : Seq} (h : ∀ z, d.slot? r = some z → z.NoVerdictDue) :
    ∀ z, (d.moveMark j q (· == .inFlight) .pending).slot? r = some z → z.NoVerdictDue := by
  intro z hz
  rw [Dev.moveMark, Dev.updateSlot_slot] at hz
  split at hz
  · obtain ⟨y, hy, rfl⟩ := Option.map_eq_some_iff.1 hz
    exact ((h y hy).returned j).evaluated _
  · exact h z hz

theorem Dev.foldl_moveMark_ports_of_none (j : SlotId) (l : List Seq) (d : Dev)
    (h : ∀ i ∈ l, ∀ z, d.slot? i = some z → z.NoVerdictDue) :
    (l.foldl (fun d s => d.moveMark j s (· == .inFlight) .pending) d).ports = d.ports := by
  induction l generalizing d with
  | nil => rfl
  | cons q t ih =>
    have htail : ∀ i ∈ t, ∀ z, (d.moveMark j q (· == .inFlight) .pending).slot? i = some z → z.NoVerdictDue := fun i hi =>
      Dev.moveMark_noVerdictDue j (h i (List.mem_cons_of_mem _ hi))
    rw [List.foldl_cons, ih _ htail, Dev.moveMark_ports_of_none j (h q List.mem_cons_self)]

/-- R113, R114: the ports when the in-flight marks of a slot return, and no verdict is due. -/
theorem Dev.returnInFlight_ports_of_none {d : Dev} (j : SlotId)
    (h : ∀ i z, (∃ e ∈ d.sites[j].inFlight, e.seq = i) → d.slot? i = some z → z.NoVerdictDue) :
    (d.returnInFlight j).ports = d.ports := by
  rw [Dev.returnInFlight_eq]
  exact Dev.foldl_moveMark_ports_of_none j _ _ fun i hi z hz => h i z (List.mem_map.1 hi) hz

end Sys2Proof.Machine
end

section
/-!
SUPPORT and settlement of O52: the probe timer, the BUSY pause, and the retry deadlines (R66, R73, R74, R76, R97).
-/

open Sys2Proof Sys2Proof.Machine

namespace Sys2Proof.Machine

/-! ## A stall (R74) -/

/-- R74: the slot when it has left ACTIVE. -/
def Site.stalledAt (frontier : Seq) (x : Site) : Site := { x.withdrawn frontier with state := .stalled, credit := 0, stall := true }

/-- R74: the part when the slot has stalled, before the notice. -/
def Dev.stallLatched (j : SlotId) (d : Dev) : Dev :=
  ((d.withdrawn j).modSite j fun x => { x with state := .stalled, credit := 0 }).latchSlot .stall j

/-- R74: the part with the notice of the stall, before the members' credits are limited. -/
def Dev.stallTold (j : SlotId) (d : Dev) : Dev :=
  (d.stallLatched j).siteNotice j (d.config j).site .active .stalled .retriesExhausted

theorem Dev.stallLatched_rest (d : Dev) (j : SlotId) :
    { d.stallLatched j with
      sites := d.sites, ports := d.ports, partLost := d.partLost, status := d.status, index := d.index } = d := by
  have hlatch := Dev.latchSlot_rest (k := .stall) rfl
    ((d.withdrawn j).modSite j fun x => { x with state := .stalled, credit := 0 }) j
  exact (congrArg (fun e : Dev => { e with
    sites := d.sites, ports := d.ports, partLost := d.partLost, status := d.status, index := d.index }) hlatch).trans
    (d.withdrawn_kept j)

theorem Dev.stallLatched_sites (d : Dev) (j : SlotId) :
    (d.stallLatched j).sites = d.sites.set j (d.sites[j].stalledAt ((d.returnInFlight j).frontierOf j)) := by
  rw [Dev.stallLatched, Dev.latchSlot_sites (k := .stall) rfl, Dev.modSite_sites, d.withdrawn_sites j]
  simp only [Fin.getElem_fin, Vector.getElem_set_self, Vector.set_set]
  rfl

theorem Dev.stallLatched_slot (d : Dev) (j : SlotId) (q : Seq) : (d.stallLatched j).slot? q = (d.returnInFlight j).slot? q :=
  (congrArg (fun e : Dev => e.slot? q) (Dev.latchSlot_rest (k := .stall) rfl
    ((d.withdrawn j).modSite j fun x => { x with state := .stalled, credit := 0 }) j) :)

theorem Dev.stallLatched_frontier (d : Dev) (j k : SlotId) :
    (d.stallLatched j).frontierOf k = (d.returnInFlight j).frontierOf k :=
  (congrArg (fun e : Dev => e.frontierOf k) (Dev.latchSlot_rest (k := .stall) rfl
    ((d.withdrawn j).modSite j fun x => { x with state := .stalled, credit := 0 }) j) :)

theorem Dev.stallLatched_port (d : Dev) (j : SlotId) (q : PortId) :
    (d.stallLatched j).ports[q] =
      if d.sites[j].stall = false ∧ (d.returnInFlight j).ports[q].state = .online ∧ d.settings.masks[q].getLsbD 3 = true then
        (d.returnInFlight j).ports[q].addNotice false (.fault .stall (.slot j (d.config j).site))
      else (d.returnInFlight j).ports[q] := by
  obtain ⟨e, he⟩ : ∃ e : Dev, e = (d.withdrawn j).modSite j fun x => { x with state := .stalled, credit := 0 } := ⟨_, rfl⟩
  have hport := Dev.latchSlot_port (k := .stall) rfl e j q
  have hstall : FaultKind.stall.latchedAt e.sites[j] = d.sites[j].stall := by
    have hsites : e.sites[j] = { (d.withdrawn j).sites[j] with state := .stalled, credit := 0 } := he ▸ Dev.modSite_self _ _ _
    rw [hsites, d.withdrawn_sites j, sites_set_get, if_pos rfl]
    rfl
  have hports : e.ports = (d.returnInFlight j).ports := by rw [he]; rfl
  have hsettings : e.settings = d.settings := by rw [he]; exact (congrArg Dev.settings (d.withdrawn_kept j) :)
  have hlatched : d.stallLatched j = e.latchSlot .stall j := by rw [he]; rfl
  rw [hlatched, hport, hstall, hports, hsettings]
  rw [show (e.config j).site = (d.config j).site from congrArg (fun c : Settings => c.sites[j].site) hsettings]
  rfl

theorem Dev.stallSlot_eq (d : Dev) (j : SlotId) : d.stallSlot j = ((d.stallTold j).membershipChanged j).probe j := by
  have hconfig : (d.stallLatched j).config j = d.config j := (congrArg (fun e : Dev => e.config j) (d.stallLatched_rest j) :)
  have hquit : (d.quitActive j).modSite j (fun x => { x with state := .stalled }) =
      (d.withdrawn j).modSite j fun x => { x with state := .stalled, credit := 0 } := Dev.modSite_modSite _ _ _ _
  unfold Dev.stallSlot
  rw [hquit]
  change ((((d.stallLatched j).siteNotice j ((d.stallLatched j).config j).site .active .stalled .retriesExhausted)).membershipChanged j).probe j = _
  rw [hconfig]
  rfl

section Told

variable (d : Dev) (j : SlotId)

theorem Dev.stallTold_rest' : { d.stallTold j with ports := (d.stallLatched j).ports } = d.stallLatched j := Dev.broadcast_rest _ _

theorem Dev.stallTold_port (q : PortId) :
    (d.stallTold j).ports[q] =
      if (d.stallLatched j).ports[q].state = .online then
        (d.stallLatched j).ports[q].addNotice false (.siteState j (d.config j).site .active .stalled .retriesExhausted)
      else (d.stallLatched j).ports[q] := Dev.broadcast_port _ _ q

theorem Dev.stallTold_sites :
    (d.stallTold j).sites = d.sites.set j (d.sites[j].stalledAt ((d.returnInFlight j).frontierOf j)) :=
  (congrArg Dev.sites (d.stallTold_rest' j) :).trans (d.stallLatched_sites j)

theorem Dev.stallTold_rest :
    { d.stallTold j with
      sites := d.sites, ports := d.ports, partLost := d.partLost, status := d.status, index := d.index } = d :=
  (congrArg (fun e : Dev => { e with
    sites := d.sites, ports := d.ports, partLost := d.partLost, status := d.status, index := d.index }) (d.stallTold_rest' j)).trans
    (d.stallLatched_rest j)

/-- R97: the stalled slot is no member. -/
theorem Dev.stallTold_limited :
    ((d.stallTold j).membershipChanged j).sites[j] = d.sites[j].stalledAt ((d.returnInFlight j).frontierOf j) := by
  have hself : (d.stallTold j).sites[j] = d.sites[j].stalledAt ((d.returnInFlight j).frontierOf j) := by
    rw [d.stallTold_sites j, sites_set_get, if_pos rfl]
  have hstate : ((d.stallTold j).membershipChanged j).siteState j = .stalled := by
    rw [Dev.membershipChanged, Dev.clampMembers_state, Dev.siteState, hself]
    rfl
  rw [Dev.membershipChanged_site, if_neg (by simp [Dev.isMember, hstate]), hself]

end Told

/-- R61, R74: what a stall leaves. -/
theorem Dev.stallSlot_rest (d : Dev) (j : SlotId) :
    { d.stallSlot j with
      sites := d.sites, ports := d.ports, partLost := d.partLost, status := d.status, index := d.index } =
      d.raiseFrame j (.hello ((d.config j).site.getD 0)) := by
  have htold := d.stallTold_rest j
  rw [Dev.stallSlot_eq]
  generalize d.stallTold j = t at *
  have hmember := t.membershipChanged_rest j
  generalize t.membershipChanged j = e at *
  have hold : { e with
      sites := d.sites, ports := d.ports, partLost := d.partLost, status := d.status, index := d.index } = d :=
    (congrArg (fun e : Dev => { e with
      sites := d.sites, ports := d.ports, partLost := d.partLost, status := d.status, index := d.index }) hmember).trans htold
  refine (congrArg (fun e : Dev => { e with
    sites := d.sites, ports := d.ports, partLost := d.partLost, status := d.status, index := d.index }) (e.probe_rest j)).trans ?_
  exact (congrArg (fun e : Dev => e.raiseFrame j (.hello ((e.config j).site.getD 0))) hold :)

theorem Site.probed_of_stall {now : Time} {x : Site} (h : x.stall = true) :
    x.probed now = { x with probeCount := min (x.probeCount + 1) 65535, probeDue := some (now + 1000000) } := by
  have hlatched : (if min (x.probeCount + 1) 65535 = 30 then true else x.stall) = x.stall := by
    rw [h]
    exact ite_self _
  simp only [Site.probed, hlatched]

/-! ## What a stall leaves, part by part (R74, R97) -/

section Stalled

variable (d : Dev) (j : SlotId)

theorem Dev.stallSlot_slots (q : Seq) :
    (d.stallSlot j).slot? q = (d.returnInFlight j).slot? q ∧ (d.stallSlot j).frontierOf j = (d.returnInFlight j).frontierOf j := by
  have htold := d.stallTold_rest' j
  have hslot := d.stallLatched_slot j q
  have hfrontier := d.stallLatched_frontier j j
  rw [Dev.stallSlot_eq]
  generalize d.stallLatched j = l at *
  generalize d.stallTold j = t at *
  have hmember := t.membershipChanged_rest j
  generalize t.membershipChanged j = m at *
  have hprobe := m.probe_rest j
  have hstatus : (m.probe j).status = l.status :=
    ((congrArg Dev.status hprobe :).trans (congrArg Dev.status hmember :)).trans (congrArg Dev.status htold :)
  have hjournal : (m.probe j).journal = l.journal :=
    ((congrArg Dev.journal hprobe :).trans (congrArg Dev.journal hmember :)).trans (congrArg Dev.journal htold :)
  constructor
  · rw [← hslot]
    exact congrArg (fun x : StatusArray => Tbl.get x.slots q) hstatus
  · rw [← hfrontier]
    exact Dev.frontierOf_congr (congrArg StatusArray.slots hstatus) (congrArg Journal.nextSeq hjournal) j

theorem Dev.stallSlot_site_self :
    (d.stallSlot j).sites[j] =
      { d.sites[j] with
        state := .stalled, inFlight := [], resends := [], send := none, candidates := [], credit := 0
        cursor := (d.stallSlot j).frontierOf j, stall := true, probeCount := min (d.sites[j].probeCount + 1) 65535
        probeDue := some (d.now + 1000000) } := by
  obtain ⟨-, hfrontier⟩ := d.stallSlot_slots j 0
  have hlimited := d.stallTold_limited j
  have hmember := (d.stallTold j).membershipChanged_rest j
  have htold := d.stallTold_rest j
  rw [hfrontier, Dev.stallSlot_eq, Dev.probe_sites, sites_set_get, if_pos rfl, hlimited]
  generalize (d.stallTold j).membershipChanged j = m at *
  generalize d.stallTold j = t at *
  have hnow : m.now = d.now := (congrArg Dev.now hmember :).trans (congrArg Dev.now htold :)
  rw [hnow, Site.probed_of_stall rfl]
  rfl

theorem Dev.stallSlot_site_other {k : SlotId} (hk : k ≠ j) :
    (d.stallSlot j).sites[k] =
      if (d.stallSlot j).isMember (d.config j).gen k = true then
        { d.sites[k] with credit := min d.sites[k].credit ((d.stallSlot j).cap k : Nat) }
      else d.sites[k] := by
  have hother : (d.stallTold j).sites[k] = d.sites[k] := by rw [d.stallTold_sites j, sites_set_get, if_neg hk]
  have hconfig : (d.stallTold j).config j = d.config j := (congrArg (fun e : Dev => e.config j) (d.stallTold_rest j) :)
  rw [Dev.stallSlot_eq]
  generalize d.stallTold j = t at *
  have hsite := t.membershipChanged_site j k
  generalize t.membershipChanged j = m at *
  have hs : (m.probe j).settings = m.settings := (congrArg Dev.settings (m.probe_rest j) :)
  have hst (l : SlotId) : (m.probe j).siteState l = m.siteState l := by
    rw [Dev.siteState, Dev.probe_sites, sites_set_get]
    split
    · next hl => rw [hl]; rfl
    · rfl
  rw [Dev.isMember_congr hs hst, Dev.cap_congr hs hst, Dev.probe_sites, sites_set_get, if_neg hk, hsite, hother, hconfig]

/-- R74, R79: the notices of a stall, after those of the marks that return. -/
theorem Dev.stallSlot_port (q : PortId) :
    (d.stallSlot j).ports[q] =
      if d.ports[q].state = .online then
        (if d.sites[j].stall = false ∧ d.settings.masks[q].getLsbD 3 = true then
          (d.returnInFlight j).ports[q].addNotice false (.fault .stall (.slot j (d.config j).site))
        else (d.returnInFlight j).ports[q]).addNotice false (.siteState j (d.config j).site .active .stalled .retriesExhausted)
      else (d.returnInFlight j).ports[q] := by
  have hreturned : (d.returnInFlight j).ports[q].state = d.ports[q].state :=
    (congrArg Port.state (d.returnInFlight_ports j q) :)
  have hlatched := d.stallLatched_port j q
  have hstate : (d.stallLatched j).ports[q].state = d.ports[q].state := by
    rw [hlatched, ← hreturned]
    split
    · exact (congrArg Port.state (Port.addNotice_same _ _ _) :)
    · rfl
  have hstalled : ((d.stallTold j).membershipChanged j).sites[j].stall = true := by
    rw [d.stallTold_limited j]
    rfl
  have hmember := (d.stallTold j).membershipChanged_rest j
  have htold := d.stallTold_port j q
  rw [hstate, hlatched, hreturned] at htold
  rw [Dev.stallSlot_eq, Dev.probe_port_stalled hstalled]
  generalize (d.stallTold j).membershipChanged j = m at *
  have hports : m.ports = (d.stallTold j).ports := (congrArg Dev.ports hmember :)
  rw [hports, htold]
  by_cases hon : d.ports[q].state = .online
  · rw [if_pos hon, if_pos hon, if_congr (and_congr_right fun _ => and_iff_right hon) rfl rfl]
  · rw [if_neg hon, if_neg hon, if_neg fun h => hon h.2.1]

end Stalled

/-! ## The retry deadline (R73) -/

theorem Dev.retryExpired_again {d : Dev} {j : SlotId} {q : Seq} {e : InFlight} (he : d.sites[j].entry q = some e)
    (h : e.retries < 8) :
    d.retryExpired j q =
      d.modSite j fun x =>
        { x with
          inFlight := x.inFlight.map fun (y : InFlight) =>
            if y.seq = q then { y with retries := y.retries + 1, sentOnce := false, deadline := none } else y
          resends := (x.resends.filter fun r => r.seq != q) ++ [⟨q, none⟩] } := by
  rw [Dev.retryExpired, he]
  refine (if_pos h).trans ?_
  simp only [Site.modEntry, beq_iff_eq]

theorem Dev.retryExpired_stalls {d : Dev} {j : SlotId} {q : Seq} {e : InFlight} (he : d.sites[j].entry q = some e)
    (h : 8 ≤ e.retries) : d.retryExpired j q = d.stallSlot j := by
  rw [Dev.retryExpired, he]
  exact if_neg (by omega)

end Sys2Proof.Machine

/-- Settles O52: a probe is counted again, a pause ends, and a retry deadline resends or stalls. -/
theorem siteTimersExpire : Obligations.SiteTimersExpire := by
  refine ⟨fun s j due hup => ?slot, fun s j q e due hup he hdue => ?retry⟩
  case slot =>
    intro d x
    refine ⟨fun own site hst hdue hl hsite => ?probe, fun hdue => ?busy⟩
    case probe =>
      intro n sp
      have hgate : (s.dev.isReady && (s.dev.siteState j == .probing || s.dev.siteState j == .stalled)) = true := by
        have hready : s.dev.isReady = true := beq_iff_eq.2 hup.2
        rw [hready, Bool.true_and, Bool.or_eq_true, beq_iff_eq, beq_iff_eq]
        exact hst
      have hnext : exec (.probeTimerExpiry j) s = .next { s with dev := (d.probe j).settle } := by
        show State.goOn (Dev.probeExpiry j) s = _
        rw [State.goOn_next, Dev.probeExpiry, hdue, Dev.expiry_running _ _ _ _ hgate hup.1]
      have hframe := Dev.raiseFrame_eq (d := d) (.hello ((d.config j).site.getD 0)) hl hsite
      have hrest := d.probe_rest j
      rw [hframe, show (d.config j).site = some site from hsite] at hrest
      refine ⟨_, hnext, d.probe_sites j, (congrArg Dev.span hrest :), fun q => ?_,
        (congrArg (fun e : Dev => { e with span := s.dev.span }) hrest :)⟩
      have hport := d.probe_port j q
      rw [show (d.config j).site = some site from hsite] at hport
      exact hport
    case busy =>
      show State.goOn (Dev.busyExpiry j) s = _
      rw [State.goOn_next, Dev.busyExpiry, hdue]
      exact congrArg (fun d : Dev => Host.Outcome.next { s with dev := d }) (Dev.expiry_up _ hup)
  case retry =>
    have hnext {u : Dev} (hu : (s.dev.tick due).retryExpired j q = u) :
        exec (.retryDeadlineExpiry j q) s = .next { s with dev := u.settle } := by
      show State.goOn (Dev.retryExpiry j q) s = _
      rw [State.goOn_next, Dev.retryExpiry, he, ← hu]
      refine congrArg (fun d : Dev => Host.Outcome.next { s with dev := d }) ?_
      rw [Option.bind_some, hdue]
      exact Dev.expiry_up _ hup
    refine ⟨fun hlow => hnext (Dev.retryExpired_again (d := s.dev.tick due) he hlow), fun own site hhigh hl hsite => ?stall⟩
    intro d x sp flies noVerdictDue
    have hconfig : (d.config j).site = some site := hsite
    have hrest := d.stallSlot_rest j
    have hframe := Dev.raiseFrame_eq (d := d) (.hello ((d.config j).site.getD 0)) hl hsite
    rw [hframe, hconfig] at hrest
    have hnotices := d.returnInFlight_notices j
    have hnow := hnext (Dev.retryExpired_stalls (d := d) he hhigh)
    have hself := d.stallSlot_site_self j
    have hother (k : SlotId) (hk : k ≠ j) := d.stallSlot_site_other j hk
    have hslot (i : Seq) := (d.stallSlot_slots j i).1
    have hport := d.stallSlot_port j
    rw [hconfig] at hport
    generalize d.stallSlot j = u at *
    refine ⟨u, hnow, hself, hother,
      fun i y hy => ?mark, (congrArg Dev.span hrest :), fun p => ⟨(d.returnInFlight j).ports[p], fun hnone => ?quiet, hnotices p, hport p⟩,
      (congrArg Dev.settings hrest :), (congrArg Dev.journal hrest :), (congrArg Dev.array hrest :), (congrArg Dev.held hrest :)⟩
    case mark =>
      rw [hslot]
      exact d.returnInFlight_slot j hy
    case quiet =>
      rw [Dev.returnInFlight_ports_of_none (d := d) j hnone]
      rfl

end

section
/-!
SUPPORT and settlement of O28: ATTACH SITE (R79, R83).
-/

open Sys2Proof Sys2Proof.Machine

namespace Sys2Proof.Machine

/-! ## A granted command that places two records (R79) -/

theorem Dev.PlacesAs.place {e d : Dev} (h : e.PlacesAs d) (x : Staged) : (e.place x).1.PlacesAs (d.place x).1 :=
  ⟨h.part, h.place_journal x, h.array, h.now, h.commitDelay⟩

theorem Dev.posted_placed_two {s : State} {t : Time} {p : PortId} {cid : Word32} {b : CmdBody} (hup : s.dev.up)
    (hf : s.dev.portFree p) (hi : s.dev.intakeFree) (ha : usesArbiter b = true) (hn : ∀ x, b ≠ .append x)
    (hok : s.dev.journal.buffersOk = true) (hs : s.dev.canPlaceBoth) {e : Dev} {c : Cont} {r1 r2 : Rec}
    (h1 : r1.size = 1536) (h2 : r2.size = 32)
    (hact : ((s.dev.tick t).grantTaken p ⟨cid, b⟩).act (s.dev.nextTok p) .none b = e.raiseOwn (s.dev.nextTok p) c [r1, r2])
    (he : e.PlacesAs (s.dev.tick t)) :
    s.goOn (Dev.posted t p cid b) =
      .next { s with dev :=
        (e.withRecords (s.dev.nextTok p) c
          (((s.dev.tick t).place ⟨r1, some (s.dev.nextTok p)⟩).1.place ⟨r2, some (s.dev.nextTok p)⟩).1.journal).settle } := by
  have hnext := Dev.posted_recorded_two (t := t) (cid := cid) hup hf hi ha hn hact h1 h2 (he.part.trans hup.2)
    (by rw [he.journal]; exact hi.2.1) (by rw [he.journal]; exact hok) (Dev.canPlaceBoth_congr he.journal he.array hs)
  rw [hnext, (he.place _).place_journal]

/-! ## The fields (R83) -/

theorem spanOf_eq (sp : SpanId) : spanOf (sp.val + 1) = some sp := by revert sp; decide

theorem spanOf_bad {n : Nat} (h : n ≠ 1 ∧ n ≠ 2) : spanOf n = none := by
  unfold spanOf
  split
  · exact absurd rfl h.1
  · exact absurd rfl h.2
  · rfl

/-- R83: the fields that an ATTACH SITE may not have. -/
def attachBad (b : AttachSiteBody) : Prop :=
  7 < b.slot ∨ (b.spanPort ≠ 1 ∧ b.spanPort ≠ 2) ∨ 3 < b.generator ∨ (b.mode ≠ 1 ∧ b.mode ≠ 2)

theorem attachResult_bad {b : AttachSiteBody} (h : attachBad b) : attachResult b = none := by
  unfold attachResult
  split
  · next hslot hspan hgen hmode =>
    rcases h with h | h | h | h
    · rw [slotOf_of_gt h] at hslot; contradiction
    · rw [spanOf_bad h] at hspan; contradiction
    · rw [genIndexOf_of_gt h] at hgen; contradiction
    · rw [paceModeOf_bad h] at hmode; contradiction
  · rfl

/-- R83: the configuration that an ATTACH SITE gives. -/
def attachConfig (b : AttachSiteBody) (sp : SpanId) (g : Fin 4) : SiteConfig where
  site := some b.site
  spanPort := sp
  generator := g
  share := min b.share 1024
  mode := if b.mode = 1 then .paced else .unpaced
  lend := b.lend
  maxWindow := max 65536 (min 67108864 b.maxWindow)
  evictable := b.evictable

theorem attachResult_good {b : AttachSiteBody} {j : SlotId} {sp : SpanId} {g : Fin 4} (h : ¬ attachBad b) (hj : b.slot = j.val)
    (hsp : b.spanPort = sp.val + 1) (hg : b.generator = g.val) : attachResult b = some (j, attachConfig b sp g) := by
  unfold attachBad at h
  unfold attachResult
  rw [hj, hsp, hg, slotOf_val, spanOf_eq, genIndexOf_val, paceModeOf_eq (by omega)]
  rfl

/-- R83, check 2: the site number is out of range, the part's own, or another slot's. -/
theorem Dev.siteNumberTaken_iff {d : Dev} {own : Nat} (j : SlotId) (site : Nat) (hl : d.settings.localSite = some own) :
    d.siteNumberTaken j site = true ↔
      15 < site ∨ site = own ∨ ∃ k : SlotId, k ≠ j ∧ d.sites[k].state ≠ .detached ∧ d.settings.sites[k].site = some site := by
  unfold Dev.siteNumberTaken
  rw [hl]
  simp only [Bool.or_eq_true, decide_eq_true_iff, List.any_eq_true, mem_allSlots, true_and, Bool.and_eq_true, bne_iff_ne,
    beq_iff_eq, Option.some.injEq, or_assoc, and_assoc]
  exact or_congr_right (or_congr_left eq_comm)

theorem Dev.actAttachSite_unset {d : Dev} (tok : Tok) (b : AttachSiteBody) (hl : d.settings.localSite = none) :
    d.actAttachSite tok b = d.refuse tok .wrongState := if_pos (by rw [hl]; rfl)

section Set

variable {d : Dev} {b : AttachSiteBody} (tok : Tok) (hl : d.settings.localSite ≠ none)
include hl

theorem Dev.actAttachSite_set :
    d.actAttachSite tok b =
      match attachResult b with
      | none => d.refuse tok .badField
      | some (j, c) =>
        if d.siteNumberTaken j b.site then d.refuse tok .badField
        else if d.siteState j ≠ .detached then d.refuse tok .wrongState
        else (d.attachSlot j c).raiseOwn tok .done ((d.attachSlot j c).siteRecords j) :=
  if_neg (by rwa [Option.isNone_iff_eq_none])

theorem Dev.actAttachSite_bad (h : attachBad b) : d.actAttachSite tok b = d.refuse tok .badField := by
  rw [Dev.actAttachSite_set tok hl, attachResult_bad h]

variable {j : SlotId} {c : SiteConfig} (h : attachResult b = some (j, c))
include h

theorem Dev.actAttachSite_taken (ht : d.siteNumberTaken j b.site = true) :
    d.actAttachSite tok b = d.refuse tok .badField := by
  rw [Dev.actAttachSite_set tok hl, h]
  exact if_pos ht

theorem Dev.actAttachSite_attached (ht : ¬ d.siteNumberTaken j b.site = true) (hst : d.siteState j ≠ .detached) :
    d.actAttachSite tok b = d.refuse tok .wrongState := by
  rw [Dev.actAttachSite_set tok hl, h]
  exact (if_neg ht).trans (if_pos hst)

theorem Dev.actAttachSite_new (ht : ¬ d.siteNumberTaken j b.site = true) (hst : d.siteState j = .detached) :
    d.actAttachSite tok b = (d.attachSlot j c).raiseOwn tok .done ((d.attachSlot j c).siteRecords j) := by
  rw [Dev.actAttachSite_set tok hl, h]
  exact (if_neg ht).trans (if_neg (not_not_intro hst))

end Set

/-! ## The attached slot -/

/-- R83: the slot when it begins to probe. -/
def Dev.attachedSite (d : Dev) : Site where
  state := .probing
  cursor := d.journal.nextSeq
  frontier := some d.journal.nextSeq
  probeCount := 1
  probeDue := some (d.now + 1000000)

/-- R83: the part when the slot has been attached, before the notice. -/
def Dev.attached (j : SlotId) (c : SiteConfig) (own site : Nat) (d : Dev) : Dev :=
  { d with
    settings := { d.settings with sites := d.settings.sites.set j c }
    sites := d.sites.set j d.attachedSite
    status := { d.status with frontierChanged := true }
    span := d.span.set c.spanPort
      { d.span[c.spanPort] with
        ctrlQ :=
          if d.span[c.spanPort].ctrlQ.length < 4096 then
            d.span[c.spanPort].ctrlQ ++ [⟨own, site, d.power.startCount, .hello site⟩]
          else d.span[c.spanPort].ctrlQ } }

theorem Dev.raiseFrame_config {d : Dev} {j : SlotId} {c : SiteConfig} {own site : Nat} (b : FrameBody)
    (hl : d.settings.localSite = some own) (hj : d.config j = c) (hc : c.site = some site) :
    d.raiseFrame j b =
      { d with
        span := d.span.set c.spanPort
          { d.span[c.spanPort] with
            ctrlQ :=
              if d.span[c.spanPort].ctrlQ.length < 4096 then
                d.span[c.spanPort].ctrlQ ++ [⟨own, site, d.power.startCount, b⟩]
              else d.span[c.spanPort].ctrlQ } } := by
  subst hj
  exact Dev.raiseFrame_eq b hl hc

theorem Dev.setFrontier_new {d : Dev} {j : SlotId} {f : Option Seq} (h : d.sites[j].frontier ≠ f) :
    d.setFrontier j f =
      { d.modSite j fun x => { x with frontier := f } with status := { d.status with frontierChanged := true } } := if_neg h

theorem Dev.attachSlot_eq {d : Dev} {j : SlotId} {c : SiteConfig} {own site : Nat} (hl : d.settings.localSite = some own)
    (hc : c.site = some site) :
    d.attachSlot j c = (d.attached j c own site).siteNotice j (some site) .detached .probing .command := by
  obtain ⟨e, he⟩ : ∃ e : Dev, e = (d.modConfig j fun _ => c).modSite j fun _ => { state := .probing, cursor := d.journal.nextSeq } :=
    ⟨_, rfl⟩
  have hfresh : e.sites[j].frontier ≠ some d.journal.nextSeq := by
    have hsite : e.sites[j] = { state := .probing, cursor := d.journal.nextSeq } := he ▸ Dev.modSite_self _ _ _
    rw [hsite]
    nofun
  obtain ⟨v, hv⟩ : ∃ v : Dev, v = e.setFrontier j (some d.journal.nextSeq) := ⟨_, rfl⟩
  have hnew := hv.trans (Dev.setFrontier_new hfresh)
  have hvsite : v.sites[j] =
      { state := .probing, cursor := d.journal.nextSeq, frontier := some d.journal.nextSeq } := by
    rw [hnew, he]
    simp
  have hconfig : v.config j = c := by
    rw [hnew, he]
    simp [Dev.config]
  have hprobe : v.probe j = v.helloSent j := by
    rw [Dev.probe_eq, hvsite]
    exact if_neg (show ¬ min (0 + 1) 65535 = 30 by decide)
  have hsent : v.helloSent j = d.attached j c own site := by
    have hlocal : v.settings.localSite = some own := by rw [hnew, he]; exact hl
    rw [Dev.helloSent, Dev.raiseFrame_config _ hlocal hconfig hc, hconfig, hc, hvsite, hnew, he]
    simp only [Dev.attached, Dev.attachedSite, Dev.modSite, Dev.modConfig, Fin.getElem_fin, Vector.getElem_set_self, Vector.set_set]
    rfl
  have hattach : d.attachSlot j c = (v.probe j).siteNotice j c.site .detached .probing .command := by rw [hv, he]; rfl
  rw [hattach, hprobe, hsent, hc]

end Sys2Proof.Machine

/-- Settles O28: the checks of R83 in their order, and the slot that begins to probe. -/
theorem attachSiteBeginsProbing : Obligations.AttachSiteBeginsProbing := by
  intro s t p cid b hup hf hi d bad
  refine ⟨fun hl => ?unset, fun hl hbad => ?bad, fun own j sp g hl hgood hj hsp hg => ?set⟩
  case unset =>
    exact Dev.posted_answered (b := .attachSite b) hup hf hi rfl (by nofun) (Dev.actAttachSite_unset _ b hl)
  case bad => exact Dev.posted_answered (b := .attachSite b) hup hf hi rfl (by nofun) (Dev.actAttachSite_bad _ hl hbad)
  case set =>
    intro taken c all owner f
    have hset : s.dev.settings.localSite ≠ none := by rw [hl]; nofun
    have hresult : attachResult b = some (j, c) := attachResult_good hgood hj hsp hg
    obtain ⟨e, he⟩ : ∃ e : Dev, e = d.grantTaken p ⟨cid, .attachSite b⟩ := ⟨_, rfl⟩
    have htaken : e.siteNumberTaken j b.site = true ↔ taken := by
      rw [he]
      exact Dev.siteNumberTaken_iff (d := d.grantTaken p ⟨cid, .attachSite b⟩) j b.site hl
    refine ⟨fun ht => ?taken, fun ht hst => ?attached, fun ht hst hok hs => ?new⟩
    case taken =>
      have hact := Dev.actAttachSite_taken (s.dev.nextTok p) (by rw [he]; exact hset) hresult (htaken.2 ht)
      subst he
      exact Dev.posted_answered (b := .attachSite b) hup hf hi rfl (by nofun) hact
    case attached =>
      have hact := Dev.actAttachSite_attached (s.dev.nextTok p) (by rw [he]; exact hset) hresult (htaken.not.2 ht)
        (by rw [he]; exact hst)
      subst he
      exact Dev.posted_answered (b := .attachSite b) hup hf hi rfl (by nofun) hact
    case new =>
      have hact := Dev.actAttachSite_new (s.dev.nextTok p) (by rw [he]; exact hset) hresult (htaken.not.2 ht)
        (by rw [he]; exact hst)
      have hslot := Dev.attachSlot_eq (d := e) (j := j) (c := c) (own := own) (site := b.site) (by rw [he]; exact hl) rfl
      obtain ⟨a, ha⟩ : ∃ a : Dev, a = e.attached j c own b.site := ⟨_, rfl⟩
      rw [← ha] at hslot
      have hsettings : a.settings = all := by rw [ha, he]; rfl
      have hold : { a with
          nextToken := d.nextToken, settings := d.settings, sites := d.sites, span := d.span, ports := d.ports, intake := d.intake
          status := d.status } = d := by rw [ha, he]; rfl
      have hrest : { e.attachSlot j c with ports := a.ports } = a := hslot ▸ Dev.broadcast_rest a _
      have hport (q : PortId) : (e.attachSlot j c).ports[q] =
          if a.ports[q].state = .online then
            a.ports[q].addNotice false (.siteState j (some b.site) .detached .probing .command)
          else a.ports[q] := hslot ▸ Dev.broadcast_port a _ q
      have hfirst : a.ports[p].taken = [{ id := s.dev.nextToken, cid := cid, kind := 10 }] := by
        rw [ha, he]
        exact Dev.grantTaken_taken (d := d) _ hf.2
      have hkeep (q : PortId) : { a.ports[q] with taken := s.dev.ports[q].taken } = s.dev.ports[q] := by
        rw [ha, he]
        exact Dev.grantTaken_port (d := d) _ hf.2 q
      have hsite : a.sites[j].state = .probing := by
        rw [ha, Dev.attached]
        simp [Dev.attachedSite]
      rw [show (e.attachSlot j c).siteRecords j = [.settings all, .siteEvent j (.state .probing) 0] by
        unfold Dev.siteRecords Dev.settingsRec Dev.siteState
        rw [← hsite, ← hsettings, ← show (e.attachSlot j c).settings = a.settings from (congrArg Dev.settings hrest :),
          ← show (e.attachSlot j c).sites = a.sites from (congrArg Dev.sites hrest :)]] at hact
      generalize e.attachSlot j c = u at *
      have hlike : u.PlacesAs d :=
        ⟨(congrArg Dev.part hrest :).trans (congrArg Dev.part hold :),
          (congrArg Dev.journal hrest :).trans (congrArg Dev.journal hold :),
          (congrArg Dev.array hrest :).trans (congrArg Dev.array hold :),
          (congrArg Dev.now hrest :).trans (congrArg Dev.now hold :),
          (congrArg (fun e : Dev => e.settings.commitDelay) hrest :).trans (congrArg Settings.commitDelay hsettings :)⟩
      have hnext := Dev.posted_placed_two (t := t) (cid := cid) (b := .attachSite b) hup hf hi rfl (by nofun) hok hs rfl rfl
        (he ▸ hact) hlike
      refine ⟨_, hnext, (congrArg Dev.settings hrest :).trans hsettings, ?sites, ?span, rfl, fun q => ?notice, ?taken, ?rest⟩
      case sites =>
        refine (congrArg Dev.sites hrest :).trans ?_
        rw [ha, he]
        rfl
      case span =>
        refine (congrArg Dev.span hrest :).trans ?_
        rw [ha, he]
        rfl
      case notice =>
        have hqueue : a.ports[q].noticeQ = s.dev.ports[q].noticeQ := (congrArg Port.noticeQ (hkeep q) :)
        have hnumber : a.ports[q].noticeNumber = s.dev.ports[q].noticeNumber := (congrArg Port.noticeNumber (hkeep q) :)
        have hstate : a.ports[q].state = s.dev.ports[q].state := (congrArg Port.state (hkeep q) :)
        refine (congrArg Port.noticeQ (u.setCont_port (s.dev.nextTok p) .done q) :).trans ?_
        rw [hport, hstate]
        split
        · exact Port.addNotice_noticeQ_congr hqueue hnumber _ _
        · exact hqueue
      case taken =>
        refine Dev.setCont_taken (x := { id := s.dev.nextToken, cid := cid, kind := 10 }) .done ?_
        rw [hport]
        split
        · exact (congrArg Port.taken (Port.addNotice_same _ _ _) :).trans hfirst
        · exact hfirst
      case rest =>
        have hstatus : { u.status with frontierChanged := s.dev.status.frontierChanged } = s.dev.status := by
          rw [show u.status = a.status from (congrArg Dev.status hrest :), ha, he]
          rfl
        exact (congrArg (fun x : Dev => { x with
          nextToken := s.dev.nextToken, settings := s.dev.settings, sites := s.dev.sites, span := s.dev.span
          journal := s.dev.journal, ports := s.dev.ports, intake := s.dev.intake
          status := { u.status with frontierChanged := s.dev.status.frontierChanged } }) hrest).trans
          ((congrArg (fun x : Dev => { x with
            journal := s.dev.journal
            status := { u.status with frontierChanged := s.dev.status.frontierChanged } }) hold).trans
            (congrArg (fun x : StatusArray => { d with status := x }) hstatus))

end

section
/-!
SUPPORT and settlement of O30: FENCE SITE, UNFENCE SITE and REJOIN SITE, and the checks of the site commands (R84 to R86).
-/

open Sys2Proof Sys2Proof.Machine

namespace Sys2Proof.Machine

/-! ## The checks that the site commands share -/

section SiteCommand

variable {d : Dev} (tok : Tok) {n : Nat} (ok : SiteState → Bool) (effect : SlotId → Dev → Dev)

theorem Dev.siteCommand_unset (hl : d.settings.localSite = none) : d.siteCommand tok n ok effect = d.refuse tok .wrongState :=
  if_pos (by rw [hl]; rfl)

variable (hl : d.settings.localSite ≠ none)
include hl

theorem Dev.siteCommand_set :
    d.siteCommand tok n ok effect =
      match slotOf n with
      | none => d.refuse tok .badField
      | some j => if ok (d.siteState j) then effect j d else d.refuse tok .wrongState :=
  if_neg (by rwa [Option.isNone_iff_eq_none])

theorem Dev.siteCommand_outside (hn : 7 < n) : d.siteCommand tok n ok effect = d.refuse tok .badField := by
  rw [Dev.siteCommand_set tok ok effect hl, slotOf_of_gt hn]

theorem Dev.siteCommand_refused {j : SlotId} (hj : n = j.val) (h : ok (d.siteState j) = false) :
    d.siteCommand tok n ok effect = d.refuse tok .wrongState := by
  rw [Dev.siteCommand_set tok ok effect hl, hj, slotOf_val]
  exact if_neg (by rw [h]; exact Bool.false_ne_true)

theorem Dev.siteCommand_done {j : SlotId} (hj : n = j.val) (h : ok (d.siteState j) = true) :
    d.siteCommand tok n ok effect = effect j d := by
  rw [Dev.siteCommand_set tok ok effect hl, hj, slotOf_val]
  exact if_pos h

end SiteCommand

/-! ## The command's own part -/

/-- The responses of a port stay while a command of it is placed. -/
theorem Dev.withRecords_respQ (d : Dev) (tok : Tok) (c : Cont) (v : Journal) (q : PortId) :
    (d.withRecords tok c v).ports[q].respQ = d.ports[q].respQ := (congrArg Port.respQ (d.setCont_port tok c q) :)

/-- R79: the records of a site command, by the settings and the state that it leaves. -/
theorem Dev.siteRecords_eq {d : Dev} {j : SlotId} {all : Settings} {st : SiteState} (hs : d.settings = all)
    (hst : d.sites[j].state = st) : d.siteRecords j = [.settings all, .siteEvent j (.state st) 0] := by
  rw [← hs, ← hst]
  rfl

/-- A granted command's part, with the token, the port and the grant aside. -/
theorem Dev.grantTaken_rest (d : Dev) (p : PortId) (r : CmdRec) :
    { d.grantTaken p r with nextToken := d.nextToken, ports := d.ports, intake := d.intake } = d := rfl

/-! ## FENCE SITE (R80, R85) -/

/-- R85: the part with the fence mark. -/
def Dev.fenceMarked (j : SlotId) (v : Bool) (d : Dev) : Dev := d.modConfig j fun c => { c with fenceMark := v }

/-- R80: the part when the slot has left ACTIVE. -/
def Dev.fenceQuit (j : SlotId) (d : Dev) : Dev :=
  ((d.fenceMarked j true).withdrawn j).modSite j fun x => { x with credit := 0, probeDue := none }

theorem Dev.fenceSlot_eq (d : Dev) (j : SlotId) :
    d.fenceSlot j = (((d.fenceQuit j).setSiteState j .fenced .command).membershipChanged j).fenceArrivals j := by
  have hquit : ((d.fenceMarked j true).quitActive j).modSite j (fun x => { x with probeDue := none }) = d.fenceQuit j :=
    Dev.modSite_modSite _ _ _ _
  exact congrArg (fun e : Dev => ((e.setSiteState j .fenced .command).membershipChanged j).fenceArrivals j) hquit

/-- R80: the slot when it has left ACTIVE. -/
def Site.fencedAt (frontier : Seq) (x : Site) : Site :=
  { x with
    state := .fenced, inFlight := [], resends := [], send := none, candidates := [], credit := 0, probeDue := none
    cursor := frontier }

theorem Dev.fenceQuit_rest (d : Dev) (j : SlotId) :
    { d.fenceQuit j with
      settings := d.settings, sites := d.sites, ports := d.ports, partLost := d.partLost, status := d.status
      index := d.index } = d :=
  congrArg (fun e : Dev => { e with settings := d.settings }) ((d.fenceMarked j true).withdrawn_kept j)

theorem Dev.fenceQuit_settings (d : Dev) (j : SlotId) : (d.fenceQuit j).settings = (d.fenceMarked j true).settings :=
  (congrArg Dev.settings ((d.fenceMarked j true).withdrawn_kept j) :)

theorem Dev.fenceQuit_site (d : Dev) (j : SlotId) :
    (d.fenceQuit j).sites[j] =
      { d.sites[j].withdrawn (((d.fenceMarked j true).returnInFlight j).frontierOf j) with credit := 0, probeDue := none } := by
  have hself : (d.fenceQuit j).sites[j] =
      { ((d.fenceMarked j true).withdrawn j).sites[j] with credit := 0, probeDue := none } := Dev.modSite_self _ _ _
  rw [hself, (d.fenceMarked j true).withdrawn_sites j, sites_set_get, if_pos rfl]
  rfl

/-- R80, R85: what a fence leaves. -/
structure Dev.Fenced (d : Dev) (j : SlotId) (u : Dev) : Prop where
  settings : u.settings = (d.fenceMarked j true).settings
  site : u.sites[j] = d.sites[j].fencedAt (u.frontierOf j)
  slot (q : Seq) : u.slot? q = ((d.fenceMarked j true).returnInFlight j).slot? q
  ports : d.PortsKept u
  rest : { u with
    settings := d.settings, sites := d.sites, ports := d.ports, partLost := d.partLost, status := d.status
    index := d.index, inbound := d.inbound } = d

theorem Dev.fenceSlot_fenced (d : Dev) (j : SlotId) : d.Fenced j (d.fenceSlot j) := by
  have hrest := d.fenceQuit_rest j
  have hsettings := d.fenceQuit_settings j
  have hsite := d.fenceQuit_site j
  have hslot (q : Seq) : (d.fenceQuit j).slot? q = ((d.fenceMarked j true).returnInFlight j).slot? q := rfl
  have hfrontier : (d.fenceQuit j).frontierOf j = ((d.fenceMarked j true).returnInFlight j).frontierOf j := rfl
  have hports : d.PortsKept (d.fenceQuit j) := (d.fenceMarked j true).returnInFlight_ports j
  rw [Dev.fenceSlot_eq]
  generalize d.fenceQuit j = e at *
  have htold := e.setSiteState_rest j .fenced .command
  have htoldSites := e.setSiteState_sites j .fenced .command
  have htoldPorts : e.PortsKept (e.setSiteState j .fenced .command) :=
    Dev.broadcast_kept (e.modSite j fun x => { x with state := .fenced }) _
  generalize e.setSiteState j .fenced .command = t at *
  have hmember := t.membershipChanged_rest j
  have hmemberSite := t.membershipChanged_site j j
  have hstate : (t.membershipChanged j).siteState j = .fenced := by
    rw [Dev.membershipChanged, Dev.clampMembers_state, Dev.siteState, htoldSites, sites_set_get, if_pos rfl]
  generalize t.membershipChanged j = m at *
  have hstatus : m.status = e.status := (congrArg Dev.status hmember :).trans (congrArg Dev.status htold :)
  have hjournal : m.journal = e.journal := (congrArg Dev.journal hmember :).trans (congrArg Dev.journal htold :)
  have hmports : m.ports = t.ports := (congrArg Dev.ports hmember :)
  have hmfrontier : (m.fenceArrivals j).frontierOf j = e.frontierOf j :=
    Dev.frontierOf_congr (congrArg StatusArray.slots hstatus) (congrArg Journal.nextSeq hjournal) j
  refine ⟨?settings, ?site, fun q => ?slot, ?ports, ?rest⟩
  case settings =>
    exact ((congrArg Dev.settings hmember :).trans (congrArg Dev.settings htold :)).trans hsettings
  case site =>
    rw [hmfrontier, hfrontier]
    refine hmemberSite.trans ?_
    rw [if_neg (by simp [Dev.isMember, hstate]), htoldSites, sites_set_get, if_pos rfl, hsite]
    rfl
  case slot => exact (congrArg (fun x : StatusArray => Tbl.get x.slots q) hstatus).trans (hslot q)
  case ports => exact hports.trans (htoldPorts.trans (.of_eq hmports))
  case rest =>
    refine Eq.trans ?_ hrest
    exact (congrArg (fun x : Dev => { x with
      settings := d.settings, sites := d.sites, ports := d.ports, partLost := d.partLost, status := d.status
      index := d.index, inbound := d.inbound }) hmember).trans ((congrArg (fun x : Dev => { x with
      settings := d.settings, sites := d.sites, ports := d.ports, partLost := d.partLost, status := d.status
      index := d.index, inbound := d.inbound }) htold).trans
      ((congrArg (fun x : Dev => { x with inbound := d.inbound }) hrest).trans hrest.symm))

/-! ## A slot that begins to probe again (R66, R85, R86) -/

/-- R66, R79: a slot goes to PROBING and sends its HELLO. -/
def Dev.probesAgain (j : SlotId) (d : Dev) : Dev := (d.setSiteState j .probing .command).probe j

theorem Dev.probesAgain_site (d : Dev) (j : SlotId) :
    (d.probesAgain j).sites[j] = { d.sites[j] with state := .probing }.probed d.now := by
  have htold := d.setSiteState_rest j .probing .command
  have hsites := d.setSiteState_sites j .probing .command
  unfold Dev.probesAgain
  generalize d.setSiteState j .probing .command = t at *
  rw [Dev.probe_sites, sites_set_get, if_pos rfl, hsites, sites_set_get, if_pos rfl,
    show t.now = d.now from (congrArg Dev.now htold :)]

theorem Dev.probesAgain_rest (d : Dev) (j : SlotId) :
    { d.probesAgain j with sites := d.sites, ports := d.ports } = d.raiseFrame j (.hello ((d.config j).site.getD 0)) := by
  have htold := d.setSiteState_rest j .probing .command
  unfold Dev.probesAgain
  generalize d.setSiteState j .probing .command = t at *
  refine (congrArg (fun x : Dev => { x with sites := d.sites, ports := d.ports }) (t.probe_rest j)).trans ?_
  exact (congrArg (fun x : Dev => x.raiseFrame j (.hello ((x.config j).site.getD 0))) htold :)

theorem Dev.probesAgain_ports (d : Dev) (j : SlotId) : d.PortsKept (d.probesAgain j) := by
  have htold : d.PortsKept (d.setSiteState j .probing .command) :=
    Dev.broadcast_kept (d.modSite j fun x => { x with state := .probing }) _
  unfold Dev.probesAgain
  refine htold.trans fun q => ?_
  rw [Dev.probe_port]
  split
  · exact Port.addNotice_same _ _ _
  · rfl

/-- R79: what an UNFENCE or a REJOIN does to the part, by the slot, the settings and the mark of R120 that it leaves. -/
structure Dev.ProbesFrom (d : Dev) (j : SlotId) (own site : Nat) (e u : Dev) : Prop where
  settings : u.settings = e.settings
  slot : u.sites[j] = { e.sites[j] with state := .probing }.probed d.now
  status : u.status = e.status
  queue : u.span[(d.config j).spanPort].ctrlQ =
    if d.span[(d.config j).spanPort].ctrlQ.length < 4096 then
      d.span[(d.config j).spanPort].ctrlQ ++ [⟨own, site, d.power.startCount, .hello site⟩]
    else d.span[(d.config j).spanPort].ctrlQ
  ports : d.PortsKept u
  rest : { u with
    settings := d.settings, sites := d.sites, ports := d.ports, status := d.status, span := d.span } = d

theorem Dev.probesFrom {d e : Dev} {j : SlotId} {own site : Nat} (hl : d.settings.localSite = some own)
    (hsite : (d.config j).site = some site) (hlocal : e.settings.localSite = d.settings.localSite)
    (hconfig : (e.config j).site = (d.config j).site ∧ (e.config j).spanPort = (d.config j).spanPort)
    (hrest : { e with settings := d.settings, sites := d.sites, status := d.status } = d) :
    d.ProbesFrom j own site e (e.probesAgain j) := by
  have hprobes := e.probesAgain_rest j
  have hself := e.probesAgain_site j
  have hports := e.probesAgain_ports j
  have hframe := Dev.raiseFrame_eq (d := e) (j := j) (.hello ((e.config j).site.getD 0)) (hlocal.trans hl) (hconfig.1.trans hsite)
  rw [hframe] at hprobes
  have hspan : e.span = d.span := (congrArg Dev.span hrest :)
  have hpower : e.power = d.power := (congrArg Dev.power hrest :)
  have heports : e.ports = d.ports := (congrArg Dev.ports hrest :)
  have henow : e.now = d.now := (congrArg Dev.now hrest :)
  generalize e.probesAgain j = u at *
  refine ⟨(congrArg Dev.settings hprobes :), henow ▸ hself, (congrArg Dev.status hprobes :), ?queue, ?ports, ?rest⟩
  case queue =>
    have hqueue (sp : SpanId) (hsp : (e.config j).spanPort = sp) : u.span[sp].ctrlQ =
        if d.span[sp].ctrlQ.length < 4096 then d.span[sp].ctrlQ ++ [⟨own, site, d.power.startCount, .hello site⟩]
        else d.span[sp].ctrlQ := by
      subst hsp
      rw [show u.span = _ from (congrArg Dev.span hprobes :), hspan, hpower, hconfig.1, hsite]
      simp
    exact hqueue _ hconfig.2
  case ports => exact Dev.PortsKept.trans (.of_eq heports) hports
  case rest =>
    exact (congrArg (fun x : Dev => { x with
      settings := d.settings, sites := d.sites, ports := d.ports, status := d.status, span := d.span }) hprobes).trans
      ((congrArg (fun x : Dev => { x with ports := d.ports, span := d.span }) hrest))

/-- R69, R85: the part before an unfenced slot probes. -/
def Dev.unfenced (j : SlotId) (d : Dev) : Dev :=
  (d.fenceMarked j false).modSite j fun x => { x with cursor := d.frontierOf j, candidates := [] }

theorem Dev.unfenceSlot_eq (d : Dev) (j : SlotId) : d.unfenceSlot j = (d.unfenced j).probesAgain j := rfl

/-- R86: the slot that has been rejoined. -/
def Site.rejoined (next : Seq) (x : Site) : Site :=
  { x with
    cursor := next, candidates := [], rtt := none, busyCount := 0, busyEnd := none, probeCount := 0, peerStart := none }

/-- R86: the part before a rejoined slot probes. -/
def Dev.rejoined (j : SlotId) (d : Dev) : Dev :=
  ((d.modConfig j fun c => { c with evictMark := false }).modSite j (Site.rejoined d.journal.nextSeq)).setFrontier j
    (some d.journal.nextSeq)

theorem Dev.rejoinSlot_eq (d : Dev) (j : SlotId) : d.rejoinSlot j = (d.rejoined j).probesAgain j := rfl

theorem Dev.rejoined_rest (d : Dev) (j : SlotId) :
    { d.rejoined j with settings := d.settings, sites := d.sites, status := d.status } = d :=
  congrArg (fun e : Dev => { e with settings := d.settings, sites := d.sites, status := d.status })
    (Dev.setFrontier_rest ((d.modConfig j fun c => { c with evictMark := false }).modSite j (Site.rejoined d.journal.nextSeq)) j
      (some d.journal.nextSeq))

theorem Dev.rejoined_settings (d : Dev) (j : SlotId) :
    (d.rejoined j).settings = (d.modConfig j fun c => { c with evictMark := false }).settings :=
  (congrArg Dev.settings
    (Dev.setFrontier_rest ((d.modConfig j fun c => { c with evictMark := false }).modSite j (Site.rejoined d.journal.nextSeq)) j
      (some d.journal.nextSeq)) :)

theorem Dev.rejoined_site (d : Dev) (j : SlotId) :
    (d.rejoined j).sites[j] = { d.sites[j].rejoined d.journal.nextSeq with frontier := some d.journal.nextSeq } := by
  rw [Dev.rejoined, Dev.setFrontier_site, if_pos rfl, Dev.modSite_self]
  rfl

theorem Dev.rejoined_slots (d : Dev) (j : SlotId) : (d.rejoined j).status.slots = d.status.slots := by
  unfold Dev.rejoined Dev.setFrontier
  split <;> rfl

/-! ## The site commands as granted commands -/

/-- R84 to R86: what a site command that changes its slot leaves: the part that its rule leaves, with its two records. -/
theorem Dev.posted_siteCommand {s : State} {t : Time} {p : PortId} {cid : Word32} {b : CmdBody} {j : SlotId} {all : Settings}
    {st : SiteState} {c : Cont} (hup : s.dev.up) (hf : s.dev.portFree p) (hi : s.dev.intakeFree) (ha : usesArbiter b = true)
    (hn : ∀ x, b ≠ .append x) (hok : s.dev.journal.buffersOk = true) (hs : s.dev.canPlaceBoth) {u : Dev}
    (hact : ((s.dev.tick t).grantTaken p ⟨cid, b⟩).act (s.dev.nextTok p) .none b = u.raiseOwn (s.dev.nextTok p) c (u.siteRecords j))
    (hsettings : u.settings = all) (hstate : u.sites[j].state = st) (hlike : u.PlacesAs (s.dev.tick t)) :
    s.goOn (Dev.posted t p cid b) =
      .next { s with dev :=
        (u.withRecords (s.dev.nextTok p) c
          (((s.dev.tick t).place ⟨.settings all, some (s.dev.nextTok p)⟩).1.place
            ⟨.siteEvent j (.state st) 0, some (s.dev.nextTok p)⟩).1.journal).settle } := by
  rw [Dev.siteRecords_eq hsettings hstate] at hact
  exact Dev.posted_placed_two hup hf hi ha hn hok hs rfl rfl hact hlike

/-- The records take no sequence, so the frontier stays (R9, R69). -/
theorem Dev.withRecords_frontier {u d : Dev} (j : SlotId) (tok : Tok) (c : Cont) (x y : Staged) (h : u.PlacesAs d) :
    (u.withRecords tok c ((d.place x).1.place y).1.journal).frontierOf j = u.frontierOf j := by
  refine Dev.frontierOf_congr (d := u) (e := u.withRecords tok c ((d.place x).1.place y).1.journal) rfl ?_ j
  have hseq : (((d.place x).1.place y).1.journal).nextSeq = d.journal.nextSeq :=
    (Dev.place_nextSeq y _).trans (Dev.place_nextSeq x d)
  exact hseq.trans (congrArg Journal.nextSeq h.journal).symm

/-- The answer that a site command still owes. -/
theorem Dev.grantTaken_kept_taken {d u : Dev} {p : PortId} (r : CmdRec) (c : Cont) (v : Journal) (h : d.portIdle p)
    (hu : (d.grantTaken p r).PortsKept u) :
    (u.withRecords (d.nextTok p) c v).ports[p].taken =
      [{ id := d.nextToken, cid := r.cid, kind := kindCode r.body, cont := c }] := by
  have htaken : u.ports[p].taken = [{ id := d.nextToken, cid := r.cid, kind := kindCode r.body }] :=
    (congrArg Port.taken (hu p) :).trans (Dev.grantTaken_taken r h)
  exact Dev.setCont_taken (x := { id := d.nextToken, cid := r.cid, kind := kindCode r.body }) c htaken

/-- R85, R86: an UNFENCE or a REJOIN that has been granted. -/
theorem Dev.posted_probes {s : State} {t : Time} {p : PortId} {cid : Word32} {b : CmdBody} {j : SlotId} {own site : Nat}
    {all : Settings} (hup : s.dev.up) (hf : s.dev.portFree p) (hi : s.dev.intakeFree) (ha : usesArbiter b = true)
    (hn : ∀ x, b ≠ .append x) (hok : s.dev.journal.buffersOk = true) (hs : s.dev.canPlaceBoth) {u v : Dev}
    (hact : ((s.dev.tick t).grantTaken p ⟨cid, b⟩).act (s.dev.nextTok p) .none b =
      u.raiseOwn (s.dev.nextTok p) .done (u.siteRecords j))
    (hp : ((s.dev.tick t).grantTaken p ⟨cid, b⟩).ProbesFrom j own site v u) (hall : v.settings = all)
    (hdelay : all.commitDelay = s.dev.settings.commitDelay) :
    ∃ w : Dev, s.goOn (Dev.posted t p cid b) = .next { s with dev := w.settle } ∧ w.settings = all ∧
      w.sites[j] = { v.sites[j] with state := .probing }.probed (s.dev.tick t).now ∧
      w.span[(s.dev.config j).spanPort].ctrlQ =
        (if s.dev.span[(s.dev.config j).spanPort].ctrlQ.length < 4096 then
          s.dev.span[(s.dev.config j).spanPort].ctrlQ ++ [⟨own, site, s.dev.power.startCount, .hello site⟩]
        else s.dev.span[(s.dev.config j).spanPort].ctrlQ) ∧
      w.journal =
        (((s.dev.tick t).place ⟨.settings all, some (s.dev.nextTok p)⟩).1.place
          ⟨.siteEvent j (.state .probing) 0, some (s.dev.nextTok p)⟩).1.journal ∧
      w.ports[p].taken = [{ id := s.dev.nextToken, cid := cid, kind := kindCode b, cont := .done }] ∧
      w.status = v.status ∧ w.array = s.dev.array ∧ w.held = s.dev.held := by
  obtain ⟨hsettings, hslot, hstatus, hqueue, hports, hrest⟩ := hp
  have hold := Dev.grantTaken_rest (s.dev.tick t) p ⟨cid, b⟩
  have htaken := Dev.grantTaken_kept_taken (d := s.dev.tick t) (u := u) ⟨cid, b⟩ .done
    (((s.dev.tick t).place ⟨.settings all, some (s.dev.nextTok p)⟩).1.place
      ⟨.siteEvent j (.state .probing) 0, some (s.dev.nextTok p)⟩).1.journal hf.2 hports
  have hlike : u.PlacesAs (s.dev.tick t) :=
    ⟨(congrArg Dev.part hrest :).trans (congrArg Dev.part hold :), (congrArg Dev.journal hrest :).trans (congrArg Dev.journal hold :),
      (congrArg Dev.array hrest :).trans (congrArg Dev.array hold :), (congrArg Dev.now hrest :).trans (congrArg Dev.now hold :),
      (congrArg Settings.commitDelay (hsettings.trans hall) :).trans hdelay⟩
  have hnext := Dev.posted_siteCommand (t := t) (cid := cid) (b := b) (st := .probing) hup hf hi ha hn hok hs hact
    (hsettings.trans hall) (by rw [hslot]; rfl) hlike
  exact ⟨_, hnext, hsettings.trans hall, hslot, hqueue, rfl, htaken, hstatus,
    (congrArg Dev.array hrest :).trans (congrArg Dev.array hold :), (congrArg Dev.held hrest :).trans (congrArg Dev.held hold :)⟩

/-- The checks of a site command as its answer. -/
theorem Dev.posted_siteRefused {s : State} (t : Time) {p : PortId} (cid : Word32) {b : CmdBody} (hup : s.dev.up)
    (hf : s.dev.portFree p) (hi : s.dev.intakeFree) (ha : usesArbiter b = true) (hn : ∀ x, b ≠ .append x) {n : Nat}
    {ok : SiteState → Bool} {effect : SlotId → Dev → Dev}
    (hact : ∀ d : Dev, d.act (s.dev.nextTok p) .none b = d.siteCommand (s.dev.nextTok p) n ok effect) :
    (s.dev.settings.localSite = none → s.goOn (Dev.posted t p cid b) =
      .next { s with dev := ((s.dev.tick t).grantedReply p cid (kindCode b) .wrongState 0 .none).settle }) ∧
    (s.dev.settings.localSite ≠ none → 7 < n → s.goOn (Dev.posted t p cid b) =
      .next { s with dev := ((s.dev.tick t).grantedReply p cid (kindCode b) .badField 0 .none).settle }) ∧
    ∀ j : SlotId, s.dev.settings.localSite ≠ none → n = j.val → ok s.dev.sites[j].state = false →
      s.goOn (Dev.posted t p cid b) =
        .next { s with dev := ((s.dev.tick t).grantedReply p cid (kindCode b) .wrongState 0 .none).settle } := by
  refine ⟨fun hl => ?_, fun hl hout => ?_, fun j hl hj hst => ?_⟩
  · exact Dev.posted_answered hup hf hi ha hn ((hact _).trans (Dev.siteCommand_unset _ _ _ hl))
  · exact Dev.posted_answered hup hf hi ha hn ((hact _).trans (Dev.siteCommand_outside _ _ _ hl hout))
  · exact Dev.posted_answered hup hf hi ha hn ((hact _).trans (Dev.siteCommand_refused _ _ _ hl hj hst))

end Sys2Proof.Machine

/-- Settles O30: each command's slot, its records and its answer; and the checks that the four commands share. -/
theorem fenceUnfenceAndRejoinSite : Obligations.FenceUnfenceAndRejoinSite := by
  refine ⟨?fence, ?probing, ?checks⟩
  case fence =>
    intro s t p cid j hup hf hi hl hst hok hs d c all owner
    obtain ⟨e, he⟩ : ∃ e : Dev, e = d.grantTaken p ⟨cid, .fenceSite j.val⟩ := ⟨_, rfl⟩
    have hact : e.actFenceSite (s.dev.nextTok p) j.val =
        (e.fenceSlot j).raiseOwn (s.dev.nextTok p) .done ((e.fenceSlot j).siteRecords j) :=
      Dev.siteCommand_done _ _ _ (by rw [he]; exact hl) rfl
        (by rw [show e.siteState j = s.dev.sites[j].state by rw [he]; rfl]; rcases hst with h | h | h <;> rw [h] <;> rfl)
    have hfenced := e.fenceSlot_fenced j
    have hmarked : (e.fenceMarked j true).settings = all := by rw [he]; rfl
    have hsite : e.sites = s.dev.sites := by rw [he]; rfl
    have hkeep (q : PortId) : { e.ports[q] with taken := s.dev.ports[q].taken } = s.dev.ports[q] :=
      he ▸ Dev.grantTaken_port (d := d) _ hf.2 q
    have hslots (q : Seq) (x : Slot) (hx : s.dev.slot? q = some x) := (e.fenceMarked j true).returnInFlight_slot j
      (q := q) (x := x) (by rw [he]; exact hx)
    generalize e.fenceSlot j = u at *
    obtain ⟨hsettings, hself, hslot, hports, hrest⟩ := hfenced
    have hold : { e with nextToken := d.nextToken, ports := d.ports, intake := d.intake } = d := by rw [he]; rfl
    have hlike : u.PlacesAs d :=
      ⟨(congrArg Dev.part hrest :).trans (congrArg Dev.part hold :), (congrArg Dev.journal hrest :).trans (congrArg Dev.journal hold :),
        (congrArg Dev.array hrest :).trans (congrArg Dev.array hold :), (congrArg Dev.now hrest :).trans (congrArg Dev.now hold :),
        (congrArg Settings.commitDelay (hsettings.trans hmarked) :)⟩
    have hnext := Dev.posted_siteCommand (t := t) (cid := cid) (b := .fenceSite j.val) hup hf hi rfl (by nofun) hok hs
      (st := .fenced) (he ▸ hact) (hsettings.trans hmarked) (by rw [hself]; rfl) hlike
    refine ⟨_, hnext, hsettings.trans hmarked, ?site, fun q x hx => ?mark, rfl, fun q => ?resp, ?taken,
      (congrArg Dev.array hrest :).trans (congrArg Dev.array hold :), (congrArg Dev.held hrest :).trans (congrArg Dev.held hold :),
      (congrArg Dev.fetch hrest :).trans (congrArg Dev.fetch hold :), (congrArg Dev.span hrest :).trans (congrArg Dev.span hold :)⟩
    case site =>
      rw [hsite] at hself
      have hfrontier := Dev.withRecords_frontier j (s.dev.nextTok p) .done ⟨.settings all, some (s.dev.nextTok p)⟩
        ⟨.siteEvent j (.state .fenced) 0, some (s.dev.nextTok p)⟩ hlike
      rw [← hfrontier] at hself
      exact hself
    case mark =>
      obtain ⟨y, hy, hback, hkept, hother⟩ := hslots q x hx
      rw [show (e.fenceMarked j true).sites = s.dev.sites from hsite] at hback hkept
      exact ⟨y, (hslot q).trans hy, hback, hkept, hother⟩
    case resp =>
      rw [Dev.withRecords_respQ, show u.ports[q].respQ = e.ports[q].respQ from (congrArg Port.respQ (hports q) :)]
      exact (congrArg Port.respQ (hkeep q) :)
    case taken => exact Dev.grantTaken_kept_taken (d := d) ⟨cid, .fenceSite j.val⟩ .done _ hf.2 (he ▸ hports)
  case probing =>
    intro s t p cid j own site hup hf hi hl hsite hok hs d x sp owner f queued
    have hset : s.dev.settings.localSite ≠ none := fun h => nomatch hl.symm.trans h
    refine ⟨fun hst => ?unfence, fun hst => ?rejoin⟩
    case unfence =>
      intro n all
      obtain ⟨e, he⟩ : ∃ e : Dev, e = d.grantTaken p ⟨cid, .unfenceSite j.val⟩ := ⟨_, rfl⟩
      have hact : e.actUnfenceSite (s.dev.nextTok p) j.val =
          (e.unfenceSlot j).raiseOwn (s.dev.nextTok p) .done ((e.unfenceSlot j).siteRecords j) :=
        Dev.siteCommand_done _ _ _ (by rw [he]; exact hset) rfl
          (by rw [show e.siteState j = s.dev.sites[j].state by rw [he]; rfl, hst]; rfl)
      have hprobes := Dev.probesFrom (d := e) (e := e.unfenced j) (j := j) (by rw [he]; exact hl) (by rw [he]; exact hsite) rfl
        (by simp [Dev.unfenced, Dev.fenceMarked, Dev.config]) rfl
      have hself : (e.unfenced j).sites[j] = { x with cursor := s.dev.frontierOf j, candidates := [] } := by
        rw [he]
        exact Dev.modSite_self _ _ _
      have hmarked : (e.unfenced j).settings = all := by rw [he]; rfl
      have hstatus : (e.unfenced j).status = s.dev.status := by rw [he]; rfl
      rw [← Dev.unfenceSlot_eq] at hprobes
      generalize e.unfenceSlot j = u at *
      rw [he] at hact hprobes
      obtain ⟨w, hw, hsettings, hslot, hqueue, hjournal, htaken, hwstatus, hrest⟩ := Dev.posted_probes (t := t) (cid := cid)
        (b := .unfenceSite j.val) (all := all) hup hf hi rfl (by nofun) hok hs hact hprobes (he ▸ hmarked) rfl
      rw [← he, hself] at hslot
      rw [← he] at hwstatus
      exact ⟨w, hw, hsettings, hslot, hqueue, hjournal, htaken, hwstatus.trans hstatus, hrest⟩
    case rejoin =>
      intro all
      obtain ⟨e, he⟩ : ∃ e : Dev, e = d.grantTaken p ⟨cid, .rejoinSite j.val⟩ := ⟨_, rfl⟩
      have hact : e.actRejoinSite (s.dev.nextTok p) j.val =
          (e.rejoinSlot j).raiseOwn (s.dev.nextTok p) .done ((e.rejoinSlot j).siteRecords j) :=
        Dev.siteCommand_done _ _ _ (by rw [he]; exact hset) rfl
          (by rw [show e.siteState j = s.dev.sites[j].state by rw [he]; rfl, hst]; rfl)
      have hjoined := e.rejoined_settings j
      have hprobes := Dev.probesFrom (d := e) (e := e.rejoined j) (j := j) (by rw [he]; exact hl) (by rw [he]; exact hsite)
        (by rw [hjoined]; rfl) (by simp [Dev.config, hjoined]) (e.rejoined_rest j)
      have hself : (e.rejoined j).sites[j] =
          { x.rejoined s.dev.journal.nextSeq with frontier := some s.dev.journal.nextSeq } := by
        rw [Dev.rejoined_site, he]
        rfl
      have hmarked : (e.rejoined j).settings = all := by rw [hjoined, he]; rfl
      have hslots : (e.rejoined j).status.slots = s.dev.status.slots := by rw [Dev.rejoined_slots, he]; rfl
      rw [← Dev.rejoinSlot_eq] at hprobes
      generalize e.rejoinSlot j = u at *
      rw [he] at hact hprobes
      obtain ⟨w, hw, hsettings, hslot, hqueue, hjournal, htaken, hwstatus, hrest⟩ := Dev.posted_probes (t := t) (cid := cid)
        (b := .rejoinSite j.val) (all := all) hup hf hi rfl (by nofun) hok hs hact hprobes (he ▸ hmarked) rfl
      rw [← he, hself] at hslot
      rw [← he] at hwstatus
      exact ⟨w, hw, hsettings, hslot, hqueue, hjournal, htaken, (congrArg StatusArray.slots hwstatus).trans hslots, hrest⟩
  case checks =>
    intro s t p cid n hup hf hi answer
    obtain ⟨hd1, hd2, hd3⟩ := Dev.posted_siteRefused t cid (b := .detachSite n) hup hf hi rfl (by nofun)
      (ok := fun x => x != .detached)
      (effect := fun j d => (d.detachSlot j).raiseOwn (s.dev.nextTok p) (.count (d.marked j Mark.isOpen).length)
        ((d.detachSlot j).siteRecords j)) fun _ => rfl
    obtain ⟨hf1, hf2, hf3⟩ := Dev.posted_siteRefused t cid (b := .fenceSite n) hup hf hi rfl (by nofun)
      (ok := fun x => x == .probing || x == .active || x == .stalled)
      (effect := fun j d => (d.fenceSlot j).raiseOwn (s.dev.nextTok p) .done ((d.fenceSlot j).siteRecords j)) fun _ => rfl
    obtain ⟨hu1, hu2, hu3⟩ := Dev.posted_siteRefused t cid (b := .unfenceSite n) hup hf hi rfl (by nofun)
      (ok := fun x => x == .fenced)
      (effect := fun j d => (d.unfenceSlot j).raiseOwn (s.dev.nextTok p) .done ((d.unfenceSlot j).siteRecords j)) fun _ => rfl
    obtain ⟨hr1, hr2, hr3⟩ := Dev.posted_siteRefused t cid (b := .rejoinSite n) hup hf hi rfl (by nofun)
      (ok := fun x => x == .evicted)
      (effect := fun j d => (d.rejoinSlot j).raiseOwn (s.dev.nextTok p) .done ((d.rejoinSlot j).siteRecords j)) fun _ => rfl
    refine ⟨fun hl => ⟨hd1 hl, hf1 hl, hu1 hl, hr1 hl⟩, fun hl hn => ⟨hd2 hl hn, hf2 hl hn, hu2 hl hn, hr2 hl hn⟩,
      fun j hl hn => ⟨fun h => hd3 j hl hn ?_, fun h1 h2 h3 => hf3 j hl hn ?_, fun h => hu3 j hl hn ?_, fun h => hr3 j hl hn ?_⟩⟩
    · exact bne_eq_false_iff_eq.2 h
    · rw [beq_eq_false_iff_ne.2 h1, beq_eq_false_iff_ne.2 h2, beq_eq_false_iff_ne.2 h3]
      rfl
    · exact beq_eq_false_iff_ne.2 h
    · exact beq_eq_false_iff_ne.2 h

end

section
/-!
SUPPORT and settlement of O29: DETACH SITE (R79, R82, R84, R138).
-/

open Sys2Proof Sys2Proof.Machine

namespace Sys2Proof.Machine

/-! ## The arrivals of a detached slot (R138) -/

/-- What the arrivals of a detached slot may change: their list, the landing writes, and the landings of the ports. -/
structure Dev.ArrivalsGone (d u : Dev) : Prop where
  rest : { u with inbound := d.inbound, dma := d.dma, ports := d.ports } = d
  taken (p : PortId) : u.ports[p].taken = d.ports[p].taken

theorem Dev.stopDelivery_gone (d : Dev) (a : Arrival) : d.ArrivalsGone (d.stopDelivery a) := by
  unfold Dev.stopDelivery
  split
  · next p l _ _ =>
    refine ⟨rfl, fun q => ?_⟩
    rw [Dev.modPort_port]
    split <;> rfl
  · exact ⟨rfl, fun _ => rfl⟩

theorem Dev.detachArrivals_gone (d : Dev) (j : SlotId) : d.ArrivalsGone (d.detachArrivals j) := by
  have hfold (l : List Arrival) (e : Dev) (h : d.ArrivalsGone e) : d.ArrivalsGone (l.foldl (fun d a => d.stopDelivery a) e) := by
    induction l generalizing e with
    | nil => exact h
    | cons a t ih =>
      refine ih _ ⟨?_, fun p => ((e.stopDelivery_gone a).taken p).trans (h.taken p)⟩
      exact (congrArg (fun x : Dev => { x with inbound := d.inbound, dma := d.dma, ports := d.ports })
        (e.stopDelivery_gone a).rest).trans h.rest
  obtain ⟨hrest, htaken⟩ := hfold (d.inbound.arrivals.filter fun a => a.slot == j) d ⟨rfl, fun _ => rfl⟩
  exact ⟨hrest, htaken⟩

theorem Dev.detachArrivals_arrivals (d : Dev) (j : SlotId) : ∀ a ∈ (d.detachArrivals j).inbound.arrivals, a.slot ≠ j := by
  intro a ha
  obtain ⟨b, hb, rfl⟩ := List.mem_map.1 (show a ∈ List.map _ _ from ha)
  exact bne_iff_ne.1 (List.mem_filter.1 hb).2

theorem Dev.detachArrivals_done (d : Dev) (j : SlotId) : ∀ e ∈ (d.detachArrivals j).inbound.done, e.slot ≠ j :=
  fun _ he => bne_iff_ne.1 (List.mem_filter.1 he).2

/-! ## The detached slot -/

/-- R82: the part when the slot's configuration and state are clear, before the members' credits are limited. -/
def Dev.slotCleared (j : SlotId) (d : Dev) : Dev :=
  let e := (d.detachArrivals j).modSite j fun _ => {}
  { e with
    status := { e.status with frontierChanged := true }
    settings := { e.settings with sites := e.settings.sites.set j {} } }

theorem Dev.detachSlot_eq (d : Dev) (j : SlotId) :
    ∃ (g : GenId) (b : NoticeBody), d.detachSlot j = (((d.slotCleared j).clampMembers g).broadcast b).skipMarks j .detached :=
  ⟨_, _, rfl⟩

/-- R82, R84: what a detachment leaves. -/
structure Dev.Detached (d : Dev) (j : SlotId) (u : Dev) : Prop where
  settings : u.settings = { d.settings with sites := d.settings.sites.set j {} }
  site : u.sites[j] = {}
  changed : u.status.frontierChanged = true
  slot (q : Seq) (x : Slot) (hx : d.slot? q = some x) :
    ∃ y, u.slot? q = some y ∧ y.mark j = (x.mark j).map (fun m => if m.isOpen then .skipped .detached else m) ∧
      ∀ k, k ≠ j → y.mark k = x.mark k
  arrivals : ∀ a ∈ u.inbound.arrivals, a.slot ≠ j
  done : ∀ e ∈ u.inbound.done, e.slot ≠ j
  taken (p : PortId) : u.ports[p].taken = d.ports[p].taken
  rest : { u with
    settings := d.settings, sites := d.sites, ports := d.ports, partLost := d.partLost, status := d.status, index := d.index
    inbound := d.inbound, dma := d.dma } = d

/-- R82: the open marks of the slot are skipped, and no other mark changes. -/
theorem Dev.skipMarks_mark (d : Dev) (j : SlotId) (r : SkipReason) {q : Seq} {x : Slot} (hx : d.slot? q = some x) :
    ∃ y, (d.skipMarks j r).slot? q = some y ∧ y.mark j = (x.mark j).map (fun m => if m.isOpen then .skipped r else m) ∧
      ∀ k, k ≠ j → y.mark k = x.mark k := by
  obtain ⟨-, -, -, hslot⟩ := Dev.foldl_moveMark j Mark.isOpen (.skipped r) rfl (d.marked j Mark.isOpen) d
  obtain ⟨y, hy, hself, hother⟩ := hslot q x hx
  refine ⟨y, hy, hself.trans ?_, hother⟩
  split
  · rfl
  · next hnot =>
    have hclosed : ((x.mark j).map Mark.isOpen).getD false = false := by
      refine Bool.eq_false_of_not_eq_true fun hopen => hnot ?_
      rw [Dev.marked_eq, List.mem_map]
      exact ⟨(q, x), List.mem_filter.2 ⟨Tbl.get_mem hx, hopen⟩, rfl⟩
    cases hm : x.mark j with
    | none => rfl
    | some m =>
      rw [hm] at hclosed
      simp only [Option.map_some, Option.getD_some] at hclosed ⊢
      rw [if_neg (by rw [hclosed]; exact Bool.false_ne_true)]

theorem Dev.moveMark_changed (d : Dev) (j : SlotId) (q : Seq) (from_ : Mark → Bool) (new : Mark) :
    (d.moveMark j q from_ new).status.frontierChanged = d.status.frontierChanged := by
  have hverdict (e : Dev) (x : Slot) (v : Verdict) : (e.setVerdict q x v).status.frontierChanged = e.status.frontierChanged := by
    cases v <;> rfl
  have hroute (e : Dev) (p : PortId) (b : NoticeBody) : (e.route p b).status = e.status := (congrArg Dev.status (e.route_rest p b) :)
  have htest (e : Dev) : (e.testVerdict q).status.frontierChanged = e.status.frontierChanged := by
    unfold Dev.testVerdict
    split
    · rfl
    · split
      · rfl
      · split
        · rw [hroute, hverdict]
        · split
          · rw [hroute, hverdict]
          · rfl
  have hresolve (e : Dev) (x : Slot) : (e.resolve q x).status.frontierChanged = e.status.frontierChanged := by
    unfold Dev.resolve
    cases x.link <;> rfl
  unfold Dev.moveMark Dev.updateSlot
  split
  · rfl
  · unfold Dev.evaluate
    split
    · rfl
    · split
      · rfl
      · rw [htest]
        split
        · rw [hresolve]
          rfl
        · rfl

theorem Dev.detachSlot_detached (d : Dev) (j : SlotId) : d.Detached j (d.detachSlot j) := by
  obtain ⟨g, b, heq⟩ := d.detachSlot_eq j
  obtain ⟨hgone, hgoneTaken⟩ := d.detachArrivals_gone j
  have harrivals := d.detachArrivals_arrivals j
  have hdone := d.detachArrivals_done j
  have hcleared : { d.slotCleared j with
      settings := (d.detachArrivals j).settings, sites := (d.detachArrivals j).sites, status := (d.detachArrivals j).status } =
      d.detachArrivals j := rfl
  have hsettings : (d.slotCleared j).settings =
      { (d.detachArrivals j).settings with sites := (d.detachArrivals j).settings.sites.set j {} } := rfl
  have hsite : (d.slotCleared j).sites[j] = {} := Dev.modSite_self (d.detachArrivals j) j fun _ => {}
  have hslots : (d.slotCleared j).status = { (d.detachArrivals j).status with frontierChanged := true } := rfl
  rw [heq]
  generalize d.slotCleared j = c at *
  generalize d.detachArrivals j = a at *
  have hclamp := c.clampMembers_rest g
  have hclampSite := c.clampMembers_site g j
  generalize c.clampMembers g = m at *
  have htold := m.broadcast_rest b
  have htoldPorts := m.broadcast_kept b
  generalize m.broadcast b = t at *
  obtain ⟨hskip, hskipPorts, -⟩ := t.skipMarks_kept j .detached
  have hskipChanged : (t.skipMarks j .detached).status.frontierChanged = t.status.frontierChanged :=
    foldl_keeps (fun e : Dev => e.status.frontierChanged) _ (fun e q => e.moveMark_changed j q _ _) _ t
  have hstatus : t.status = { a.status with frontierChanged := true } :=
    ((congrArg Dev.status htold :).trans (congrArg Dev.status hclamp :)).trans hslots
  have hastatus : a.status = d.status := (congrArg Dev.status hgone :)
  have hslot (q : Seq) (x : Slot) (hx : d.slot? q = some x) := t.skipMarks_mark j .detached (q := q) (x := x) (by
    rw [Dev.slot?, hstatus, hastatus]
    exact hx)
  generalize t.skipMarks j .detached = u at *
  have hinbound : u.inbound = a.inbound :=
    (((congrArg Dev.inbound hskip :).trans (congrArg Dev.inbound htold :)).trans (congrArg Dev.inbound hclamp :)).trans
      (congrArg Dev.inbound hcleared :)
  refine ⟨?settings, ?site, hskipChanged.trans (congrArg StatusArray.frontierChanged hstatus), hslot, hinbound ▸ harrivals,
    hinbound ▸ hdone, fun p => ?taken, ?rest⟩
  case settings =>
    have hasettings : a.settings = d.settings := (congrArg Dev.settings hgone :)
    rw [hasettings] at hsettings
    exact (((congrArg Dev.settings hskip :).trans (congrArg Dev.settings htold :)).trans (congrArg Dev.settings hclamp :)).trans
      hsettings
  case site =>
    have husites : u.sites = m.sites := (congrArg Dev.sites hskip :).trans (congrArg Dev.sites htold :)
    rw [husites, hclampSite, if_neg (by simp [Dev.isMember, Dev.siteState, hsite]), hsite]
  case taken =>
    have hports : m.ports = a.ports := (congrArg Dev.ports hclamp :).trans (congrArg Dev.ports hcleared :)
    have hu : u.ports[p].taken = t.ports[p].taken := (congrArg Port.taken (hskipPorts p) :)
    have ht : t.ports[p].taken = m.ports[p].taken := (congrArg Port.taken (htoldPorts p) :)
    rw [hu, ht, hports, hgoneTaken]
  case rest =>
    have hkeep {x y : Dev} (h : x = y) := congrArg (fun e : Dev => { e with
      settings := d.settings, sites := d.sites, ports := d.ports, partLost := d.partLost, status := d.status, index := d.index
      inbound := d.inbound, dma := d.dma }) h
    have hkskip := hkeep hskip
    have hktold := hkeep htold
    have hkclamp := hkeep hclamp
    have hkcleared := hkeep hcleared
    have hkgone := hkeep hgone
    exact hkskip.trans (hktold.trans (hkclamp.trans (hkcleared.trans hkgone)))

end Sys2Proof.Machine

/-- Settles O29: the slot is cleared, its open marks are skipped and its arrivals go. -/
theorem detachSiteClearsTheSlot : Obligations.DetachSiteClearsTheSlot := by
  intro s t p cid j hup hf hi hl hst hok hs d all owner n
  obtain ⟨e, he⟩ : ∃ e : Dev, e = d.grantTaken p ⟨cid, .detachSite j.val⟩ := ⟨_, rfl⟩
  have hcount : (e.marked j Mark.isOpen).length = n := by
    rw [Dev.marked_eq, List.length_map, he]
    rfl
  have hact : e.actDetachSite (s.dev.nextTok p) j.val =
      (e.detachSlot j).raiseOwn (s.dev.nextTok p) (.count n) ((e.detachSlot j).siteRecords j) := by
    rw [← hcount]
    exact Dev.siteCommand_done _ _ _ (by rw [he]; exact hl) rfl
      (bne_iff_ne.2 (by rw [show e.siteState j = s.dev.sites[j].state by rw [he]; rfl]; exact hst))
  have hdetached := e.detachSlot_detached j
  have hfirst : e.ports[p].taken = [{ id := s.dev.nextToken, cid := cid, kind := 11 }] :=
    he ▸ Dev.grantTaken_taken (d := d) _ hf.2
  have hesettings : e.settings = s.dev.settings := by rw [he]; rfl
  have heslot (q : Seq) : e.slot? q = s.dev.slot? q := by rw [he]; rfl
  have hold : { e with nextToken := d.nextToken, ports := d.ports, intake := d.intake } = d := by rw [he]; rfl
  generalize e.detachSlot j = u at *
  obtain ⟨hsettings, hsite, hchanged, hslot, harrivals, hdone, htaken, hrest⟩ := hdetached
  have hall : u.settings = all := by rw [hsettings, hesettings]
  have hlike : u.PlacesAs d :=
    ⟨(congrArg Dev.part hrest :).trans (congrArg Dev.part hold :), (congrArg Dev.journal hrest :).trans (congrArg Dev.journal hold :),
      (congrArg Dev.array hrest :).trans (congrArg Dev.array hold :), (congrArg Dev.now hrest :).trans (congrArg Dev.now hold :),
      (congrArg Settings.commitDelay hall :)⟩
  rw [he] at hact
  have hnext := Dev.posted_siteCommand (t := t) (cid := cid) (b := .detachSite j.val) (st := .detached) hup hf hi rfl (by nofun)
    hok hs hact hall (by rw [hsite]) hlike
  refine ⟨_, hnext, hall, hsite, hchanged, fun q x hx => hslot q x ((heslot q).trans hx), harrivals, hdone, rfl, ?taken,
    (congrArg Dev.array hrest :).trans (congrArg Dev.array hold :), (congrArg Dev.held hrest :).trans (congrArg Dev.held hold :),
    (congrArg Dev.fetch hrest :).trans (congrArg Dev.fetch hold :)⟩
  case taken =>
    exact Dev.setCont_taken (x := { id := s.dev.nextToken, cid := cid, kind := 11 }) (.count n) ((htaken p).trans hfirst)

end

section
/-!
SUPPORT and settlement of O31: REWIND SITE (R87).
-/

open Sys2Proof Sys2Proof.Machine

namespace Sys2Proof.Machine

/-! ## The checks -/

section RewindChecks

variable {d : Dev} (tok : Tok) {n : Nat} {q : Seq}

theorem Dev.actRewindSite_unset (hl : d.settings.localSite = none) : d.actRewindSite tok n q = d.refuse tok .wrongState :=
  if_pos (by rw [hl]; rfl)

variable (hl : d.settings.localSite ≠ none)
include hl

theorem Dev.actRewindSite_outside (h : 7 < n ∨ d.journal.nextSeq < q) : d.actRewindSite tok n q = d.refuse tok .badField := by
  have hset : ¬ d.settings.localSite.isNone = true := by rwa [Option.isNone_iff_eq_none]
  unfold Dev.actRewindSite
  rw [if_neg hset]
  split
  · rfl
  · next j hj =>
    refine if_pos (h.resolve_left fun hn => ?_)
    rw [slotOf_of_gt hn] at hj
    exact nomatch hj

variable {j : SlotId} (hj : n = j.val) (hq : q ≤ d.journal.nextSeq)
include hj hq

theorem Dev.actRewindSite_slot :
    d.actRewindSite tok n q =
      if d.siteState j = .detached ∨ d.siteState j = .evicted then d.refuse tok .wrongState
      else if q < d.rewindFloor then d.refuse tok .notFound
      else (d.rewindSlot j q).raiseOwn tok (.count (d.rewindSet j q).length) [.siteEvent j .rewind q] := by
  have hset : ¬ d.settings.localSite.isNone = true := by rwa [Option.isNone_iff_eq_none]
  unfold Dev.actRewindSite
  rw [if_neg hset, hj, slotOf_val]
  exact if_neg (Nat.not_lt.2 hq)

theorem Dev.actRewindSite_closed (h : d.siteState j = .detached ∨ d.siteState j = .evicted) :
    d.actRewindSite tok n q = d.refuse tok .wrongState :=
  (Dev.actRewindSite_slot tok hl hj hq).trans (if_pos h)

theorem Dev.actRewindSite_gone (h : ¬ (d.siteState j = .detached ∨ d.siteState j = .evicted)) (hfloor : q < d.rewindFloor) :
    d.actRewindSite tok n q = d.refuse tok .notFound :=
  ((Dev.actRewindSite_slot tok hl hj hq).trans (if_neg h)).trans (if_pos hfloor)

theorem Dev.actRewindSite_done (h : ¬ (d.siteState j = .detached ∨ d.siteState j = .evicted)) (hfloor : d.rewindFloor ≤ q) :
    d.actRewindSite tok n q =
      (d.rewindSlot j q).raiseOwn tok (.count (d.rewindSet j q).length) [.siteEvent j .rewind q] :=
  ((Dev.actRewindSite_slot tok hl hj hq).trans (if_neg h)).trans (if_neg (Nat.not_lt.2 hfloor))

end RewindChecks

/-! ## The intents of the rewind -/

theorem Slot.contains_iff_mark (x : Slot) (j : SlotId) : x.sites.contains j = (x.mark j).isSome := by
  rw [Bool.eq_iff_iff, List.contains_iff_mem, Slot.sites, List.mem_map, Slot.mark, Option.isSome_map, List.find?_isSome]
  simp only [beq_iff_eq]

theorem Dev.rewindSet_eq (d : Dev) (j : SlotId) (q : Seq) :
    d.rewindSet j q = (d.status.slots.filter fun e => decide (q ≤ e.1) && d.rewinds j q e.2).map (·.1) := by
  rw [← List.filterMap_eq_filter, List.map_filterMap]
  refine List.filterMap_congr fun e _ => ?_
  cases hp : decide (q ≤ e.1) && d.rewinds j q e.2 <;> simp [Option.guard, hp]

/-- R87: an intent that supersedes x is itself within the rewind, with the slot in its set. -/
def Dev.coveredFrom (d : Dev) (j : SlotId) (q : Seq) (x : Slot) : Prop :=
  ∃ m y, x.supersededBy = some m ∧ q ≤ m ∧ d.slot? m = some y ∧ (y.mark j).isSome = true

theorem Dev.rewinds_iff (d : Dev) (j : SlotId) (q : Seq) (x : Slot) :
    d.rewinds j q x = true ↔
      x.mark j = some .acked ∨ (x.mark j = some (.skipped .superseded) ∧ ¬ d.coveredFrom j q x) := by
  unfold Dev.rewinds
  split
  · next h => simp [h]
  · next h =>
    have hcovered : (x.mark j = some .acked ∨ (x.mark j = some (.skipped .superseded) ∧ ¬ d.coveredFrom j q x)) ↔
        ¬ d.coveredFrom j q x := by simp [h]
    rw [hcovered, Dev.coveredFrom]
    cases hby : x.supersededBy with
    | none => simp
    | some n =>
      cases hn : d.slot? n with
      | none => simp [hn]
      | some y =>
        simp only [Option.map_some, Option.getD_some, Slot.contains_iff_mark, Option.some.injEq, hn]
        simp [hn, imp_iff_not_or]
  · next hacked hsuperseded =>
    refine ⟨fun h => absurd h Bool.false_ne_true, ?_⟩
    rintro (h | ⟨h, -⟩)
    · exact (hacked h).elim
    · exact (hsuperseded h).elim

section RewindSet

variable {d : Dev} (h : Tbl.ascending d.status.slots = true) (j : SlotId) (q : Seq)
include h

theorem Dev.rewindSet_nodup : (d.rewindSet j q).Nodup := by
  rw [Dev.rewindSet_eq]
  exact Tbl.keys_nodup (Tbl.ascending_filter _ _ h)

theorem Dev.mem_rewindSet (r : Seq) : r ∈ d.rewindSet j q ↔ ∃ x, d.slot? r = some x ∧ q ≤ r ∧ d.rewinds j q x = true := by
  rw [Dev.rewindSet_eq, List.mem_map]
  constructor
  · rintro ⟨e, he, rfl⟩
    obtain ⟨hmem, htest⟩ := List.mem_filter.1 he
    obtain ⟨hlow, hrewinds⟩ := (Bool.and_eq_true _ _).mp htest
    exact ⟨e.2, Tbl.get_of_mem h hmem, of_decide_eq_true hlow, hrewinds⟩
  · rintro ⟨x, hx, hlow, hrewinds⟩
    exact ⟨(r, x), List.mem_filter.2 ⟨Tbl.get_mem hx, by rw [decide_eq_true hlow, hrewinds]; rfl⟩, rfl⟩

end RewindSet

/-! ## The slots and the index -/

theorem Slot.setMark_of_none {x : Slot} {j : SlotId} (m : Mark) (h : x.mark j = none) : x.setMark j m = x := by
  have hnone : ∀ e ∈ x.marks, (if e.1 == j then (j, m) else e) = e := fun e he => by
    rw [Slot.mark, Option.map_eq_none_iff, List.find?_eq_none] at h
    exact if_neg (h e he)
  unfold Slot.setMark
  rw [List.map_congr_left hnone, List.map_id']

/-- A mark that becomes PENDING resolves no intent. -/
theorem Slot.setMark_pending_resolved (x : Slot) (j : SlotId) : ((x.setMark j .pending).resolved && !x.resolved) = false := by
  cases hm : x.mark j with
  | none => rw [Slot.setMark_of_none _ hm, Bool.and_not_self]
  | some m =>
    have hopen : (x.setMark j .pending).mark j = some .pending := by rw [Slot.setMark_mark_self, hm]; rfl
    rw [Slot.resolved_of_open (.inl hopen), Bool.false_and]

theorem Dev.setPending_index (d : Dev) (j : SlotId) (q : Seq) :
    (d.updateSlot q fun x => x.setMark j .pending).index = d.index := by
  unfold Dev.updateSlot
  split
  · rfl
  · next x hx =>
    refine Dev.evaluate_index _ _ _ fun y hy => ?_
    rw [Dev.putSlot_slot_self] at hy
    obtain rfl := Option.some.inj hy
    exact x.setMark_pending_resolved j

/-- R87: what a rewind leaves. -/
structure Dev.Rewound (d : Dev) (j : SlotId) (q : Seq) (u : Dev) : Prop where
  slot (r : Seq) (x : Slot) (hx : d.slot? r = some x) :
    ∃ y, u.slot? r = some y ∧ (r ∈ d.rewindSet j q → y.mark j = (x.mark j).map fun _ => .pending) ∧
      (r ∉ d.rewindSet j q → y.mark j = x.mark j) ∧ ∀ k, k ≠ j → y.mark k = x.mark k
  cursor : u.sites[j].cursor = min d.sites[j].cursor q
  ports : d.PortsKept u
  rest : { u with sites := d.sites, ports := d.ports, partLost := d.partLost, status := d.status } = d

theorem Dev.rewindSlot_rewound (d : Dev) (j : SlotId) (q : Seq) : d.Rewound j q (d.rewindSlot j q) := by
  obtain ⟨hkept, hports, -, hslot⟩ := Dev.foldl_marks j (fun x => x.setMark j .pending) (fun _ => .pending) (fun _ => rfl)
    (fun x => x.setMark_mark_self j .pending) (fun x k hk => x.setMark_mark_other j k .pending hk) (d.rewindSet j q) d
  have hindex : ((d.rewindSet j q).foldl (fun d s => d.updateSlot s fun x => x.setMark j .pending) d).index = d.index :=
    foldl_keeps Dev.index _ (fun e r => e.setPending_index j r) _ d
  unfold Dev.rewindSlot
  generalize (d.rewindSet j q).foldl (fun d s => d.updateSlot s fun x => x.setMark j .pending) d = u at *
  have hsites : u.sites = d.sites := (congrArg Dev.sites hkept :)
  refine ⟨fun r x hx => ?slot, ?cursor, hports, ?rest⟩
  case slot =>
    obtain ⟨y, hy, hself, hother⟩ := hslot r x hx
    exact ⟨y, hy, fun hr => hself.trans (if_pos hr), fun hr => hself.trans (if_neg hr), hother⟩
  case cursor =>
    have hlowered : (u.lowerCursor j q).sites[j].cursor = min u.sites[j].cursor q :=
      (congrArg Site.cursor (Dev.modSite_self u j _) :)
    rw [hlowered, hsites]
  case rest =>
    refine (congrArg (fun e : Dev => { e with index := u.index, sites := d.sites }) hkept).trans ?_
    rw [hindex]

end Sys2Proof.Machine

/-- Settles O31: the checks, and the marks of the intents that the rewind names. -/
theorem rewindSiteReturnsMarks : Obligations.RewindSiteReturnsMarks := by
  intro s t p cid n q hup hf hi hok d answer
  refine ⟨fun hl => ?unset, fun hl hout => ?outside, fun j hl hj hq => ?slot⟩
  case unset => exact Dev.posted_answered hup hf hi rfl (by nofun) (Dev.actRewindSite_unset _ hl)
  case outside => exact Dev.posted_answered hup hf hi rfl (by nofun) (Dev.actRewindSite_outside _ hl hout)
  case slot =>
    intro covered back
    refine ⟨fun hst => ?closed, fun h1 h2 hfloor => ?gone, fun h1 h2 hfloor hs => ?done⟩
    case closed => exact Dev.posted_answered hup hf hi rfl (by nofun) (Dev.actRewindSite_closed _ hl hj hq hst)
    case gone =>
      exact Dev.posted_answered hup hf hi rfl (by nofun)
        (Dev.actRewindSite_gone _ hl hj hq (fun h => h.elim h1 h2) hfloor)
    case done =>
      obtain ⟨e, he⟩ : ∃ e : Dev, e = d.grantTaken p ⟨cid, .rewindSite n q⟩ := ⟨_, rfl⟩
      have hesettings : e.settings = s.dev.settings := by rw [he]; rfl
      have hestatus : e.status = s.dev.status := by rw [he]; rfl
      have hesites : e.sites = s.dev.sites := by rw [he]; rfl
      have hold : { e with nextToken := d.nextToken, ports := d.ports, intake := d.intake } = d := by rw [he]; rfl
      have hact := Dev.actRewindSite_done (d := e) (s.dev.nextTok p) (q := q) (by rw [hesettings]; exact hl) hj
        (by rw [he]; exact hq) (by rw [Dev.siteState, hesites]; exact fun h => h.elim h1 h2) (by rw [he]; exact hfloor)
      have hascending : Tbl.ascending e.status.slots = true := by
        rw [hestatus]
        exact ((Bool.and_eq_true _ _).mp ((Bool.and_eq_true _ _).mp hok).1).1
      have hnodup := Dev.rewindSet_nodup hascending j q
      have hmem (r : Seq) : r ∈ e.rewindSet j q ↔ ∃ x, s.dev.slot? r = some x ∧ back r x := by
        rw [Dev.mem_rewindSet hascending]
        simp only [Dev.rewinds_iff, Dev.coveredFrom, Dev.slot?, hestatus]
        exact Iff.rfl
      obtain ⟨hslot, hcursor, hports, hrest⟩ := e.rewindSlot_rewound j q
      generalize e.rewindSlot j q = u at *
      generalize e.rewindSet j q = l at hact hnodup hmem hslot
      have hlike : u.PlacesAs d :=
        ⟨(congrArg Dev.part hrest :).trans (congrArg Dev.part hold :),
          (congrArg Dev.journal hrest :).trans (congrArg Dev.journal hold :),
          (congrArg Dev.array hrest :).trans (congrArg Dev.array hold :), (congrArg Dev.now hrest :).trans (congrArg Dev.now hold :),
          (congrArg (fun x : Dev => x.settings.commitDelay) hrest).trans (congrArg Settings.commitDelay hesettings)⟩
      have hnext := Dev.posted_placed (t := t) (cid := cid) (b := .rewindSite n q) (r := .siteEvent j .rewind q) hup hf hi rfl
        (by nofun) hs (he ▸ hact) hlike
      refine ⟨_, _, hnext, fun r x hx => ?mark, ⟨_, hnodup, rfl, hmem⟩, ?cursor, rfl, ?taken,
        (congrArg Dev.settings hrest :).trans hesettings, (congrArg Dev.array hrest :).trans (congrArg Dev.array hold :),
        (congrArg Dev.index hrest :).trans (congrArg Dev.index hold :)⟩
      case mark =>
        obtain ⟨y, hy, hback, hkept, hother⟩ := hslot r x (by rw [Dev.slot?, hestatus]; exact hx)
        refine ⟨y, hy, fun hb => ?_, fun hb => hkept fun hr => ?_, hother⟩
        · rw [hback ((hmem r).2 ⟨x, hx, hb⟩)]
          obtain ⟨-, hm | ⟨hm, -⟩⟩ := hb <;> rw [hm] <;> rfl
        · obtain ⟨z, hz, hzback⟩ := (hmem r).1 hr
          exact hb (Option.some.inj (hx.symm.trans hz) ▸ hzback)
      case cursor => exact hcursor.trans (by rw [hesites])
      case taken => exact Dev.grantTaken_kept_taken (d := d) ⟨cid, .rewindSite n q⟩ (.count _) _ hf.2 (he ▸ hports)

end

section
/-!
SUPPORT and settlement of O23: READ JOURNAL of a record and QUERY KEY of a key (R23, R41).
-/

open Sys2Proof Sys2Proof.Machine

namespace Sys2Proof.Machine

/-! ## READ JOURNAL (R23) -/

/-- R23: a sequence that has no record: beyond the tail, passed over, or not found. -/
def Dev.recordGone (d : Dev) (q : Seq) : Prop :=
  d.journal.nextSeq ≤ q ∨ (∃ r ∈ d.journal.passedOver, r.1 ≤ q ∧ q ≤ r.2) ∨ d.locate q = .absent

theorem Dev.numberGone_iff (d : Dev) (q : Seq) :
    (d.beyondTail q || d.passedOver q) = true ↔ d.journal.nextSeq ≤ q ∨ ∃ r ∈ d.journal.passedOver, r.1 ≤ q ∧ q ≤ r.2 := by
  simp [Dev.beyondTail, Dev.passedOver]

section ReadJournal

variable (d : Dev) (tok : Tok) {q addr : Nat} (hq : q ≠ 0)
include hq

theorem Dev.actReadJournal_unaligned (h : addr % 16 ≠ 0) : d.actReadJournal tok q addr = d.refuse tok .badField :=
  (if_neg hq).trans (if_pos h)

variable (h : addr % 16 = 0)
include h

theorem Dev.actReadJournal_gone (hgone : d.recordGone q) : d.actReadJournal tok q addr = d.refuse tok .notFound := by
  unfold Dev.actReadJournal
  rw [if_neg hq, if_neg (not_not.2 h)]
  split
  · rfl
  · next hin =>
    rw [Dev.numberGone_iff] at hin
    obtain hseq | hpassed | habsent := hgone
    · exact (hin (.inl hseq)).elim
    · exact (hin (.inr hpassed)).elim
    · rw [habsent]

variable (hkept : ¬ d.recordGone q)
include hkept

theorem Dev.actReadJournal_kept :
    d.actReadJournal tok q addr =
      match d.locate q with
      | .buffer r => d.writeRecord tok addr r false
      | .cache r => d.writeRecord tok addr r true
      | .array seg page => d.enqueueRead ⟨seg, page, q, .readJournal tok q addr⟩
      | .absent => d.refuse tok .notFound := by
  have hin : ¬ (d.beyondTail q || d.passedOver q) = true := fun hout =>
    hkept (((d.numberGone_iff q).1 hout).imp_right .inl)
  exact ((if_neg hq).trans (if_neg (not_not.2 h))).trans (if_neg hin)

end ReadJournal

/-- R23: a record has been written to the port's memory, and its command is answered. -/
theorem Dev.recordWritten_eq {d : Dev} {p : PortId} {w : DmaWrite} {tok : Tok} {size : Nat} {programmed : Bool}
    (hw : (d.dma.find? fun e => e.port = p ∧ e.journal ≠ none) = some w) (hj : w.journal = some (tok, size, programmed)) :
    d.recordWritten p = { d with dma := d.dma.erase w }.answer tok .done 0 (.journalRecord size programmed) := by
  have hsame : (fun e : DmaWrite => e.port == p && e.journal.isSome) = fun e => decide (e.port = p ∧ e.journal ≠ none) := by
    funext e
    rw [Bool.eq_iff_iff]
    simp [Option.isSome_iff_ne_none]
  unfold Dev.recordWritten
  rw [hsame, hw]
  dsimp only
  rw [hj]

/-- R14, R168: the answer of a port's one command, which is not posted when its response is to be discarded. -/
theorem Dev.answer_single {d : Dev} {tok : Tok} {x : Taken} (st : Status) (fl : Byte) (b : RespBody)
    (ht : d.ports[tok.port].taken = [x]) (hid : x.id = tok.id) :
    d.answer tok st fl b = d.modPort tok.port fun y =>
      { y with taken := [], respQ := if x.discard then y.respQ else y.respQ ++ [⟨x.kind, st, fl, x.cid, b⟩] } := by
  have ht' : d.ports[tok.port.val].taken = [x] := ht
  simp [Dev.answer, Dev.modPort, Port.answer, ht', hid]

/-! ## QUERY KEY (R41) -/

theorem keyOf_full {len : Nat} {key : List Byte} (h : key.length = len) : keyOf len key = key :=
  List.take_left' h

section QueryKey

variable {d : Dev} (tok : Tok) {q : KeyQuery}

section Entry

variable (hkey : q.key.length = q.keyLen) {w : Nat} {e : KeyEntry} (h : d.index.find q.bucket q.keyHash q.keyLen = some w)
  (he : Tbl.get d.index.ways w = some e)
include h he

include hkey in
/-- R27: the lookup of a key that has an entry, by the place of its source. -/
theorem Dev.lookup_entry :
    d.lookup q.bucket q.keyHash q.keyLen q.key =
      match d.locate e.source with
      | .buffer r | .cache r => .known (.found w e.creation (compareKey r q.key))
      | .absent => .known (.found w e.creation .unreadable)
      | .array seg page => .read seg page e.source w e.creation := by
  unfold Dev.lookup
  rw [h]
  dsimp only
  rw [he]
  dsimp only
  rw [keyOf_full hkey] <;> rfl

/-- R41: the answer of a lookup that names the entry as it stands. -/
theorem Dev.answerKey_entry (r : LookupResult) :
    d.answerKey tok q w e.creation r =
      match r with
      | .matched => d.answer tok .done 0 (.keyEntry (w / 8) (w % 8) e.creation e.live e.count)
      | .collision => d.answer tok .notFound 1 .none
      | .unreadable => d.answer tok .notFound 2 .none := by
  unfold Dev.answerKey
  rw [h, Option.bind_some, he]
  cases r
  · simp
  · simp [keyCollisionFlag]
  · rfl

end Entry

variable (hlow : 1 ≤ q.keyLen) (hhigh : q.keyLen ≤ 240)
include hlow hhigh

theorem Dev.actQueryKey_key :
    d.actQueryKey tok q =
      match d.lookup q.bucket q.keyHash q.keyLen q.key with
      | .known .none => d.refuse tok .notFound
      | .known (.found w c r) => d.answerKey tok q w c r
      | .read seg page source w c => d.enqueueRead ⟨seg, page, source, .queryKey tok q w c⟩ :=
  (if_neg (by omega)).trans (if_neg (by omega))

theorem Dev.actQueryKey_none (h : d.index.find q.bucket q.keyHash q.keyLen = none) :
    d.actQueryKey tok q = d.refuse tok .notFound := by
  have hlookup : d.lookup q.bucket q.keyHash q.keyLen q.key = .known .none := by
    unfold Dev.lookup
    rw [h]
  rw [Dev.actQueryKey_key tok hlow hhigh, hlookup]

variable (hkey : q.key.length = q.keyLen) {w : Nat} {e : KeyEntry} (h : d.index.find q.bucket q.keyHash q.keyLen = some w)
  (he : Tbl.get d.index.ways w = some e)
include hkey h he

theorem Dev.actQueryKey_near {r : IntentRec} (hr : d.locate e.source = .buffer r ∨ d.locate e.source = .cache r) :
    d.actQueryKey tok q =
      if r.key = q.key then d.answer tok .done 0 (.keyEntry (w / 8) (w % 8) e.creation e.live e.count)
      else d.answer tok .notFound 1 .none := by
  have hlookup : d.lookup q.bucket q.keyHash q.keyLen q.key = .known (.found w e.creation (compareKey r q.key)) := by
    rw [Dev.lookup_entry hkey h he]
    obtain hr | hr := hr <;> rw [hr]
  rw [Dev.actQueryKey_key tok hlow hhigh, hlookup]
  dsimp only
  rw [Dev.answerKey_entry tok h he, compareKey]
  split_ifs <;> rfl

theorem Dev.actQueryKey_absent (hr : d.locate e.source = .absent) : d.actQueryKey tok q = d.answer tok .notFound 2 .none := by
  rw [Dev.actQueryKey_key tok hlow hhigh, Dev.lookup_entry hkey h he, hr]
  dsimp only
  rw [Dev.answerKey_entry tok h he]

theorem Dev.actQueryKey_far {seg page : Nat} (hr : d.locate e.source = .array seg page) :
    d.actQueryKey tok q = d.enqueueRead ⟨seg, page, e.source, .queryKey tok q w e.creation⟩ := by
  rw [Dev.actQueryKey_key tok hlow hhigh, Dev.lookup_entry hkey h he, hr]

end QueryKey

end Sys2Proof.Machine

/-- Settles O23: the record, the answer of its writing, and the key, by the place of the record that each names. -/
theorem readJournalAndQueryKeyAnswer : Obligations.ReadJournalAndQueryKeyAnswer := by
  refine ⟨⟨?journal, ?written⟩, ?query⟩
  case journal =>
    intro s t p cid q addr hup hf hq d tok gone taken
    refine ⟨fun h => ?unaligned, fun h hgone => ?absent, fun h hgone r hr => ?buffer, fun h hgone r hr => ?cache,
      fun h hgone seg page hr => ?array⟩
    case unaligned => exact Dev.posted_replies hup hf rfl (Dev.actReadJournal_unaligned _ _ hq h)
    case absent => exact Dev.posted_replies hup hf rfl (Dev.actReadJournal_gone _ _ hq h hgone)
    all_goals
      refine (Dev.posted_acts cid (.readJournal q addr) hup hf rfl).trans ?_
      have hact := Dev.actReadJournal_kept taken tok hq h hgone
      rw [show taken.locate q = s.dev.locate q from rfl, hr] at hact
      exact congrArg (fun u : Dev => Host.Outcome.next { s with dev := u.settle }) hact
  case written =>
    intro s t p w tok size programmed x hpow hw hj ht hid
    have hanswer := (Dev.recordWritten_eq (d := s.dev.tick t) hw hj).trans
      (Dev.answer_single (d := { s.dev.tick t with dma := s.dev.dma.erase w }) _ _ _ ht hid)
    exact (State.goOn_event hpow t (Dev.recordWritten p)).trans
      (congrArg (fun u : Dev => Host.Outcome.next { s with dev := u.settle }) hanswer)
  case query =>
    intro s t p cid q hup hf hlow hhigh hkey d
    refine ⟨fun h => ?none, fun w e h he => ?entry⟩
    case none => exact Dev.posted_replies hup hf rfl (Dev.actQueryKey_none _ hlow hhigh h)
    case entry =>
    intro source
    refine ⟨fun r hr => ?near, fun hr => ?absent, fun seg page hr => ?far⟩
    case near =>
      have hact := Dev.actQueryKey_near (d := d.take p ⟨cid, .queryKey q⟩ []) (s.dev.nextTok p) hlow hhigh hkey h he hr
      split_ifs at hact ⊢ with hk
      · exact Dev.posted_replies hup hf rfl hact
      · exact Dev.posted_replies hup hf rfl hact
    case absent => exact Dev.posted_replies hup hf rfl (Dev.actQueryKey_absent _ hlow hhigh hkey h he hr)
    case far =>
      refine (Dev.posted_acts cid (.queryKey q) hup hf rfl).trans ?_
      have hact := Dev.actQueryKey_far (d := d.take p ⟨cid, .queryKey q⟩ []) (s.dev.nextTok p) hlow hhigh hkey h he hr
      exact congrArg (fun u : Dev => Host.Outcome.next { s with dev := u.settle }) hact

end

section
/-!
SUPPORT and settlement of O24: the APPEND that a condition refuses (R12, R19).
-/

open Sys2Proof Sys2Proof.Machine

namespace Sys2Proof.Machine

/-! ## The conditions (R19) -/

theorem intentKindOf_none_iff (n : Nat) : intentKindOf n = none ↔ n ≠ 1 ∧ n ≠ 2 ∧ n ≠ 3 := by
  unfold intentKindOf
  split
  · simp
  · simp
  · simp
  · next h1 h2 h3 => exact ⟨fun _ => ⟨h1, h2, h3⟩, fun _ => rfl⟩

/-- R19, case 2: what is wrong with the fields of an APPEND: its kind, its key length, its payload length or its locator. -/
theorem appendMalformed_iff (b : AppendBody) :
    appendMalformed b = true ↔
      (b.kind ≠ 1 ∧ b.kind ≠ 2 ∧ b.kind ≠ 3) ∨ (b.keyLen < 1 ∨ 240 < b.keyLen) ∨
      ((b.kind = 1 ∧ (b.payloadLen < 1 ∨ 67108864 < b.payloadLen)) ∨ (b.kind = 2 ∧ b.payloadLen ≠ 0) ∨
        (b.kind = 3 ∧ (b.payloadLen < 1 ∨ 65536 < b.payloadLen))) ∨
      ((b.kind = 2 ∧ (b.locator ≠ 0 ∨ b.digest ≠ 0)) ∨ (b.kind ≠ 2 ∧ b.locator % 16 ≠ 0)) := by
  unfold appendMalformed
  by_cases h1 : b.kind = 1
  · simp [h1, intentKindOf, payloadLenOk, or_assoc]
  by_cases h2 : b.kind = 2
  · simp [h2, intentKindOf, payloadLenOk, or_assoc]
  by_cases h3 : b.kind = 3
  · simp [h3, intentKindOf, payloadLenOk, or_assoc]
  rw [(intentKindOf_none_iff _).2 ⟨h1, h2, h3⟩]
  simp [h1, h2, h3]

/-! ## The posting -/

section Posting

variable {d : Dev} {p : PortId} (cid : Word32) {b : AppendBody} (hup : d.up) (hf : d.portFree p) (hi : d.intakeFree)
include hup hf hi

/-- R27, R170: an APPEND whose key length is out of range is granted without a lookup. -/
theorem Dev.postCommand_append_unlooked (hlen : lengthOk b.keyLen = false) :
    d.postCommand p ⟨cid, .append b⟩ =
      Dev.grantedNow { d.granted p cid 1 .none with intake := ⟨p, some ⟨d.nextTok p, .examine b .none⟩⟩ } := by
  have hport := Dev.enqueued_port cid (b := b) hf
  obtain ⟨ho, hc, ht, hl, hr⟩ := hf
  obtain ⟨hgrant, hctrl, hothers⟩ := hi
  have hout : ¬ 64 ≤ d.ports[p].outstanding := by rw [Port.outstanding_free hc ht]; omega
  have hsame : (d.modPort p fun q => { q with cmdQ := q.cmdQ ++ [⟨cid, .append b⟩] }) = d.enqueued p cid b := rfl
  have htake : (d.enqueued p cid b).takeStep p = none :=
    Dev.takeStep_free (d := d.enqueued p cid b) (p := p) (r := ⟨cid, .append b⟩) (rest := []) hup (by rw [hport]; exact ho)
      (by rw [hport]; exact ht) (by rw [hport])
  have hlookup : (d.enqueued p cid b).lookupStep p = none := by
    unfold Dev.lookupStep
    rw [hport]
    simp only [hl, hlen, Bool.false_and, Bool.false_eq_true, if_false]
  have hready : (d.enqueued p cid b).readyCommand p = true := by
    rw [Dev.readyCommand_iff, Dev.HeadReady, hport]
    refine ⟨fun y hy => ?_, ho, _, _, rfl, rfl, fun x hx hlow hhigh => ?_⟩
    · rw [show d.ports[p].taken = [] from ht] at hy
      exact nomatch hy
    · obtain rfl := CmdBody.append.inj hx
      exact absurd ((lengthOk_iff _).2 ⟨hlow, hhigh⟩) (by rw [hlen]; exact Bool.false_ne_true)
  have hchoice : (d.enqueued p cid b).grantChoice = some p := by
    refine Dev.grantChoice_only hup.2 hgrant hctrl hready fun q hq => ?_
    rw [Dev.enqueued, Dev.modPort_other _ _ _ _ hq]
    exact hothers q
  have hgranted : (d.enqueued p cid b).grantPort p =
      { d.granted p cid 1 .none with intake := ⟨p, some ⟨d.nextTok p, .examine b .none⟩⟩ } := by
    unfold Dev.grantPort
    rw [hport]
    simp only [Fin.getElem_fin] at hc ht hl
    simp [Port.outcome, Dev.act, Dev.actAppend, Dev.take, Dev.enqueued, Dev.modPort, Dev.granted, Dev.nextTok, kindCode, hc, ht, hl]
  unfold Dev.postCommand Dev.serve
  rw [if_neg hout, hsame, htake, hlookup]
  dsimp only [Option.getD_none]
  rw [if_pos hchoice, hgranted]

/-- R27, R170: an APPEND whose lookup, if it has one, ends at once is granted in its event. -/
theorem Dev.postCommand_append_granted
    (hknown : 1 ≤ b.keyLen → b.keyLen ≤ 240 → ∃ o, d.lookup b.bucket b.keyHash b.keyLen b.key = .known o) :
    ∃ o, d.postCommand p ⟨cid, .append b⟩ =
      Dev.grantedNow { d.granted p cid 1 .none with intake := ⟨p, some ⟨d.nextTok p, .examine b o⟩⟩ } := by
  cases hlen : lengthOk b.keyLen with
  | false => exact ⟨_, Dev.postCommand_append_unlooked cid hup hf hi hlen⟩
  | true =>
    obtain ⟨hlow, hhigh⟩ := (lengthOk_iff _).1 hlen
    obtain ⟨o, ho⟩ := hknown hlow hhigh
    exact ⟨o, Dev.postCommand_append_known cid hup hf hi hlen ho⟩

end Posting

/-- R19: an APPEND that a condition refuses is answered at once. -/
theorem append_refused {s : State} (t : Time) {p : PortId} (cid : Word32) {b : AppendBody} {st : Status} (hup : s.dev.up)
    (hf : s.dev.portFree p) (hi : s.dev.intakeFree) (hs : s.dev.canPlace (appendSize b))
    (hknown : 1 ≤ b.keyLen → b.keyLen ≤ 240 → ∃ o, s.dev.lookup b.bucket b.keyHash b.keyLen b.key = .known o)
    (href : s.dev.appendRefusal b = some st) :
    exec (.append t p cid b) s =
      .next { s with dev := ((s.dev.tick t).grantedReply p cid 1 st 0 (.appendTag b.tag)).settle } := by
  obtain ⟨o, ho⟩ := Dev.postCommand_append_granted cid (Dev.up_tick t hup) (Dev.portFree_tick t hf) (Dev.intakeFree_tick t hi)
    hknown
  have hgranted : ({ (s.dev.tick t).granted p cid 1 .none with intake := ⟨p, some ⟨(s.dev.tick t).nextTok p, .examine b o⟩⟩ } : Dev) =
    s.dev.appendGranted t p cid b o := rfl
  have hexamined : (s.dev.appendGranted t p cid b o).examineAppend ⟨p, s.dev.nextToken⟩ b o =
      (s.dev.tick t).grantedReply p cid 1 st 0 (.appendTag b.tag) := by
    have hrefused : (s.dev.appendGranted t p cid b o).appendRefusal b = some st := href
    unfold Dev.examineAppend
    rw [hrefused]
    refine (Dev.answer_only (d := { s.dev.appendGranted t p cid b o with intake := ⟨p, none⟩ })
      { id := s.dev.nextToken, cid := cid, kind := 1 } st 0 (.appendTag b.tag) ?_ rfl).trans ?_
    · exact congrArg Port.taken (Dev.appendGranted_port_self t p cid b o s.dev)
    · have hc : s.dev.ports[p.val].taken = [] := hf.2.2.1
      simp [Dev.modPort, Dev.appendGranted, Dev.granted, Dev.grantedReply, Dev.replied, hc, hi.1]
  rw [append_next t p cid b hup, ho, hgranted,
    Dev.grantedNow_examine (d := s.dev.appendGranted t p cid b o) (tok := ⟨p, s.dev.nextToken⟩) hup.2 hi.2.1 rfl hs, hexamined,
    Dev.grantedSteps_idle]
  exact hi.1

end Sys2Proof.Machine

/-- Settles O24: the conditions are those of the model, and each answers the APPEND at once. -/
theorem appendRefusals : Obligations.AppendRefusals := by
  intro s t p cid b st hup hf hi hs hknown kindBad lenBad payBad locBad pl refusal href
  have hsame : s.dev.appendRefusal b = refusal := by
    unfold Dev.appendRefusal
    simp only [appendMalformed_iff, Placement.notPlaced_iff]
    rfl
  refine ⟨_, append_refused t cid hup hf hi hs hknown (hsame.trans href), ?response, ?taken, rfl, fun q hq => ?other, rfl⟩
  case response => exact congrArg Port.respQ (Dev.ports_get_set s.dev p _)
  case taken => exact (congrArg Port.taken (Dev.ports_get_set s.dev p _)).trans hf.2.2.1
  case other => exact Dev.modPort_other s.dev p q (fun y => { y with respQ := y.respQ ++ [⟨1, st, 0, cid, .appendTag b.tag⟩] }) hq

end

section
/-!
SUPPORT and settlement of O39: the page whose verify fails (R15).
-/

open Sys2Proof Sys2Proof.Machine

namespace Sys2Proof.Machine

/-! ## JOURNAL_MEDIA (R176) -/

theorem Dev.latchMedia_rest (d : Dev) :
    { d.latch .journalMedia .part with journalMedia := d.journalMedia, ports := d.ports } = d := by
  unfold Dev.latch
  split
  · rfl
  · exact (congrArg (fun e : Dev => { e with journalMedia := d.journalMedia, ports := d.ports })
      (Dev.faultNotice_rest (d.setLatch true .journalMedia .part) .journalMedia .part) :)

theorem Dev.latchMedia_set (d : Dev) : (d.latch .journalMedia .part).journalMedia = true := by
  unfold Dev.latch
  split
  · assumption
  · exact (congrArg Dev.journalMedia (Dev.faultNotice_rest (d.setLatch true .journalMedia .part) .journalMedia .part) :)

theorem Dev.latchMedia_port (d : Dev) (q : PortId) :
    (d.latch .journalMedia .part).ports[q] =
      if d.journalMedia = false ∧ d.ports[q].state = .online ∧ d.settings.masks[q].getLsbD 0 = true then
        d.ports[q].addNotice false (.fault .journalMedia .part)
      else d.ports[q] := by
  unfold Dev.latch
  split
  · next h => exact (if_neg fun hnot => by rw [show d.journalMedia = true from h] at hnot; exact nomatch hnot.1).symm
  · next h =>
    have hclear : d.journalMedia = false := Bool.eq_false_of_not_eq_true h
    rw [Dev.faultNotice_port]
    simp only [hclear, true_and]
    rfl

/-- JOURNAL_MEDIA is latched under a condition. -/
structure Dev.MediaLatchedWhen (c : Prop) [Decidable c] (d u : Dev) : Prop where
  rest : { u with journalMedia := d.journalMedia, ports := d.ports } = d
  latch : u.journalMedia = (d.journalMedia || decide c)
  port (q : PortId) : u.ports[q] =
    if c ∧ d.journalMedia = false ∧ d.ports[q].state = .online ∧ d.settings.masks[q].getLsbD 0 = true then
      d.ports[q].addNotice false (.fault .journalMedia .part)
    else d.ports[q]

theorem Dev.mediaLatchedWhen (c : Prop) [Decidable c] (d : Dev) :
    d.MediaLatchedWhen c (if c then d.latch .journalMedia .part else d) := by
  by_cases h : c
  · rw [if_pos h]
    refine ⟨d.latchMedia_rest, ?_, fun q => ?_⟩
    · rw [d.latchMedia_set, decide_eq_true h, Bool.or_true]
    · rw [d.latchMedia_port]
      simp only [h, true_and]
  · rw [if_neg h]
    exact ⟨rfl, by rw [decide_eq_false h, Bool.or_false], fun q => (if_neg fun hc => h hc.1).symm⟩

/-! ## The failed page (R15) -/

/-- R15: the segment when its page `num` has failed for the n-th time in a row. -/
def Segment.pageFailed (num pos n : Nat) (x : Segment) : Segment :=
  { x with
    pages := x.pages ++ [{ num := num, pos := pos, recs := [], crcOk := false }], failed := x.failed ++ [num]
    state := if 3 ≤ n ∨ num = 63 then .full else x.state }

/-- R15: the part before JOURNAL_MEDIA is latched. -/
def Dev.pageFailed (seg num pos : Nat) (d : Dev) : Dev :=
  { d with
    array := { d.array.putSeg seg ((d.seg seg).pageFailed num pos (d.journal.consecFails + 1)) with op := none }
    journal := { d.journal with
      progFails := min (d.journal.progFails + 1) 65535, consecFails := d.journal.consecFails + 1 } }

theorem Dev.programFailed_eq (seg num pos : Nat) (d : Dev) :
    d.programFailed seg num pos =
      if 3 ≤ d.journal.consecFails + 1 then (d.pageFailed seg num pos).latch .journalMedia .part else d.pageFailed seg num pos := by
  have hfailed : (d.modSeg seg fun s =>
      { s with
        pages := s.pages ++ [{ num := num, pos := pos, recs := [], crcOk := false }], failed := s.failed ++ [num]
        state := if decide (3 ≤ d.journal.consecFails + 1) || num == 63 then .full else s.state }) =
      d.modSeg seg (Segment.pageFailed num pos (d.journal.consecFails + 1)) := by
    congr 1
    funext x
    simp [Segment.pageFailed]
  unfold Dev.programFailed
  dsimp only
  rw [hfailed]
  rfl

theorem Dev.pageFailed_seg_self (seg num pos : Nat) (d : Dev) :
    (d.pageFailed seg num pos).seg seg = (d.seg seg).pageFailed num pos (d.journal.consecFails + 1) := by
  refine ArrayBlk.putSeg_seg_self d.array seg fun h => ?_
  have hpages : (d.seg seg).pages ++ [{ num := num, pos := pos, recs := [], crcOk := false }] = [] :=
    (congrArg Segment.pages h :)
  exact List.append_ne_nil_of_right_ne_nil _ (List.cons_ne_nil _ _) hpages

theorem Dev.pageFailed_seg_other (seg num pos k : Nat) (d : Dev) (h : k ≠ seg) :
    (d.pageFailed seg num pos).seg k = d.seg k :=
  ArrayBlk.putSeg_seg_other d.array seg k _ h

theorem pageProgramComplete_failed {s : State} (t : Time) {buf : BufId} {seg num pos : Nat} (hpow : s.dev.power.powered = true)
    (hop : s.dev.array.op = some (.program buf seg num pos)) :
    exec (.pageProgramComplete t false) s = .next { s with dev := ((s.dev.tick t).programFailed seg num pos).settle } := by
  have hcompleted : (s.dev.tick t).programCompleted false = (s.dev.tick t).programFailed seg num pos := by
    unfold Dev.programCompleted
    rw [show (s.dev.tick t).array.op = some (.program buf seg num pos) from hop]
    rfl
  exact (State.goOn_event hpow t (Dev.programCompleted false)).trans
    (congrArg (fun u : Dev => Host.Outcome.next { s with dev := u.settle }) hcompleted)

end Sys2Proof.Machine

/-- Settles O39: the page joins the failed ones, and the third failure in a row latches JOURNAL_MEDIA. -/
theorem failingPageIsRetried : Obligations.FailingPageIsRetried := by
  intro s t buf seg num pos hpow hop old n
  have hself := (s.dev.tick t).pageFailed_seg_self seg num pos
  have hother (k : Nat) := (s.dev.tick t).pageFailed_seg_other seg num pos k
  have hrest : { (s.dev.tick t).pageFailed seg num pos with array := s.dev.array, journal := s.dev.journal } = s.dev.tick t := rfl
  have harray : { ((s.dev.tick t).pageFailed seg num pos).array with op := s.dev.array.op, segs := s.dev.array.segs } =
    s.dev.array := rfl
  have hfree : ((s.dev.tick t).pageFailed seg num pos).array.op = none := rfl
  have hjournal : ((s.dev.tick t).pageFailed seg num pos).journal =
    { s.dev.journal with progFails := min (s.dev.journal.progFails + 1) 65535, consecFails := n } := rfl
  have hlatched : ((s.dev.tick t).pageFailed seg num pos).MediaLatchedWhen (3 ≤ n) ((s.dev.tick t).programFailed seg num pos) := by
    rw [Dev.programFailed_eq]
    exact Dev.mediaLatchedWhen (3 ≤ n) _
  refine ⟨_, pageProgramComplete_failed t hpow hop, ?_⟩
  generalize (s.dev.tick t).programFailed seg num pos = u at *
  generalize (s.dev.tick t).pageFailed seg num pos = e at *
  obtain ⟨hurest, hulatch, huport⟩ := hlatched
  have hports : e.ports = s.dev.ports := (congrArg Dev.ports hrest :)
  have hmedia : e.journalMedia = s.dev.journalMedia := (congrArg Dev.journalMedia hrest :)
  have hsettings : e.settings = s.dev.settings := (congrArg Dev.settings hrest :)
  rw [hmedia] at hulatch
  rw [hports, hmedia, hsettings] at huport
  have harr : u.array = e.array := (congrArg Dev.array hurest :)
  have hseg (k : Nat) : u.seg k = e.seg k := congrArg (fun a : ArrayBlk => a.seg k) harr
  refine ⟨harr ▸ hfree, (hseg seg).trans hself, fun k hk => (hseg k).trans (hother k hk), harr ▸ harray,
    (congrArg Dev.journal hurest :).trans hjournal, hulatch, huport, ?_⟩
  exact (congrArg (fun x : Dev => { x with
    array := s.dev.array, journal := s.dev.journal, journalMedia := s.dev.journalMedia, ports := s.dev.ports }) hurest).trans
    (congrArg (fun x : Dev => { x with journalMedia := s.dev.journalMedia, ports := s.dev.ports }) hrest)

end

section
/-!
SUPPORT and settlement of O40: the ends of reads and erases (R2, R16, R17, R27, R148).
-/

open Sys2Proof Sys2Proof.Machine

namespace Sys2Proof.Machine

/-! ## A read that ends -/

theorem Site.modCandidate_eq (q : Seq) (f : Candidate → Candidate) (x : Site) :
    x.modCandidate q f = { x with candidates := x.candidates.map fun c => if c.seq = q then f c else c } := by
  simp only [Site.modCandidate, beq_iff_eq]

theorem Dev.readEnded_dispatch {q : ReadReq} {j : SlotId} {i : Seq} (h : q.who = .dispatch j i) (r : IntentRec) (d : Dev) :
    d.readEnded q (some r) = d.modSite j (Site.modCandidate i fun c => { c with record := some r, reading := false }) := by
  unfold Dev.readEnded
  rw [h]

theorem Dev.readEnded_journal {q : ReadReq} {tok : Tok} {i addr : Nat} (h : q.who = .readJournal tok i addr) (r : IntentRec)
    (d : Dev) : d.readEnded q (some r) = d.writeRecord tok addr r true := by
  unfold Dev.readEnded
  rw [h]

theorem Dev.readEnded_journal_none {q : ReadReq} {tok : Tok} {i addr : Nat} (h : q.who = .readJournal tok i addr) (d : Dev) :
    d.readEnded q none = d.refuse tok .notFound := by
  unfold Dev.readEnded
  rw [h]

/-- R27: the lookup of a head APPEND ends with its read. -/
theorem Dev.readEnded_lookup {q : ReadReq} {p : PortId} {id way creation : Nat} {cid : Word32} {b : AppendBody}
    {rest : List CmdRec} {d : Dev} (h : q.who = .lookup p id) (hl : d.ports[p].lookup = some (.reading id way creation))
    (hc : d.ports[p].cmdQ = ⟨cid, .append b⟩ :: rest) (r : Option IntentRec) :
    d.readEnded q r = d.modPort p fun x =>
      { x with
        lookup := some (.known (.found way creation
          (match r with | some r => compareKey r (keyOf b.keyLen b.key) | none => .unreadable))) } := by
  unfold Dev.readEnded
  rw [h]
  dsimp only
  unfold Dev.lookupRead
  rw [hl, hc]
  exact if_pos rfl

theorem Dev.pageRead_eq {d : Dev} {q : ReadReq} (h : d.array.op = some (.read q)) (ok : Bool) :
    d.pageRead ok = d.readCompleted q ok := by
  unfold Dev.pageRead
  rw [h]

/-- R17: a read of a page whose CRC is right brings the record. -/
theorem Dev.pageRead_good {d : Dev} {q : ReadReq} (h : d.array.op = some (.read q)) (hb : d.readsBack q.seg q.page = true) :
    d.pageRead true =
      { d with array := { d.array with op := none } }.readEnded q (d.recordAt q.seg q.page q.seq) := by
  rw [Dev.pageRead_eq h]
  exact if_pos hb

/-! ## The intents of a failed page (R17) -/

/-- R17: the marks of a failed intent. -/
def failMark (e : SlotId × Mark) : SlotId × Mark := if e.2 = .acked then e else (e.1, .failed)

theorem failMark_failMark (e : SlotId × Mark) : failMark (failMark e) = failMark e := by
  unfold failMark
  by_cases h : e.2 = .acked
  · rw [if_pos h, if_pos h]
  · rw [if_neg h, if_neg nofun]

theorem Slot.moveAll_failed_marks (x : Slot) : (x.moveAll Mark.failable .failed).marks = x.marks.map failMark := by
  refine List.map_congr_left fun e _ => ?_
  obtain ⟨j, m⟩ := e
  cases m <;> rfl

/-- What the failing of intents leaves: all but the sites, the status array, the key index, the held intents and the notices. -/
structure Dev.IntentsFailed (d : Dev) (l : List Seq) (u : Dev) : Prop where
  rest : { u with
    ports := d.ports, partLost := d.partLost, status := d.status, index := d.index, sites := d.sites, held := d.held } = d
  ports : d.PortsKept u
  marks (q : Seq) (x : Slot) (hx : d.slot? q = some x) :
    ∃ y, u.slot? q = some y ∧ y.marks = if q ∈ l then x.marks.map failMark else x.marks

theorem Dev.failIntent_failed (d : Dev) (s : Seq) : d.IntentsFailed [s] (d.failIntent s) := by
  obtain ⟨hkept, hports, hother, -, hself⟩ := Dev.updateSlot_kept s (fun x => { x.moveAll Mark.failable .failed with held := false })
    ((d.forgetIntent s).dropHeld s)
  have hrest : { (d.forgetIntent s).dropHeld s with sites := d.sites, held := d.held } = d := rfl
  have hslots : ((d.forgetIntent s).dropHeld s).status = d.status := rfl
  have hsameports : ((d.forgetIntent s).dropHeld s).ports = d.ports := rfl
  unfold Dev.failIntent
  generalize (d.forgetIntent s).dropHeld s = e at *
  refine ⟨?rest, Dev.PortsKept.trans (.of_eq hsameports) hports, fun q x hx => ?marks⟩
  case rest =>
    exact (congrArg (fun v : Dev => { v with
      ports := d.ports, partLost := d.partLost, status := d.status, index := d.index, sites := d.sites, held := d.held }) hkept).trans
      (congrArg (fun v : Dev => { v with ports := d.ports, partLost := d.partLost, status := d.status, index := d.index }) hrest)
  case marks =>
    have hex : e.slot? q = some x := by rwa [Dev.slot?, hslots]
    by_cases hq : q = s
    · subst hq
      obtain ⟨y, hy, hxy⟩ := hself x hex
      refine ⟨y, hy, ?_⟩
      rw [if_pos (List.mem_singleton.2 rfl)]
      exact hxy.marks.trans x.moveAll_failed_marks
    · exact ⟨x, (hother q hq).trans hex, (if_neg fun h => hq (List.mem_singleton.1 h)).symm⟩

theorem Dev.failIntents_failed (l : List Seq) (d : Dev) : d.IntentsFailed l (l.foldl (fun d s => d.failIntent s) d) := by
  induction l generalizing d with
  | nil => exact ⟨rfl, .refl d, fun q x hx => ⟨x, hx, (if_neg List.not_mem_nil).symm⟩⟩
  | cons s t ih =>
    rw [List.foldl_cons]
    obtain ⟨hrest, hports, hmarks⟩ := d.failIntent_failed s
    obtain ⟨hurest, huports, humarks⟩ := ih (d.failIntent s)
    generalize d.failIntent s = e at *
    refine ⟨?rest, hports.trans huports, fun q x hx => ?marks⟩
    case rest =>
      exact (congrArg (fun v : Dev => { v with
        ports := d.ports, partLost := d.partLost, status := d.status, index := d.index, sites := d.sites, held := d.held })
        hurest).trans hrest
    case marks =>
      obtain ⟨y, hy, hym⟩ := hmarks q x hx
      obtain ⟨z, hz, hzm⟩ := humarks q y hy
      refine ⟨z, hz, ?_⟩
      rw [hzm, hym]
      have hmap : (x.marks.map failMark).map failMark = x.marks.map failMark := by
        rw [List.map_map]
        exact List.map_congr_left fun e _ => failMark_failMark e
      by_cases hs : q = s
      · by_cases ht : q ∈ t <;> simp [hs, hs ▸ ht, hmap]
      · by_cases ht : q ∈ t <;> simp [hs, ht]

/-! ## The failed page (R17) -/

/-- R17: what a page that has failed leaves. -/
structure Dev.PageFailed (d : Dev) (seg page : Nat) (pg : Page) (u : Dev) : Prop where
  array : u.array = d.array.putSeg seg { d.seg seg with failed := (d.seg seg).failed ++ [page] }
  latch : u.journalMedia = true
  ports : d.PortsKept u
  marks (q : Seq) (x : Slot) (hx : d.slot? q = some x) :
    ∃ y, u.slot? q = some y ∧ y.marks = if q ∈ pg.intents then x.marks.map failMark else x.marks

theorem Dev.failPage_failed {d : Dev} {seg page : Nat} {pg : Page}
    (h : ((d.seg seg).pages.find? fun p => p.num == page) = some pg) : d.PageFailed seg page pg (d.failPage seg page) := by
  unfold Dev.failPage
  rw [h]
  dsimp only
  have hlatched := d.latchMedia_rest
  have hset := d.latchMedia_set
  have hports : d.PortsKept (d.latch .journalMedia .part) := by
    unfold Dev.latch
    split
    · exact .refl d
    · exact Dev.PortsKept.trans (e := d.setLatch true .journalMedia .part) (.of_eq rfl) (Dev.faultNotice_kept _ _ _)
  generalize d.latch .journalMedia .part = m at *
  obtain ⟨hrest, huports, hmarks⟩ := Dev.failIntents_failed pg.intents (m.modSeg seg fun s => { s with failed := s.failed ++ [page] })
  have hmarray : m.array = d.array := (congrArg Dev.array hlatched :)
  have hmstatus : m.status = d.status := (congrArg Dev.status hlatched :)
  have harray : (m.modSeg seg fun s => { s with failed := s.failed ++ [page] }).array =
      d.array.putSeg seg { d.seg seg with failed := (d.seg seg).failed ++ [page] } := by
    show m.array.putSeg seg _ = _
    rw [hmarray]
    rfl
  have hmports : m.PortsKept (m.modSeg seg fun s => { s with failed := s.failed ++ [page] }) := .of_eq rfl
  have hmedia : (m.modSeg seg fun s => { s with failed := s.failed ++ [page] }).journalMedia = true := hset
  have hmslots : (m.modSeg seg fun s => { s with failed := s.failed ++ [page] }).status = m.status := rfl
  generalize (m.modSeg seg fun s => { s with failed := s.failed ++ [page] }) = a at *
  generalize pg.intents.foldl (fun d s => d.failIntent s) a = u at *
  have hfailed : d.PageFailed seg page pg u :=
    ⟨(congrArg Dev.array hrest :).trans harray, (congrArg Dev.journalMedia hrest :).trans hmedia, (hports.trans hmports).trans huports,
      fun q x hx => hmarks q x (by rwa [Dev.slot?, hmslots, hmstatus])⟩
  split
  · exact ⟨hfailed.array, hfailed.latch, hfailed.ports, hfailed.marks⟩
  · exact hfailed

/-- R17: what the end of a read without its record keeps. -/
theorem Dev.readEnded_none_kept (q : ReadReq) (d : Dev) :
    ((d.readEnded q none).array, (d.readEnded q none).journalMedia, (d.readEnded q none).status) =
      (d.array, d.journalMedia, d.status) := by
  unfold Dev.readEnded
  split
  · unfold Dev.lookupRead
    split
    · split <;> rfl
    · rfl
  · rfl
  · rfl
  · rfl
  · unfold Dev.arrivalRead
    split
    · rfl
    · split <;> rfl

/-- R17: the reads of a failed page. -/
def Dev.readsFail (q : ReadReq) (d : Dev) : Dev :=
  { d with array := { d.array with reads := d.array.reads.filter fun x => !(x.seg == q.seg && x.page == q.page) } }

theorem Dev.pageRead_bad {d : Dev} {q : ReadReq} (h : d.array.op = some (.read q)) {ok : Bool}
    (hb : (ok && d.readsBack q.seg q.page) = false) :
    d.pageRead ok =
      (q :: d.array.reads.filter fun x => x.seg == q.seg && x.page == q.page).foldl (fun d x => d.readEnded x none)
        ({ d with array := { d.array with op := none } }.failPage q.seg q.page |>.readsFail q) := by
  rw [Dev.pageRead_eq h]
  exact if_neg (by rw [show Dev.readsBack { d with array := { d.array with op := none } } q.seg q.page = d.readsBack q.seg q.page from rfl, hb]; exact Bool.false_ne_true)

/-- The part when its array is free. -/
def Dev.opEnded (d : Dev) : Dev := { d with array := { d.array with op := none } }

/-- R17: what the failed read leaves: the failed page, and the ends of the reads that wait for it. -/
theorem Dev.pageRead_failed {d : Dev} {q : ReadReq} (h : d.array.op = some (.read q)) {pg : Page} {ok : Bool}
    (hpg : ((d.seg q.seg).pages.find? fun x => x.num == q.page) = some pg) (hbad : ok = false ∨ pg.crcOk = false) :
    ∃ u, d.opEnded.PageFailed q.seg q.page pg u ∧ (d.pageRead ok).array = (u.readsFail q).array ∧
      (d.pageRead ok).journalMedia = true ∧ (d.pageRead ok).status = u.status ∧
      ((∀ x ∈ d.array.reads, ¬ (x.seg = q.seg ∧ x.page = q.page)) → d.pageRead ok = (u.readsFail q).readEnded q none) := by
  have hb : (ok && d.readsBack q.seg q.page) = false := by
    rcases hbad with rfl | hcrc
    · rfl
    · unfold Dev.readsBack
      rw [hpg]
      exact hcrc ▸ Bool.and_false ok
  have hpage := Dev.failPage_failed (d := d.opEnded) (seg := q.seg) (page := q.page) hpg
  have hpageRead : d.pageRead ok =
      (q :: d.array.reads.filter fun x => x.seg == q.seg && x.page == q.page).foldl (fun d x => d.readEnded x none)
        ((d.opEnded.failPage q.seg q.page).readsFail q) := Dev.pageRead_bad h hb
  have hkept := foldl_keeps (fun u : Dev => (u.array, u.journalMedia, u.status)) (fun d x => d.readEnded x none)
    (fun u x => Dev.readEnded_none_kept x u) (q :: d.array.reads.filter fun x => x.seg == q.seg && x.page == q.page)
    ((d.opEnded.failPage q.seg q.page).readsFail q)
  rw [← hpageRead] at hkept
  simp only [Prod.mk.injEq] at hkept
  obtain ⟨hkarray, hkmedia, hkstatus⟩ := hkept
  refine ⟨_, hpage, hkarray, hkmedia.trans hpage.latch, hkstatus, fun hreads => ?_⟩
  have hempty : (d.array.reads.filter fun x => x.seg == q.seg && x.page == q.page) = [] := by
    refine List.filter_eq_nil_iff.2 fun x hx => ?_
    simpa using hreads x hx
  rw [hpageRead, hempty]
  rfl

/-! ## The erase (R148) -/

/-- A segment reads back as it is put, as the keys of the table rise. -/
theorem ArrayBlk.putSeg_seg_of_ascending {a : ArrayBlk} (h : Tbl.ascending a.segs = true) (n : Nat) (x : Segment) :
    (a.putSeg n x).seg n = x := by
  by_cases hx : x = a.blankSeg
  · unfold ArrayBlk.putSeg ArrayBlk.seg
    dsimp only
    rw [if_pos hx, Tbl.get_del_self h, hx]
    rfl
  · exact ArrayBlk.putSeg_seg_self a n hx

/-- R148: the part before a failed verify latches JOURNAL_MEDIA. -/
def Dev.eraseEnded (n : Nat) (ok : Bool) (d : Dev) : Dev :=
  let count := (d.seg n).eraseCount + 1
  { d with
    array := { d.array.putSeg n { state := if ok = false ∨ 30000 ≤ count then .retired else .blank, eraseCount := count } with
      op := none }
    reclaim := { d.reclaim with
      engine := .idle, erased := min (d.reclaim.erased + 1) 65535
      wear := if ok = true ∧ 30000 ≤ count then min (d.reclaim.wear + 1) 65535 else d.reclaim.wear
      eraseFails := if ok = true then d.reclaim.eraseFails else min (d.reclaim.eraseFails + 1) 65535 } }

theorem Dev.erased_eq (n : Nat) (ok : Bool) (d : Dev) :
    d.erased n ok = if ok = false then (d.eraseEnded n ok).latch .journalMedia .part else d.eraseEnded n ok := by
  unfold Dev.erased Dev.eraseEnded
  cases ok
  · simp [Dev.modSeg, Dev.modReclaim, sat16, retireCount, Dev.seg]
  · simp [Dev.modSeg, Dev.modReclaim, sat16, retireCount, Dev.seg]

end Sys2Proof.Machine

/-- Settles O40: a read with its record, the page that fails its read, and the two operations of an erase. -/
theorem readsAndErasesComplete : Obligations.ReadsAndErasesComplete := by
  refine ⟨?reads, ?erases⟩
  case reads =>
    intro s t q hpow hop d free
    have hexec (ok : Bool) : exec (.pageReadComplete t ok) s = .next { s with dev := (d.pageRead ok).settle } :=
      State.goOn_event hpow t (Dev.pageRead ok)
    have hgood (r : IntentRec) (hb : s.dev.readsBack q.seg q.page = true) (hr : s.dev.recordAt q.seg q.page q.seq = some r) :
        d.pageRead true = free.readEnded q (some r) := by
      rw [Dev.pageRead_good (d := d) hop hb, show d.recordAt q.seg q.page q.seq = some r from hr]
    refine ⟨fun j r hwho hb hr => ?dispatch, fun tok addr r hwho hb hr => ?journal,
      fun p id way creation cid b rest r hwho hb hr hl hc => ?lookup, fun ok pg hpg hbad => ?failed⟩
    case dispatch =>
      rw [hexec, hgood r hb hr, Dev.readEnded_dispatch hwho]
      simp only [funext (Site.modCandidate_eq q.seq fun c => { c with record := some r, reading := false })]
    case journal =>
      rw [hexec, hgood r hb hr, Dev.readEnded_journal hwho]
      rfl
    case lookup =>
      rw [hexec, hgood r hb hr, Dev.readEnded_lookup (d := free) hwho hl hc]
      rfl
    case failed =>
      obtain ⟨u, ⟨harray, -, hports, hmarks⟩, hvarray, hvmedia, hvstatus, hnone⟩ := Dev.pageRead_failed (d := d) hop hpg hbad
      have hseg (k : Nat) : (d.pageRead ok).seg k =
          (d.opEnded.array.putSeg q.seg { d.opEnded.seg q.seg with failed := (d.opEnded.seg q.seg).failed ++ [q.page] }).seg k := by
        rw [← harray]
        exact (congrArg (fun a : ArrayBlk => a.seg k) hvarray :)
      refine ⟨_, hexec ok, ?op, hvmedia, ?page, fun i x hi hx => ?marks, fun tok addr y hwho hreads ht hid hd => ?answer,
        fun p id way creation cid b rest hwho hreads hl hc => ?unreadable⟩
      case op => exact (congrArg ArrayBlk.op hvarray).trans (congrArg ArrayBlk.op harray)
      case page =>
        refine (congrArg Segment.failed ((hseg q.seg).trans (ArrayBlk.putSeg_seg_self _ _ fun hblank => ?_)) :)
        exact List.append_ne_nil_of_right_ne_nil _ (List.cons_ne_nil _ _) (congrArg Segment.failed hblank :)
      case marks =>
        obtain ⟨y, hy, hym⟩ := hmarks i x hx
        rw [if_pos hi] at hym
        exact ⟨y, (congrArg (fun a : StatusArray => Tbl.get a.slots i) hvstatus).trans hy, hym⟩
      case answer =>
        have hport := hports tok.port
        have htaken : (u.readsFail q).ports[tok.port].taken = [y] := (congrArg Port.taken hport :).trans ht
        have hresp : (u.readsFail q).ports[tok.port].respQ = s.dev.ports[tok.port].respQ := (congrArg Port.respQ hport :)
        rw [hnone hreads, Dev.readEnded_journal_none hwho, Dev.refuse, Dev.answer_single _ _ _ htaken hid, Dev.modPort_self, hresp,
          if_neg (by rw [hd]; exact Bool.false_ne_true)]
      case unreadable =>
        have hport := hports p
        have hlookup : (u.readsFail q).ports[p].lookup = some (.reading id way creation) := (congrArg Port.lookup hport :).trans hl
        have hqueue : (u.readsFail q).ports[p].cmdQ = ⟨cid, .append b⟩ :: rest := (congrArg Port.cmdQ hport :).trans hc
        rw [hnone hreads, Dev.readEnded_lookup hwho hlookup hqueue, Dev.modPort_self]
  case erases =>
    intro s t n ok hpow d count retired r
    refine ⟨fun hop => ?suspending, fun hok hop => ?erase⟩
    case suspending =>
      have hsuspended : d.suspended = { d with array := { d.array with op := none, suspended := some n } } := by
        unfold Dev.suspended
        rw [show d.array.op = some (.suspending n) from hop]
      exact (State.goOn_event hpow t Dev.suspended).trans
        (congrArg (fun u : Dev => Host.Outcome.next { s with dev := u.settle }) hsuspended)
    case erase =>
      have herased : d.eraseDone ok = d.erased n ok := by
        unfold Dev.eraseDone
        rw [show d.array.op = some (.erase n) from hop]
      have hexec : exec (.eraseComplete t ok) s = .next { s with dev := (d.erased n ok).settle } :=
        (State.goOn_event hpow t (Dev.eraseDone ok)).trans
          (congrArg (fun u : Dev => Host.Outcome.next { s with dev := u.settle }) herased)
      have hascending : Tbl.ascending d.array.segs = true := ((Bool.and_eq_true _ _).mp hok).2
      have hself : (d.eraseEnded n ok).seg n = { state := if retired then .retired else .blank, eraseCount := count } :=
        ArrayBlk.putSeg_seg_of_ascending (a := d.array) hascending n _
      have hother (k : Nat) (hk : k ≠ n) : (d.eraseEnded n ok).seg k = d.seg k := ArrayBlk.putSeg_seg_other d.array n k _ hk
      have hfree : (d.eraseEnded n ok).array.op = none := rfl
      have hreclaim : (d.eraseEnded n ok).reclaim =
        { r with
          engine := .idle, erased := min (r.erased + 1) 65535
          wear := if ok = true ∧ 30000 ≤ count then min (r.wear + 1) 65535 else r.wear
          eraseFails := if ok = true then r.eraseFails else min (r.eraseFails + 1) 65535 } := rfl
      have hrest : { d.eraseEnded n ok with array := s.dev.array, reclaim := s.dev.reclaim } = d := rfl
      have hlatched : (d.eraseEnded n ok).MediaLatchedWhen (ok = false) (d.erased n ok) := by
        rw [Dev.erased_eq]
        exact Dev.mediaLatchedWhen (ok = false) _
      refine ⟨_, hexec, ?_⟩
      generalize d.erased n ok = u at *
      generalize d.eraseEnded n ok = e at *
      obtain ⟨hurest, hulatch, -⟩ := hlatched
      have harr : u.array = e.array := (congrArg Dev.array hurest :)
      have hseg (k : Nat) : u.seg k = e.seg k := congrArg (fun a : ArrayBlk => a.seg k) harr
      have hmedia : e.journalMedia = s.dev.journalMedia := (congrArg Dev.journalMedia hrest :)
      refine ⟨harr ▸ hfree, (hseg n).trans hself, fun k hk => (hseg k).trans (hother k hk),
        (congrArg Dev.reclaim hurest :).trans hreclaim, ?latch, ?rest⟩
      case latch => rw [hulatch, hmedia]; cases ok <;> rfl
      case rest =>
        exact (congrArg (fun x : Dev => { x with
          array := s.dev.array, reclaim := s.dev.reclaim, journalMedia := s.dev.journalMedia, ports := s.dev.ports }) hurest).trans
          (congrArg (fun x : Dev => { x with journalMedia := s.dev.journalMedia, ports := s.dev.ports }) hrest)


end

section
/-!
SUPPORT and settlement of O50: the transmitter (R61, R63, R64, R70, R73, R95, R101).
-/

open Sys2Proof Sys2Proof.Machine

namespace Sys2Proof.Machine

/-! ## A frame of the control queue (R61, R63, R64) -/

/-- R61: what the state of a slot lets the part send. -/
theorem SiteState.sends_iff (st : SiteState) (b : FrameBody) (h : st ≠ .detached) :
    st.sends b = true ↔
      st = .active ∨
        (st ≠ .fenced ∧ (∀ o, b ≠ .opening o) ∧ (∀ q k data, b ≠ .carry q k data) ∧ (st = .evicted → ∀ n, b ≠ .hello n)) := by
  cases st
  case detached => exact absurd rfl h
  all_goals cases b <;> simp [SiteState.sends]

theorem find?_allSlots (j : SlotId) : (allSlots.find? fun k => decide (k = j)) = some j := by
  revert j
  decide

/-- The slot of a site that one slot alone holds. -/
theorem Dev.slotOfSite_eq {d : Dev} {j : SlotId} {site : Nat} (hj : (d.config j).site = some site)
    (hstate : d.sites[j].state ≠ .detached)
    (hone : ∀ k : SlotId, k ≠ j → (d.config k).site = some site → d.sites[k].state = .detached) :
    d.slotOfSite site = some j := by
  have htest (k : SlotId) : (d.siteState k != .detached && (d.config k).site == some site) = decide (k = j) := by
    by_cases hk : k = j
    · rw [hk, hj, bne_iff_ne.2 (show d.siteState j ≠ .detached from hstate), decide_eq_true rfl]
      simp
    · rw [decide_eq_false hk]
      by_cases hsite : (d.config k).site = some site
      · rw [show d.siteState k = .detached from hone k hk hsite]
        rfl
      · rw [beq_eq_false_iff_ne.2 hsite, Bool.and_false]
  unfold Dev.slotOfSite
  rw [funext htest, find?_allSlots]

theorem Dev.frameSlot_eq {d : Dev} {sp : SpanId} {f : Frame} {j : SlotId} (h : d.slotOfSite f.receiver = some j) :
    d.frameSlot sp f = if d.sites[j].state.sends f.body = true ∧ (d.config j).spanPort = sp then some j else none := by
  unfold Dev.frameSlot
  rw [h, Option.filter_some]
  simp only [Bool.and_eq_true, beq_iff_eq]
  rfl

section Transmit

variable {d : Dev} {sp : SpanId}

theorem Dev.transmit_busy (h : d.span[sp].sending ≠ none) : d.transmit sp = none :=
  if_pos (Option.isSome_iff_ne_none.2 h)

theorem Dev.transmit_control {f : Frame} {rest : List Frame} (h : d.span[sp].sending = none) (hq : d.span[sp].ctrlQ = f :: rest) :
    d.transmit sp =
      match d.frameSlot sp f with
      | none => some (d.modSpan sp fun s => { s with ctrlQ := rest })
      | some j =>
        some (((d.modSpan sp fun s => { s with ctrlQ := rest }).countFrame j f.len).modSpan sp fun s =>
          { s with sending := some f }) := by
  unfold Dev.transmit
  dsimp only
  rw [h, hq] <;> rfl

/-- R95: no slot of the span port has a frame ready. -/
theorem Dev.transmit_creditless (hq : d.span[sp].ctrlQ = [])
    (hno : ∀ j : SlotId, (d.config j).spanPort = sp → (d.config j).mode = .paced ∧ d.sites[j].credit ≤ 0) :
    d.transmit sp = none := by
  have hready (j : SlotId) : ((d.config j).spanPort == sp && d.frameReady j) = false := by
    by_cases hsp : (d.config j).spanPort = sp
    · obtain ⟨hmode, hcredit⟩ := hno j hsp
      have hcharge : ((d.config j).mode == .unpaced || decide (0 < d.sites[j].credit)) = false := by
        rw [hmode, decide_eq_false (Int.not_lt.2 hcredit)]
        rfl
      rw [Dev.frameReady, hcharge, Bool.false_and, Bool.and_false]
    · rw [beq_eq_false_iff_ne.2 hsp, Bool.false_and]
  have hfind (l : List SlotId) : (l.find? fun j => (d.config j).spanPort == sp && d.frameReady j) = none :=
    List.find?_eq_none.2 fun j _ => by rw [hready]; exact Bool.false_ne_true
  unfold Dev.transmit
  dsimp only
  rw [hq, hfind]
  split <;> rfl

end Transmit

/-! ## The frame of a slot (R70, R73, R95) -/

theorem retryNumber_eq (n : Nat) : retryNumber n = min (n + 1) 8 := by
  unfold retryNumber
  split <;> omega

/-- R70: the in-flight entry of a first send. -/
def IntentRec.flying (r : IntentRec) (now : Time) : InFlight :=
  { seq := r.seq, size := encodedSize r.key.length r.payloadLen, firstSend := now, record := r }

/-- R70: the slot when the OPEN of a first send is handed over. -/
def Site.opened (r : IntentRec) (now : Time) (x : Site) : Site :=
  { x with candidates := x.candidates.filter fun c => c.seq != r.seq, inFlight := x.inFlight ++ [r.flying now] }

/-- R63, R73, R95: the slot when a frame of `len` bytes, the last one of the send or not, is charged and counted. -/
def Site.framed (q : Seq) (paced : Bool) (len : Nat) (last : Bool) (now : Time) (x : Site) : Site :=
  let w := if last then x.modEntry q fun e =>
    { e with lastSend := some now, deadline := some (now + intervalOf x.rtt (retryNumber e.retries)) } else x
  { w with
    framesSent := sat64 (w.framesSent + 1), bytesSent := sat64 (w.bytesSent + len)
    credit := if paced then w.credit - len else w.credit }

/-- R70, R73, R95: the slot when a frame of it is handed over. -/
def Site.handedOver (k : Send) (rs : List Resend) (first paced : Bool) (len : Nat) (rest : List Piece) (r : IntentRec)
    (now : Time) (x : Site) : Site :=
  let y : Site := { x with send := if rest = [] then none else some { k with pieces := rest }, resends := rs }
  (if first then y.opened r now else y).framed k.seq paced len (decide (rest = [])) now

section HandedOver

variable (k : Send) (rs : List Resend) (first paced : Bool) (len : Nat) (rest : List Piece) (r : IntentRec) (now : Time) (x : Site)

theorem Site.handedOver_credit :
    (x.handedOver k rs first paced len rest r now).credit = if paced then x.credit - len else x.credit := by
  unfold Site.handedOver Site.framed
  cases first <;> cases decide (rest = []) <;> rfl

theorem Site.handedOver_framesSent :
    (x.handedOver k rs first paced len rest r now).framesSent = min (x.framesSent + 1) 18446744073709551615 := by
  unfold Site.handedOver Site.framed
  cases first <;> cases decide (rest = []) <;> rfl

theorem Site.handedOver_bytesSent :
    (x.handedOver k rs first paced len rest r now).bytesSent = min (x.bytesSent + len) 18446744073709551615 := by
  unfold Site.handedOver Site.framed
  cases first <;> cases decide (rest = []) <;> rfl

theorem Site.handedOver_send :
    (x.handedOver k rs first paced len rest r now).send = if rest = [] then none else some { k with pieces := rest } := by
  unfold Site.handedOver Site.framed
  cases first <;> cases decide (rest = []) <;> rfl

theorem Site.handedOver_resends : (x.handedOver k rs first paced len rest r now).resends = rs := by
  unfold Site.handedOver Site.framed
  cases first <;> cases decide (rest = []) <;> rfl

theorem Site.handedOver_candidates :
    (x.handedOver k rs first paced len rest r now).candidates =
      if first then x.candidates.filter fun c => c.seq != r.seq else x.candidates := by
  unfold Site.handedOver Site.framed
  cases first <;> cases decide (rest = []) <;> rfl

/-- R73: the retry deadline starts with the last frame of a send. -/
theorem Site.handedOver_inFlight :
    (x.handedOver k rs first paced len rest r now).inFlight =
      (let flying := if first then x.inFlight ++ [r.flying now] else x.inFlight
       if rest = [] then
         flying.map fun e =>
           if e.seq = k.seq then
             { e with lastSend := some now, deadline := some (now + intervalOf x.rtt (min (e.retries + 1) 8)) }
           else e
       else flying) := by
  unfold Site.handedOver Site.framed
  by_cases hrest : rest = [] <;> cases first <;> simp [hrest, Site.modEntry, Site.opened, retryNumber_eq]

end HandedOver

/-- R70: the part when the OPEN of a first send, if it is one, is handed over. -/
def Dev.sendBegun (j : SlotId) (r : IntentRec) (first : Bool) (d : Dev) : Dev :=
  if first then d.moveMark j r.seq (· == .pending) .inFlight else d

theorem Dev.sendBegun_kept (j : SlotId) (r : IntentRec) (first : Bool) (d : Dev) : d.EvalKept (d.sendBegun j r first) := by
  cases first
  · exact .refl d
  · exact d.moveMark_kept j r.seq _ _

theorem Dev.sendBegun_slot_kept {j : SlotId} {r : IntentRec} {first : Bool} {d : Dev} {q : Seq} (h : first = false ∨ q ≠ r.seq) :
    (d.sendBegun j r first).slot? q = d.slot? q := by
  cases first
  · rfl
  · exact d.moveMark_slot_other j r.seq _ _ (h.resolve_left nofun)

theorem Dev.sendBegun_slot_self {j : SlotId} {r : IntentRec} {d : Dev} {y : Slot} (hy : d.slot? r.seq = some y) :
    ∃ z, (d.sendBegun j r true).slot? r.seq = some z ∧
      z.mark j = (if y.mark j = some .pending then some .inFlight else y.mark j) ∧ ∀ i, i ≠ j → z.mark i = y.mark i := by
  obtain ⟨z, hz, hself, hother⟩ := d.moveMark_slot_self j r.seq (· == .pending) .inFlight hy
  refine ⟨z, hz, hself.trans ?_, hother⟩
  cases hm : y.mark j with
  | none => rfl
  | some m =>
    by_cases hp : m = .pending
    · rw [hp]
      rfl
    · rw [Option.map_some, if_neg (by rw [beq_iff_eq]; exact hp), if_neg fun h => hp (Option.some.inj h)]

/-- R63, R73, R95: the steps that charge and count a frame are one change of the slot. -/
theorem Dev.framed_eq (d : Dev) (j : SlotId) (q : Seq) (len : Nat) (last : Bool) :
    (let e := (if last = true then d.lastFrame j q else d).countFrame j len
     if (e.config j).mode = .paced then e.modSite j fun x => { x with credit := x.credit - len } else e) =
      d.modSite j fun x => x.framed q ((d.config j).mode == .paced) len last d.now := by
  have hconfig : (((if last = true then d.lastFrame j q else d).countFrame j len).config j) = d.config j := by
    cases last <;> rfl
  dsimp only
  rw [hconfig]
  by_cases hmode : (d.config j).mode = .paced
  · have hpaced : ((d.config j).mode == .paced) = true := beq_iff_eq.2 hmode
    rw [if_pos hmode, hpaced]
    cases last <;> simp [Dev.lastFrame, Dev.countFrame, Dev.modSite_modSite, Site.framed]
  · have hpaced : ((d.config j).mode == .paced) = false := beq_eq_false_iff_ne.2 hmode
    rw [if_neg hmode, hpaced]
    cases last <;> simp [Dev.lastFrame, Dev.countFrame, Dev.modSite_modSite, Site.framed]

/-- R70: a first OPEN is handed over: the mark, and the slot. -/
theorem Dev.firstOpen_ite (d : Dev) (j : SlotId) (r : IntentRec) (first : Bool) :
    (if first = true then d.firstOpen j r else d) =
      (d.sendBegun j r first).modSite j fun x => if first then x.opened r d.now else x := by
  cases first
  · simp [Dev.sendBegun, Dev.modSite]
  · have hnow : (d.moveMark j r.seq (· == .pending) .inFlight).now = d.now :=
      (congrArg Dev.now (d.moveMark_kept j r.seq (· == .pending) .inFlight) :)
    rw [if_pos rfl]
    unfold Dev.firstOpen Dev.sendBegun
    simp only [hnow, if_true]
    rfl

/-- R70: what the hand-over of a frame of a slot leaves; `b` is the part with the mark of a first send moved. -/
structure Dev.HandedOver (d : Dev) (j : SlotId) (f : Frame) (y : Site) (b u : Dev) : Prop where
  sites : u.sites = d.sites.set j y
  span : u.span = d.span.set (d.config j).spanPort { d.span[(d.config j).spanPort] with lastServed := j, sending := some f }
  rest : { u with sites := b.sites, span := b.span, fetch := b.fetch } = b

/-- R70: the slot's send and its due resends when a frame is taken. -/
def Dev.sendTaken (j : SlotId) (k : Send) (rs : List Resend) (rest : List Piece) (d : Dev) : Dev :=
  d.modSite j fun x => { x with send := if rest = [] then none else some { k with pieces := rest }, resends := rs }

theorem Dev.handOver_handed {d : Dev} {j : SlotId} {k : Send} {rs : List Resend} {piece : Piece} {rest : List Piece}
    {r : IntentRec} (hnext : d.nextSend j = some (k, rs)) (hpieces : k.pieces = piece :: rest)
    (hr : d.sites[j].sendRecord k.seq = some r) :
    let first : Bool := piece == .opening && (d.sites[j].entry k.seq).isNone
    d.HandedOver j ⟨d.settings.localSite.getD 0, (d.config j).site.getD 0, d.power.startCount, d.pieceBody r piece⟩
      (d.sites[j].handedOver k rs first ((d.config j).mode == .paced) (pieceLen r piece) rest r d.now)
      ((d.sendTaken j k rs rest).sendBegun j r first) (d.handOver j) := by
  intro first
  have hentry : (d.sendTaken j k rs rest).sites[j].entry k.seq = d.sites[j].entry k.seq := by
    unfold Dev.sendTaken
    rw [Dev.modSite_self]
    rfl
  have hfirst : (piece = .opening ∧ ((d.sendTaken j k rs rest).sites[j].entry k.seq).isNone = true) ↔ first = true := by
    rw [hentry, Bool.and_eq_true, beq_iff_eq]
  have hempty : rest.isEmpty = true ↔ decide (rest = []) = true := by simp
  have htaken : (d.modSite j fun x =>
      { x with send := if rest.isEmpty then none else some { k with pieces := rest }, resends := rs }) =
      d.sendTaken j k rs rest := by
    unfold Dev.sendTaken
    simp only [List.isEmpty_iff]
  have hkept := (d.sendTaken j k rs rest).sendBegun_kept j r first
  have hbsites : ((d.sendTaken j k rs rest).sendBegun j r first).sites = (d.sendTaken j k rs rest).sites :=
    (congrArg Dev.sites hkept :)
  have hbspan : ((d.sendTaken j k rs rest).sendBegun j r first).span = d.span := (congrArg Dev.span hkept :)
  have hbnow : ((d.sendTaken j k rs rest).sendBegun j r first).now = d.now := (congrArg Dev.now hkept :)
  have hbsettings : ((d.sendTaken j k rs rest).sendBegun j r first).settings = d.settings := (congrArg Dev.settings hkept :)
  have htsites : (d.sendTaken j k rs rest).sites = d.sites.set j
    { d.sites[j] with send := if rest = [] then none else some { k with pieces := rest }, resends := rs } := rfl
  unfold Dev.handOver
  rw [hnext]
  dsimp only
  rw [hpieces, hr]
  dsimp only
  rw [htaken]
  simp only [hfirst, hempty, Dev.firstOpen_ite]
  have hframed := Dev.framed_eq (((d.sendTaken j k rs rest).sendBegun j r first).modSite j fun x =>
    if first then x.opened r (d.sendTaken j k rs rest).now else x) j k.seq (pieceLen r piece) (decide (rest = []))
  dsimp only at hframed
  rw [hframed]
  generalize (d.sendTaken j k rs rest).sendBegun j r first = b at *
  have hconfig : ((b.modSite j fun x => if first then x.opened r (d.sendTaken j k rs rest).now else x).config j) = d.config j :=
    congrArg (fun c : Settings => c.sites[j]) hbsettings
  rw [Dev.modSite_modSite, hconfig]
  refine ⟨?sites, ?span, ?rest⟩
  case sites =>
    have hunspan (e : Dev) (sp : SpanId) (g : SpanPort → SpanPort) : (e.modSpan sp g).sites = e.sites := rfl
    have hunfetch (e : Dev) (c : Prop) [Decidable c] (g : FetchUnit → FetchUnit) :
        (if c then e else e.modFetch g).sites = e.sites := by split <;> rfl
    rw [hunspan, hunfetch, Dev.modSite_sites, hbsites, htsites]
    simp only [Fin.getElem_fin, Vector.set_set, Vector.getElem_set_self]
    rw [show (b.modSite j fun x => if first then x.opened r (d.sendTaken j k rs rest).now else x).now = d.now from hbnow]
    rfl
  case span =>
    rw [Dev.modSpan_span]
    split <;> rw [← hbspan] <;> rfl
  case rest => split <;> rfl

end Sys2Proof.Machine

/-- Settles O50: the transmitter's choice, and what it takes of a control queue and of a slot. -/
theorem transmitterTakesTheNextFrame : Obligations.TransmitterTakesTheNextFrame := by
  refine ⟨fun s t sp hpow => ?free, fun d sp h => Dev.transmit_busy h, fun d sp f rest j hfree hq hsite hstate hone => ?control,
    fun d sp hq hno => Dev.transmit_creditless hq hno, fun d j k rs piece rest r hnext hpieces hr => ?slot⟩
  case free => exact State.goOn_event hpow t _
  case control =>
    intro st sends
    have hsends : (st.sends f.body = true ∧ (d.config j).spanPort = sp) ↔ sends := by
      rw [SiteState.sends_iff st f.body hstate]
      exact and_comm
    have hslot := Dev.frameSlot_eq (sp := sp) (f := f) (Dev.slotOfSite_eq hsite hstate hone)
    refine ⟨fun h => ?sent, fun h => ?dropped⟩
    case sent =>
      rw [if_pos (hsends.2 h)] at hslot
      rw [Dev.transmit_control hfree hq, hslot]
      simp only [Dev.modSpan, Dev.countFrame, Dev.modSite, sat64, Fin.getElem_fin, Vector.set_set, Vector.getElem_set_self]
    case dropped =>
      rw [if_neg fun hc => h (hsends.1 hc)] at hslot
      rw [Dev.transmit_control hfree hq, hslot]
  case slot =>
    intro u sp len
    have hlen : pieceLen r piece = len := by cases piece <;> rfl
    obtain ⟨hsites, hspan, hrest⟩ := Dev.handOver_handed hnext hpieces hr
    have hself : u.sites[j] = d.sites[j].handedOver k rs (piece == .opening && (d.sites[j].entry k.seq).isNone)
        ((d.config j).mode == .paced) (pieceLen r piece) rest r d.now := by
      rw [hsites, sites_set_get, if_pos rfl]
    refine ⟨?credit, ?frames, ?bytes, ?send, ?resends, fun i hi => ?others, hspan, fun hseq => ?sequence⟩
    case credit =>
      rw [hself, ← hlen, Site.handedOver_credit]
      simp only [beq_iff_eq]
    case frames => rw [hself, Site.handedOver_framesSent]
    case bytes =>
      rw [hself, ← hlen, Site.handedOver_bytesSent]
      omega
    case send => rw [hself, Site.handedOver_send]
    case resends => rw [hself, Site.handedOver_resends]
    case others => rw [hsites, sites_set_get, if_neg hi]
    case sequence =>
      intro x first flying
      have hbegun := Dev.sendBegun_kept j r first (d.sendTaken j k rs rest)
      have hslot (q : Seq) : u.slot? q = ((d.sendTaken j k rs rest).sendBegun j r first).slot? q :=
        (congrArg (fun e : Dev => e.slot? q) hrest :)
      have htaken (q : Seq) : (d.sendTaken j k rs rest).slot? q = d.slot? q := rfl
      refine ⟨?candidates, ?inFlight, fun q hq => ?kept, fun hfirst y hy => ?mark, (congrArg Dev.journal hrest :).trans ?journal,
        (congrArg Dev.settings hrest :).trans ?settings, (congrArg Dev.array hrest :).trans ?array⟩
      case candidates =>
        rw [hself, Site.handedOver_candidates, hseq]
        simp only [bne_eq, decide_not] <;> rfl
      case inFlight =>
        rw [hself, Site.handedOver_inFlight, IntentRec.flying, hseq]
        rfl
      case kept =>
        rw [hslot, Dev.sendBegun_slot_kept (hseq ▸ hq), htaken]
      case mark =>
        rw [hslot, hfirst, ← hseq]
        exact Dev.sendBegun_slot_self (by rw [htaken, hseq]; exact hy)
      case journal => exact (congrArg Dev.journal hbegun :)
      case settings => exact (congrArg Dev.settings hbegun :)
      case array => exact (congrArg Dev.array hbegun :)

end

section
/-!
SUPPORT and settlement of O51: a frame, written as its bytes, is read back (R63, R198, R199).
-/

open Sys2Proof Sys2Proof.Machine

namespace Sys2Proof.Machine

/-! ## The header (R63, R198) -/

/-- The last 40 bytes of a header: what a CARRY frame adds, and the fill. -/
def Frame.rear (f : Frame) : List Byte :=
  (match f.body with | .carry s k _ => leBytes 8 s ++ leBytes 4 k | _ => zeros 12) ++ zeros 28

/-- The first 20 bytes of a header. -/
def Frame.front (f : Frame) : List Byte :=
  leBytes 4 frameMagic ++ (leBytes 1 1 ++ (leBytes 1 f.body.kindCode ++ (leBytes 1 f.sender ++ (leBytes 1 f.receiver ++
    (leBytes 8 f.start ++ leBytes 4 f.len)))))

theorem Frame.rear_length (f : Frame) : f.rear.length = 40 := by
  unfold Frame.rear
  split <;> simp [leBytes_length, zeros_length]

theorem Frame.front_length (f : Frame) : f.front.length = 20 := by
  simp [Frame.front, leBytes_length]

theorem Frame.header_eq (f : Frame) (crc : Nat) : f.header crc = f.front ++ (leBytes 4 crc ++ f.rear) := by
  unfold Frame.header Frame.front Frame.rear
  cases f.body <;> simp [padTo_eq, leBytes_length, zeros_length]

theorem Frame.header_length (f : Frame) (crc : Nat) : (f.header crc).length = 64 := by
  rw [Frame.header_eq, List.length_append, List.length_append, f.front_length, leBytes_length, f.rear_length]

theorem Frame.bytes_length (f : Frame) : f.bytes.length = f.len := by
  rw [Frame.bytes, List.length_append, Frame.header_length, Frame.len]

theorem Frame.bytes_drop (f : Frame) : f.bytes.drop 64 = f.body.bytes := List.drop_left' (f.header_length _)

/-- R198: the CRC of a frame, over its bytes with the CRC field zero. -/
def Frame.crc (f : Frame) : Nat := (crc32 (f.header 0 ++ f.body.bytes)).toNat

theorem Frame.bytes_eq (f : Frame) : f.bytes = f.front ++ (leBytes 4 f.crc ++ (f.rear ++ f.body.bytes)) := by
  rw [Frame.bytes, Frame.header_eq, List.append_assoc, List.append_assoc]
  rfl

theorem Frame.zeroed (f : Frame) : f.bytes.take 20 ++ zeros 4 ++ f.bytes.drop 24 = f.header 0 ++ f.body.bytes := by
  have hcrc : (f.front ++ leBytes 4 f.crc).length = 24 := by rw [List.length_append, f.front_length, leBytes_length]
  have htake : f.bytes.take 20 = f.front := by rw [Frame.bytes_eq, List.take_left' f.front_length]
  have hdrop : f.bytes.drop 24 = f.rear ++ f.body.bytes := by
    rw [Frame.bytes_eq, ← List.append_assoc, List.drop_left' hcrc]
  have hzero : leBytes 4 0 = zeros 4 := by decide
  rw [htake, hdrop, Frame.header_eq, hzero]
  simp only [List.append_assoc]

theorem fieldAt_front (f : Frame) (off w : Nat) (b : List Byte) (h : 20 ≤ off) :
    fieldAt off w (f.front ++ b) = fieldAt (off - 20) w b := congrArg ofLe (slice_skip _ _ _ _ _ f.front_length h)

/-- R64, check 1: what is read of a frame whose header fields are in their ranges. -/
theorem parseFrame_bytes {f : Frame} (hsender : f.sender < 256) (hreceiver : f.receiver < 256) (hstart : f.start < 2 ^ 64)
    (hlen : f.len < 2 ^ 32) :
    parseFrame f.bytes = some (⟨f.sender, f.receiver, f.start⟩, parseBody f.body.kindCode f.bytes) := by
  have hkind : f.body.kindCode < 256 := by cases f.body <;> simp [FrameBody.kindCode]
  have hfront (off w : Nat) : fieldAt off w f.bytes = fieldAt off w (f.front ++ (leBytes 4 f.crc ++ (f.rear ++ f.body.bytes))) := by
    rw [Frame.bytes_eq]
  have hmagic : fieldAt 0 4 f.bytes = frameMagic := by
    rw [hfront, Frame.front, List.append_assoc]
    exact fieldAt_num 4 _ _ (by decide)
  have hversion : fieldAt 4 1 f.bytes = 1 := by
    rw [hfront, Frame.front]
    simp only [List.append_assoc, fieldAt_leBytes, Nat.reduceSub, Nat.reduceLeDiff]
    exact fieldAt_num 1 _ _ (by decide)
  have hcode : fieldAt 5 1 f.bytes = f.body.kindCode := by
    rw [hfront, Frame.front]
    simp only [List.append_assoc, fieldAt_leBytes, Nat.reduceSub, Nat.reduceLeDiff]
    exact fieldAt_num 1 _ _ hkind
  have hsend : fieldAt 6 1 f.bytes = f.sender := by
    rw [hfront, Frame.front]
    simp only [List.append_assoc, fieldAt_leBytes, Nat.reduceSub, Nat.reduceLeDiff]
    exact fieldAt_num 1 _ _ hsender
  have hreceive : fieldAt 7 1 f.bytes = f.receiver := by
    rw [hfront, Frame.front]
    simp only [List.append_assoc, fieldAt_leBytes, Nat.reduceSub, Nat.reduceLeDiff]
    exact fieldAt_num 1 _ _ hreceiver
  have hcount : fieldAt 8 8 f.bytes = f.start := by
    rw [hfront, Frame.front]
    simp only [List.append_assoc, fieldAt_leBytes, Nat.reduceSub, Nat.reduceLeDiff]
    exact fieldAt_num 8 _ _ hstart
  have hsize : fieldAt 16 4 f.bytes = f.bytes.length := by
    rw [hfront, Frame.front, f.bytes_length]
    simp only [List.append_assoc, fieldAt_leBytes, Nat.reduceSub, Nat.reduceLeDiff]
    exact fieldAt_num 4 _ _ hlen
  have hcrc : fieldAt 20 4 f.bytes = f.crc := by
    rw [hfront, fieldAt_front _ _ _ _ le_rfl]
    exact fieldAt_word32 _ _
  unfold parseFrame
  dsimp only
  rw [f.zeroed, hsend, hreceive, hcount, hcode]
  exact if_pos ⟨by rw [f.bytes_length, Frame.len]; omega, hmagic, hversion, hsize, hcrc⟩

/-! ## The bodies -/

theorem fieldAt_whole {w n : Nat} (h : n < 256 ^ w) : fieldAt 0 w (leBytes w n) = n := by
  have hread := fieldAt_num w n [] h
  rwa [List.append_nil] at hread

/-- Pieces of one length, joined and cut again. -/
theorem cut_flatMap {α : Type} {n : Nat} {g : α → List Byte} (h : ∀ a, (g a).length = n) (l : List α) :
    cut n l.length (l.flatMap g) = l.map g := by
  induction l with
  | nil => rfl
  | cons a t ih =>
    rw [List.flatMap_cons, List.length_cons, cut, List.take_left' (h a), List.drop_left' (h a), ih, List.map_cons]

theorem flatMap_length_of_const {α : Type} {n : Nat} {g : α → List Byte} (h : ∀ a, (g a).length = n) (l : List α) :
    (l.flatMap g).length = n * l.length := by
  rw [List.length_flatMap, List.map_congr_left fun a _ => h a, List.map_const', List.sum_replicate, smul_eq_mul, Nat.mul_comm]

/-- R126: the bytes of an entry of a RECEIPT frame. -/
def receiptBytes (e : Seq × ReceiptOutcome) : List Byte := leBytes 8 e.1 ++ leBytes 1 (receiptOutcomeCode e.2) ++ zeros 7

theorem receiptBytes_length (e : Seq × ReceiptOutcome) : (receiptBytes e).length = 16 := by
  simp [receiptBytes, leBytes_length, zeros_length]

theorem receiptBytes_back {e : Seq × ReceiptOutcome} (h : e.1 < 2 ^ 64) :
    (fieldAt 0 8 (receiptBytes e), fieldAt 8 1 (receiptBytes e)) = (e.1, receiptOutcomeCode e.2) := by
  have hcode : receiptOutcomeCode e.2 < 256 ^ 1 := by cases e.2 <;> decide
  unfold receiptBytes
  rw [List.append_assoc, fieldAt_num 8 _ _ h, fieldAt_leBytes _ _ _ _ _ le_rfl, Nat.sub_self, fieldAt_num 1 _ _ hcode]

/-- The bytes of a range of a GAP frame. -/
def rangeBytes (r : Nat × Nat) : List Byte := leBytes 4 r.1 ++ leBytes 4 r.2

theorem rangeBytes_length (r : Nat × Nat) : (rangeBytes r).length = 8 := by
  simp [rangeBytes, leBytes_length]

theorem rangeBytes_back {r : Nat × Nat} (h : r.1 < 2 ^ 32 ∧ r.2 < 2 ^ 32) :
    (fieldAt 0 4 (rangeBytes r), fieldAt 4 4 (rangeBytes r)) = r := by
  unfold rangeBytes
  rw [fieldAt_num 4 _ _ h.1, fieldAt_leBytes _ _ _ _ _ le_rfl, Nat.sub_self, fieldAt_whole h.2]

theorem descBytes_length (o : OpenDesc) (h : o.key.length = o.keyLen) : (descBytes o).length = recordSize o.keyLen := by
  refine padTo_length _ _ ?_
  simp only [List.length_append, leBytes_length, zeros_length, h, recordSize]
  omega

theorem parseDesc_descBytes {o : OpenDesc} (hseq : o.seq < 2 ^ 64) (hkind : o.kind < 256) (hlen : o.keyLen ≤ 240)
    (hkey : o.key.length = o.keyLen) (hpay : o.payloadLen < 2 ^ 32) : parseDesc (descBytes o) = o := by
  have hkeyLen : o.keyLen < 256 ^ 1 := by omega
  have hread (b : List Byte) : slice 0 o.keyLen (o.key ++ b) = o.key := by rw [slice, List.drop_zero, List.take_left' hkey]
  unfold parseDesc descBytes
  simp only [padTo_eq, List.append_assoc, fieldAt_leBytes, fieldAt_zeros, slice_leBytes, slice_zeros, Nat.reduceSub, Nat.reduceLeDiff,
    fieldAt_num 8 _ _ hseq, fieldAt_num 1 _ _ hkind, fieldAt_num 1 _ _ hkeyLen, fieldAt_num 4 _ _ hpay, fieldAt_word32,
    fieldAt_word64, hread, BitVec.ofNat_toNat, BitVec.setWidth_eq]

end Sys2Proof.Machine

/-- Settles O51: the header of a frame by parseFrame_bytes, and the body of each kind. -/
theorem framesReadBack : Obligations.FramesReadBack := by
  intro f hsender hreceiver hstart back
  have hback {b : InBody} (hlen : f.len < 2 ^ 32) (hb : parseBody f.body.kindCode f.bytes = b) : back b := by
    show parseFrame f.bytes = _
    rw [parseFrame_bytes hsender hreceiver hstart hlen, hb]
  have hsize : f.bytes.length = 64 + f.body.bytes.length := f.bytes_length
  have hdrop := f.bytes_drop
  refine ⟨fun n hn hin => ?hello, fun n hn hin => ?helloAck, fun o ho hseq hkind hlow hhigh hkey hpay => ?opening,
    fun q k data hc hq hk hne hlen => ?carry, fun l hl hne hlen hin => ?receipt, fun q l hg hq hne hlen hin => ?gap,
    fun q hb hq => ?busy⟩
  case hello =>
    rw [hn] at hsize hdrop
    have h72 : f.bytes.length = 72 := hsize.trans (by simp [FrameBody.bytes, padTo_length, leBytes_length])
    refine hback (by rw [← f.bytes_length, h72]; decide) ?_
    rw [hn]
    refine (if_pos h72).trans ?_
    rw [hdrop, FrameBody.bytes, padTo_eq, fieldAt_num 1 _ _ hin]
  case helloAck =>
    rw [hn] at hsize hdrop
    have h72 : f.bytes.length = 72 := hsize.trans (by simp [FrameBody.bytes, leBytes_length])
    refine hback (by rw [← f.bytes_length, h72]; decide) ?_
    rw [hn]
    refine (if_pos h72).trans ?_
    rw [hdrop, FrameBody.bytes, fieldAt_whole hin]
  case opening =>
    rw [ho] at hsize hdrop
    have hlen : f.bytes.length = 64 + recordSize o.keyLen := hsize.trans (by rw [FrameBody.bytes, descBytes_length o hkey])
    have hrecord : 128 ≤ recordSize o.keyLen ∧ recordSize o.keyLen ≤ 352 ∧ recordSize o.keyLen % 16 = 0 := by
      unfold recordSize
      omega
    have hform : fieldAt 0 1 (descBytes o) = 1 := by
      unfold descBytes
      simp only [padTo_eq, List.append_assoc]
      exact fieldAt_num 1 _ _ (by decide)
    refine hback (by rw [← f.bytes_length, hlen]; omega) ?_
    rw [ho]
    refine (if_pos ⟨by omega, by omega, by omega, by rw [hdrop]; exact hform⟩).trans ?_
    rw [hdrop, hlen, FrameBody.bytes, parseDesc_descBytes hseq hkind hhigh hkey hpay]
  case carry =>
    rw [hc] at hsize hdrop
    have hpos : 0 < data.length := List.length_pos_of_ne_nil hne
    have hlen' : f.bytes.length = 64 + data.length := hsize
    have hrear : f.rear = leBytes 8 q ++ (leBytes 4 k ++ zeros 28) := by
      unfold Frame.rear
      rw [hc, List.append_assoc]
    have hread (off w : Nat) (h : 24 ≤ off) : fieldAt off w f.bytes =
        fieldAt (off - 20 - 4) w (leBytes 8 q ++ (leBytes 4 k ++ (zeros 28 ++ f.body.bytes))) := by
      rw [Frame.bytes_eq, fieldAt_front _ _ _ _ (by omega), fieldAt_leBytes _ _ _ _ _ (by omega), hrear]
      simp only [List.append_assoc]
    refine hback (by rw [← f.bytes_length, hlen']; omega) ?_
    rw [hc]
    refine (if_pos ⟨by omega, by omega⟩).trans ?_
    rw [hdrop, hread 24 8 (by decide), hread 32 4 (by decide), fieldAt_num 8 _ _ hq, fieldAt_leBytes _ _ _ _ _ (by decide),
      fieldAt_num 4 _ _ hk]
    rfl
  case receipt =>
    rw [hl] at hsize hdrop
    have hpos : 0 < l.length := List.length_pos_of_ne_nil hne
    have hbytes : FrameBody.bytes (.receipt l) = l.flatMap receiptBytes := rfl
    have hlen' : f.bytes.length = 64 + 16 * l.length := by
      rw [hsize, hbytes, flatMap_length_of_const receiptBytes_length]
    refine hback (by rw [← f.bytes_length, hlen']; omega) ?_
    rw [hl]
    refine (if_pos ⟨by omega, by omega, by omega⟩).trans ?_
    rw [hdrop, hlen', hbytes, show (64 + 16 * l.length - 64) / 16 = l.length by omega, cut_flatMap receiptBytes_length,
      List.map_map]
    exact congrArg InBody.receipt (List.map_congr_left fun e he => receiptBytes_back (hin e he))
  case gap =>
    rw [hg] at hsize hdrop
    have hpos : 0 < l.length := List.length_pos_of_ne_nil hne
    have hbytes : FrameBody.bytes (.gap q l) = leBytes 8 q ++ l.flatMap rangeBytes := rfl
    have hlen' : f.bytes.length = 72 + 8 * l.length := by
      rw [hsize, hbytes, List.length_append, leBytes_length, flatMap_length_of_const rangeBytes_length]
      omega
    refine hback (by rw [← f.bytes_length, hlen']; omega) ?_
    rw [hg]
    refine (if_pos ⟨by omega, by omega, by omega⟩).trans ?_
    rw [hdrop, hlen', hbytes, show (72 + 8 * l.length - 72) / 8 = l.length by omega, fieldAt_num 8 _ _ hq,
      List.drop_left' (leBytes_length 8 q), cut_flatMap rangeBytes_length, List.map_map]
    have hranges : l.map ((fun e => (fieldAt 0 4 e, fieldAt 4 4 e)) ∘ rangeBytes) = l :=
      (List.map_congr_left fun r hr => rangeBytes_back (hin r hr)).trans (List.map_id' l)
    rw [hranges]
  case busy =>
    rw [hb] at hsize hdrop
    have h72 : f.bytes.length = 72 := hsize.trans (by simp [FrameBody.bytes, leBytes_length])
    refine hback (by rw [← f.bytes_length, h72]; decide) ?_
    rw [hb]
    refine (if_pos h72).trans ?_
    rw [hdrop, FrameBody.bytes, fieldAt_whole hq]

end

section
/-!
SUPPORT and settlement of O53: the ends of the payload reads (R165, R173 to R175).
-/

open Sys2Proof Sys2Proof.Machine

namespace Sys2Proof.Machine

/-! ## A new read of a fetch (R173, R174) -/

theorem Dev.nextOnline_eq (d : Dev) (p : PortId) : d.nextOnline p = (portsAfter p).find? fun o => d.ports[o].state == .online := rfl

theorem Dev.nextOnline_none {d : Dev} {p : PortId} (h : ∀ o : PortId, d.ports[o].state ≠ .online) : d.nextOnline p = none :=
  List.find?_eq_none.2 fun o _ => (d.online_iff o).not.2 (h o)

theorem Dev.moveFetch_next {d : Dev} {s : Seq} {p o : PortId} (h : d.nextOnline p = some o) :
    d.moveFetch s p = d.modFetch (FetchUnit.newRead s o d.now) := by
  unfold Dev.moveFetch
  rw [h]

/-- R174: with no ONLINE port, the intent becomes FETCH-BLOCKED. -/
theorem Dev.moveFetch_blocked {d : Dev} {s : Seq} {p : PortId} (h : d.nextOnline p = none) {x : Slot} (hx : d.slot? s = some x) :
    d.moveFetch s p =
      { d with
        fetch := { d.fetch with active := d.fetch.active.filter fun a => a.req.seq != s }
        status := { d.status with slots := Tbl.put d.status.slots s { x with fetchBlocked := true } }
        sites := d.sites.map fun y => { y with candidates := y.candidates.filter fun k => k.seq != s } } := by
  have hsame : (d.modFetch fun f => { f with active := f.active.filter fun a => a.req.seq != s }).slot? s = some x := hx
  unfold Dev.moveFetch
  rw [h]
  dsimp only
  unfold Dev.blockFetch
  dsimp only
  rw [hsame]
  rfl

/-- A change of the fetches of one intent, after another one. -/
theorem map_fetches (s : Seq) (g k : Fetch → Fetch) (hg : ∀ a, (g a).req = a.req) (l : List Fetch) :
    (l.map fun a => if a.req.seq == s then g a else a).map (fun a => if a.req.seq == s then k a else a) =
      l.map fun a => if a.req.seq = s then k (g a) else a := by
  rw [List.map_map]
  refine List.map_congr_left fun a _ => ?_
  by_cases h : a.req.seq = s <;> simp [h, hg]

/-- The other fetches. -/
theorem filter_map_fetches (s : Seq) (g : Fetch → Fetch) (hg : ∀ a, (g a).req = a.req) (l : List Fetch) :
    (l.map fun a => if a.req.seq == s then g a else a).filter (fun a => a.req.seq != s) = l.filter fun a => a.req.seq != s := by
  induction l with
  | nil => rfl
  | cons a t ih => by_cases h : a.req.seq = s <;> simp_all

/-! ## The data of a read (R173, R175) -/

theorem Fetch.completes_iff (f : Fetch) (r : ReadName) (now : Time) (len : Nat) :
    f.completes r now len = true ↔
      f.reading = true ∧ f.port = r.port ∧ f.read = r.number ∧ now ≤ f.started + 50000 ∧ len = f.req.len := by
  unfold Fetch.completes fetchLimit
  rw [Bool.and_eq_true, Bool.and_eq_true, Bool.and_eq_true, Bool.and_eq_true, beq_iff_eq, beq_iff_eq, beq_iff_eq,
    decide_eq_true_iff, and_assoc, and_assoc, and_assoc]

section Fetched

variable {d : Dev} {f : Fetch} {data : List Byte}

theorem Dev.fetched_good (h : crc32 data = f.req.digest) :
    d.fetched f data =
      { d with
        ports := d.ports.set f.port { d.ports[f.port] with timeouts := 0 }
        fetch := { d.fetch with
          active := d.fetch.active.filter fun a => a.req.seq != f.req.seq, cache := d.fetch.cache ++ [⟨f.req.seq, data⟩] } } :=
  if_pos h

variable (h : crc32 data ≠ f.req.digest) {x : Slot} (hx : d.slot? f.req.seq = some x)
include h hx

/-- R175: the first mismatch, at a port with a next one. -/
theorem Dev.fetched_retried (hm : f.mismatch = none) (hr : x.digestRetried = none) {o : PortId}
    (ho : d.nextOnline f.port = some o) :
    d.fetched f data =
      { d with
        ports := d.ports.set f.port { d.ports[f.port] with timeouts := 0 }
        status := { d.status with slots := Tbl.put d.status.slots f.req.seq { x with digestRetried := some f.port } }
        fetch := { d.fetch with
          mismatches := min (d.fetch.mismatches + 1) 18446744073709551615, nextRead := d.fetch.nextRead + 1
          active := d.fetch.active.map fun (a : Fetch) =>
            if a.req.seq = f.req.seq then
              { a with mismatch := some f.port, port := o, started := d.now, reading := true, read := d.fetch.nextRead }
            else a } } := by
  let e : Dev := { d with
    ports := d.ports.set f.port { d.ports[f.port] with timeouts := 0 }
    status := { d.status with slots := Tbl.put d.status.slots f.req.seq { x with digestRetried := some f.port } }
    fetch := { d.fetch with
      mismatches := min (d.fetch.mismatches + 1) 18446744073709551615
      active := d.fetch.active.map fun a => if a.req.seq == f.req.seq then { a with mismatch := some f.port } else a } }
  have hstates (q : PortId) : e.ports[q].state = d.ports[q].state := by
    rw [show e.ports[q] = (d.modPort f.port fun y => { y with timeouts := 0 }).ports[q] from rfl, Dev.modPort_port]
    split <;> rfl
  have hnext : e.nextOnline f.port = some o := by
    rw [Dev.nextOnline_eq] at ho ⊢
    simp only [hstates]
    exact ho
  have hsteps : d.fetched f data = e.moveFetch f.req.seq f.port := by
    have hslot : ((d.modPort f.port fun q => { q with timeouts := 0 }).modFetch fun u =>
      { u with mismatches := sat64 (u.mismatches + 1) }).slot? f.req.seq = some x := hx
    unfold Dev.fetched
    dsimp only
    rw [if_neg h, hm, hslot]
    dsimp only [Option.bind_some, Option.orElse]
    rw [hr]
    rfl
  rw [hsteps, Dev.moveFetch_next hnext]
  have hmap := map_fetches f.req.seq (fun a => { a with mismatch := some f.port })
    (fun a => { a with port := o, started := d.now, reading := true, read := d.fetch.nextRead }) (fun _ => rfl) d.fetch.active
  exact congrArg (fun l : List Fetch => { e with fetch := { e.fetch with nextRead := d.fetch.nextRead + 1, active := l } }) hmap

/-- R175: the second mismatch. -/
theorem Dev.fetched_failed {first : PortId}
    (hm : f.mismatch = some first ∨ (f.mismatch = none ∧ x.digestRetried = some first)) :
    d.fetched f data =
      Dev.digestFailed f first f.port
        { d with
          ports := d.ports.set f.port { d.ports[f.port] with timeouts := 0 }
          fetch := { d.fetch with mismatches := min (d.fetch.mismatches + 1) 18446744073709551615 } } := by
  have hslot : ((d.modPort f.port fun q => { q with timeouts := 0 }).modFetch fun u =>
    { u with mismatches := sat64 (u.mismatches + 1) }).slot? f.req.seq = some x := hx
  have hfirst : (f.mismatch.orElse fun _ => x.digestRetried) = some first := by
    rcases hm with h | ⟨h, hr⟩
    · rw [h]; rfl
    · rw [h, hr]; rfl
  unfold Dev.fetched
  dsimp only
  rw [if_neg h, hslot, Option.bind_some, hfirst]
  rfl

end Fetched

/-! ## The intent that fails (R17, R175) -/

/-- R175: DIGEST is latched at each slot of the list. -/
theorem Dev.latchDigests (l : List SlotId) (d : Dev) :
    (∀ j : SlotId, ((l.foldl (fun d j => d.latchSlot .digest j) d).sites[j].digest = true) ↔ j ∈ l ∨ d.sites[j].digest = true) ∧
      { l.foldl (fun d j => d.latchSlot .digest j) d with sites := d.sites, ports := d.ports } = d := by
  induction l generalizing d with
  | nil => exact ⟨fun j => by simp, rfl⟩
  | cons k t ih =>
    obtain ⟨hsites, hrest⟩ := ih (d.latchSlot .digest k)
    refine ⟨fun j => ?_, ?_⟩
    · rw [List.foldl_cons, hsites, Dev.latchSlot_sites rfl, sites_set_get]
      by_cases hj : j = k
      · simp [hj, FaultKind.latchAt]
      · simp [hj]
    · rw [List.foldl_cons]
      have hlatch := Dev.latchSlot_rest (k := .digest) rfl d k
      exact (congrArg (fun e : Dev => { e with sites := d.sites, ports := d.ports }) hrest).trans hlatch

theorem Dev.failIntent_slot {d : Dev} {s : Seq} {x : Slot} (hx : d.slot? s = some x) :
    ∃ y, (d.failIntent s).slot? s = some y ∧ y.held = false ∧ y.marks = x.marks.map failMark := by
  obtain ⟨-, -, -, -, hself⟩ := Dev.updateSlot_kept s (fun x => { x.moveAll Mark.failable .failed with held := false })
    ((d.forgetIntent s).dropHeld s)
  obtain ⟨y, hy, hxy⟩ := hself x hx
  exact ⟨y, hy, (congrArg Slot.held hxy :), hxy.marks.trans x.moveAll_failed_marks⟩

theorem Dev.failIntent_rest (d : Dev) (s : Seq) :
    d.EvalKept { d.failIntent s with sites := d.sites, held := d.held } := (d.failIntent_failed s).rest

theorem Dev.failIntent_sites (d : Dev) (s : Seq) (j : SlotId) :
    (d.failIntent s).sites[j] =
      { d.sites[j].dropInFlight s with candidates := d.sites[j].candidates.filter fun c => c.seq != s } := by
  have hkept : ((d.forgetIntent s).dropHeld s).EvalKept (d.failIntent s) := (Dev.updateSlot_kept s _ _).1
  have hsites : (d.failIntent s).sites = ((d.forgetIntent s).dropHeld s).sites := (congrArg Dev.sites hkept :)
  rw [hsites]
  exact Vector.getElem_map _ j.isLt

theorem Dev.failIntent_held (d : Dev) (s : Seq) :
    (d.failIntent s).held.entries = d.held.entries.filter fun e => e.seq != s := by
  have hkept : ((d.forgetIntent s).dropHeld s).EvalKept (d.failIntent s) := (Dev.updateSlot_kept s _ _).1
  exact (congrArg (fun e : Dev => e.held.entries) hkept :)

/-- R175: what the second mismatch leaves. -/
structure Dev.DigestFailed (d : Dev) (f : Fetch) (first : PortId) (x : Slot) (u : Dev) : Prop where
  fetch : u.fetch =
    { d.fetch with
      active := d.fetch.active.filter fun a => a.req.seq != f.req.seq
      fetchFailed := min (d.fetch.fetchFailed + 1) 18446744073709551615 }
  slot : ∃ y, u.slot? f.req.seq = some y ∧ y.held = false ∧ y.marks = x.marks.map failMark
  latches : ∀ e ∈ x.marks, u.sites[e.1].digest = true
  gone (j : SlotId) : (∀ k ∈ u.sites[j].candidates, k.seq ≠ f.req.seq) ∧ ∀ k ∈ u.sites[j].inFlight, k.seq ≠ f.req.seq
  released : ∀ e ∈ u.held.entries, e.seq ≠ f.req.seq
  told : d.ports[x.origin].state = .online → d.ports[x.origin].noticeQ.length < 256 →
    ∃ n, ⟨n, false, .fetchFailed ⟨f.req.seq, x.tag, x.origin⟩ first f.port⟩ ∈ u.ports[x.origin].noticeQ

theorem Dev.digestFailed_failed {d : Dev} {f : Fetch} {x : Slot} (hx : d.slot? f.req.seq = some x) (first : PortId) :
    d.DigestFailed f first x (d.digestFailed f first f.port) := by
  let a : Dev := d.modFetch fun u =>
    { u with active := u.active.filter fun a => a.req.seq != f.req.seq, fetchFailed := sat64 (u.fetchFailed + 1) }
  let r : Dev := a.route x.origin (.fetchFailed (x.noticeRoute f.req.seq) first f.port)
  let l : Dev := x.sites.foldl (fun d j => d.latchSlot .digest j) r
  have hsteps : d.digestFailed f first f.port = l.failIntent f.req.seq := by
    have hslot : a.slot? f.req.seq = some x := hx
    unfold Dev.digestFailed
    dsimp only
    rw [hslot]
  have hr : { r with ports := d.ports, partLost := d.partLost } = a := a.route_rest _ _
  obtain ⟨hlatches, hl⟩ := Dev.latchDigests x.sites r
  have hgrows : l.Goes (l.failIntent f.req.seq) := l.goes_failIntent _
  have hlgrows : r.Goes l := Dev.Goes.foldl (fun d j => d.goes_latchSlot .digest j) _ _
  rw [hsteps]
  have hlfetch : l.fetch = a.fetch := (congrArg Dev.fetch hl :).trans (congrArg Dev.fetch hr :)
  have hlstatus : l.status = d.status := (congrArg Dev.status hl :).trans (congrArg Dev.status hr :)
  refine ⟨?fetch, ?slot, fun e he => ?latches, fun j => ?gone, ?released, fun ho hlen => ?told⟩
  case fetch => exact (congrArg Dev.fetch (l.failIntent_rest f.req.seq) :).trans hlfetch
  case slot => exact Dev.failIntent_slot (by rwa [Dev.slot?, hlstatus])
  case latches =>
    rw [Dev.failIntent_sites]
    exact (hlatches e.1).2 (.inl (List.mem_map_of_mem he))
  case gone =>
    rw [Dev.failIntent_sites]
    exact ⟨fun k hk => bne_iff_ne.1 (List.mem_filter.1 hk).2, fun k hk => bne_iff_ne.1 (List.mem_filter.1 hk).2⟩
  case released =>
    rw [Dev.failIntent_held]
    exact fun e he => bne_iff_ne.1 (List.mem_filter.1 he).2
  case told =>
    refine ⟨d.ports[x.origin].noticeNumber, ((hlgrows.ports x.origin).queued.trans (hgrows.ports x.origin).queued).subset ?_⟩
    have hport : r.ports[x.origin] =
        d.ports[x.origin].addNotice false (.fetchFailed (x.noticeRoute f.req.seq) first f.port) := by
      rw [show r = a.notify x.origin false _ from Dev.route_online (d := a) _ ho, Dev.notify_port, if_pos rfl]
      rfl
    rw [hport, Port.addNotice, if_pos hlen]
    exact List.mem_append_right _ (List.mem_singleton.2 rfl)

/-! ## The timeout of a read (R173, R174) -/

/-- R173: the part when the read of a fetch is abandoned, and its port's timeouts are counted. -/
def Dev.readLate (f : Fetch) (d : Dev) : Dev :=
  { d with
    ports := d.ports.set f.port { d.ports[f.port] with timeouts := d.ports[f.port].timeouts + 1 }
    fetch := { d.fetch with
      timeouts := min (d.fetch.timeouts + 1) 18446744073709551615
      active := d.fetch.active.map fun a => if a.req.seq == f.req.seq then { a with reading := false } else a } }

theorem Dev.readLate_port (f : Fetch) (d : Dev) (p : PortId) :
    (d.readLate f).ports[p] = if p = f.port then { d.ports[p] with timeouts := d.ports[p].timeouts + 1 } else d.ports[p] :=
  Dev.modPort_port d f.port p fun y => { y with timeouts := y.timeouts + 1 }

theorem Dev.readLate_state (f : Fetch) (d : Dev) (p : PortId) : (d.readLate f).ports[p].state = d.ports[p].state := by
  rw [Dev.readLate_port]
  split <;> rfl

theorem Dev.fetchTimedOut_eq (f : Fetch) (d : Dev) :
    d.fetchTimedOut f =
      (if d.ports[f.port].timeouts + 1 = 3 ∧ d.ports[f.port].state = .online then
        (d.readLate f).closePort f.port .lost .fetchTimeout else d.readLate f).moveFetch f.req.seq f.port := by
  have honline : (d.readLate f).online f.port = true ↔ d.ports[f.port].state = .online := by
    rw [Dev.online_iff, Dev.readLate_state]
  simp only [← honline]
  rfl

section TimedOut

variable {d : Dev} {f : Fetch}

theorem Dev.fetchTimedOut_stays (h : d.ports[f.port].timeouts + 1 ≠ 3 ∨ d.ports[f.port].state ≠ .online) :
    d.fetchTimedOut f = (d.readLate f).moveFetch f.req.seq f.port := by
  rw [Dev.fetchTimedOut_eq, if_neg fun hc => h.elim (fun hn => hn hc.1) fun hn => hn hc.2]

theorem Dev.fetchTimedOut_next (h : d.ports[f.port].timeouts + 1 ≠ 3 ∨ d.ports[f.port].state ≠ .online) {o : PortId}
    (ho : d.nextOnline f.port = some o) :
    d.fetchTimedOut f =
      { d with
        ports := d.ports.set f.port { d.ports[f.port] with timeouts := d.ports[f.port].timeouts + 1 }
        fetch := { d.fetch with
          timeouts := min (d.fetch.timeouts + 1) 18446744073709551615, nextRead := d.fetch.nextRead + 1
          active := d.fetch.active.map fun (a : Fetch) =>
            if a.req.seq = f.req.seq then { a with port := o, started := d.now, reading := true, read := d.fetch.nextRead }
            else a } } := by
  have hnext : (d.readLate f).nextOnline f.port = some o := by
    rw [Dev.nextOnline_eq] at ho ⊢
    simp only [Dev.readLate_state]
    exact ho
  rw [Dev.fetchTimedOut_stays h, Dev.moveFetch_next hnext]
  have hmap := map_fetches f.req.seq (fun a => { a with reading := false })
    (fun a => { a with port := o, started := d.now, reading := true, read := d.fetch.nextRead }) (fun _ => rfl) d.fetch.active
  exact congrArg (fun l : List Fetch => { d.readLate f with
    fetch := { (d.readLate f).fetch with nextRead := d.fetch.nextRead + 1, active := l } }) hmap

theorem Dev.fetchTimedOut_blocked (hoff : ∀ o : PortId, d.ports[o].state ≠ .online) {x : Slot} (hx : d.slot? f.req.seq = some x) :
    d.fetchTimedOut f =
      { d with
        ports := d.ports.set f.port { d.ports[f.port] with timeouts := d.ports[f.port].timeouts + 1 }
        fetch := { d.fetch with
          timeouts := min (d.fetch.timeouts + 1) 18446744073709551615
          active := d.fetch.active.filter fun a => a.req.seq != f.req.seq }
        status := { d.status with slots := Tbl.put d.status.slots f.req.seq { x with fetchBlocked := true } }
        sites := d.sites.map fun y => { y with candidates := y.candidates.filter fun k => k.seq != f.req.seq } } := by
  have hnone : (d.readLate f).nextOnline f.port = none :=
    Dev.nextOnline_none fun o => by rw [Dev.readLate_state]; exact hoff o
  have hslot : (d.readLate f).slot? f.req.seq = some x := hx
  rw [Dev.fetchTimedOut_stays (.inr (hoff _)), Dev.moveFetch_blocked hnone hslot]
  have hfilter := filter_map_fetches f.req.seq (fun a => { a with reading := false }) (fun _ => rfl) d.fetch.active
  exact congrArg (fun l : List Fetch => { d.readLate f with
    fetch := { (d.readLate f).fetch with active := l }
    status := { d.status with slots := Tbl.put d.status.slots f.req.seq { x with fetchBlocked := true } }
    sites := d.sites.map fun (y : Site) => ({ y with candidates := y.candidates.filter fun k => k.seq != f.req.seq } : Site) }) hfilter

end TimedOut

theorem Dev.moveFetch_timeouts (d : Dev) (s : Seq) (p : PortId) : (d.moveFetch s p).fetch.timeouts = d.fetch.timeouts := by
  unfold Dev.moveFetch Dev.blockFetch
  split
  · dsimp only
    split <;> rfl
  · rfl

/-- R165: the port that closes, and the fetches that no longer read through it. -/
theorem Dev.closePort_self {d : Dev} {p : PortId} (h : d.ports[p].state = .online) {new : PortState} (hnew : new ≠ .online)
    (c : PortCause) :
    (d.closePort p new c).ports[p] = { d.ports[p] with state := new, landings := [] } ∧
      (d.closePort p new c).fetch.timeouts = d.fetch.timeouts ∧
      ∀ a ∈ (d.closePort p new c).fetch.active, a.reading = true → a.port ≠ p := by
  let e : Dev := d.modPort p fun q => { q with state := new }
  have heport : e.ports[p] = { d.ports[p] with state := new } := Dev.modPort_self _ _ _
  have hsteps : d.closePort p new c = (e.leftOnline p).portNotice p d.ports[p].state new c := by
    unfold Dev.closePort
    dsimp only
    rw [if_pos h]
  have hlport : (e.leftOnline p).ports[p] = { d.ports[p] with state := new, landings := [] } := by
    rw [Dev.leftOnline_port, if_pos rfl, heport]
  have hfetch : ((e.leftOnline p).portNotice p d.ports[p].state new c).fetch = (e.leftOnline p).fetch :=
    (congrArg Dev.fetch (Dev.broadcast_rest (e.leftOnline p) (.portState p d.ports[p].state new c)) :)
  have htimeouts : (e.leftOnline p).fetch.timeouts = d.fetch.timeouts := by
    have hreturned : (e.returnDeliveries p).fetch = d.fetch := (congrArg Dev.fetch (Dev.returnDeliveries_rest p e) :)
    exact (foldl_keeps (fun u : Dev => u.fetch.timeouts) (fun d s => d.moveFetch s p) (fun u s => u.moveFetch_timeouts s p) _
      (e.returnDeliveries p)).trans (congrArg FetchUnit.timeouts hreturned)
  rw [hsteps, hfetch]
  refine ⟨?_, htimeouts, fun a ha => Dev.leftOnline_active p e (by rw [heport]; exact hnew) a ha⟩
  rw [Dev.portNotice, Dev.broadcast_port, hlport, if_neg hnew]

/-- R173, R174: the third timeout of an ONLINE port. -/
theorem Dev.fetchTimedOut_lost {d : Dev} {f : Fetch} (hn : d.ports[f.port].timeouts + 1 = 3) (ho : d.ports[f.port].state = .online) :
    let u := d.fetchTimedOut f
    u.ports[f.port].state = .lost ∧ u.ports[f.port].timeouts = 3 ∧ u.ports[f.port].landings = [] ∧
      u.fetch.timeouts = min (d.fetch.timeouts + 1) 18446744073709551615 ∧
      (∀ a ∈ u.fetch.active, a.reading = true → a.port ≠ f.port) ∧
      ∀ p, p ≠ f.port → u.ports[p] =
        if d.ports[p].state = .online then d.ports[p].addNotice false (.portState f.port .online .lost .fetchTimeout)
        else d.ports[p] := by
  intro u
  have hstate : (d.readLate f).ports[f.port].state = .online := (d.readLate_state f f.port).trans ho
  obtain ⟨hself, htimeouts, hactive⟩ := Dev.closePort_self hstate (new := .lost) nofun .fetchTimeout
  have hother (p : PortId) (hp : p ≠ f.port) := Dev.closePort_other (d.readLate f) f.port p .lost .fetchTimeout hp
  have hu : u = ((d.readLate f).closePort f.port .lost .fetchTimeout).moveFetch f.req.seq f.port := by
    rw [show u = d.fetchTimedOut f from rfl, Dev.fetchTimedOut_eq, if_pos ⟨hn, ho⟩]
  have hlate : (d.readLate f).fetch.timeouts = min (d.fetch.timeouts + 1) 18446744073709551615 := rfl
  generalize (d.readLate f).closePort f.port .lost .fetchTimeout = e at *
  have hports : u.ports = e.ports := by
    rw [hu]
    exact (congrArg Dev.ports (Dev.moveFetch_rest f.req.seq f.port e) :)
  rw [Dev.readLate_port, if_pos rfl, hn] at hself
  have hclosed : e.ports[f.port].state ≠ .online := by rw [hself]; nofun
  rw [hports, hself]
  refine ⟨rfl, rfl, rfl, ?timeouts, fun a ha => ?active, fun p hp => ?other⟩
  case timeouts => rw [hu, Dev.moveFetch_timeouts, htimeouts, hlate]
  case active =>
    rw [hu] at ha
    obtain ⟨hport, -⟩ | ⟨hin, -⟩ := Dev.moveFetch_active f.req.seq f.port e hclosed a ha
    · exact fun _ => hport
    · exact hactive a hin
  case other => rw [hother p hp, hstate, Dev.readLate_port, if_neg hp]

end Sys2Proof.Machine

/-- Settles O53: the data of a read in time, with a right digest, a first or a second mismatch; and the read that has run out. -/
theorem payloadReadsEnd : Obligations.PayloadReadsEnd := by
  intro s q f hpow hf online next others served up number
  have hseq : f.req.seq = q := by
    have hfound := List.find?_some hf
    exact beq_iff_eq.1 hfound
  subst hseq
  refine ⟨fun t p read data => ?data, fun hreading => ?timeout⟩
  case data =>
    intro d inTime c
    have hexec : exec c s = .next { s with dev := (d.fetchDone ⟨f.req.seq, p, read⟩ data).settle } :=
      State.goOn_event hpow t (Dev.fetchDone ⟨f.req.seq, p, read⟩ data)
    have hcompletes : f.completes ⟨f.req.seq, p, read⟩ d.now data.length = true ↔ inTime := Fetch.completes_iff _ _ _ _
    have hdone : d.fetchDone ⟨f.req.seq, p, read⟩ data =
        if f.completes ⟨f.req.seq, p, read⟩ d.now data.length = true then d.fetched f data else d := by
      unfold Dev.fetchDone
      rw [show d.activeFetch f.req.seq = some f from hf]
    have hin (h : inTime) {v : Dev} (hv : d.fetched f data = v) : exec c s = .next { s with dev := v.settle } := by
      rw [hexec, hdone, if_pos (hcompletes.2 h), hv]
    refine ⟨fun h => ?late, fun h hgood => ?good, fun h hbad x hx => ⟨fun hm hr o ho => ?retried, fun first hm => ?failed⟩⟩
    case late => rw [hexec, hdone, if_neg fun hc => h (hcompletes.1 hc)]
    case good => exact hin h (Dev.fetched_good hgood)
    case retried => exact hin h (Dev.fetched_retried (d := d) hbad hx hm hr ho)
    case failed =>
      refine ⟨_, hin h (Dev.fetched_failed (d := d) hbad hx hm), ?_⟩
      obtain ⟨hfetch, hslot, hlatches, hgone, hreleased, htold⟩ := Dev.digestFailed_failed (f := f) (d := { d with
        ports := served, fetch := { s.dev.fetch with mismatches := up s.dev.fetch.mismatches } }) hx first
      have hport : ({ d with
          ports := served, fetch := { s.dev.fetch with mismatches := up s.dev.fetch.mismatches } } : Dev).ports[x.origin] =
          if x.origin = f.port then { s.dev.ports[x.origin] with timeouts := 0 } else s.dev.ports[x.origin] :=
        Dev.modPort_port s.dev f.port x.origin fun y => { y with timeouts := 0 }
      rw [hport] at htold
      refine ⟨hfetch, hslot, hlatches, hgone, hreleased, fun ho hlen => htold ?_ ?_⟩
      · split <;> exact ho
      · split <;> exact hlen
  case timeout =>
    intro d n late
    have hexec {v : Dev} (hv : d.fetchTimedOut f = v) : exec (.fetchTimeout f.req.seq) s = .next { s with dev := v.settle } := by
      have hexpiry : s.dev.fetchExpiry f.req.seq = (d.fetchTimedOut f).settle := by
        unfold Dev.fetchExpiry
        rw [show s.dev.activeFetch f.req.seq = some f from hf]
        dsimp only
        rw [if_pos hreading, Dev.expiry_running _ _ _ _ rfl hpow]
        rfl
      rw [hv] at hexpiry
      exact congrArg (fun u : Dev => Host.Outcome.next { s with dev := u }) hexpiry
    refine ⟨fun h => ⟨fun o ho => ?next, fun hoff x hx => ?blocked⟩, fun hn ho => ?lost⟩
    case next => exact hexec (Dev.fetchTimedOut_next (d := d) h ho)
    case blocked => exact hexec (Dev.fetchTimedOut_blocked (d := d) hoff hx)
    case lost =>
      obtain ⟨hstate, htimeouts, hlandings, hcount, hactive, hother⟩ := Dev.fetchTimedOut_lost (d := d) hn ho
      refine ⟨_, hexec rfl, hstate, htimeouts, hlandings, hcount, hactive, fun p hp => ?_⟩
      rw [hother p hp]
      by_cases hon : online p
      · rw [if_pos hon, if_pos (show d.ports[p].state = .online from hon)]
        exact ⟨(congrArg Port.state (Port.addNotice_same _ _ _) :), rfl⟩
      · rw [if_neg hon, if_neg (show ¬ d.ports[p].state = .online from hon)]
        exact ⟨rfl, rfl⟩

end

section
/-!
SUPPORT and settlement of O11: FENCE PORT and UNFENCE PORT (R180).
-/

open Sys2Proof Sys2Proof.Machine

namespace Sys2Proof.Machine

/-! ## A port that closes, whatever its state -/

theorem Dev.closePort_shut {d : Dev} {p : PortId} (h : d.ports[p].state ≠ .online) (new : PortState) (c : PortCause) :
    d.closePort p new c = (d.modPort p fun q => { q with state := new }).portNotice p d.ports[p].state new c := by
  unfold Dev.closePort
  dsimp only
  rw [if_neg h]

/-- R165: of the port itself, its state changes, and an ONLINE one loses its landing list. -/
theorem Dev.closePort_port (d : Dev) (p : PortId) {new : PortState} (hnew : new ≠ .online) (c : PortCause) :
    { (d.closePort p new c).ports[p] with landings := d.ports[p].landings } = { d.ports[p] with state := new } := by
  by_cases h : d.ports[p].state = .online
  · rw [(Dev.closePort_self h hnew c).1]
  · rw [Dev.closePort_shut h, Dev.portNotice, Dev.broadcast_port, Dev.modPort_self]
    rw [if_neg (show ¬ (new = .online) from hnew)]

theorem Dev.closePort_rest (d : Dev) (p : PortId) (new : PortState) (c : PortCause) :
    { d.closePort p new c with
      ports := d.ports, inbound := d.inbound, dma := d.dma, fetch := d.fetch, status := d.status, sites := d.sites } = d := by
  let e : Dev := d.modPort p fun q => { q with state := new }
  have hnotice (u : Dev) (he : { u with
      ports := d.ports, inbound := d.inbound, dma := d.dma, fetch := d.fetch, status := d.status, sites := d.sites } = d) :
      { u.portNotice p d.ports[p].state new c with
        ports := d.ports, inbound := d.inbound, dma := d.dma, fetch := d.fetch, status := d.status, sites := d.sites } = d := by
    have hrest := u.broadcast_rest (.portState p d.ports[p].state new c)
    exact (congrArg (fun v : Dev => { v with
      ports := d.ports, inbound := d.inbound, dma := d.dma, fetch := d.fetch, status := d.status, sites := d.sites }) hrest).trans he
  by_cases h : d.ports[p].state = .online
  · have hleft := e.leftOnline_rest p
    have hsteps : d.closePort p new c = (e.leftOnline p).portNotice p d.ports[p].state new c := by
      unfold Dev.closePort
      dsimp only
      rw [if_pos h]
    rw [hsteps]
    generalize e.leftOnline p = u at *
    exact hnotice u (congrArg (fun v : Dev => { v with ports := d.ports }) hleft)
  · rw [Dev.closePort_shut h]
    exact hnotice e rfl

/-! ## The port that is fenced, or no longer fenced -/

/-- R180, R167: a port that is fenced gives up its holds, and answers what it has queued with FENCED. -/
def Port.shutOut (q : Port) : Port :=
  { q with
    taken := q.taken.map fun t => { t with discard := true, holds := false }
    respQ := q.respQ ++ q.cmdQ.map fun r => ⟨kindCode r.body, .fenced, 0, r.cid, .none⟩
    cmdQ := []
    lookup := none }

/-- R180: what FENCE PORT, or UNFENCE PORT, does to the port that it names. -/
def Dev.refence (fence : Bool) (q : PortId) (d : Dev) : Dev := if fence then d.fencePort q else d.unfencePort q

/-- R180: the state in which FENCE PORT, or UNFENCE PORT, leaves a port. -/
def refencedState (fence : Bool) : PortState := if fence then .fenced else .offline

theorem refencedState_ne_online (fence : Bool) : refencedState fence ≠ .online := by cases fence <;> nofun

/-- R180: the fence mark is stored, and a port that is fenced is shut out, before its state changes. -/
def Dev.fenceStored (fence : Bool) (q : PortId) (d : Dev) : Dev :=
  Dev.modPort q (fun x => if fence then x.shutOut else x)
    { d with settings := { d.settings with portFence := d.settings.portFence.set q fence } }

theorem Dev.refence_eq (fence : Bool) (q : PortId) (d : Dev) :
    d.refence fence q = (d.fenceStored fence q).closePort q (refencedState fence) .fence := by
  cases fence with
  | true => rfl
  | false =>
    have hsame (e : Dev) : e.modPort q (fun x => if false = true then x.shutOut else x) = e := by simp [Dev.modPort]
    rw [Dev.fenceStored, hsame]
    rfl

theorem Dev.fenceStored_self (fence : Bool) (q : PortId) (d : Dev) :
    (d.fenceStored fence q).ports[q] = if fence then d.ports[q].shutOut else d.ports[q] :=
  Dev.modPort_self _ q _

theorem Dev.fenceStored_state (fence : Bool) (q : PortId) (d : Dev) :
    (d.fenceStored fence q).ports[q].state = d.ports[q].state := by
  rw [Dev.fenceStored_self]
  cases fence <;> rfl

theorem Dev.refence_rest (fence : Bool) (q : PortId) (d : Dev) :
    { d.refence fence q with
      ports := d.ports, inbound := d.inbound, dma := d.dma, fetch := d.fetch, status := d.status, sites := d.sites } =
    { d with settings := { d.settings with portFence := d.settings.portFence.set q fence } } := by
  have hrest := (d.fenceStored fence q).closePort_rest q (refencedState fence) .fence
  rw [Dev.refence_eq]
  exact (congrArg (fun u : Dev => { u with ports := d.ports }) hrest)

theorem Dev.refence_self (fence : Bool) (q : PortId) (d : Dev) :
    { (d.refence fence q).ports[q] with landings := d.ports[q].landings } =
      { if fence then d.ports[q].shutOut else d.ports[q] with state := refencedState fence, landings := d.ports[q].landings } := by
  have hport := (d.fenceStored fence q).closePort_port q (refencedState_ne_online fence) .fence
  rw [Dev.fenceStored_self] at hport
  rw [Dev.refence_eq]
  exact congrArg (fun x : Port => { x with landings := d.ports[q].landings }) hport

/-- R165: the other ports that are ONLINE are told of the change. -/
theorem Dev.refence_other (fence : Bool) {q k : PortId} (h : k ≠ q) (d : Dev) :
    (d.refence fence q).ports[k] =
      if d.ports[k].state = .online then
        d.ports[k].addNotice false (.portState q d.ports[q].state (refencedState fence) .fence)
      else d.ports[k] := by
  have hport : (d.fenceStored fence q).ports[k] = d.ports[k] := Dev.modPort_other _ q k _ h
  rw [Dev.refence_eq, Dev.closePort_other _ _ _ _ _ h, hport, Dev.fenceStored_state]

/-! ## The commands -/

/-- R180: the port is in a state that the command changes. -/
abbrev PortState.Refences (fence : Bool) (st : PortState) : Prop := if fence then st ≠ .fenced else st = .fenced

/-- FENCE PORT and UNFENCE PORT as command bodies. -/
def refenceBody (fence : Bool) (n : Nat) : CmdBody := if fence then .fencePort n else .unfencePort n

theorem portOf_val (q : PortId) : portOf q.val = some q := dif_pos q.isLt

theorem portOf_of_gt {n : Nat} (h : 3 < n) : portOf n = none := dif_neg (by omega)

theorem Dev.act_refence (d : Dev) (tok : Tok) (fence : Bool) (n : Nat) :
    d.act tok .none (refenceBody fence n) =
      d.portCommand tok n (fun st => decide (st.Refences fence)) (Dev.refence fence) := by
  cases fence with
  | true =>
    have hok : (fun st : PortState => st != .fenced) = fun st => decide (st.Refences true) := by
      funext st
      cases st <;> rfl
    exact congrArg (fun ok => d.portCommand tok n ok Dev.fencePort) hok
  | false =>
    have hok : (fun st : PortState => st == .fenced) = fun st => decide (st.Refences false) := by
      funext st
      cases st <;> rfl
    exact congrArg (fun ok => d.portCommand tok n ok Dev.unfencePort) hok

section PortCommand

variable {d : Dev} {tok : Tok} {ok : PortState → Bool} {effect : PortId → Dev → Dev}

theorem Dev.portCommand_badField {n : Nat} (h : 3 < n ∨ n = tok.port.val) :
    d.portCommand tok n ok effect = d.refuse tok .badField := by
  rcases h with h | rfl
  · rw [Dev.portCommand, portOf_of_gt h]
  · rw [Dev.portCommand, portOf_val]
    exact if_pos rfl

theorem Dev.portCommand_wrongState {q : PortId} (hq : q ≠ tok.port) (h : ok d.ports[q].state = false) :
    d.portCommand tok q.val ok effect = d.refuse tok .wrongState := by
  rw [Dev.portCommand, portOf_val]
  exact (if_neg hq).trans (if_neg (by rw [h]; nofun))

theorem Dev.portCommand_changes {q : PortId} (hq : q ≠ tok.port) (h : ok d.ports[q].state = true) :
    d.portCommand tok q.val ok effect = (effect q d).raiseSettings tok .done := by
  rw [Dev.portCommand, portOf_val]
  exact (if_neg hq).trans (if_pos h)

end PortCommand

theorem exec_refence (s : State) (t : Time) (p : PortId) (cid : Word32) (n : Nat) (fence : Bool) :
    exec (if fence then .fencePort t p cid n else .unfencePort t p cid n) s =
      s.goOn (Dev.posted t p cid (refenceBody fence n)) := by
  cases fence <;> rfl

theorem kindCode_refenceBody (fence : Bool) (n : Nat) : kindCode (refenceBody fence n) = if fence then 30 else 31 := by
  cases fence <;> rfl

/-- R180: the command that is granted, and the part that it leaves. -/
theorem Dev.posted_refence {s : State} {t : Time} {p q : PortId} {cid : Word32} {fence : Bool} (hup : s.dev.up)
    (hf : s.dev.portFree p) (hi : s.dev.intakeFree) (hs : s.dev.canPlace 1536) (hq : q ≠ p)
    (hst : s.dev.ports[q].state.Refences fence) :
    let c : Settings := { s.dev.settings with portFence := s.dev.settings.portFence.set q fence }
    let e : Dev := (s.dev.tick t).grantTaken p ⟨cid, refenceBody fence q.val⟩
    s.goOn (Dev.posted t p cid (refenceBody fence q.val)) =
      .next { s with dev :=
        ((e.refence fence q).withRecords (s.dev.nextTok p) .done
          ((s.dev.tick t).place ⟨.settings c, some (s.dev.nextTok p)⟩).1.journal).settle } := by
  intro c e
  have hstate : e.ports[q].state = s.dev.ports[q].state :=
    (congrArg Port.state (Dev.grantTaken_port (d := s.dev.tick t) ⟨cid, refenceBody fence q.val⟩ hf.2 q) :)
  have hrest := e.refence_rest fence q
  have hact : e.act (s.dev.nextTok p) .none (refenceBody fence q.val) =
      (e.refence fence q).raiseSettings (s.dev.nextTok p) .done := by
    rw [Dev.act_refence]
    exact Dev.portCommand_changes hq (by rw [hstate]; exact decide_eq_true hst)
  have hold : { e with nextToken := s.dev.nextToken, ports := s.dev.ports, intake := s.dev.intake } = s.dev.tick t := rfl
  change e.act (s.dev.nextTok p) .none (refenceBody fence q.val) = _ at hact
  generalize e.refence fence q = u at *
  have hsettings : u.settings = c := (congrArg Dev.settings hrest :)
  have hraise : u.raiseSettings (s.dev.nextTok p) .done = u.raiseOwn (s.dev.nextTok p) .done [.settings c] :=
    congrArg (fun c : Settings => u.raiseOwn (s.dev.nextTok p) .done [.settings c]) hsettings
  have hlike : u.PlacesAs (s.dev.tick t) :=
    ⟨(congrArg Dev.part hrest :), (congrArg Dev.journal hrest :), (congrArg Dev.array hrest :), (congrArg Dev.now hrest :),
      (congrArg Settings.commitDelay hsettings :)⟩
  exact Dev.posted_placed hup hf hi (by cases fence <;> rfl) (by cases fence <;> nofun) hs (hact.trans hraise) hlike

end Sys2Proof.Machine

/-- Settles O11: both commands are one rule over the fence mark, which ends in a change of the port's state. -/
theorem fencePortAndUnfencePort : Obligations.FencePortAndUnfencePort := by
  constructor
  · intro s t p q cid fence hup hf hi hs hq hst c
    have hnext := Dev.posted_refence (t := t) (cid := cid) hup hf hi hs hq hst
    obtain ⟨e, he⟩ : ∃ e : Dev, e = (s.dev.tick t).grantTaken p ⟨cid, refenceBody fence q.val⟩ := ⟨_, rfl⟩
    have hport (k : PortId) : { e.ports[k] with taken := s.dev.ports[k].taken } = s.dev.ports[k] :=
      he ▸ Dev.grantTaken_port (d := s.dev.tick t) _ hf.2 k
    have htaken : e.ports[p].taken = [{ id := s.dev.nextToken, cid := cid, kind := if fence then 30 else 31 }] := by
      have h := Dev.grantTaken_taken (d := s.dev.tick t) ⟨cid, refenceBody fence q.val⟩ hf.2
      rw [kindCode_refenceBody] at h
      exact he ▸ h
    have hsettings : e.settings = s.dev.settings := he ▸ rfl
    have hintake : e.intake = { s.dev.intake with last := p } := he ▸ rfl
    have hself := e.refence_self fence q
    have hother (k : PortId) (hk : k ≠ q) := e.refence_other fence hk
    have hrest := e.refence_rest fence q
    dsimp only at hnext
    rw [← he] at hnext
    have hstate (k : PortId) : e.ports[k].state = s.dev.ports[k].state := (congrArg Port.state (hport k) :)
    have hresp (k : PortId) : e.ports[k].respQ = s.dev.ports[k].respQ := (congrArg Port.respQ (hport k) :)
    have hcmd : e.ports[q].cmdQ = [] := (congrArg Port.cmdQ (hport q) :).trans (hi.2.2 q)
    have honline : e.ports[p].state = .online := (hstate p).trans hf.1
    generalize e.refence fence q = u at *
    have hp : u.ports[p] = _ := (hother p (Ne.symm hq)).trans (if_pos honline)
    have hcont (k : PortId) := u.setCont_port (s.dev.nextTok p) .done k
    have hnamed : (u.setCont (s.dev.nextTok p) .done).ports[q] = u.ports[q] := Dev.modPort_other _ p q _ hq
    rw [exec_refence]
    refine ⟨_, hnext, ?settings, ?state, ?discards, ?taken, rfl, ?intake, ?notice, fun k => ?resp⟩
    case settings =>
      have hmark : u.settings = { e.settings with portFence := e.settings.portFence.set q fence } := (congrArg Dev.settings hrest :)
      exact hmark.trans (congrArg (fun v : Settings => { v with portFence := v.portFence.set q fence }) hsettings)
    case state => exact (congrArg Port.state hnamed :).trans (congrArg Port.state hself :)
    case discards =>
      rintro rfl x hx
      have htakens : u.ports[q].taken = e.ports[q].taken.map fun t => { t with discard := true, holds := false } :=
        (congrArg Port.taken hself :)
      replace hx : x ∈ (u.setCont (s.dev.nextTok p) .done).ports[q].taken := hx
      rw [hnamed, htakens] at hx
      obtain ⟨y, _, rfl⟩ := List.mem_map.1 hx
      exact ⟨rfl, rfl⟩
    case taken =>
      refine Dev.setCont_taken (x := { id := s.dev.nextToken, cid := cid, kind := if fence then 30 else 31 }) .done ?_
      rw [hp]
      exact (congrArg Port.taken (Port.addNotice_same _ _ _) :).trans htaken
    case intake =>
      have h : u.intake = e.intake := (congrArg Dev.intake hrest :)
      exact congrArg (fun i : Intake => { i with grant := none }) (h.trans hintake)
    case notice =>
      refine (congrArg Port.noticeQ (hcont p) :).trans ?_
      rw [hp, hstate]
      have hqueue : e.ports[p].noticeQ = s.dev.ports[p].noticeQ := (congrArg Port.noticeQ (hport p) :)
      have hnumber : e.ports[p].noticeNumber = s.dev.ports[p].noticeNumber := (congrArg Port.noticeNumber (hport p) :)
      exact Port.addNotice_noticeQ_congr hqueue hnumber _ _
    case resp =>
      refine (congrArg Port.respQ (hcont k) :).trans ?_
      by_cases hk : k = q
      · subst hk
        refine (congrArg Port.respQ hself :).trans (Eq.trans ?_ (hresp k))
        cases fence with
        | true =>
          show e.ports[k].respQ ++ e.ports[k].cmdQ.map _ = _
          rw [hcmd, List.map_nil, List.append_nil]
        | false => rfl
      · rw [hother k hk, ← hresp k]
        split
        · exact (congrArg Port.respQ (Port.addNotice_same _ _ _) :)
        · rfl
  · intro s t p cid n fence hup hf hi answer
    have harbiter : usesArbiter (refenceBody fence n) = true := by cases fence <;> rfl
    have hanswer (st : Status) (h : ((s.dev.tick t).grantTaken p ⟨cid, refenceBody fence n⟩).portCommand (s.dev.nextTok p) n
        (fun st => decide (st.Refences fence)) (Dev.refence fence) =
          ((s.dev.tick t).grantTaken p ⟨cid, refenceBody fence n⟩).refuse (s.dev.nextTok p) st) :
        exec (if fence then .fencePort t p cid n else .unfencePort t p cid n) s = answer st := by
      rw [exec_refence, Dev.posted_answered hup hf hi harbiter (by cases fence <;> nofun) ((Dev.act_refence _ _ _ _).trans h),
        kindCode_refenceBody]
    refine ⟨fun h => hanswer _ (Dev.portCommand_badField h), fun q hn hq hst => ?_⟩
    subst hn
    refine hanswer _ (Dev.portCommand_wrongState hq ?_)
    have hstate : ((s.dev.tick t).grantTaken p ⟨cid, refenceBody fence q.val⟩).ports[q].state = s.dev.ports[q].state :=
      (congrArg Port.state (Dev.grantTaken_port (d := s.dev.tick t) ⟨cid, refenceBody fence q.val⟩ hf.2 q) :)
    rw [hstate]
    refine decide_eq_false ?_
    cases fence with
    | true => exact fun h => h hst
    | false => exact hst

end

section
/-!
SUPPORT of O9: ATTACH PORT (R69, R165, R178).
-/

open Sys2Proof Sys2Proof.Machine

namespace Sys2Proof.Machine

/-! ## A command that an idle port takes, in whatever state the port is -/

theorem answerOf_attach {st : PortState} (h : st = .offline ∨ st = .lost) : answerOf .ready st .attachPort = .acts := by
  rcases h with rfl | rfl <;> rfl

/-! ## The intents that are FETCH-BLOCKED no longer (R165, R69) -/

/-- R69: what a site keeps when its cursor is lowered to an intent. -/
def Site.lower (s : Seq) (x : Site) : Site :=
  { x with cursor := min x.cursor s, candidates := x.candidates.filter fun k => decide (k.seq < min x.cursor s) }

theorem Site.lower_lower (s : Seq) (x : Site) : (x.lower s).lower s = x.lower s := by
  simp [Site.lower, List.filter_filter]

/-- R69: a cursor lowered to several intents is at the lowest of them. -/
theorem Site.foldl_lower (l : List Seq) (x : Site) (h : l ≠ []) :
    ∃ c, (c = x.cursor ∨ c ∈ l) ∧ c ≤ x.cursor ∧ (∀ q ∈ l, c ≤ q) ∧
      l.foldl (fun x s => x.lower s) x =
        { x with cursor := c, candidates := x.candidates.filter fun k => decide (k.seq < c) } := by
  induction l generalizing x with
  | nil => exact absurd rfl h
  | cons s t ih =>
    rw [List.foldl_cons]
    have hcursor : min x.cursor s = x.cursor ∨ min x.cursor s = s :=
      (Nat.le_total x.cursor s).imp Nat.min_eq_left Nat.min_eq_right
    by_cases ht : t = []
    · subst ht
      exact ⟨min x.cursor s, hcursor.imp_right List.mem_singleton.2, Nat.min_le_left _ _,
        fun q hq => List.mem_singleton.1 hq ▸ Nat.min_le_right _ _, rfl⟩
    · obtain ⟨c, hc, hle, hlow, hfold⟩ := ih (x.lower s) ht
      have hle' : c ≤ min x.cursor s := hle
      refine ⟨c, ?_, hle'.trans (Nat.min_le_left _ _), ?_, ?_⟩
      · rcases hc with hc | hc
        · have hmin : c = min x.cursor s := hc
          exact hcursor.imp hmin.trans fun h => List.mem_cons.2 (.inl (hmin.trans h))
        · exact .inr (List.mem_cons_of_mem _ hc)
      · intro q hq
        rcases List.mem_cons.1 hq with rfl | hq
        · exact hle'.trans (Nat.min_le_right _ _)
        · exact hlow q hq
      · rw [hfold]
        have hcand : ((x.candidates.filter fun k => decide (k.seq < min x.cursor s)).filter fun k => decide (k.seq < c)) =
            x.candidates.filter fun k => decide (k.seq < c) := by
          rw [List.filter_filter]
          refine List.filter_congr fun k _ => ?_
          rw [Bool.and_eq_left_iff_imp, decide_eq_true_eq, decide_eq_true_eq]
          exact fun hk => Nat.lt_of_lt_of_le hk hle'
        exact congrArg (fun l : List Candidate => { x with cursor := c, candidates := l }) hcand

/-- R69: the intent is dispatchable by its mark at the slot. -/
def Slot.offersTo (x : Slot) (j : SlotId) : Bool := x.marks.any fun e => e.2 == .pending && e.1 == j

theorem Slot.offersTo_iff (x : Slot) (j : SlotId) : x.offersTo j = true ↔ (j, Mark.pending) ∈ x.marks := by
  rw [Slot.offersTo, List.any_eq_true]
  constructor
  · rintro ⟨⟨k, m⟩, hmem, heq⟩
    rw [Bool.and_eq_true, beq_iff_eq, beq_iff_eq] at heq
    obtain ⟨rfl, rfl⟩ : m = .pending ∧ k = j := heq
    exact hmem
  · exact fun h => ⟨_, h, by simp⟩

theorem Dev.foldl_lowerCursor_site (s : Seq) (l : List (SlotId × Mark)) (d : Dev) (j : SlotId) :
    (l.foldl (fun d e => d.lowerCursor e.1 s) d).sites[j] =
      if l.any (fun e => e.1 == j) then d.sites[j].lower s else d.sites[j] := by
  induction l generalizing d with
  | nil => rfl
  | cons e t ih =>
    have hstep : (d.lowerCursor e.1 s).sites[j] = if j = e.1 then d.sites[j].lower s else d.sites[j] := Dev.modSite_site _ _ _ _
    rw [List.foldl_cons, ih, hstep]
    by_cases he : j = e.1
    · subst he
      simp [Site.lower_lower]
    · have hne : (e.1 == j) = false := beq_false_of_ne (Ne.symm he)
      rw [if_neg he, List.any_cons, hne, Bool.false_or]

theorem Dev.offer_lowers {d : Dev} {s : Seq} {x : Slot} (h : d.slot? s = some x) (j : SlotId) :
    (d.offer s).sites[j] = if x.offersTo j then d.sites[j].lower s else d.sites[j] := by
  unfold Dev.offer
  rw [h]
  refine (Dev.foldl_lowerCursor_site s _ d j).trans ?_
  rw [List.any_filter]
  rfl

/-- R69: an intent of the table that is dispatchable at the slot. -/
def Dev.offers (d : Dev) (j : SlotId) (s : Seq) : Bool := (d.slot? s).any (·.offersTo j)

theorem Dev.unblock_site (d : Dev) (s : Seq) (j : SlotId) :
    (d.unblock s).sites[j] = if d.offers j s then d.sites[j].lower s else d.sites[j] := by
  unfold Dev.unblock Dev.offers
  cases h : d.slot? s with
  | none => rfl
  | some x =>
    have hslot : (d.putSlot s { x with fetchBlocked := false }).slot? s = some { x with fetchBlocked := false } := by
      rw [Dev.putSlot_slot, if_pos rfl]
    exact Dev.offer_lowers hslot j

theorem Dev.unblock_offers (d : Dev) (s : Seq) (j : SlotId) (q : Seq) : (d.unblock s).offers j q = d.offers j q := by
  unfold Dev.offers
  rw [Dev.unblock_slot]
  split
  · cases d.slot? q <;> rfl
  · rfl

theorem Dev.foldl_unblock_site (l : List Seq) (d : Dev) (j : SlotId) :
    (l.foldl Dev.unblock d).sites[j] = (l.filter (d.offers j)).foldl (fun x s => x.lower s) d.sites[j] := by
  induction l generalizing d with
  | nil => rfl
  | cons s t ih =>
    have hsame : (d.unblock s).offers j = d.offers j := funext (d.unblock_offers s j)
    rw [List.foldl_cons, ih, hsame, Dev.unblock_site]
    cases h : d.offers j s <;> simp [h]

/-- R165: the intents that hold FETCH-BLOCKED and wait at the slot. -/
def Dev.frees (d : Dev) (j : SlotId) (q : Seq) : Prop :=
  ∃ x, d.slot? q = some x ∧ x.fetchBlocked = true ∧ (j, Mark.pending) ∈ x.marks

/-- R165: the intents that hold FETCH-BLOCKED. -/
def Dev.blockedSeqs (d : Dev) : List Seq := d.status.slots.filterMap fun e => if e.2.fetchBlocked then some e.1 else none

theorem Dev.mem_blockedSeqs {d : Dev} (h : Tbl.ascending d.status.slots = true) (q : Seq) :
    q ∈ d.blockedSeqs ↔ ∃ x, d.slot? q = some x ∧ x.fetchBlocked = true := by
  unfold Dev.blockedSeqs
  rw [List.mem_filterMap]
  constructor
  · rintro ⟨⟨k, x⟩, hmem, heq⟩
    dsimp only at heq
    split at heq
    · next hb =>
      cases heq
      exact ⟨x, Tbl.get_of_mem h hmem, hb⟩
    · cases heq
  · rintro ⟨x, hx, hb⟩
    exact ⟨(q, x), Tbl.get_mem hx, if_pos hb⟩

theorem Dev.unblockFetches_lowers {d : Dev} (h : Tbl.ascending d.status.slots = true) (j : SlotId) :
    ((¬ ∃ q, d.frees j q) → d.unblockFetches.sites[j] = d.sites[j]) ∧
      ((∃ q, d.frees j q) →
        ∃ c, (c = d.sites[j].cursor ∨ d.frees j c) ∧ c ≤ d.sites[j].cursor ∧ (∀ q, d.frees j q → c ≤ q) ∧
          d.unblockFetches.sites[j] =
            { d.sites[j] with cursor := c, candidates := d.sites[j].candidates.filter fun k => decide (k.seq < c) }) := by
  have hmem (q : Seq) : q ∈ d.blockedSeqs.filter (d.offers j) ↔ d.frees j q := by
    rw [List.mem_filter, Dev.mem_blockedSeqs h]
    constructor
    · rintro ⟨⟨x, hx, hb⟩, ho⟩
      rw [Dev.offers, hx] at ho
      exact ⟨x, hx, hb, (x.offersTo_iff j).1 ho⟩
    · rintro ⟨x, hx, hb, hp⟩
      refine ⟨⟨x, hx, hb⟩, ?_⟩
      rw [Dev.offers, hx]
      exact (x.offersTo_iff j).2 hp
  have hsite : d.unblockFetches.sites[j] = (d.blockedSeqs.filter (d.offers j)).foldl (fun x s => x.lower s) d.sites[j] :=
    Dev.foldl_unblock_site d.blockedSeqs d j
  rw [hsite]
  refine ⟨fun hnone => ?_, fun ⟨q, hq⟩ => ?_⟩
  · rw [List.eq_nil_iff_forall_not_mem.2 fun q hq => hnone ⟨q, (hmem q).1 hq⟩]
    rfl
  · obtain ⟨c, hc, hle, hlow, hfold⟩ := Site.foldl_lower _ d.sites[j] (List.ne_nil_of_mem ((hmem q).2 hq))
    exact ⟨c, hc.imp_right (hmem c).1, hle, fun k hk => hlow k ((hmem k).2 hk), hfold⟩

/-! ## The port that opens (R165, R178) -/

/-- R178: what the port that opens is told. -/
def Dev.openNotices (d : Dev) (p : PortId) : List NoticeBody :=
  let change : NoticeBody := .portState p d.ports[p].state .online .command
  if d.retentionLost = true ∧ d.settings.masks[p].getLsbD FaultKind.retentionLost.index = true then
    [d.startNotice, .fault .retentionLost .part, change]
  else [d.startNotice, change]

/-- R165: the part before the change of the port's state is told. -/
def Dev.opened (p : PortId) (d : Dev) : Dev :=
  let e := (d.modPort p fun q => { q with state := .online, timeouts := 0 }).unblockFetches.notify p false d.startNotice
  if d.retentionLost = true ∧ d.settings.masks[p].getLsbD FaultKind.retentionLost.index = true then
    e.notify p false (.fault .retentionLost .part)
  else e

theorem Dev.openPort_eq (p : PortId) (d : Dev) :
    d.openPort p = (d.opened p).portNotice p d.ports[p].state .online .command := by
  let e : Dev := d.modPort p fun q => { q with state := .online, timeouts := 0 }
  have hrest := e.unblockFetches_rest
  have hstart : e.startNotice = d.startNotice := rfl
  have hlost : (e.unblockFetches.notify p false d.startNotice).retentionLost = d.retentionLost := (congrArg Dev.retentionLost hrest :)
  have hsettings : (e.unblockFetches.notify p false d.startNotice).settings = d.settings := (congrArg Dev.settings hrest :)
  have hsteps : d.openPort p = Dev.portNotice p d.ports[p].state .online .command
      (if (e.unblockFetches.notify p false e.startNotice).retentionLost &&
          (e.unblockFetches.notify p false e.startNotice).settings.masks[p].getLsbD FaultKind.retentionLost.index then
        (e.unblockFetches.notify p false e.startNotice).notify p false (.fault .retentionLost .part)
      else e.unblockFetches.notify p false e.startNotice) := rfl
  rw [hsteps, hstart, hlost, hsettings]
  refine congrArg (Dev.portNotice p d.ports[p].state .online .command) ?_
  exact if_congr (by rw [Bool.and_eq_true]) rfl rfl

theorem Dev.opened_rest (p : PortId) (d : Dev) :
    { d.opened p with ports := d.ports, sites := d.sites, status := d.status } = d := by
  have hrest := (d.modPort p fun q => { q with state := .online, timeouts := 0 }).unblockFetches_rest
  unfold Dev.opened
  dsimp only
  split <;> exact congrArg (fun e : Dev => { e with ports := d.ports }) hrest

theorem Dev.opened_tables (p : PortId) (d : Dev) :
    (d.opened p).status = (d.modPort p fun q => { q with state := .online, timeouts := 0 }).unblockFetches.status ∧
      (d.opened p).sites = (d.modPort p fun q => { q with state := .online, timeouts := 0 }).unblockFetches.sites := by
  unfold Dev.opened
  dsimp only
  split <;> exact ⟨rfl, rfl⟩

theorem Dev.unblockFetches_ports (d : Dev) : d.unblockFetches.ports = d.ports :=
  (congrArg Dev.ports d.unblockFetches_rest :)

theorem Dev.opened_other {p q : PortId} (h : q ≠ p) (d : Dev) : (d.opened p).ports[q] = d.ports[q] := by
  have hport : (d.modPort p fun q => { q with state := .online, timeouts := 0 }).unblockFetches.ports[q] = d.ports[q] := by
    rw [Dev.unblockFetches_ports, Dev.modPort_other _ _ _ _ h]
  unfold Dev.opened
  dsimp only
  split <;> simp only [Dev.notify_port, if_neg h, hport]

theorem Dev.opened_self (p : PortId) (d : Dev) :
    (d.openNotices p).foldl (fun q b => q.addNotice false b) { d.ports[p] with state := .online, timeouts := 0 } =
      (d.opened p).ports[p].addNotice false (.portState p d.ports[p].state .online .command) := by
  have hport : (d.modPort p fun q => { q with state := .online, timeouts := 0 }).unblockFetches.ports[p] =
      { d.ports[p] with state := .online, timeouts := 0 } := by
    rw [Dev.unblockFetches_ports, Dev.modPort_self]
  unfold Dev.openNotices Dev.opened
  dsimp only
  split <;> simp only [Dev.notify_port, hport, List.foldl_cons, List.foldl_nil, if_true]

theorem Port.foldl_addNotice_same (l : List NoticeBody) (q : Port) :
    q.SameButNotices (l.foldl (fun q b => q.addNotice false b) q) := by
  induction l generalizing q with
  | nil => rfl
  | cons b t ih => exact (q.addNotice_same false b).trans (ih _)

/-- R169: what a port has taken does not matter for its notices. -/
theorem Port.foldl_addNotice_taken (l : List NoticeBody) (q : Port) (x : List Taken) :
    l.foldl (fun q b => q.addNotice false b) { q with taken := x } =
      { l.foldl (fun q b => q.addNotice false b) q with taken := x } := by
  induction l generalizing q with
  | nil => rfl
  | cons b t ih =>
    have hstep : Port.addNotice false b { q with taken := x } = { q.addNotice false b with taken := x } := by
      unfold Port.addNotice
      dsimp only
      split <;> rfl
    rw [List.foldl_cons, List.foldl_cons, hstep, ih]

theorem Dev.openPort_self (p : PortId) (d : Dev) :
    (d.openPort p).ports[p] =
      (d.openNotices p).foldl (fun q b => q.addNotice false b) { d.ports[p] with state := .online, timeouts := 0 } := by
  have honline : (d.opened p).ports[p].state = .online := by
    have hlast := (d.opened p).ports[p].addNotice_same false (.portState p d.ports[p].state .online .command)
    have hall := Port.foldl_addNotice_same (d.openNotices p) { d.ports[p] with state := .online, timeouts := 0 }
    rw [Dev.opened_self] at hall
    exact (congrArg Port.state hlast :).symm.trans (congrArg Port.state hall :)
  rw [Dev.openPort_eq, Dev.portNotice, Dev.broadcast_port, if_pos honline, Dev.opened_self]

theorem Dev.openPort_other {p q : PortId} (h : q ≠ p) (d : Dev) :
    (d.openPort p).ports[q] =
      if d.ports[q].state = .online then d.ports[q].addNotice false (.portState p d.ports[p].state .online .command)
      else d.ports[q] := by
  rw [Dev.openPort_eq, Dev.portNotice, Dev.broadcast_port, Dev.opened_other h]

theorem Dev.openPort_rest (p : PortId) (d : Dev) :
    { d.openPort p with ports := d.ports, sites := d.sites, status := d.status } = d := by
  have hopened := d.opened_rest p
  have hnotice := (d.opened p).broadcast_rest (.portState p d.ports[p].state .online .command)
  rw [Dev.openPort_eq, Dev.portNotice]
  exact (congrArg (fun e : Dev => { e with ports := d.ports, sites := d.sites, status := d.status }) hnotice).trans hopened

theorem Dev.openPort_tables (p : PortId) (d : Dev) :
    (d.openPort p).status = (d.modPort p fun q => { q with state := .online, timeouts := 0 }).unblockFetches.status ∧
      (d.openPort p).sites = (d.modPort p fun q => { q with state := .online, timeouts := 0 }).unblockFetches.sites := by
  obtain ⟨hstatus, hsites⟩ := d.opened_tables p
  have hnotice := (d.opened p).broadcast_rest (.portState p d.ports[p].state .online .command)
  rw [Dev.openPort_eq, Dev.portNotice]
  exact ⟨(congrArg Dev.status hnotice :).trans hstatus, (congrArg Dev.sites hnotice :).trans hsites⟩

theorem Dev.openPort_latchedFaults (p : PortId) (d : Dev) : (d.openPort p).latchedFaults = d.latchedFaults := by
  have hrest := d.openPort_rest p
  obtain ⟨_, hsites⟩ := d.openPort_tables p
  have hself := d.openPort_self p
  have hother (q : PortId) (h : q ≠ p) := d.openPort_other h
  have hsite (j : SlotId) := (d.modPort p fun q => { q with state := .online, timeouts := 0 }).unblockFetches_site j
  rw [← hsites] at hsite
  generalize d.openPort p = e at *
  refine Dev.latchedFaults_congr (congrArg Dev.settings hrest :) (congrArg Dev.journalMedia hrest :)
    (congrArg Dev.retentionLost hrest :) (fun q => ?_) fun j => (congrArg Site.flags (hsite j) :)
  by_cases h : q = p
  · subst h
    have hsame := Port.foldl_addNotice_same (d.openNotices q) { d.ports[q] with state := .online, timeouts := 0 }
    rw [← hself] at hsame
    exact (congrArg Port.overrun hsame :)
  · have hport := hother q h
    split at hport
    · have hsame := d.ports[q].addNotice_same false (.portState p d.ports[p].state .online .command)
      rw [← hport] at hsame
      exact (congrArg Port.overrun hsame :)
    · rw [hport]

end Sys2Proof.Machine
end

section
/-!
SUPPORT and settlement of O9: ATTACH PORT and DETACH PORT (R165, R173, R174, R178, R179).
-/

open Sys2Proof Sys2Proof.Machine

namespace Sys2Proof.Machine

/-! ## ATTACH PORT -/

theorem Dev.posted_attach {s : State} {t : Time} {p : PortId} (cid : Word32) (hup : s.dev.up) (hidle : s.dev.portIdle p)
    (hst : s.dev.ports[p].state = .offline ∨ s.dev.ports[p].state = .lost) :
    s.goOn (Dev.posted t p cid .attachPort) =
      .next { s with dev := (((s.dev.tick t).take p ⟨cid, .attachPort⟩ []).actAttachPort (s.dev.nextTok p)).settle } := by
  obtain ⟨hpow, hready⟩ := hup
  have hanswer : answerOf (s.dev.tick t).part (s.dev.tick t).ports[p].state .attachPort = .acts := by
    rw [show (s.dev.tick t).part = .ready from hready]
    exact answerOf_attach hst
  rw [State.goOn_next]
  unfold Dev.posted
  rw [Dev.event_powered _ _ _ hpow, Dev.postCommand_taken (d := s.dev.tick t) (r := ⟨cid, .attachPort⟩) hidle
    (by rw [show (s.dev.tick t).part = .ready from hready]; nofun) hanswer]
  rfl

theorem Dev.actAttachPort_online {d : Dev} {tok : Tok} (h : d.ports[tok.port].state = .online) :
    d.actAttachPort tok = d.refuse tok .wrongState := if_pos ((d.online_iff tok.port).2 h)

theorem Dev.actAttachPort_opens {d : Dev} {p : PortId} (n : Nat) (h : d.ports[p].state ≠ .online) :
    d.actAttachPort ⟨p, n⟩ = (d.openPort p).answer ⟨p, n⟩ .done 0 (d.openPort p).attachReport :=
  if_neg ((d.online_iff p).not.2 h)

theorem Dev.openPort_attachReport (p : PortId) (d : Dev) :
    (d.openPort p).attachReport = .attach d.power.kind d.power.startCount d.settings.localSite d.latchedFaults := by
  have hrest := d.openPort_rest p
  have hfaults := d.openPort_latchedFaults p
  unfold Dev.attachReport
  generalize d.openPort p = e at *
  rw [hfaults, show e.power = d.power from (congrArg Dev.power hrest :), show e.settings = d.settings from (congrArg Dev.settings hrest :)]

/-- R178: the port that opens by its own command, when it has been answered. -/
theorem Dev.attached_self {d : Dev} {p : PortId} {cid : Word32} (hidle : d.portIdle p) (b : RespBody) :
    (((d.take p ⟨cid, .attachPort⟩ []).openPort p).answer (d.nextTok p) .done 0 b).ports[p] =
      { (d.openNotices p).foldl (fun q b => q.addNotice false b) { d.ports[p] with state := .online, timeouts := 0 } with
        respQ := d.ports[p].respQ ++ [⟨28, .done, 0, cid, b⟩] } := by
  obtain ⟨hcmd, htaken, hlookup, _⟩ := hidle
  let x : Taken := { id := d.nextToken, cid := cid, kind := 28 }
  let e : Dev := d.take p ⟨cid, .attachPort⟩ []
  have hport : ({ e.ports[p] with state := .online, timeouts := 0 } : Port) =
      { { d.ports[p] with state := .online, timeouts := 0 } with taken := [x] } := by
    rw [Dev.take_port_self, htaken, ← hcmd, ← hlookup]
    rfl
  have hnotices : e.openNotices p = d.openNotices p := by
    have hstate : e.ports[p].state = d.ports[p].state := by rw [Dev.take_port_self]
    rw [Dev.openNotices, hstate]
    rfl
  have hsame := Port.foldl_addNotice_same (d.openNotices p) { d.ports[p] with state := .online, timeouts := 0 }
  have hopened := e.openPort_self p
  rw [hnotices, hport, Port.foldl_addNotice_taken] at hopened
  generalize (d.openNotices p).foldl (fun q b => q.addNotice false b) { d.ports[p] with state := .online, timeouts := 0 } = y at *
  have hnone : y.taken = [] := (congrArg Port.taken hsame :).trans htaken
  have hresp : y.respQ = d.ports[p].respQ := (congrArg Port.respQ hsame :)
  have hone : (e.openPort p).ports[p].taken = [x] := by rw [hopened]
  show ((e.openPort p).answer ⟨p, x.id⟩ .done 0 b).ports[p] = _
  rw [Dev.answer_only x .done 0 b hone rfl, Dev.modPort_self, hopened, hresp, ← hnone]

theorem Dev.attached_other {d : Dev} {p q : PortId} {cid : Word32} (h : q ≠ p) (b : RespBody) :
    (((d.take p ⟨cid, .attachPort⟩ []).openPort p).answer (d.nextTok p) .done 0 b).ports[q] =
      if d.ports[q].state = .online then d.ports[q].addNotice false (.portState p d.ports[p].state .online .command)
      else d.ports[q] := by
  have hport : (d.take p ⟨cid, .attachPort⟩ []).ports[q] = d.ports[q] := Dev.take_port_other _ _ _ _ _ h
  have hstate : (d.take p ⟨cid, .attachPort⟩ []).ports[p].state = d.ports[p].state := by rw [Dev.take_port_self]
  have hopened := (d.take p ⟨cid, .attachPort⟩ []).openPort_other h
  rw [hport, hstate] at hopened
  exact (Dev.modPort_other _ p q _ h).trans hopened

/-! ## The reads of a port that leaves ONLINE, when another port is ONLINE (R173, R174) -/

theorem portsAfter_find (f : PortId → Bool) (p q : PortId) (hp : f p = false) (hq : f q = true)
    (hfar : ∀ k, f k = true → (q.val + 3 - p.val) % 4 ≤ (k.val + 3 - p.val) % 4) : (portsAfter p).find? f = some q := by
  revert p q
  revert f
  decide

/-- R173: the fetches after a port's reads have moved to the port q. -/
def Fetch.MovedTo (l : List Seq) (q : PortId) (now : Time) (lo hi : Nat) (f g : Fetch) : Prop :=
  (f.req.seq ∉ l → g = f) ∧
    (f.req.seq ∈ l → ∃ n, lo ≤ n ∧ n < hi ∧ g = { f with port := q, started := now, reading := true, read := n })

theorem Dev.foldl_moveFetch_next {p q : PortId} (l : List Seq) (d : Dev) (h : d.nextOnline p = some q) :
    let e := l.foldl (fun d s => d.moveFetch s p) d
    d.fetch.nextRead ≤ e.fetch.nextRead ∧
      List.Forall₂ (Fetch.MovedTo l q d.now d.fetch.nextRead e.fetch.nextRead) d.fetch.active e.fetch.active ∧
      e.sites = d.sites ∧ e.status = d.status := by
  induction l generalizing d with
  | nil =>
    exact ⟨Nat.le_refl _, List.forall₂_same.2 fun f _ => ⟨fun _ => rfl, fun h => nomatch h⟩, rfl, rfl⟩
  | cons s t ih =>
    obtain ⟨u, hu⟩ : ∃ u : Dev, u = d.modFetch (FetchUnit.newRead s q d.now) := ⟨_, rfl⟩
    have hnext : u.nextOnline p = some q := hu ▸ h
    have hread : u.fetch.nextRead = d.fetch.nextRead + 1 := hu ▸ rfl
    have hnow : u.now = d.now := hu ▸ rfl
    have hsites : u.sites = d.sites := hu ▸ rfl
    have hstatus : u.status = d.status := hu ▸ rfl
    have hactive : u.fetch.active = d.fetch.active.map fun a =>
        if a.req.seq == s then { a with port := q, started := d.now, reading := true, read := d.fetch.nextRead } else a := hu ▸ rfl
    obtain ⟨hle, hmoved, hs, hst⟩ := ih u hnext
    rw [hactive, List.forall₂_map_left_iff, hread, hnow] at hmoved
    rw [hread] at hle
    rw [List.foldl_cons, Dev.moveFetch_next h, ← hu]
    refine ⟨Nat.le_of_succ_le hle, hmoved.imp fun f g hfg => ?_, hs.trans hsites, hst.trans hstatus⟩
    by_cases hf : f.req.seq = s
    · rw [if_pos (beq_iff_eq.2 hf)] at hfg
      refine ⟨fun hn => absurd (List.mem_cons.2 (.inl hf)) hn, fun _ => ?_⟩
      by_cases ht : f.req.seq ∈ t
      · obtain ⟨n, hlo, hhi, hg⟩ := hfg.2 ht
        exact ⟨n, Nat.le_of_succ_le hlo, hhi, hg⟩
      · exact ⟨_, Nat.le_refl _, hle, hfg.1 ht⟩
    · rw [if_neg (beq_iff_eq.not.2 hf)] at hfg
      refine ⟨fun hn => hfg.1 fun ht => hn (List.mem_cons_of_mem _ ht), fun hm => ?_⟩
      obtain ⟨n, hlo, hhi, hg⟩ := hfg.2 ((List.mem_cons.1 hm).resolve_left hf)
      exact ⟨n, Nat.le_of_succ_le hlo, hhi, hg⟩

/-! ## The reads of the last ONLINE port (R174) -/

theorem Dev.blockFetch_active (s : Seq) (d : Dev) :
    (d.blockFetch s).fetch.active = d.fetch.active.filter fun a => a.req.seq != s := by
  unfold Dev.blockFetch
  dsimp only
  split <;> rfl

theorem Dev.blockFetch_site (s : Seq) (d : Dev) (j : SlotId) :
    (d.blockFetch s).sites[j] = { d.sites[j] with candidates := d.sites[j].candidates.filter fun c => c.seq != s } := by
  unfold Dev.blockFetch
  dsimp only
  split <;> exact Vector.getElem_map _ _

theorem Dev.blockFetch_slot (s q : Seq) (d : Dev) :
    (d.blockFetch s).slot? q = if q = s then (d.slot? q).map (fun x => { x with fetchBlocked := true }) else d.slot? q := by
  have hsteps : (d.blockFetch s).slot? q =
      (match d.slot? s with
        | some x => d.putSlot s { x with fetchBlocked := true }
        | none => d).slot? q := by
    have hsame : (d.modFetch fun f => { f with active := f.active.filter fun a => a.req.seq != s }).slot? s = d.slot? s := rfl
    unfold Dev.blockFetch
    dsimp only
    rw [hsame]
    cases d.slot? s <;> rfl
  rw [hsteps]
  cases h : d.slot? s with
  | none =>
    dsimp only
    split
    · next hq => rw [hq, h]; rfl
    · rfl
  | some x =>
    dsimp only
    rw [Dev.putSlot_slot]
    split
    · next hq => rw [hq, h]; rfl
    · rfl

/-- R174: the fetches of the intents end, the intents are FETCH-BLOCKED, and no site has a candidate that holds one. -/
structure Dev.FetchesBlocked (l : List Seq) (d e : Dev) : Prop where
  active : e.fetch.active = d.fetch.active.filter fun a => !l.contains a.req.seq
  slot (q : Seq) : e.slot? q = if q ∈ l then (d.slot? q).map (fun x => { x with fetchBlocked := true }) else d.slot? q
  site (j : SlotId) : e.sites[j] = { d.sites[j] with candidates := d.sites[j].candidates.filter fun c => !l.contains c.seq }

theorem Dev.foldl_moveFetch_blocked {p : PortId} (l : List Seq) (d : Dev) (h : d.nextOnline p = none) :
    d.FetchesBlocked l (l.foldl (fun d s => d.moveFetch s p) d) := by
  induction l generalizing d with
  | nil => exact ⟨by simp, fun q => by simp, fun j => by simp⟩
  | cons s t ih =>
    have hstep : d.moveFetch s p = d.blockFetch s := by rw [Dev.moveFetch, h]
    have hrest := d.moveFetch_rest s p
    have hactive := d.blockFetch_active s
    have hslot := fun q => d.blockFetch_slot s q
    have hsite := d.blockFetch_site s
    rw [List.foldl_cons]
    rw [hstep] at hrest ⊢
    generalize d.blockFetch s = u at *
    have hports : u.ports = d.ports := (congrArg Dev.ports hrest :)
    have hnext : u.nextOnline p = none := by
      rw [Dev.nextOnline_eq, hports]
      exact h
    obtain ⟨ha, hs, hj⟩ := ih u hnext
    refine ⟨?_, fun q => ?_, fun j => ?_⟩
    · rw [ha, hactive, List.filter_filter]
      refine List.filter_congr fun a _ => ?_
      rw [List.contains_cons, Bool.not_or, Bool.and_comm]
      rfl
    · rw [hs, hslot]
      by_cases hq : q = s
      · subst hq
        rw [if_pos rfl, if_pos (List.mem_cons_self), Option.map_map]
        split <;> rfl
      · simp only [List.mem_cons, hq, if_false, false_or]
    · rw [hj, hsite]
      have hcand : (d.sites[j].candidates.filter fun c => c.seq != s).filter (fun c => !t.contains c.seq) =
          d.sites[j].candidates.filter fun c => !(s :: t).contains c.seq := by
        rw [List.filter_filter]
        refine List.filter_congr fun c _ => ?_
        rw [List.contains_cons, Bool.not_or, Bool.and_comm]
        rfl
      exact congrArg (fun l : List Candidate => { d.sites[j] with candidates := l }) hcand

/-! ## DETACH PORT -/

/-- R174: the intents that are read through the port. -/
def Dev.readsOf (p : PortId) (d : Dev) : List Seq := (d.fetch.active.filter fun a => a.port == p && a.reading).map fun a => a.req.seq

theorem Dev.mem_readsOf {d : Dev} {p : PortId} {i : Seq} :
    i ∈ d.readsOf p ↔ ∃ f ∈ d.fetch.active, (f.port = p ∧ f.reading = true) ∧ f.req.seq = i := by
  unfold Dev.readsOf
  rw [List.mem_map]
  simp only [List.mem_filter, Bool.and_eq_true, beq_iff_eq, and_assoc]

/-- R172: with one fetch for an intent, an intent is read through the port when its fetch is. -/
theorem Dev.mem_readsOf_active {d : Dev} {p : PortId} (h : (d.fetch.active.map fun f => f.req.seq).Nodup) {f : Fetch}
    (hf : f ∈ d.fetch.active) : f.req.seq ∈ d.readsOf p ↔ f.port = p ∧ f.reading = true := by
  rw [Dev.mem_readsOf]
  constructor
  · rintro ⟨g, hg, hread, hseq⟩
    obtain rfl : g = f := List.inj_on_of_nodup_map h hg hf hseq
    exact hread
  · exact fun hread => ⟨f, hf, hread, rfl⟩

theorem Dev.contains_readsOf (d : Dev) (p : PortId) (i : Seq) :
    (d.readsOf p).contains i = d.fetch.active.any fun f => f.port == p && f.reading && f.req.seq == i := by
  rw [Bool.eq_iff_iff, List.contains_iff_mem, Dev.mem_readsOf, List.any_eq_true]
  simp only [Bool.and_eq_true, beq_iff_eq]

/-- R165: the port has left ONLINE; the reads through it have not yet moved. -/
def Dev.shut (p : PortId) (new : PortState) (d : Dev) : Dev :=
  (d.modPort p fun q => { q with state := new }).returnDeliveries p

theorem Dev.shut_rest (p : PortId) (new : PortState) (d : Dev) :
    { d.shut p new with ports := d.ports, inbound := d.inbound, dma := d.dma } = d := by
  have h := Dev.returnDeliveries_rest p (d.modPort p fun q => { q with state := new })
  exact congrArg (fun e : Dev => { e with ports := d.ports }) h

theorem Dev.shut_state (p q : PortId) (new : PortState) (d : Dev) :
    (d.shut p new).ports[q].state = if q = p then new else d.ports[q].state := by
  rw [Dev.shut, Dev.returnDeliveries_ports, Dev.modPort_port]
  split <;> rfl

/-- R165: what the fetches, the intents and the sites are after a port has left ONLINE. -/
theorem Dev.closePort_reads {d : Dev} {p : PortId} (h : d.ports[p].state = .online) (new : PortState) (c : PortCause) :
    let u := (d.readsOf p).foldl (fun d s => d.moveFetch s p) (d.shut p new)
    (d.closePort p new c).fetch = u.fetch ∧ (d.closePort p new c).status = u.status ∧ (d.closePort p new c).sites = u.sites ∧
      (d.closePort p new c).inbound = (d.shut p new).inbound := by
  intro u
  have hfetch : (d.shut p new).fetch = d.fetch := (congrArg Dev.fetch (d.shut_rest p new) :)
  have hreads : (d.shut p new).readsOf p = d.readsOf p := by rw [Dev.readsOf, hfetch]; rfl
  have hleft : (d.modPort p fun q => { q with state := new }).leftOnline p = u := by
    show ((d.shut p new).readsOf p).foldl (fun d s => d.moveFetch s p) (d.shut p new) = u
    rw [hreads]
  have hsteps : d.closePort p new c = u.portNotice p d.ports[p].state new c := by
    unfold Dev.closePort
    dsimp only
    rw [if_pos h, hleft]
  have hnotice := u.broadcast_rest (.portState p d.ports[p].state new c)
  have hinbound : u.inbound = (d.shut p new).inbound :=
    foldl_keeps Dev.inbound (fun d s => d.moveFetch s p) (fun e s => (congrArg Dev.inbound (e.moveFetch_rest s p) :)) _ _
  rw [hsteps, Dev.portNotice]
  exact ⟨(congrArg Dev.fetch hnotice :), (congrArg Dev.status hnotice :), (congrArg Dev.sites hnotice :),
    (congrArg Dev.inbound hnotice :).trans hinbound⟩

theorem Dev.closePort_arrivals {d : Dev} {p : PortId} (h : d.ports[p].state = .online) (new : PortState) (c : PortCause) :
    ∀ a ∈ (d.closePort p new c).inbound.arrivals, a.delivery.map (·.1) ≠ some p := by
  obtain ⟨_, _, _, hinbound⟩ := Dev.closePort_reads h new c
  intro a ha
  rw [hinbound] at ha
  exact Dev.returnDeliveries_arrivals p _ a ha

/-- R174: the reads move to the next ONLINE port, or their intents are FETCH-BLOCKED. -/
theorem Dev.closePort_moves {d : Dev} {p : PortId} (h : d.ports[p].state = .online) {new : PortState} (hnew : new ≠ .online)
    (c : PortCause) (hnodup : (d.fetch.active.map fun f => f.req.seq).Nodup) :
    let u := d.closePort p new c
    let read (f : Fetch) : Prop := f.port = p ∧ f.reading = true
    let up (q : PortId) : Prop := q ≠ p ∧ d.ports[q].state = .online
    let far (q : PortId) : Nat := (q.val + 3 - p.val) % 4
    (∀ q, up q → (∀ k, up k → far q ≤ far k) →
      List.Forall₂
        (fun f g =>
          (¬ read f → g = f) ∧
          (read f → ∃ n, d.fetch.nextRead ≤ n ∧ n < u.fetch.nextRead ∧
            g = { f with port := q, started := d.now, reading := true, read := n }))
        d.fetch.active u.fetch.active ∧
      u.sites = d.sites ∧ u.status = d.status) ∧
    ((∀ q, ¬ up q) → d.FetchesBlocked (d.readsOf p) u) := by
  intro u read up far
  obtain ⟨hfetch, hstatus, hsites, _⟩ := Dev.closePort_reads h new c
  have hstate (q : PortId) := d.shut_state p q new
  have hrest := d.shut_rest p new
  generalize d.shut p new = e at *
  have hefetch : e.fetch = d.fetch := (congrArg Dev.fetch hrest :)
  have henow : e.now = d.now := (congrArg Dev.now hrest :)
  have hesites : e.sites = d.sites := (congrArg Dev.sites hrest :)
  have hestatus : e.status = d.status := (congrArg Dev.status hrest :)
  have honline (q : PortId) : (e.ports[q].state == .online) = true ↔ up q := by
    rw [beq_iff_eq, hstate]
    split
    · next hq => exact iff_of_false hnew fun hup => hup.1 hq
    · next hq => exact (and_iff_right hq).symm
  refine ⟨fun q hq hfar => ?_, fun hnone => ?_⟩
  · have hnext : e.nextOnline p = some q := by
      rw [Dev.nextOnline_eq]
      refine portsAfter_find _ p q ?_ ((honline q).2 hq) fun k hk => hfar k ((honline k).1 hk)
      exact Bool.eq_false_iff.2 fun hp => ((honline p).1 hp).1 rfl
    obtain ⟨_, hmoved, hs, hst⟩ := Dev.foldl_moveFetch_next (d.readsOf p) e hnext
    rw [← hfetch, hefetch, henow] at hmoved
    refine ⟨?_, hsites.trans (hs.trans hesites), hstatus.trans (hst.trans hestatus)⟩
    have hboth := (List.forall₂_and_left (p := fun f => f ∈ d.fetch.active) _ _).2 ⟨fun _ hf => hf, hmoved⟩
    refine hboth.imp fun f g ⟨hf, hstay, hmove⟩ => ?_
    have hread := Dev.mem_readsOf_active hnodup hf (p := p)
    exact ⟨fun hn => hstay (hread.not.2 hn), fun hr => hmove (hread.2 hr)⟩
  · have hnext : e.nextOnline p = none := by
      rw [Dev.nextOnline_eq]
      exact List.find?_eq_none.2 fun q _ hq => hnone q ((honline q).1 hq)
    obtain ⟨hactive, hslot, hsite⟩ := Dev.foldl_moveFetch_blocked (d.readsOf p) e hnext
    have hslots (i : Seq) : e.slot? i = d.slot? i := congrArg (fun t : StatusArray => Tbl.get t.slots i) hestatus
    refine ⟨?_, fun i => ?_, fun j => ?_⟩
    · rw [hfetch, hactive, hefetch]
    · have hu : u.slot? i = _ := congrArg (fun t : StatusArray => Tbl.get t.slots i) hstatus
      exact hu.trans ((hslot i).trans (by rw [hslots]))
    · rw [hsites, hsite, hesites]

/-- The port that has closed, and has been answered. -/
theorem Dev.detached_self {d : Dev} {p : PortId} (cid : Word32) (hf : d.portFree p) :
    let u := (d.take p ⟨cid, .detachPort⟩ []).closePort p .offline .command
    (u.refuse (d.nextTok p) .done).ports[p] =
      { d.ports[p] with
        state := .offline, landings := [], respQ := d.ports[p].respQ ++ [⟨29, .done, 0, cid, .none⟩] } := by
  intro u
  obtain ⟨hstate, hcmd, htaken, hlookup, _⟩ := hf
  let x : Taken := { id := d.nextToken, cid := cid, kind := 29 }
  have hport : (d.take p ⟨cid, .detachPort⟩ []).ports[p] = { d.ports[p] with taken := [x] } := by
    rw [Dev.take_port_self, htaken, ← hcmd, ← hlookup]
    rfl
  obtain ⟨hclosed, _⟩ := Dev.closePort_self (d := d.take p ⟨cid, .detachPort⟩ []) (p := p) (by rw [hport]; exact hstate)
    (new := .offline) nofun .command
  rw [hport] at hclosed
  have hone : u.ports[p].taken = [x] := congrArg Port.taken hclosed
  show (u.answer ⟨p, x.id⟩ .done 0 .none).ports[p] = _
  rw [Dev.answer_only x .done 0 .none hone rfl, Dev.modPort_self, hclosed, ← htaken]

end Sys2Proof.Machine

/-- Settles O9: a port that opens frees the fetches, a port that closes hands its deliveries and its reads on. -/
theorem portsAttachAndDetach : Obligations.PortsAttachAndDetach := by
  constructor
  · intro s t p cid hup hidle
    refine ⟨fun ho => ?again, ?opens⟩
    case again =>
      have hstate : ((s.dev.tick t).take p ⟨cid, .attachPort⟩ []).ports[p].state = .online :=
        (congrArg Port.state (Dev.take_port_self (s.dev.tick t) p ⟨cid, .attachPort⟩ []) :).trans ho
      exact Dev.posted_replies (b := .attachPort) hup ⟨ho, hidle⟩ rfl
        (Dev.actAttachPort_online (tok := s.dev.nextTok p) hstate)
    case opens =>
      intro hst change start own
      obtain ⟨e, he⟩ : ∃ e : Dev, e = (s.dev.tick t).take p ⟨cid, .attachPort⟩ [] := ⟨_, rfl⟩
      have hclosed : e.ports[p].state ≠ .online := by
        rw [he, Dev.take_port_self]
        rcases hst with h | h <;> exact fun ho => nomatch h.symm.trans ho
      have hnext := Dev.posted_attach (t := t) cid hup hidle hst
      have hact := Dev.actAttachPort_opens s.dev.nextToken hclosed
      have hreport := e.openPort_attachReport p
      have hfaults : e.latchedFaults = s.dev.latchedFaults :=
        he ▸ (Dev.take_latchedFaults (s.dev.tick t) p ⟨cid, .attachPort⟩ []).trans
          (Dev.latchedFaults_congr rfl rfl rfl (fun _ => rfl) fun _ => rfl)
      have hpower : e.power = s.dev.power := he ▸ rfl
      have hsettings : e.settings = s.dev.settings := he ▸ rfl
      have hself := Dev.attached_self (d := s.dev.tick t) (p := p) (cid := cid) hidle
      have hother := fun q (hq : q ≠ p) => Dev.attached_other (d := s.dev.tick t) (p := p) (cid := cid) hq
      have hrest := e.openPort_rest p
      obtain ⟨hstatus, hsites⟩ := e.openPort_tables p
      have hestatus : (e.modPort p fun q => { q with state := .online, timeouts := 0 }).status = s.dev.status := he ▸ rfl
      have hesites : (e.modPort p fun q => { q with state := .online, timeouts := 0 }).sites = s.dev.sites := he ▸ rfl
      have hkept : { e with nextToken := s.dev.nextToken, ports := s.dev.ports } = s.dev.tick t := he ▸ rfl
      rw [← he] at hnext hself hother
      rw [show s.dev.nextTok p = ⟨p, s.dev.nextToken⟩ from rfl, hact, hreport, hpower, hsettings, hfaults] at hnext
      generalize e.openPort p = u at *
      generalize (e.modPort p fun q => { q with state := .online, timeouts := 0 }) = v at *
      have hslot (q : Seq) : u.slot? q = (s.dev.slot? q).map fun x => { x with fetchBlocked := false } := by
        have hu : u.slot? q = v.unblockFetches.slot? q := congrArg (fun t : StatusArray => Tbl.get t.slots q) hstatus
        have hv : v.slot? q = s.dev.slot? q := congrArg (fun t : StatusArray => Tbl.get t.slots q) hestatus
        rw [hu, Dev.unblockFetches_slot, hv]
      refine ⟨_, hnext, hself _, fun q hq => hother q hq _, fun q x hx => ?freed, fun q => ?slot, fun htables j => ?sites, ?others⟩
      case freed =>
        have hx : u.slot? q = some x := hx
        rw [hslot, Option.map_eq_some_iff] at hx
        obtain ⟨y, _, rfl⟩ := hx
        rfl
      case slot =>
        refine (congrArg (Option.map fun x : Slot => { x with fetchBlocked := false }) (hslot q)).trans ?_
        rw [Option.map_map]
        rfl
      case sites =>
        have hascending : Tbl.ascending v.status.slots = true := by
          rw [Dev.tablesOk, Bool.and_eq_true, Bool.and_eq_true] at htables
          obtain ⟨⟨hslots, _⟩, _⟩ := htables
          rw [hestatus]
          exact hslots
        have hlowers := Dev.unblockFetches_lowers hascending j
        have hfrees (q : Seq) : v.frees j q ↔ ∃ x, s.dev.slot? q = some x ∧ x.fetchBlocked = true ∧ (j, .pending) ∈ x.marks := by
          have hv : v.slot? q = s.dev.slot? q := congrArg (fun t : StatusArray => Tbl.get t.slots q) hestatus
          rw [Dev.frees, hv]
        simp only [hfrees] at hlowers
        rw [hesites, ← hsites] at hlowers
        exact hlowers
      case others =>
        have h : ({ u with nextToken := s.dev.nextToken, ports := s.dev.ports, sites := s.dev.sites, status := s.dev.status } : Dev) =
            { e with nextToken := s.dev.nextToken, ports := s.dev.ports, sites := s.dev.sites, status := s.dev.status } :=
          congrArg (fun w : Dev => { w with
            nextToken := s.dev.nextToken, ports := s.dev.ports, sites := s.dev.sites, status := s.dev.status }) hrest
        exact h.trans (congrArg (fun w : Dev => { w with sites := s.dev.sites, status := s.dev.status }) hkept)
  · intro s t p cid hup hf
    have hnext := Dev.posted_acts (t := t) cid .detachPort hup hf rfl
    have hself := Dev.detached_self (d := s.dev.tick t) cid hf
    obtain ⟨e, he⟩ : ∃ e : Dev, e = (s.dev.tick t).take p ⟨cid, .detachPort⟩ [] := ⟨_, rfl⟩
    dsimp only at hself
    have hact : e.act (s.dev.nextTok p) .none .detachPort = (e.closePort p .offline .command).refuse (s.dev.nextTok p) .done := rfl
    rw [← he] at hnext hself
    rw [hact] at hnext
    have hstate : e.ports[p].state = .online := by
      rw [he, Dev.take_port_self]
      exact hf.1
    have hport (q : PortId) (hq : q ≠ p) : e.ports[q] = s.dev.ports[q] := by
      rw [he, Dev.take_port_other _ _ _ _ _ hq]
      rfl
    have hfetch : e.fetch = s.dev.fetch := he ▸ rfl
    have hnow : e.now = (s.dev.tick t).now := he ▸ rfl
    have hstatus : e.status = s.dev.status := he ▸ rfl
    have hsites : e.sites = s.dev.sites := he ▸ rfl
    have hold : { e with nextToken := s.dev.nextToken, ports := s.dev.ports } = s.dev.tick t := he ▸ rfl
    obtain ⟨_, _, hreading⟩ := Dev.closePort_self hstate (new := .offline) nofun .command
    have harrivals := Dev.closePort_arrivals hstate .offline .command
    have hother (q : PortId) (hq : q ≠ p) := Dev.closePort_other e p q .offline .command hq
    have hrest := e.closePort_rest p .offline .command
    have hmoves := Dev.closePort_moves hstate (new := .offline) nofun .command
    generalize e.closePort p .offline .command = u at *
    have hanswered (q : PortId) (hq : q ≠ p) : (u.refuse (s.dev.nextTok p) .done).ports[q] = u.ports[q] :=
      Dev.modPort_other _ p q _ hq
    refine ⟨_, hnext, (congrArg Port.state hself :), (congrArg Port.landings hself :), (congrArg Port.respQ hself :), harrivals,
      hreading, fun q hq => ?other, ?settings, ?journal, ?array, ?index, ?moves⟩
    case other =>
      rw [hanswered q hq, hother q hq, hport q hq, hstate]
    case settings => exact (congrArg Dev.settings hrest :).trans (congrArg Dev.settings hold :)
    case journal => exact (congrArg Dev.journal hrest :).trans (congrArg Dev.journal hold :)
    case array => exact (congrArg Dev.array hrest :).trans (congrArg Dev.array hold :)
    case index => exact (congrArg Dev.index hrest :).trans (congrArg Dev.index hold :)
    case moves =>
      intro hnodup read up far
      rw [← hfetch] at hnodup
      obtain ⟨hmove, hblock⟩ := hmoves hnodup
      have hup (q : PortId) : (q ≠ p ∧ e.ports[q].state = .online) ↔ up q :=
        and_congr_right fun hq => by rw [hport q hq]
      simp only [hup] at hmove hblock
      rw [hfetch, hnow, hsites, hstatus] at hmove
      refine ⟨hmove, fun hnone => ?_⟩
      obtain ⟨hactive, hslot, hsite⟩ := hblock hnone
      refine ⟨?_, fun i x hx => ?_, fun j => ?_⟩
      · refine hactive.trans ?_
        rw [hfetch]
        refine List.filter_congr fun f hmem => congrArg not ?_
        have hread := Dev.mem_readsOf_active hnodup (hfetch ▸ hmem) (p := p)
        rw [Bool.eq_iff_iff, List.contains_iff_mem, hread, Bool.and_eq_true, beq_iff_eq]
      · have hsame : e.slot? i = some x := (congrArg (fun t : StatusArray => Tbl.get t.slots i) hstatus).trans hx
        have hblocked := Dev.mem_readsOf (d := e) (p := p) (i := i)
        rw [hfetch] at hblocked
        have hu : u.slot? i = _ := hslot i
        rw [hsame] at hu
        exact ⟨fun hb => hu.trans (if_pos (hblocked.2 hb)), fun hb => hu.trans (if_neg (hblocked.not.2 hb))⟩
      · refine (hsite j).trans ?_
        rw [hsites]
        refine congrArg (fun l : List Candidate => { s.dev.sites[j] with candidates := l }) (List.filter_congr fun c _ => congrArg not ?_)
        rw [Dev.contains_readsOf, hfetch]

end

section
/-!
SUPPORT of O36: the taking of an OPEN (R126 to R130).
-/

open Sys2Proof Sys2Proof.Machine

namespace Sys2Proof.Machine

/-! ## The contents of an OPEN (R127) -/

/-- R127: an OPEN of the site that R128 takes. -/
def openGood (o : OpenDesc) (site len : Nat) : Prop :=
  (o.kind = 1 ∧ 1 ≤ o.payloadLen ∧ o.payloadLen ≤ 67108864 ∨ o.kind = 2 ∧ o.payloadLen = 0 ∨
    o.kind = 3 ∧ 1 ≤ o.payloadLen ∧ o.payloadLen ≤ 65536) ∧
  o.seq ≠ 0 ∧ 1 ≤ o.keyLen ∧ o.keyLen ≤ 240 ∧ len = 64 + recordSize o.keyLen ∧ o.stamp.toNat % 16 = site

/-- R127: the kind is one of the table, and the payload length is in its range. -/
theorem kind_payload_iff (k n : Nat) :
    (∃ x, intentKindOf k = some x ∧ payloadLenOk x n = true) ↔
      k = 1 ∧ 1 ≤ n ∧ n ≤ 67108864 ∨ k = 2 ∧ n = 0 ∨ k = 3 ∧ 1 ≤ n ∧ n ≤ 65536 := by
  unfold intentKindOf
  split <;> simp [payloadLenOk]
  next h1 h2 h3 => exact ⟨fun h => absurd h h1, fun h => absurd h h2, fun h => absurd h h3⟩

theorem openKind_some_iff {site len : Nat} {o : OpenDesc} {k : IntentKind} :
    openKind site len o = some k ↔ intentKindOf o.kind = some k ∧ openGood o site len := by
  have hlen : openLen o.keyLen = 64 + recordSize o.keyLen := rfl
  have hkind := kind_payload_iff o.kind o.payloadLen
  unfold openKind openGood
  rw [← hkind]
  cases h : intentKindOf o.kind with
  | none => simp
  | some x =>
    simp only [Option.some.injEq, exists_eq_left', hlen]
    constructor
    · intro hx
      split at hx
      · next hall =>
        obtain ⟨hseq, hmin, hmax, hframe, hpay, hstamp⟩ := hall
        exact ⟨Option.some.inj hx, hpay, hseq, hmin, hmax, hframe, hstamp⟩
      · cases hx
    · rintro ⟨rfl, hpay, hseq, hmin, hmax, hframe, hstamp⟩
      rw [if_pos ⟨hseq, hmin, hmax, hframe, hpay, hstamp⟩]

theorem openKind_of_good {site len : Nat} {o : OpenDesc} {k : IntentKind} (h : openGood o site len) (hk : intentKindOf o.kind = some k) :
    openKind site len o = some k := openKind_some_iff.2 ⟨hk, h⟩

theorem openKind_of_bad {site len : Nat} {o : OpenDesc} (h : ¬ openGood o site len) : openKind site len o = none :=
  Option.eq_none_iff_forall_not_mem.2 fun _ hk => h (openKind_some_iff.1 hk).2

theorem openGood.kind {site len : Nat} {o : OpenDesc} (h : openGood o site len) : ∃ k, intentKindOf o.kind = some k := by
  obtain ⟨hkind, _⟩ := h
  obtain ⟨k, hk, _⟩ := (kind_payload_iff o.kind o.payloadLen).2 hkind
  exact ⟨k, hk⟩

theorem openGood.payload_pos {site len : Nat} {o : OpenDesc} {k : IntentKind} (h : openGood o site len)
    (hk : intentKindOf o.kind = some k) (hd : k ≠ .delete) : 1 ≤ o.payloadLen := by
  obtain ⟨⟨_, hpos, _⟩ | ⟨htwo, _⟩ | ⟨_, hpos, _⟩, _⟩ := h
  · exact hpos
  · rw [htwo] at hk
    exact absurd (Option.some.inj hk).symm hd
  · exact hpos

/-! ## What R128 decides on -/

/-- R128: an arrival of the pair is in the list, or an arrival holds a receipt for it. -/
def Inbound.knowsPair (x : Inbound) (j : SlotId) (q : Seq) : Prop :=
  ∃ a ∈ x.arrivals, (a.slot = j ∧ a.desc.seq = q) ∨ a.heldReceipt = some (j, q)

theorem Inbound.knowsPair_iff (x : Inbound) (j : SlotId) (q : Seq) :
    (x.arrivals.any fun a => (a.slot == j && a.desc.seq == q) || a.heldReceipt == some (j, q)) = true ↔ x.knowsPair j q := by
  simp [Inbound.knowsPair, List.any_eq_true]

/-- R128, case 3: an arrival of the same key that may be displaced. -/
def Inbound.rival (x : Inbound) (o : OpenDesc) : Option Arrival :=
  x.arrivals.find? fun a =>
    (a.state == .assembling || a.state == .waitingLanding) && a.desc.bucket == o.bucket && a.desc.keyLen == o.keyLen &&
      a.desc.key == o.key

/-- R129: the OPEN is newer than the arrival. -/
abbrev openNewer (o : OpenDesc) (j : SlotId) (e : Arrival) : Prop :=
  e.desc.stamp < o.stamp ∨ (o.stamp = e.desc.stamp ∧ j = e.slot ∧ e.desc.seq < o.seq)

theorem newerThan_iff (j : SlotId) (o : OpenDesc) (e : Arrival) : newerThan j o.seq o.stamp e = true ↔ openNewer o j e := by
  simp [newerThan, openNewer, and_assoc]

/-- R128, case 4: the arrival that an OPEN creates. -/
def Inbound.fresh (x : Inbound) (now : Time) (j : SlotId) (o : OpenDesc) (k : IntentKind) (held : Option (SlotId × Seq)) : Arrival :=
  { id := x.nextId, slot := j, desc := o, kind := k, blocks := (o.payloadLen + 8191) / 8192, silenceDue := some (now + 20000)
    heldReceipt := held }

theorem Dev.createArrival_incomplete {d : Dev} {o : OpenDesc} (j : SlotId) (k : IntentKind) (held : Option (SlotId × Seq))
    (h : 1 ≤ o.payloadLen) :
    d.createArrival j o k held =
      { d with inbound := { d.inbound with
        arrivals := d.inbound.arrivals ++ [d.inbound.fresh d.now j o k held]
        nextId := if 4294967295 ≤ d.inbound.nextId then 1 else d.inbound.nextId + 1 } } := by
  have hcomplete : (d.inbound.fresh d.now j o k held).complete = false := by
    have hcount : 0 < (o.payloadLen + 8191) / 8192 := by omega
    exact beq_false_of_ne hcount.ne
  exact if_neg (by rw [← Bool.not_eq_true] at hcomplete; exact hcomplete)

section Taken

variable {d : Dev} {j : SlotId} {o : OpenDesc} (k : IntentKind)

/-- R128, case 1: the pair has been answered. -/
theorem Dev.takeOpen_done (hst : d.sites[j].state ≠ .fenced) {e : DoneEntry}
    (h : (d.inbound.done.find? fun e => e.slot == j && e.seq == o.seq) = some e) :
    d.takeOpen j o k =
      { d with inbound := { d.inbound with
        raised := d.inbound.raised ++ [(j, o.seq, e.outcome)]
        counts := { d.inbound.counts with
          raised := sat64 (d.inbound.counts.raised + 1), doneHits := sat64 (d.inbound.counts.doneHits + 1) } } } := by
  unfold Dev.takeOpen
  dsimp only
  rw [h]
  dsimp only
  rw [Dev.raiseReceipt_open _ _ hst]
  rfl

variable (hdone : (d.inbound.done.find? fun e => e.slot == j && e.seq == o.seq) = none)
include hdone

/-- R128, case 2: the pair is in the arrival list. -/
theorem Dev.takeOpen_known (h : d.inbound.knowsPair j o.seq) :
    d.takeOpen j o k =
      { d with inbound := { d.inbound with
        counts := { d.inbound.counts with repeats := sat64 (d.inbound.counts.repeats + 1) } } } := by
  unfold Dev.takeOpen
  dsimp only
  rw [hdone]
  exact if_pos ((d.inbound.knowsPair_iff j o.seq).2 h)

variable (hnew : ¬ d.inbound.knowsPair j o.seq)
include hnew

/-- R128, cases 3 and 4: the pair is new. -/
theorem Dev.takeOpen_new :
    d.takeOpen j o k =
      match d.inbound.rival o with
      | none =>
        if arrivalPlaces - d.inbound.arrivals.length = 0 ∨ d.inbound.freeBlocks < chunkCount o.payloadLen then
          d.refuseOpen j o.seq (decide (arrivalPlaces - d.inbound.arrivals.length = 0))
            (decide (d.inbound.freeBlocks < chunkCount o.payloadLen))
        else d.createArrival j o k none
      | some e =>
        if !newerThan j o.seq o.stamp e then
          (d.settlePair j o.seq .supersededAtPeer).countInbound fun c =>
            { c with answeredAtOnce := sat64 (c.answeredAtOnce + 1) }
        else if d.inbound.freeBlocks + e.blocks < chunkCount o.payloadLen then
          d.refuseOpen j o.seq (decide (arrivalPlaces - d.inbound.arrivals.length = 0)) true
        else
          let d := match e.heldReceipt with
            | some (l, s) => d.settlePair l s .supersededAtPeer
            | none => d
          let d := (d.dropArrival e.id).countInbound fun c => { c with displaced := sat64 (c.displaced + 1) }
          d.createArrival j o k (some (e.slot, e.desc.seq)) := by
  have hpair := ((d.inbound.knowsPair_iff j o.seq).not.2 hnew)
  unfold Dev.takeOpen
  dsimp only
  rw [hdone]
  exact if_neg hpair

theorem Dev.takeOpen_created (hrival : d.inbound.rival o = none) (hroom : d.inbound.arrivals.length < 2048)
    (hblocks : chunkCount o.payloadLen ≤ d.inbound.freeBlocks) : d.takeOpen j o k = d.createArrival j o k none := by
  rw [Dev.takeOpen_new k hdone hnew, hrival]
  exact if_neg (by unfold arrivalPlaces; omega)

theorem Dev.takeOpen_refused (hrival : d.inbound.rival o = none)
    (hfull : 2048 ≤ d.inbound.arrivals.length ∨ d.inbound.freeBlocks < chunkCount o.payloadLen) :
    d.takeOpen j o k =
      d.refuseOpen j o.seq (decide (2048 ≤ d.inbound.arrivals.length)) (decide (d.inbound.freeBlocks < chunkCount o.payloadLen)) := by
  have hplaces : (arrivalPlaces - d.inbound.arrivals.length = 0) = (2048 ≤ d.inbound.arrivals.length) :=
    propext (by unfold arrivalPlaces; omega)
  rw [Dev.takeOpen_new k hdone hnew, hrival]
  simp only [hplaces]
  exact if_pos hfull

variable {e : Arrival} (hrival : d.inbound.rival o = some e)
include hrival

/-- R129: the arrival of the key is the newer one. -/
theorem Dev.takeOpen_older (hst : d.sites[j].state ≠ .fenced) (hold : ¬ openNewer o j e) :
    d.takeOpen j o k =
      { d with inbound := { d.inbound with
        done := (if d.inbound.done.length < 4096 then d.inbound.done else d.inbound.done.drop 1) ++ [⟨j, o.seq, .supersededAtPeer⟩]
        raised := d.inbound.raised ++ [(j, o.seq, .supersededAtPeer)]
        counts := { d.inbound.counts with
          raised := sat64 (d.inbound.counts.raised + 1), answeredAtOnce := sat64 (d.inbound.counts.answeredAtOnce + 1) } } } := by
  have hnewer : newerThan j o.seq o.stamp e = false := Bool.eq_false_iff.2 ((newerThan_iff j o e).not.2 hold)
  rw [Dev.takeOpen_new k hdone hnew, hrival]
  dsimp only
  refine (if_pos (by rw [hnewer]; rfl)).trans ?_
  rw [Dev.settlePair, Dev.raiseReceipt_open _ _ hst]
  dsimp only [Dev.countInbound, Dev.addDone, Dev.modInbound]

/-- R128, case 3: the OPEN displaces the arrival, whose receipt it holds. -/
theorem Dev.takeOpen_displaces (hyoung : openNewer o j e) (hblocks : chunkCount o.payloadLen ≤ d.inbound.freeBlocks + e.blocks)
    (hheld : e.heldReceipt = none) :
    d.takeOpen j o k =
      ((d.dropArrival e.id).countInbound fun c => { c with displaced := sat64 (c.displaced + 1) }).createArrival j o k
        (some (e.slot, e.desc.seq)) := by
  have hnewer : newerThan j o.seq o.stamp e = true := (newerThan_iff j o e).2 hyoung
  rw [Dev.takeOpen_new k hdone hnew, hrival]
  dsimp only
  rw [hnewer, hheld]
  exact if_neg (Nat.not_lt.2 hblocks)

theorem Dev.takeOpen_refused_newer (hyoung : openNewer o j e) (hblocks : d.inbound.freeBlocks + e.blocks < chunkCount o.payloadLen) :
    d.takeOpen j o k =
      d.refuseOpen j o.seq (decide (2048 ≤ d.inbound.arrivals.length)) (decide (d.inbound.freeBlocks < chunkCount o.payloadLen)) := by
  have hnewer : newerThan j o.seq o.stamp e = true := (newerThan_iff j o e).2 hyoung
  have hplaces : (arrivalPlaces - d.inbound.arrivals.length = 0) = (2048 ≤ d.inbound.arrivals.length) :=
    propext (by unfold arrivalPlaces; omega)
  have harena : true = decide (d.inbound.freeBlocks < chunkCount o.payloadLen) := (decide_eq_true (by omega)).symm
  rw [Dev.takeOpen_new k hdone hnew, hrival, ← harena]
  dsimp only
  rw [hnewer]
  simp only [hplaces]
  exact if_pos hblocks

end Taken

/-! ## A refused OPEN (R130) -/

/-- R130: what the refusals are counted by. -/
def InboundCounts.refused (listFull arenaFull : Bool) (c : InboundCounts) : InboundCounts :=
  { c with
    listFull := if listFull then sat64 (c.listFull + 1) else c.listFull
    arenaFull := if arenaFull then sat64 (c.arenaFull + 1) else c.arenaFull }

/-- R130: a refusal is counted, and told when the last notice is 1 s ago. -/
def Dev.countRefusal (listFull arenaFull : Bool) (d : Dev) : Dev :=
  let x := { d.inbound with counts := d.inbound.counts.refused listFull arenaFull }
  if (match x.lastPressure with
      | some t => decide (d.now < t + 1000000)
      | none => false) = true then
    { d with inbound := { x with refusals := x.refusals + 1 } }
  else
    Dev.countInbound (fun c => { c with pressureNotices := sat64 (c.pressureNotices + 1) })
      (Dev.broadcast (.inboundPressure listFull arenaFull (x.refusals + 1) (2048 - x.arrivals.length) x.freeBlocks)
        { d with inbound := { x with refusals := 0, lastPressure := some d.now } })

section Counted

variable {d : Dev} (listFull arenaFull : Bool)

/-- R130: within 1 s of the last notice, the refusal is counted alone. -/
theorem Dev.countRefusal_recent {last : Time} (hlast : d.inbound.lastPressure = some last) (h : d.now < last + 1000000) :
    d.countRefusal listFull arenaFull =
      { d with inbound := { d.inbound with
        refusals := d.inbound.refusals + 1, counts := d.inbound.counts.refused listFull arenaFull } } := by
  refine if_pos ?_
  dsimp only
  rw [hlast]
  exact decide_eq_true h

/-- R130: otherwise each ONLINE port is told. -/
theorem Dev.countRefusal_told (h : ∀ last, d.inbound.lastPressure = some last → last + 1000000 ≤ d.now) :
    d.countRefusal listFull arenaFull =
      Dev.countInbound (fun c => { c with pressureNotices := sat64 (c.pressureNotices + 1) })
        (Dev.broadcast
          (.inboundPressure listFull arenaFull (d.inbound.refusals + 1) (2048 - d.inbound.arrivals.length) d.inbound.freeBlocks)
          { d with inbound := { d.inbound with
            refusals := 0, lastPressure := some d.now, counts := d.inbound.counts.refused listFull arenaFull } }) := by
  refine if_neg ?_
  dsimp only
  cases hlast : d.inbound.lastPressure with
  | none => nofun
  | some t => exact fun hnow => Nat.not_lt.2 (h t hlast) (of_decide_eq_true hnow)

end Counted

section Refused

variable {d : Dev} {j : SlotId} (q : Seq) (listFull arenaFull : Bool) (hst : d.sites[j].state ≠ .fenced)
include hst

theorem Dev.refuseOpen_raised :
    d.refuseOpen j q listFull arenaFull = (d.raiseFrame j (.busy q)).countRefusal listFull arenaFull :=
  congrArg (Dev.countRefusal listFull arenaFull) (if_neg hst)

/-- R130: all that a refusal does. -/
structure Dev.OpenRefused (d : Dev) (j : SlotId) (q : Seq) (isFull noRoom : Bool) (u : Dev) : Prop where
  arrivals : u.inbound.arrivals = d.inbound.arrivals
  done : u.inbound.done = d.inbound.done
  listFull : u.inbound.counts.listFull = if isFull then sat64 (d.inbound.counts.listFull + 1) else d.inbound.counts.listFull
  arenaFull : u.inbound.counts.arenaFull = if noRoom then sat64 (d.inbound.counts.arenaFull + 1) else d.inbound.counts.arenaFull
  span : u.span = (d.raiseFrame j (.busy q)).span
  recent : (∃ last, d.inbound.lastPressure = some last ∧ d.now < last + 1000000) →
    u.ports = d.ports ∧ u.inbound.refusals = d.inbound.refusals + 1
  told : (∀ last, d.inbound.lastPressure = some last → last + 1000000 ≤ d.now) →
    u.inbound.refusals = 0 ∧ u.inbound.lastPressure = some d.now ∧
      ∀ p : PortId, u.ports[p] =
        if d.ports[p].state = .online then
          d.ports[p].addNotice false
            (.inboundPressure isFull noRoom (d.inbound.refusals + 1) (2048 - d.inbound.arrivals.length) d.inbound.freeBlocks)
        else d.ports[p]

theorem Dev.refuseOpen_refused : d.OpenRefused j q listFull arenaFull (d.refuseOpen j q listFull arenaFull) := by
  by_cases h : ∃ last, d.inbound.lastPressure = some last ∧ d.now < last + 1000000
  · obtain ⟨last, hlast, hnow⟩ := h
    have hcount := Dev.countRefusal_recent (d := d.raiseFrame j (.busy q)) listFull arenaFull hlast hnow
    rw [Dev.refuseOpen_raised q listFull arenaFull hst, hcount]
    exact ⟨rfl, rfl, rfl, rfl, rfl, fun _ => ⟨rfl, rfl⟩, fun hlate => absurd (hlate last hlast) (Nat.not_le.2 hnow)⟩
  · have hlate : ∀ last, d.inbound.lastPressure = some last → last + 1000000 ≤ d.now := fun last hlast =>
      Nat.not_lt.1 fun hnow => h ⟨last, hlast, hnow⟩
    have hcount := Dev.countRefusal_told (d := d.raiseFrame j (.busy q)) listFull arenaFull hlate
    rw [Dev.refuseOpen_raised q listFull arenaFull hst, hcount]
    let e : Dev := { d.raiseFrame j (.busy q) with inbound := { d.inbound with
      refusals := 0, lastPressure := some d.now, counts := d.inbound.counts.refused listFull arenaFull } }
    let b : NoticeBody := .inboundPressure listFull arenaFull (d.inbound.refusals + 1) (2048 - d.inbound.arrivals.length) d.inbound.freeBlocks
    have hrest := e.broadcast_rest b
    have hports := e.broadcast_port b
    show d.OpenRefused j q listFull arenaFull ((e.broadcast b).countInbound _)
    generalize e.broadcast b = u at *
    have hinbound : u.inbound = e.inbound := (congrArg Dev.inbound hrest :)
    have hcounted (f : InboundCounts → InboundCounts) :
        (u.countInbound f).inbound = { e.inbound with counts := f e.inbound.counts } :=
      congrArg (fun x : Inbound => { x with counts := f x.counts }) hinbound
    constructor
    case arrivals => exact (congrArg Inbound.arrivals (hcounted _) :)
    case done => exact (congrArg Inbound.done (hcounted _) :)
    case listFull => exact (congrArg (fun x : Inbound => x.counts.listFull) (hcounted _) :)
    case arenaFull => exact (congrArg (fun x : Inbound => x.counts.arenaFull) (hcounted _) :)
    case span => exact (congrArg Dev.span hrest :)
    case recent => exact fun hnow => absurd hnow h
    case told =>
      exact fun _ => ⟨(congrArg Inbound.refusals (hcounted _) :), (congrArg Inbound.lastPressure (hcounted _) :), hports⟩

end Refused

end Sys2Proof.Machine
end

section
/-!
SUPPORT and settlement of O36: CARRY, and the silence timer of an arrival (R131 to R133).
-/

open Sys2Proof Sys2Proof.Machine

namespace Sys2Proof.Machine

/-! ## One arrival of the list -/

theorem Dev.modArrival_eq (id : Nat) (f : Arrival → Arrival) (d : Dev) :
    d.modArrival id f =
      { d with inbound := { d.inbound with arrivals := d.inbound.arrivals.map fun b => if b.id = id then f b else b } } := by
  unfold Dev.modArrival Dev.modInbound
  simp only [beq_iff_eq]

theorem find_map_arrival (id : Nat) (f : Arrival → Arrival) (hf : ∀ b, (f b).id = b.id) (l : List Arrival) :
    (l.map fun b => if b.id == id then f b else b).find? (fun b => b.id == id) = (l.find? fun b => b.id == id).map f := by
  induction l with
  | nil => rfl
  | cons b t ih =>
    rw [List.map_cons, List.find?_cons, List.find?_cons]
    by_cases h : b.id == id
    · rw [if_pos h, hf, h]
      rfl
    · rw [if_neg h, Bool.eq_false_iff.2 h]
      exact ih

theorem Dev.modArrival_arrival {id : Nat} {f : Arrival → Arrival} (hf : ∀ b, (f b).id = b.id) {d : Dev} {a : Arrival}
    (h : d.inbound.arrival id = some a) : (d.modArrival id f).inbound.arrival id = some (f a) := by
  have hmap := find_map_arrival id f hf d.inbound.arrivals
  exact hmap.trans (congrArg (Option.map f) h)

/-! ## What becomes of a CARRY (R131) -/

/-- R131: the chunk does not belong to the arrival. -/
def Arrival.badChunk (a : Arrival) (k len : Nat) : Prop :=
  a.kind = .delete ∨ (a.desc.payloadLen + 8191) / 8192 ≤ k ∨ len ≠ min 8192 (a.desc.payloadLen - 8192 * k)

section Fate

variable {x : Inbound} {j : SlotId} {q : Seq} {k len : Nat}

theorem Inbound.chunkFate_orphan (h : (x.arrivals.find? fun a => a.slot == j && a.desc.seq == q) = none) :
    x.chunkFate j q k len = .orphan := by
  unfold Inbound.chunkFate
  rw [h]

variable {a : Arrival} (h : (x.arrivals.find? fun a => a.slot == j && a.desc.seq == q) = some a)
include h

theorem Inbound.chunkFate_malformed (hbad : a.badChunk k len) : x.chunkFate j q k len = .malformed := by
  unfold Inbound.chunkFate
  rw [h]
  exact if_pos hbad

variable (hgood : ¬ a.badChunk k len)
include hgood

theorem Inbound.chunkFate_duplicate (hp : ∃ c ∈ a.chunks, c.1 = k) : x.chunkFate j q k len = .duplicate := by
  have hany : (a.chunks.any fun c => c.1 == k) = true := by
    obtain ⟨c, hc, hk⟩ := hp
    exact List.any_eq_true.2 ⟨c, hc, beq_iff_eq.2 hk⟩
  unfold Inbound.chunkFate
  rw [h]
  exact (if_neg hgood).trans (if_pos hany)

theorem Inbound.chunkFate_adds (hp : ¬ ∃ c ∈ a.chunks, c.1 = k) : x.chunkFate j q k len = .adds a.id := by
  have hany : ¬ (a.chunks.any fun c => c.1 == k) = true := by
    rw [List.any_eq_true]
    rintro ⟨c, hc, hk⟩
    exact hp ⟨c, hc, beq_iff_eq.1 hk⟩
  unfold Inbound.chunkFate
  rw [h]
  exact (if_neg hgood).trans (if_neg hany)

end Fate

/-! ## A chunk joins (R131) -/

theorem Tbl.put_length {α : Type} (l : List (Nat × α)) (k : Nat) (v : α) (h : ¬ ∃ e ∈ l, e.1 = k) :
    (Tbl.put l k v).length = l.length + 1 := by
  induction l with
  | nil => rfl
  | cons e t ih =>
    obtain ⟨n, w⟩ := e
    have hne : k ≠ n := fun hk => h ⟨(n, w), List.mem_cons_self, hk.symm⟩
    rw [Tbl.put, if_neg hne]
    split
    · rfl
    · rw [List.length_cons, ih fun ⟨e, he, hk⟩ => h ⟨e, List.mem_cons_of_mem _ he, hk⟩, List.length_cons]

/-- R131: the arrival with one more chunk; its silence timer starts anew. -/
def Arrival.plus (a : Arrival) (k : Nat) (data : List Byte) (now : Time) : Arrival :=
  { a with chunks := Tbl.put a.chunks k data, silenceDue := some (now + 20000) }

theorem Arrival.plus_complete {a : Arrival} {k : Nat} (data : List Byte) (now : Time) (h : ¬ ∃ c ∈ a.chunks, c.1 = k) :
    (a.plus k data now).complete = true ↔ a.chunks.length + 1 = (a.desc.payloadLen + 8191) / 8192 := by
  have hlen : (a.plus k data now).chunks.length = a.chunks.length + 1 := Tbl.put_length a.chunks k data h
  rw [Arrival.complete, beq_iff_eq, hlen]
  rfl

theorem Dev.addChunk_eq {d : Dev} {a : Arrival} (k : Nat) (data : List Byte) (h : d.inbound.arrival a.id = some a) :
    d.addChunk a.id k data =
      if (a.plus k data d.now).complete then
        (d.modArrival a.id fun b => b.plus k data d.now).arrivalComplete a.id
      else d.modArrival a.id fun b => b.plus k data d.now := by
  have harrival := Dev.modArrival_arrival (f := fun b => b.plus k data d.now) (fun _ => rfl) h
  show (match (d.modArrival a.id fun b => b.plus k data d.now).inbound.arrival a.id with
    | some c =>
      if c.complete then (d.modArrival a.id fun b => b.plus k data d.now).arrivalComplete a.id
      else d.modArrival a.id fun b => b.plus k data d.now
    | none => d.modArrival a.id fun b => b.plus k data d.now) = _
  rw [harrival] <;> rfl

/-! ## An arrival that is complete (R133) -/

/-- R126: what a finished arrival brings to the list of the done pairs is at its end, and stays there. -/
theorem Dev.settlePairs_done_mem (l : List (SlotId × Seq × ReceiptOutcome)) (hl : l.length ≤ 1) {d : Dev} {x : DoneEntry}
    {t : List DoneEntry} (h : d.inbound.done = t ++ [x]) : x ∈ (d.settlePairs l).inbound.done := by
  match l with
  | [] =>
    show x ∈ d.inbound.done
    rw [h]
    exact List.mem_append_right _ (List.mem_singleton.2 rfl)
  | [e] =>
    show x ∈ (d.settlePair e.1 e.2.1 e.2.2).inbound.done
    rw [Dev.settlePair_done_eq, h]
    refine List.mem_append_left _ ?_
    split
    · exact List.mem_append_right _ (List.mem_singleton.2 rfl)
    · next hlen =>
      have ht : 1 ≤ t.length := by
        rw [List.length_append, List.length_singleton] at hlen
        omega
      rw [List.drop_append_of_le_length ht]
      exact List.mem_append_right _ (List.mem_singleton.2 rfl)
  | _ :: _ :: _ => exact absurd hl (by simp)

theorem Arrival.receipts_eq (a : Arrival) (o : ReceiptOutcome) :
    ∃ l, a.receipts o = (a.slot, a.desc.seq, o) :: l ∧ l.length ≤ 1 := by
  unfold Arrival.receipts
  cases a.heldReceipt with
  | none => exact ⟨_, rfl, Nat.zero_le _⟩
  | some e => exact ⟨_, rfl, Nat.le_refl _⟩

theorem Dev.finish_done_mem (a : Arrival) (o : ReceiptOutcome) (d : Dev) :
    ⟨a.slot, a.desc.seq, o⟩ ∈ (d.finish a o).inbound.done := by
  obtain ⟨l, hreceipts, hl⟩ := a.receipts_eq o
  rw [Dev.finish_eq, hreceipts]
  exact Dev.settlePairs_done_mem l hl (Dev.settlePair_done_eq a.slot a.desc.seq o d)

theorem Dev.finish_raised_mem {a : Arrival} {j : SlotId} (o : ReceiptOutcome) {d : Dev} (hj : a.slot = j)
    (h : d.sites[j].state ≠ .fenced) : (j, a.desc.seq, o) ∈ (d.finish a o).inbound.raised := by
  subst hj
  obtain ⟨l, hreceipts, _⟩ := a.receipts_eq o
  rw [Dev.finish_raised, hreceipts]
  refine List.mem_append_right _ (List.mem_filter.2 ⟨List.mem_cons_self, ?_⟩)
  exact bne_iff_ne.2 h

theorem Dev.settlePair_digestRefusals (j : SlotId) (s : Seq) (o : ReceiptOutcome) (d : Dev) :
    (d.settlePair j s o).inbound.counts.digestRefusals = d.inbound.counts.digestRefusals := by
  unfold Dev.settlePair
  by_cases h : d.sites[j].state = .fenced
  · rw [Dev.raiseReceipt_fenced s o h]
    rfl
  · rw [Dev.raiseReceipt_open s o h]
    rfl

theorem Dev.finish_digestRefusals (a : Arrival) (o : ReceiptOutcome) (d : Dev) :
    (d.finish a o).inbound.counts.digestRefusals = d.inbound.counts.digestRefusals := by
  rw [Dev.finish_eq]
  exact foldl_keeps (fun e : Dev => e.inbound.counts.digestRefusals) (fun d e => d.settlePair e.1 e.2.1 e.2.2)
    (fun d e => d.settlePair_digestRefusals e.1 e.2.1 e.2.2) (a.receipts o) d

section Complete

variable {d : Dev} {id : Nat} {a : Arrival} (h : d.inbound.arrival id = some a)
include h

/-- R133: the payload of another digest. -/
theorem Dev.arrivalComplete_refused (hk : a.kind ≠ .delete) (hcrc : crc32 a.payload ≠ a.desc.digest) :
    d.arrivalComplete id =
      ((d.modArrival id fun b => { b with silenceDue := none }).finish a .refused).countInbound
        fun c => { c with digestRefusals := sat64 (c.digestRefusals + 1) } := by
  unfold Dev.arrivalComplete
  rw [h]
  exact if_pos (by simp [hk, hcrc])

/-- R133: no entry of the key index has the key. -/
theorem Dev.arrivalComplete_unknown (hcrc : crc32 a.payload = a.desc.digest)
    (hfind : d.index.find a.desc.bucket a.desc.keyHash a.desc.keyLen = none) :
    d.arrivalComplete id = (d.modArrival id fun b => { b with silenceDue := none }).arrivalKnown id .none := by
  have hlookup : (d.modArrival id fun b => { b with silenceDue := none }).lookup a.desc.bucket a.desc.keyHash a.desc.keyLen a.desc.key =
      .known .none := by
    unfold Dev.lookup
    rw [show (d.modArrival id fun b => { b with silenceDue := none }).index = d.index from rfl, hfind]
  unfold Dev.arrivalComplete
  rw [h]
  refine (if_neg (by simp [hcrc])).trans ?_
  rw [hlookup]

end Complete

theorem Dev.arrivalKnown_none (id : Nat) (d : Dev) :
    d.arrivalKnown id .none =
      { d with inbound := { d.inbound with
        nextOrder := d.inbound.nextOrder + 1
        arrivals := d.inbound.arrivals.map fun b =>
          if b.id = id then
            { b with state := .waitingLanding, lookup := .none, compare := some .none, order := d.inbound.nextOrder }
          else b } } := by
  unfold Dev.arrivalKnown
  dsimp only
  rw [Dev.modArrival_eq]
  rfl

/-- Two changes of one arrival, as one. -/
theorem map_arrivals (id : Nat) (f g : Arrival → Arrival) (hf : ∀ b, (f b).id = b.id) (l : List Arrival) :
    (l.map fun b => if b.id = id then f b else b).map (fun b => if b.id = id then g b else b) =
      l.map fun b => if b.id = id then g (f b) else b := by
  rw [List.map_map]
  refine List.map_congr_left fun b _ => ?_
  by_cases h : b.id = id <;> simp [h, hf]

/-- The other arrivals. -/
theorem filter_map_arrivals (id : Nat) (f : Arrival → Arrival) (hf : ∀ b, (f b).id = b.id) (l : List Arrival) :
    (l.map fun b => if b.id = id then f b else b).filter (fun b => b.id != id) = l.filter fun b => b.id != id := by
  induction l with
  | nil => rfl
  | cons b t ih => by_cases h : b.id = id <;> simp_all

/-! ## The silence timer (R132) -/

theorem Dev.silenceExpired_gap {d : Dev} {id : Nat} {a : Arrival} (h : d.inbound.arrival id = some a) (hg : a.gaps < 4) :
    d.silenceExpired id =
      (Dev.countInbound (fun c => { c with gapReports := sat64 (c.gapReports + 1) })
        (if d.siteState a.slot = .fenced then d else d.raiseFrame a.slot (.gap a.desc.seq ((ranges a.missing).take 32)))).modArrival
        id fun a => { a with gaps := a.gaps + 1, silenceDue := some (d.now + 20000) } := by
  unfold Dev.silenceExpired
  rw [h]
  refine (if_pos hg).trans ?_
  dsimp only
  split <;> rfl

theorem Dev.silenceExpired_drop {d : Dev} {id : Nat} {a : Arrival} (h : d.inbound.arrival id = some a) (hg : 4 ≤ a.gaps) :
    d.silenceExpired id = (d.dropArrival id).countInbound fun c => { c with dropped := sat64 (c.dropped + 1) } := by
  unfold Dev.silenceExpired
  rw [h]
  exact if_neg (Nat.not_lt.2 hg)

/-! ## The frames that are handed on -/

theorem InBody.badContents_opening_good {len : Nat} {o : OpenDesc} {k : IntentKind} (receiver : Nat) (hmin : 192 ≤ len)
    (hmax : len ≤ 416) (hmod : len % 16 = 0) (hk : intentKindOf o.kind = some k) :
    (InBody.opening len o).badContents receiver = false := by
  simp only [InBody.badContents]
  simp [hk, hmod]
  omega

theorem InBody.badContents_carry_good {data : List Byte} (receiver q k : Nat) (hne : data ≠ []) (hlen : data.length ≤ 8192) :
    (InBody.carry q k data).badContents receiver = false := by
  simp only [InBody.badContents]
  simp [hne, hlen]

theorem Dev.receiveOpen_good {d : Dev} {site len : Nat} {o : OpenDesc} {k : IntentKind} (j : SlotId) (h : openGood o site len)
    (hk : intentKindOf o.kind = some k) : d.receiveOpen j site len o = d.takeOpen j o k := by
  unfold Dev.receiveOpen
  rw [openKind_of_good h hk]

theorem Dev.receiveOpen_bad {d : Dev} {site len : Nat} {o : OpenDesc} (j : SlotId) (h : ¬ openGood o site len) :
    d.receiveOpen j site len o = d.latchSlot .protocol j := by
  unfold Dev.receiveOpen
  rw [openKind_of_bad h]

/-- R131: what a CARRY does by its fate. -/
def Dev.chunkEffect (j : SlotId) (k : Nat) (data : List Byte) (d : Dev) : Chunk → Dev
  | .orphan => d.countInbound fun n => { n with orphans := sat64 (n.orphans + 1) }
  | .malformed => d.latchSlot .protocol j
  | .duplicate => d.countInbound fun n => { n with duplicates := sat64 (n.duplicates + 1) }
  | .adds id => d.addChunk id k data

theorem Dev.receiveCarry_eq (d : Dev) (j : SlotId) (q k : Nat) (data : List Byte) :
    d.receiveCarry j q k data = d.chunkEffect j k data (d.inbound.chunkFate j q k data.length) := by
  unfold Dev.receiveCarry Dev.chunkEffect
  cases d.inbound.chunkFate j q k data.length <;> rfl

/-- R61: a slot that hears its site is not FENCED. -/
theorem Dev.hearsAt_not_fenced {d : Dev} {j : SlotId} {site : Nat} (h : d.hearsAt j site) : d.sites[j].state ≠ .fenced := by
  intro hf
  obtain ⟨hhears, _⟩ := h
  rw [show d.siteState j = .fenced from hf] at hhears
  cases hhears

end Sys2Proof.Machine

/-- Settles O36: R128's cases for an OPEN and R131's for a CARRY, each by the rule of its case; and R132's timer. -/
theorem openAndCarryFillTheArrivalList : Obligations.OpenAndCarryFillTheArrivalList := by
  constructor
  · intro s t sp h j hup hl hj hst hk d x n up ended protocol
    have hopen : d.sites[j].state ≠ .fenced := Dev.hearsAt_not_fenced hj
    have hsite : (d.config j).site = some h.sender := hj.2.1
    have hlatched (c : Instr) (b : InBody) (hc : arrives c = some (t, sp, h, b)) (hu : d.receive sp h b = d.latchSlot .protocol j) :
        protocol c := by
      refine ⟨_, exec_arrives_next hup.1 hc hu, ?_, ?_⟩
      · rw [Dev.latchProtocol_sites]
        exact Vector.getElem_set_self j.isLt
      · exact (congrArg Dev.inbound (d.latchProtocol_rest j) :)
    constructor
    · intro len o hmin hmax hmod open_ good done known rival need blocks fresh nextId refusal
      have hkind (hb : ¬ ∃ k, intentKindOf o.kind = some k) : (InBody.opening len o).badContents h.receiver = true := by
        refine InBody.badContents_opening h.receiver (.inr (.inr (.inr ?_)))
        by_contra hrange
        have hin : o.kind = 1 ∨ o.kind = 2 ∨ o.kind = 3 := by omega
        refine hb ?_
        rcases hin with h | h | h <;> exact ⟨_, by rw [h]; rfl⟩
      have hhanded {k : IntentKind} (hk' : intentKindOf o.kind = some k) :
          d.receive sp h (.opening len o) = d.receiveOpen j h.sender len o :=
        Dev.receive_known sp hl hj hup.2 (InBody.badContents_opening_good h.receiver hmin hmax hmod hk') hst hk
      have htaken (hg : openGood o h.sender len) {k : IntentKind} (hk' : intentKindOf o.kind = some k) {u : Dev}
          (hu : d.takeOpen j o k = u) : exec open_ s = .next { s with dev := u.settle } :=
        exec_arrives_next hup.1 rfl ((hhanded hk').trans ((Dev.receiveOpen_good j hg hk').trans hu))
      have hrefused : refusal (d.refuseOpen j o.seq (decide (2048 ≤ d.inbound.arrivals.length))
          (decide (d.inbound.freeBlocks < chunkCount o.payloadLen))) := by
        have hall := Dev.refuseOpen_refused o.seq (decide (2048 ≤ d.inbound.arrivals.length))
          (decide (d.inbound.freeBlocks < chunkCount o.payloadLen)) hopen
        have hframe := Dev.raiseFrame_eq (.busy o.seq) hl hsite
        obtain ⟨harrivals, hdone, hlist, harena, hspan, hrecent, htold⟩ := hall
        refine ⟨harrivals, hdone, hlist.trans (if_congr decide_eq_true_iff rfl rfl), harena.trans (if_congr decide_eq_true_iff rfl rfl),
          hspan.trans (congrArg Dev.span hframe :), hrecent, htold⟩
      refine ⟨fun hbad => ?bad, fun hg e he => ?done, fun hg hdone hknown => ?known, fun hg hdone hnew hrival hroom hblocks k hk' hd => ?creates,
        fun hg hdone hnew hrival hfull => ?refuses, fun hg hdone hnew e hrival => ?displaces⟩
      case bad =>
        refine hlatched _ (.opening len o) rfl ?_
        by_cases hkinds : ∃ k, intentKindOf o.kind = some k
        · obtain ⟨k, hk'⟩ := hkinds
          exact (hhanded hk').trans (Dev.receiveOpen_bad j hbad)
        · exact Dev.receive_badContents sp hl hj (SiteState.admits_of_ne_probing _ hst) (hkind hkinds)
      case done =>
        obtain ⟨k, hk'⟩ := openGood.kind hg
        exact htaken hg hk' (Dev.takeOpen_done k hopen he)
      case known =>
        obtain ⟨k, hk'⟩ := openGood.kind hg
        exact htaken hg hk' (Dev.takeOpen_known k hdone hknown)
      case creates =>
        exact htaken hg hk' ((Dev.takeOpen_created (d := d) k hdone hnew hrival hroom hblocks).trans
          (Dev.createArrival_incomplete j k none (openGood.payload_pos hg hk' hd)))
      case refuses =>
        obtain ⟨k, hk'⟩ := openGood.kind hg
        exact ⟨_, htaken hg hk' (Dev.takeOpen_refused k hdone hnew hrival hfull), hrefused⟩
      case displaces =>
        intro newer
        refine ⟨fun hold => ?_, fun hyoung hblocks hheld k hk' hd => ?_, fun hyoung hblocks => ?_⟩
        · obtain ⟨k, hk'⟩ := openGood.kind hg
          exact htaken hg hk' (Dev.takeOpen_older k hdone hnew hrival hopen hold)
        · exact htaken hg hk' ((Dev.takeOpen_displaces (d := d) k hdone hnew hrival hyoung hblocks hheld).trans
            (Dev.createArrival_incomplete j k _ (openGood.payload_pos hg hk' hd)))
        · obtain ⟨k, hk'⟩ := openGood.kind hg
          exact ⟨_, htaken hg hk' (Dev.takeOpen_refused_newer k hdone hnew hrival hyoung hblocks), hrefused⟩
    · intro q k data hne hlen carry found
      have hhanded : d.receive sp h (.carry q k data) = d.receiveCarry j q k data :=
        Dev.receive_known sp hl hj hup.2 (InBody.badContents_carry_good h.receiver q k hne hlen) hst hk
      have hfate {c : Chunk} (hc : d.inbound.chunkFate j q k data.length = c) :
          exec carry s = .next { s with dev := (d.chunkEffect j k data c).settle } :=
        exec_arrives_next hup.1 rfl (hhanded.trans ((d.receiveCarry_eq j q k data).trans (congrArg (d.chunkEffect j k data) hc)))
      refine ⟨fun hnone => hfate (Inbound.chunkFate_orphan hnone), ?_⟩
      intro a ha chunks bad present more
      have hslot : a.slot = j ∧ a.desc.seq = q := by
        have hp := List.find?_some ha
        rwa [Bool.and_eq_true, beq_iff_eq, beq_iff_eq] at hp
      have hadds (hgood : ¬ bad) (hp : ¬ present) {u : Dev} (hu : d.addChunk a.id k data = u) :
          exec carry s = .next { s with dev := u.settle } := by
        subst hu
        exact hfate (Inbound.chunkFate_adds ha hgood hp)
      refine ⟨fun hbad => ?bad, fun hgood hp => hfate (Inbound.chunkFate_duplicate ha hgood hp),
        fun hgood hp hfound hmore => ?joins, fun hgood hp hfound hlast hcrc => ?refused, fun hgood hp hfound hlast hcrc hfind => ?completes⟩
      case bad =>
        exact hlatched _ (.carry q k data) rfl (hhanded.trans ((d.receiveCarry_eq j q k data).trans
          (congrArg (d.chunkEffect j k data) (Inbound.chunkFate_malformed ha hbad))))
      case joins =>
        have harrived : d.inbound.arrival a.id = some a := hfound
        refine hadds hgood hp ((Dev.addChunk_eq k data harrived).trans ((if_neg ?_).trans (Dev.modArrival_eq _ _ _)))
        exact (Arrival.plus_complete data d.now hp).not.2 hmore
      case refused =>
        have harrived : d.inbound.arrival a.id = some a := hfound
        have harrival := Dev.modArrival_arrival (f := fun b => b.plus k data d.now) (fun _ => rfl) harrived
        have hkind : (a.plus k data d.now).kind ≠ .delete := fun hd => hgood (.inl hd)
        have hcomplete := Dev.arrivalComplete_refused harrival hkind hcrc
        have hu := (Dev.addChunk_eq k data harrived).trans ((if_pos ((Arrival.plus_complete data d.now hp).2 hlast)).trans hcomplete)
        obtain ⟨e, he⟩ : ∃ e : Dev, e =
          (d.modArrival a.id fun b => b.plus k data d.now).modArrival a.id fun b => { b with silenceDue := none } := ⟨_, rfl⟩
        rw [← he] at hu
        have hesites : e.sites = d.sites := he ▸ rfl
        have hcounts : e.inbound.counts = n := he ▸ rfl
        have hothers : (e.inbound.arrivals.filter fun b => b.id != a.id) = x.arrivals.filter fun b => b.id != a.id := by
          rw [he, Dev.modArrival_eq, Dev.modArrival_eq]
          dsimp only
          rw [filter_map_arrivals a.id (fun b => { b with silenceDue := none }) fun _ => rfl,
            filter_map_arrivals a.id (fun b => b.plus k data d.now) fun _ => rfl]
          rfl
        have hraised := Dev.finish_raised_mem (a := a.plus k data d.now) .refused (d := e) hslot.1 (by rw [hesites]; exact hopen)
        have hdone := Dev.finish_done_mem (a.plus k data d.now) .refused e
        have harrivals := Dev.finish_arrivals (a.plus k data d.now) .refused e
        have hdigest := Dev.finish_digestRefusals (a.plus k data d.now) .refused e
        rw [show (a.plus k data d.now).desc.seq = q from hslot.2] at hraised hdone
        rw [show (a.plus k data d.now).slot = j from hslot.1] at hdone
        rw [hcounts] at hdigest
        exact ⟨_, hadds hgood hp hu, harrivals.trans hothers, hraised, hdone, congrArg (fun c => sat64 (c + 1)) hdigest⟩
      case completes =>
        have harrived : d.inbound.arrival a.id = some a := hfound
        have harrival := Dev.modArrival_arrival (f := fun b => b.plus k data d.now) (fun _ => rfl) harrived
        have hcomplete := Dev.arrivalComplete_unknown harrival hcrc hfind
        refine hadds hgood hp ((Dev.addChunk_eq k data harrived).trans
          ((if_pos ((Arrival.plus_complete data d.now hp).2 hlast)).trans (hcomplete.trans ?_)))
        rw [Dev.arrivalKnown_none, Dev.modArrival_eq, Dev.modArrival_eq]
        dsimp only
        rw [map_arrivals a.id (fun b => b.plus k data d.now) (fun b => { b with silenceDue := none }) fun _ => rfl,
          map_arrivals a.id (fun b => { b.plus k data d.now with silenceDue := none }) _ fun _ => rfl]
        rfl
  · intro s id a due own site hup hfound hdue hl hsite d c sp f
    have hexec {u : Dev} (hu : d.silenceExpired id = u) : exec (.silenceTimerExpiry id) s = .next { s with dev := u.settle } := by
      have hbind : (s.dev.inbound.arrival id).bind (fun a => a.silenceDue) = some due := by
        rw [show s.dev.inbound.arrival id = some a from hfound]
        exact hdue
      show s.goOn (Dev.silenceExpiry id) = _
      rw [State.goOn_next, Dev.silenceExpiry, hbind, Dev.expiry_up _ hup]
      exact congrArg (fun u : Dev => Host.Outcome.next { s with dev := u.settle }) hu
    refine ⟨fun hg => ?_, fun hg => hexec (Dev.silenceExpired_drop hfound hg)⟩
    have hframe := Dev.raiseFrame_eq (.gap a.desc.seq ((ranges a.missing).take 32)) (d := d) (j := a.slot) hl hsite
    have hu := (Dev.silenceExpired_gap (d := d) hfound hg).trans (Dev.modArrival_eq _ _ _)
    by_cases hst : d.siteState a.slot = .fenced
    · rw [if_pos hst] at hu
      exact ⟨_, hexec hu, rfl, (if_neg fun h => h.1 hst).symm, rfl⟩
    · rw [if_neg hst, hframe] at hu
      refine ⟨_, hexec hu, rfl, ?_, ?_⟩
      · refine (congrArg SpanPort.ctrlQ (Vector.getElem_set_self (xs := s.dev.span) sp.isLt)).trans ?_
        exact if_congr (and_iff_right hst).symm rfl rfl
      · rfl

end

section
/-!
SUPPORT of O54: the beginning of a quiesce, and its end by the power-warn line (R150, R186, R188, R189).
-/

open Sys2Proof Sys2Proof.Machine

namespace Sys2Proof.Machine

/-! ## The timers of the generators (R54, R89, R189) -/

theorem mem_allGens (g : GenId) : g ∈ allGens := by revert g; decide

theorem Dev.foldl_setGenDue_gens (f : GenId → Option Time) (l : List GenId) (d : Dev) (g : GenId) :
    (l.foldl (fun d g => d.setGenDue g (f g)) d).gens[g] = if g ∈ l then { d.gens[g] with due := f g } else d.gens[g] := by
  induction l generalizing d with
  | nil => rfl
  | cons k t ih =>
    have hstep : (d.setGenDue k (f k)).gens[g] = if g = k then { d.gens[g] with due := f g } else d.gens[g] := by
      unfold Dev.setGenDue
      dsimp only [Fin.getElem_fin]
      rw [Vector.getElem_set]
      by_cases h : g = k
      · subst h
        simp
      · rw [if_neg fun hk => h (Fin.ext hk.symm), if_neg h]
    rw [List.foldl_cons, ih, hstep]
    by_cases h : g = k
    · subst h
      simp
    · simp [h]

theorem Dev.foldl_setGenDue_rest (f : GenId → Option Time) (l : List GenId) (d : Dev) :
    { l.foldl (fun d g => d.setGenDue g (f g)) d with gens := d.gens } = d :=
  foldl_keeps (fun e : Dev => { e with gens := d.gens }) (fun d g => d.setGenDue g (f g)) (fun _ _ => rfl) l d

theorem Dev.stopGens_gens (d : Dev) (g : GenId) : d.stopGens.gens[g] = { d.gens[g] with due := none } :=
  (Dev.foldl_setGenDue_gens (fun _ => none) allGens d g).trans (if_pos (mem_allGens g))

theorem Dev.stopGens_rest (d : Dev) : { d.stopGens with gens := d.gens } = d := Dev.foldl_setGenDue_rest (fun _ => none) allGens d

/-- R90: when the period of a generator that starts ends. -/
def Dev.firstPeriod (d : Dev) (g : GenId) : Option Time :=
  if d.settings.gens[g].enable then some (d.now + d.settings.gens[g].period) else none

/-- R90: a generator's timer follows from the settings and the time, which no generator changes. -/
theorem Dev.foldl_startGen (l : List GenId) (d e : Dev) (hs : d.settings = e.settings) (hn : d.now = e.now) :
    l.foldl (fun d g => d.startGen g) d = l.foldl (fun d g => d.setGenDue g (e.firstPeriod g)) d := by
  induction l generalizing d with
  | nil => rfl
  | cons g t ih =>
    have hstep : d.startGen g = d.setGenDue g (e.firstPeriod g) := by
      unfold Dev.startGen Dev.firstPeriod
      rw [hs, hn]
    rw [List.foldl_cons, List.foldl_cons, hstep]
    exact ih _ hs hn

theorem Dev.startGens_gens (d : Dev) (g : GenId) : d.startGens.gens[g] = { d.gens[g] with due := d.firstPeriod g } := by
  rw [Dev.startGens, Dev.foldl_startGen allGens d d rfl rfl, Dev.foldl_setGenDue_gens, if_pos (mem_allGens g)]

theorem Dev.startGens_rest (d : Dev) : { d.startGens with gens := d.gens } = d := by
  rw [Dev.startGens, Dev.foldl_startGen allGens d d rfl rfl]
  exact Dev.foldl_setGenDue_rest d.firstPeriod allGens d

/-! ## The reclaim engine stops (R150) -/

theorem Dev.stopReclaim_rest (d : Dev) : { d.stopReclaim with reclaim := d.reclaim, array := d.array } = d := by
  unfold Dev.stopReclaim
  split <;> rfl

theorem Dev.stopReclaim_idle {d : Dev} (h : d.reclaim.engine = .idle) : d.stopReclaim = d := by
  unfold Dev.stopReclaim
  rw [h]

theorem Dev.stopReclaim_waiting {d : Dev} {n : Nat} (h : d.reclaim.engine = .waiting n) :
    d.stopReclaim = { d with reclaim := { d.reclaim with engine := .idle, withdrawn := sat32 (d.reclaim.withdrawn + 1) } } := by
  unfold Dev.stopReclaim
  rw [h]
  rfl

/-- R150: the erase is abandoned. -/
theorem Dev.stopReclaim_erasing {d : Dev} {n : Nat} (h : d.reclaim.engine = .erasing n) :
    d.stopReclaim.reclaim = { d.reclaim with engine := .idle } ∧ d.stopReclaim.array.suspended = none ∧
      d.stopReclaim.seg n = { d.seg n with state := .damaged, pages := [] } ∧
      (∀ m, m ≠ n → d.stopReclaim.seg m = d.seg m) ∧
      ∀ m, d.array.op = some (.erase m) ∨ d.array.op = some (.suspending m) → d.stopReclaim.array.op = none := by
  let x : Segment := { d.seg n with state := .damaged, pages := [] }
  have hx : x ≠ d.array.blankSeg := fun hblank => nomatch congrArg Segment.state hblank
  have hseg (m : Nat) : d.stopReclaim.seg m = (d.array.putSeg n x).seg m := by
    unfold Dev.stopReclaim
    rw [h]
    rfl
  refine ⟨?_, ?_, (hseg n).trans (d.array.putSeg_seg_self n hx), fun m hm => (hseg m).trans (d.array.putSeg_seg_other n m x hm), ?_⟩
  · unfold Dev.stopReclaim
    rw [h]
    rfl
  · unfold Dev.stopReclaim
    rw [h]
    rfl
  · intro m hop
    have hmod : (d.modSeg n fun s => { s with state := .damaged, pages := [] }).array.op = d.array.op := rfl
    unfold Dev.stopReclaim
    rw [h]
    dsimp only
    rw [hmod]
    rcases hop with hop | hop <;> (rw [hop]; rfl)

/-! ## A quiesce begins (R186) -/

theorem HeldList.stop_eq (h : HeldList) :
    h.stop =
      { h with
        entries := h.entries.map fun (e : HeldEntry) =>
          match e.state with
          | .waiting _ => { e with state := .waiting none }
          | _ => e } := by
  unfold HeldList.stop
  refine congrArg (fun l : List HeldEntry => { h with entries := l }) (List.map_congr_left fun e _ => ?_)
  obtain ⟨q, st⟩ := e
  cases st <;> rfl

/-- R186: the part when the quiesce has begun, and its timers have stopped. -/
def Dev.quiesceBegun (line : Line) (d : Dev) : Dev :=
  Dev.stopSilence (Dev.stopGens
    { d with
      part := .quiescing
      power := { d.power with phase := .placing, causePower := line == Line.power, causeReset := line == Line.reset }
      held := d.held.stop
      status := { d.status with checkpoint := .stopped } })

theorem Dev.quiesceBegun_rest (line : Line) (d : Dev) :
    { d.quiesceBegun line with gens := d.gens } =
      { d with
        part := .quiescing
        power := { d.power with phase := .placing, causePower := line == Line.power, causeReset := line == Line.reset }
        held := d.held.stop
        status := { d.status with checkpoint := .stopped }
        inbound := { d.inbound with arrivals := d.inbound.arrivals.map fun (a : Arrival) => { a with silenceDue := none } } } := by
  let e : Dev := { d with
    part := .quiescing
    power := { d.power with phase := .placing, causePower := line == Line.power, causeReset := line == Line.reset }
    held := d.held.stop
    status := { d.status with checkpoint := .stopped } }
  have hrest := e.stopGens_rest
  show { e.stopGens.stopSilence with gens := d.gens } = _
  generalize e.stopGens = u at *
  have hinbound : u.inbound = d.inbound := (congrArg Dev.inbound hrest :)
  unfold Dev.stopSilence Dev.modInbound
  rw [hinbound]
  exact congrArg (fun v : Dev => { v with
    inbound := { d.inbound with arrivals := d.inbound.arrivals.map fun (a : Arrival) => { a with silenceDue := none } } }) hrest

theorem Dev.quiesceBegun_gens (line : Line) (d : Dev) (g : GenId) : (d.quiesceBegun line).gens[g] = { d.gens[g] with due := none } :=
  Dev.stopGens_gens _ g

theorem Dev.enterQuiesce_eq (line : Line) (d : Dev) : d.enterQuiesce line = (d.quiesceBegun line).stopReclaim.stopSpan.stopFetches := rfl

/-- R186: the sends, the control queues and the payload reads, beside what the reclaim engine leaves. -/
theorem Dev.stopSpan_stopFetches (d : Dev) :
    d.stopSpan.stopFetches =
      { d with
        sites := d.sites.map fun x => { x with send := none }
        span := d.span.map fun s => { s with ctrlQ := [] }
        fetch := { d.fetch with active := d.fetch.active.map fun (a : Fetch) => { a with reading := false } } } := rfl

/-- R186: all that the beginning of a quiesce changes. -/
structure Dev.QuiesceBegins (line : Line) (d u : Dev) : Prop where
  part : u.part = .quiescing
  power : u.power = { d.power with phase := .placing, causePower := line == Line.power, causeReset := line == Line.reset }
  status : u.status = { d.status with checkpoint := .stopped }
  held : u.held = d.held.stop
  gens (g : GenId) : u.gens[g] = { d.gens[g] with due := none }
  sites (j : SlotId) : u.sites[j] = { d.sites[j] with send := none }
  span (sp : SpanId) : u.span[sp] = { d.span[sp] with ctrlQ := [] }
  fetch : u.fetch = { d.fetch with active := d.fetch.active.map fun (a : Fetch) => { a with reading := false } }
  inbound : u.inbound =
    { d.inbound with arrivals := d.inbound.arrivals.map fun (a : Arrival) => { a with silenceDue := none } }
  reclaim : u.reclaim = d.stopReclaim.reclaim
  array : u.array = d.stopReclaim.array
  journal : u.journal = d.journal
  ports : u.ports = d.ports
  intake : u.intake = d.intake
  settings : u.settings = d.settings
  guard : u.guard = d.guard
  index : u.index = d.index

theorem Dev.stopReclaim_congr {d e : Dev} (hr : e.reclaim = d.reclaim) (ha : e.array = d.array) :
    e.stopReclaim.reclaim = d.stopReclaim.reclaim ∧ e.stopReclaim.array = d.stopReclaim.array := by
  have hsame : e = { d with
      now := e.now, examined := e.examined, nextToken := e.nextToken, part := e.part, power := e.power, settings := e.settings
      journal := e.journal, index := e.index, held := e.held, status := e.status, sites := e.sites, span := e.span
      foreign := e.foreign, gens := e.gens, fetch := e.fetch, inbound := e.inbound, dma := e.dma, guard := e.guard
      ports := e.ports, partLost := e.partLost, intake := e.intake, journalMedia := e.journalMedia
      retentionLost := e.retentionLost } := by
    rw [← hr, ← ha]
  rw [hsame]
  unfold Dev.stopReclaim
  dsimp only
  cases d.reclaim.engine <;> exact ⟨rfl, rfl⟩

theorem Dev.enterQuiesce_begins (line : Line) (d : Dev) : d.QuiesceBegins line (d.enterQuiesce line) := by
  have hbegun := d.quiesceBegun_rest line
  have hgens := d.quiesceBegun_gens line
  have hstopped := (d.quiesceBegun line).stopReclaim_rest
  have hengine := Dev.stopReclaim_congr (d := d) (e := d.quiesceBegun line) (congrArg Dev.reclaim hbegun :) (congrArg Dev.array hbegun :)
  rw [Dev.enterQuiesce_eq, Dev.stopSpan_stopFetches]
  generalize (d.quiesceBegun line).stopReclaim = u at *
  generalize d.quiesceBegun line = v at *
  obtain ⟨hreclaim, harray⟩ := hengine
  have hsites : u.sites = d.sites := (congrArg Dev.sites hstopped :).trans (congrArg Dev.sites hbegun :)
  have hspan : u.span = d.span := (congrArg Dev.span hstopped :).trans (congrArg Dev.span hbegun :)
  have hfetch : u.fetch = d.fetch := (congrArg Dev.fetch hstopped :).trans (congrArg Dev.fetch hbegun :)
  constructor
  case part => exact (congrArg Dev.part hstopped :).trans (congrArg Dev.part hbegun :)
  case power => exact (congrArg Dev.power hstopped :).trans (congrArg Dev.power hbegun :)
  case status => exact (congrArg Dev.status hstopped :).trans (congrArg Dev.status hbegun :)
  case held => exact (congrArg Dev.held hstopped :).trans (congrArg Dev.held hbegun :)
  case gens =>
    intro g
    have hsame : u.gens = v.gens := (congrArg Dev.gens hstopped :)
    exact (congrArg (fun x : Vector GenRun 8 => x[g]) hsame).trans (hgens g)
  case sites =>
    intro j
    rw [← hsites]
    exact Vector.getElem_map _ j.isLt
  case span =>
    intro sp
    rw [← hspan]
    exact Vector.getElem_map _ sp.isLt
  case fetch =>
    rw [← hfetch]
  case inbound => exact (congrArg Dev.inbound hstopped :).trans (congrArg Dev.inbound hbegun :)
  case reclaim => exact hreclaim
  case array => exact harray
  case journal => exact (congrArg Dev.journal hstopped :).trans (congrArg Dev.journal hbegun :)
  case ports => exact (congrArg Dev.ports hstopped :).trans (congrArg Dev.ports hbegun :)
  case intake => exact (congrArg Dev.intake hstopped :).trans (congrArg Dev.intake hbegun :)
  case settings => exact (congrArg Dev.settings hstopped :).trans (congrArg Dev.settings hbegun :)
  case guard => exact (congrArg Dev.guard hstopped :).trans (congrArg Dev.guard hbegun :)
  case index => exact (congrArg Dev.index hstopped :).trans (congrArg Dev.index hbegun :)

/-! ## The return to READY (R189) -/

theorem Dev.probe_kept (d : Dev) (j : SlotId) :
    { d.probe j with sites := d.sites, ports := d.ports, span := d.span } = d :=
  congrArg (fun e : Dev => { e with span := d.span }) (d.probe_rest j)

theorem Dev.probeAll_rest (test : SiteState → Bool) (d : Dev) :
    { d.probeAll test with sites := d.sites, ports := d.ports, span := d.span } = d := by
  refine foldl_keeps (fun e : Dev => { e with sites := d.sites, ports := d.ports, span := d.span }) _ (fun e j => ?_) allSlots d
  split
  · exact congrArg (fun x : Dev => { x with sites := d.sites, ports := d.ports, span := d.span }) (e.probe_kept j)
  · rfl

theorem Dev.moveFetch_checkpoint (s : Seq) (p : PortId) (d : Dev) :
    (d.moveFetch s p).status.checkpoint = d.status.checkpoint := by
  unfold Dev.moveFetch Dev.blockFetch
  split
  · dsimp only
    split <;> rfl
  · rfl

/-- R189: a fetch in progress starts a new read. -/
def Dev.resumeFetch (d : Dev) (a : Fetch) : Dev :=
  if d.online a.port then d.modFetch (FetchUnit.newRead a.req.seq a.port d.now) else d.moveFetch a.req.seq a.port

theorem Dev.resumeFetch_rest (d : Dev) (a : Fetch) :
    { d.resumeFetch a with fetch := d.fetch, status := d.status, sites := d.sites } = d := by
  unfold Dev.resumeFetch
  split
  · rfl
  · exact d.moveFetch_rest a.req.seq a.port

theorem Dev.resumeFetches_rest (d : Dev) :
    { d.resumeFetches with fetch := d.fetch, status := d.status, sites := d.sites } = d :=
  foldl_keeps (fun e : Dev => { e with fetch := d.fetch, status := d.status, sites := d.sites }) Dev.resumeFetch
    (fun e a => congrArg (fun x : Dev => { x with fetch := d.fetch, status := d.status, sites := d.sites }) (e.resumeFetch_rest a))
    d.fetch.active d

theorem Dev.resumeFetches_checkpoint (d : Dev) : d.resumeFetches.status.checkpoint = d.status.checkpoint := by
  refine foldl_keeps (fun e : Dev => e.status.checkpoint) Dev.resumeFetch (fun e a => ?_) d.fetch.active d
  unfold Dev.resumeFetch
  split
  · rfl
  · exact e.moveFetch_checkpoint a.req.seq a.port

/-- R189: what the return to READY sets. -/
theorem Dev.returnToReady_ready (d : Dev) :
    d.returnToReady.part = .ready ∧
      d.returnToReady.power = { d.power with phase := .idle, causePower := false, causeReset := false, latch := false } ∧
      d.returnToReady.journal = d.journal ∧ d.returnToReady.status.checkpoint = .running (d.now + 250000) ∧
      ∀ g : GenId, d.returnToReady.gens[g].due = d.firstPeriod g := by
  let e : Dev := { d with
    part := .ready
    power := { d.power with phase := .idle, causePower := false, causeReset := false, latch := false }
    status := { d.status with checkpoint := .running (d.now + 250000) }
    sites := d.sites.map (Site.resumeDeadlines d.now) }
  have hstarted := e.startGens_rest
  have hgens := e.startGens_gens
  let v : Dev := e.startGens.setHoldDeadlines.restartSilence
  have hprobed := v.probeAll_rest fun s => s == .probing || s == .stalled
  have hresumed := (v.probeAll fun s => s == .probing || s == .stalled).resumeFetches_rest
  have hcheckpoint := (v.probeAll fun s => s == .probing || s == .stalled).resumeFetches_checkpoint
  have hsteps : d.returnToReady = (v.probeAll fun s => s == .probing || s == .stalled).resumeFetches := rfl
  rw [hsteps]
  generalize (v.probeAll fun s => s == .probing || s == .stalled).resumeFetches = u at *
  generalize (v.probeAll fun s => s == .probing || s == .stalled) = w at *
  have hkept : { w with sites := e.sites, ports := e.ports, span := e.span, gens := e.gens, held := e.held, inbound := e.inbound } = e := by
    have hv : { v with sites := e.sites, ports := e.ports, span := e.span, gens := e.gens, held := e.held, inbound := e.inbound } = e :=
      congrArg (fun x : Dev => { x with
        sites := e.sites, ports := e.ports, span := e.span, held := e.held, inbound := e.inbound }) hstarted
    exact (congrArg (fun x : Dev => { x with
      sites := e.sites, ports := e.ports, span := e.span, gens := e.gens, held := e.held, inbound := e.inbound }) hprobed).trans hv
  have hstatus : w.status = e.status := (congrArg Dev.status hkept :)
  have hugens : u.gens = e.startGens.gens := (congrArg Dev.gens hresumed :).trans (congrArg Dev.gens hprobed :)
  refine ⟨(congrArg Dev.part hresumed :).trans (congrArg Dev.part hkept :), (congrArg Dev.power hresumed :).trans (congrArg Dev.power hkept :),
    (congrArg Dev.journal hresumed :).trans (congrArg Dev.journal hkept :), hcheckpoint.trans (congrArg StatusArray.checkpoint hstatus),
    fun g => ?_⟩
  have hdue := (congrArg (fun x : Vector GenRun 8 => x[g]) hugens).trans (hgens g)
  exact congrArg GenRun.due hdue

end Sys2Proof.Machine
end

section
/-!
SUPPORT and settlement of O54: the power-warn line and the reset line (R186, R188, R189).
-/

open Sys2Proof Sys2Proof.Machine

namespace Sys2Proof.Machine

/-! ## A line asserts (R186, R188) -/

section Asserts

variable {d : Dev} (line : Line)

theorem Dev.lineAsserts_begins (h : d.part = .ready ∨ (d.part = .quiescing ∧ d.power.phase = .returning)) :
    d.lineAsserts line = d.enterQuiesce line := by
  unfold Dev.lineAsserts
  rcases h with h | ⟨h, hphase⟩
  · rw [h]
  · rw [h]
    exact if_pos hphase

theorem Dev.lineAsserts_cause (h : d.part = .quiescing) (hphase : d.power.phase ≠ .returning) :
    d.lineAsserts line =
      match line with
      | .power => { d with power := { d.power with causePower := true } }
      | .reset => { d with power := { d.power with causeReset := true } } := by
  unfold Dev.lineAsserts
  rw [h]
  exact if_neg hphase

theorem Dev.lineAsserts_starting (h : d.part = .starting) : d.lineAsserts line = d.stopStart := by
  unfold Dev.lineAsserts
  rw [h]

end Asserts

theorem Dev.stopStart_other {d : Dev} (h : d.power.kind ≠ .warm) :
    d.stopStart = { d with power := { d.power with stopped := true, latch := false } } := by
  unfold Dev.stopStart
  dsimp only
  split
  · next hwarm => exact absurd hwarm h
  · rfl

/-- R188: a WARM start re-enters retention. -/
theorem Dev.stopStart_warm {d : Dev} (h : d.power.kind = .warm) (hcell : d.power.cellLow = false) :
    d.stopStart =
      { d with power := { d.power with
        stopped := true, latch := true, checkWord := Config.checkWord d.retained, cellReads := d.power.cellReads + 1 } } := by
  unfold Dev.stopStart
  dsimp only
  rw [h]
  dsimp only
  unfold Dev.enterRetention
  dsimp only
  rw [hcell]
  rfl

/-! ## A line deasserts (R188, R189) -/

/-- R188: the part waits for the lines to begin a start. -/
def Dev.startWaits (d : Dev) : Prop :=
  (d.part = .quiescing ∧ d.power.phase = .complete ∧ d.power.causeReset = true) ∨ (d.part = .starting ∧ d.power.stopped = true)

theorem Dev.startIfAllowed_iff (d : Dev) :
    (!d.power.warn && !d.power.resetLine && ((d.part == .quiescing && d.power.phase == .complete && d.power.causeReset)
      || (d.part == .starting && d.power.stopped))) = true ↔ (d.power.warn = false ∧ d.power.resetLine = false) ∧ d.startWaits := by
  simp only [Dev.startWaits, Bool.and_eq_true, Bool.or_eq_true, Bool.not_eq_true', beq_iff_eq, and_assoc]

theorem Dev.startIfAllowed_begins {d : Dev} (hw : d.power.warn = false) (hr : d.power.resetLine = false) (h : d.startWaits) :
    d.startIfAllowed = d.beginStart := if_pos (d.startIfAllowed_iff.2 ⟨⟨hw, hr⟩, h⟩)

theorem Dev.startIfAllowed_waits {d : Dev} (h : ¬ ((d.power.warn = false ∧ d.power.resetLine = false) ∧ d.startWaits)) :
    d.startIfAllowed = d := if_neg (d.startIfAllowed_iff.not.2 h)

theorem Dev.raiseCtrl_resume (n : Nat) (d : Dev) :
    d.raiseCtrl (.resume n) =
      { d with
        journal := { d.journal with
          ctrlQ := if d.journal.ctrlQ.any Rec.isResume then d.journal.ctrlQ else d.journal.ctrlQ ++ [.resume n] } } := by
  have hkind : (Rec.resume n).isFrontier = false ∧ (Rec.resume n).isSettings = false ∧ (Rec.resume n).isResume = true :=
    ⟨rfl, rfl, rfl⟩
  simp only [Dev.raiseCtrl, hkind, Bool.true_and, Bool.false_and, Bool.false_eq_true, if_false]

/-- R189: the part when RESUME has been raised. -/
def Dev.resuming (d : Dev) : Dev :=
  { d with
    power := { d.power with phase := .returning }
    journal := { d.journal.closeOwed with
      ctrlQ := if d.journal.ctrlQ.any Rec.isResume then d.journal.ctrlQ else d.journal.ctrlQ ++ [.resume d.power.startCount] } }

theorem Dev.endQuiesce_eq (d : Dev) : d.endQuiesce = if d.resuming.programStalled then d.resuming.returnToReady else d.resuming := by
  have hraised : (({ d with journal := d.journal.closeOwed } : Dev).raiseCtrl (.resume d.power.startCount)).setPhase .returning =
      d.resuming := by
    rw [Dev.raiseCtrl_resume]
    dsimp only
    rw [d.journal.closeOwed_ctrlQ]
    rfl
  unfold Dev.endQuiesce
  dsimp only
  rw [hraised]

/-! ## The lines as events -/

theorem lineEvent_next {s : State} {t : Time} (unpowered : Dev → Dev) {f : Dev → Dev} {u : Dev} (hpow : s.dev.power.powered = true)
    (hu : f (s.dev.tick t) = u) : s.goOn (Dev.lineEvent t unpowered f) = .next { s with dev := u.settle } := by
  rw [State.goOn_next, Dev.lineEvent, if_pos hpow, Dev.event_powered _ _ _ hpow, hu]

/-- The line that a Bool names, as the statements do: power-warn or the reset line. -/
def lineOf (power : Bool) : Line := if power then .power else .reset

/-- The lines when the named one has asserted. -/
def Power.asserted (power : Bool) (w : Power) : Power := if power then { w with warn := true } else { w with resetLine := true }

/-- R186, R188: a line that is deasserted asserts. -/
theorem lineAsserts_next {s : State} {t : Time} {power : Bool} {u : Dev} (hpow : s.dev.power.powered = true)
    (hclear : (if power then s.dev.power.warn else s.dev.power.resetLine) = false)
    (hu : ({ s.dev.tick t with power := s.dev.power.asserted power } : Dev).lineAsserts (lineOf power) = u) :
    exec (if power then .powerWarnAssert t else .resetLineAssert t) s = .next { s with dev := u.settle } := by
  cases power with
  | true =>
    have hwarn : ¬ ((s.dev.tick t).power.warn = true) := fun h => Bool.false_ne_true (hclear.symm.trans h)
    exact lineEvent_next (Dev.setWarn true) hpow ((if_neg hwarn).trans hu)
  | false =>
    have hreset : ¬ ((s.dev.tick t).power.resetLine = true) := fun h => Bool.false_ne_true (hclear.symm.trans h)
    exact lineEvent_next (Dev.setResetLine true) hpow ((if_neg hreset).trans hu)

theorem lineAsserts_again {s : State} {t : Time} {power : Bool} (hpow : s.dev.power.powered = true)
    (hset : (if power then s.dev.power.warn else s.dev.power.resetLine) = true) :
    exec (if power then .powerWarnAssert t else .resetLineAssert t) s = .next { s with dev := (s.dev.tick t).settle } := by
  cases power with
  | true => exact lineEvent_next (Dev.setWarn true) hpow (if_pos hset)
  | false => exact lineEvent_next (Dev.setResetLine true) hpow (if_pos hset)

theorem powerWarnDeasserts_next {s : State} {t : Time} {u : Dev} (hpow : s.dev.power.powered = true) (hw : s.dev.power.warn = true)
    (hu : (let e : Dev := { s.dev.tick t with power := { s.dev.power with warn := false } }
      if e.part = .quiescing ∧ e.power.causeReset = false ∧ e.power.phase ≠ .returning then e.endQuiesce else e.startIfAllowed) = u) :
    exec (.powerWarnDeassert t) s = .next { s with dev := u.settle } := by
  have hwarn : ¬ ((!(s.dev.tick t).power.warn) = true) := by
    rw [show (s.dev.tick t).power.warn = true from hw]
    nofun
  exact lineEvent_next (Dev.setWarn false) hpow ((if_neg hwarn).trans hu)

theorem resetLineDeasserts_next {s : State} {t : Time} {u : Dev} (hpow : s.dev.power.powered = true) (hr : s.dev.power.resetLine = true)
    (hu : ({ s.dev.tick t with power := { s.dev.power with resetLine := false } } : Dev).startIfAllowed = u) :
    exec (.resetLineDeassert t) s = .next { s with dev := u.settle } := by
  have hline : ¬ ((!(s.dev.tick t).power.resetLine) = true) := by
    rw [show (s.dev.tick t).power.resetLine = true from hr]
    nofun
  exact lineEvent_next (Dev.setResetLine false) hpow ((if_neg hline).trans hu)

/-- R187: a quiesce that waits for a BLANK segment is ended by a start. -/
theorem Dev.quiesceStep_stalled {d : Dev} (hpart : d.part = .quiescing) (hcause : d.power.causeReset = true)
    (hw : d.power.warn = false) (hr : d.power.resetLine = false) (hq : d.journal.progQ ≠ []) (ht : d.array.programTarget = none) :
    d.quiesceStep = some d.beginStart := by
  have hstalled : d.programStalled = true := by
    rw [Dev.programStalled, ht, List.isEmpty_eq_false_iff.2 hq]
    rfl
  refine if_pos ?_
  rw [Dev.startsStalled, hpart, hcause, hw, hr, hstalled]
  rfl

end Sys2Proof.Machine

/-- Settles O54: each clause is one case of the rule of a line. -/
theorem linesBeginAndEndAQuiesce : Obligations.LinesBeginAndEndAQuiesce := by
  intro s t hpow d w ended
  refine ⟨?asserts, fun hw => ?_, fun hr => ?_, ?power, ?reset, fun e hpart hcause hw hr hq ht => Dev.quiesceStep_stalled hpart hcause hw hr hq ht⟩
  case asserts =>
    intro power c asserted lines
    let e : Dev := { d with power := w.asserted power }
    refine ⟨fun hset => lineAsserts_again hpow hset, fun hclear hbegin => ?begins, fun hclear hpart hphase => ?cause,
      fun hclear hpart hkind => ?stops, fun hclear hpart hkind hcell => ?retains⟩
    case begins =>
      have hstart : e.part = .ready ∨ (e.part = .quiescing ∧ e.power.phase = .returning) := by
        refine hbegin.imp_right (And.imp_right fun h => ?_)
        cases power <;> exact h
      have hu := lineAsserts_next (t := t) hpow hclear (Dev.lineAsserts_begins (lineOf power) hstart)
      have hq := e.enterQuiesce_begins (lineOf power)
      have hpower : (e.enterQuiesce (lineOf power)).power =
          { lines with phase := .placing, causePower := power, causeReset := !power } := by
        rw [hq.power]
        cases power <;> rfl
      refine ⟨_, hu, hq.part, hpower, hq.status, hq.held.trans (HeldList.stop_eq _), hq.gens, hq.sites, hq.span, hq.fetch, hq.inbound,
        fun h => ?idle, fun n h => ?waiting, fun n h => ?erasing, hq.journal, hq.ports, hq.intake, hq.settings, hq.guard, hq.index⟩
      case idle =>
        have hstop := Dev.stopReclaim_idle (d := e) h
        exact ⟨hq.reclaim.trans (congrArg Dev.reclaim hstop :), hq.array.trans (congrArg Dev.array hstop :)⟩
      case waiting =>
        have hstop := Dev.stopReclaim_waiting (d := e) h
        exact ⟨hq.reclaim.trans (congrArg Dev.reclaim hstop :), hq.array.trans (congrArg Dev.array hstop :)⟩
      case erasing =>
        obtain ⟨hreclaim, hsuspended, hself, hother, hop⟩ := Dev.stopReclaim_erasing (d := e) h
        have hseg (m : Nat) : (e.enterQuiesce (lineOf power)).seg m = e.stopReclaim.seg m :=
          congrArg (fun a : ArrayBlk => a.seg m) hq.array
        exact ⟨hq.reclaim.trans hreclaim, (congrArg ArrayBlk.suspended hq.array).trans hsuspended, (hseg n).trans hself,
          fun m hm => (hseg m).trans (hother m hm), fun m hm => (congrArg ArrayBlk.op hq.array).trans (hop m hm)⟩
    case cause =>
      refine lineAsserts_next hpow hclear ((Dev.lineAsserts_cause (d := e) (lineOf power) hpart ?_).trans ?_)
      · cases power <;> exact hphase
      · cases power <;> rfl
    case stops =>
      refine lineAsserts_next hpow hclear ((Dev.lineAsserts_starting (d := e) (lineOf power) hpart).trans (Dev.stopStart_other ?_))
      cases power <;> exact hkind
    case retains =>
      refine lineAsserts_next hpow hclear ((Dev.lineAsserts_starting (d := e) (lineOf power) hpart).trans
        ((Dev.stopStart_warm ?_ ?_).trans ?_))
      · cases power <;> exact hkind
      · cases power <;> exact hcell
      · cases power <;> rfl
  · exact lineEvent_next (Dev.setWarn false) hpow (if_pos (by rw [show (s.dev.tick t).power.warn = false from hw]; rfl))
  · exact lineEvent_next (Dev.setResetLine false) hpow (if_pos (by rw [show (s.dev.tick t).power.resetLine = false from hr]; rfl))
  case power =>
    intro hw e record left
    refine ⟨fun hpart hcause hphase => ?ends, fun hpart hcause hwait => ?waits, fun hpart hcause hphase hline => ?starts,
      fun hpart hstop hline => ?again⟩
    case ends =>
      have hends : e.part = .quiescing ∧ e.power.causeReset = false ∧ e.power.phase ≠ .returning := ⟨hpart, hcause, hphase⟩
      have hresuming : e.resuming =
          { e with power := { e.power with phase := .returning }, journal := { left with ctrlQ := record } } := rfl
      have hstalled : e.resuming.programStalled = ({ s.dev with journal := left } : Dev).programStalled := rfl
      have hnext {u : Dev} (hu : e.endQuiesce = u) := powerWarnDeasserts_next (t := t) hpow hw ((if_pos hends).trans hu)
      refine ⟨fun hgo => ?_, fun hstuck => ?_⟩
      · refine hnext ((Dev.endQuiesce_eq e).trans ((if_neg ?_).trans hresuming))
        rw [hstalled, hgo]
        nofun
      · obtain ⟨hready, hpower, hjournal, hcheckpoint, hgens⟩ := e.resuming.returnToReady_ready
        refine ⟨_, hnext ((Dev.endQuiesce_eq e).trans (if_pos (hstalled.trans hstuck))), hready, hpower, hjournal, hcheckpoint, hgens⟩
    case waits =>
      have hends : ¬ (e.part = .quiescing ∧ e.power.causeReset = false ∧ e.power.phase ≠ .returning) := fun h =>
        Bool.false_ne_true (h.2.1.symm.trans hcause)
      refine powerWarnDeasserts_next hpow hw ((if_neg hends).trans (Dev.startIfAllowed_waits ?_))
      rintro ⟨⟨_, hline⟩, ⟨_, hcomplete, _⟩ | ⟨hstarting, _⟩⟩
      · rcases hwait with hphase | hreset
        · exact hphase hcomplete
        · exact Bool.false_ne_true (hline.symm.trans hreset)
      · exact nomatch hpart.symm.trans hstarting
    case starts =>
      have hends : ¬ (e.part = .quiescing ∧ e.power.causeReset = false ∧ e.power.phase ≠ .returning) := fun h =>
        Bool.false_ne_true (h.2.1.symm.trans hcause)
      exact powerWarnDeasserts_next hpow hw ((if_neg hends).trans
        (Dev.startIfAllowed_begins rfl hline (.inl ⟨hpart, hphase, hcause⟩)))
    case again =>
      have hends : ¬ (e.part = .quiescing ∧ e.power.causeReset = false ∧ e.power.phase ≠ .returning) := fun h =>
        nomatch hpart.symm.trans h.1
      exact powerWarnDeasserts_next hpow hw ((if_neg hends).trans (Dev.startIfAllowed_begins rfl hline (.inr ⟨hpart, hstop⟩)))
  case reset =>
    intro hr e begins
    refine ⟨fun h => ?_, fun h => ?_⟩
    · obtain ⟨hw, hwaits⟩ := h
      exact resetLineDeasserts_next hpow hr (Dev.startIfAllowed_begins hw rfl hwaits)
    · refine resetLineDeasserts_next hpow hr (Dev.startIfAllowed_waits ?_)
      rintro ⟨⟨hw, _⟩, hwaits⟩
      exact h ⟨hw, hwaits⟩

end

section
/-!
SUPPORT and settlement of O56: the end of a start (R66, R184, R196).
-/

open Sys2Proof Sys2Proof.Machine

namespace Sys2Proof.Machine

/-! ## The first HELLOs (R66) -/

/-- R66: a slot in one of the states sends a HELLO. -/
def Dev.probeIf (test : SiteState → Bool) (d : Dev) (j : SlotId) : Dev := if test (d.siteState j) then d.probe j else d

theorem Dev.probeIf_rest (test : SiteState → Bool) (d : Dev) (j : SlotId) :
    { d.probeIf test j with sites := d.sites, ports := d.ports, span := d.span } = d := by
  unfold Dev.probeIf
  split
  · exact d.probe_kept j
  · rfl

theorem Dev.probeIf_site (test : SiteState → Bool) (d : Dev) (j k : SlotId) :
    (d.probeIf test j).sites[k] = if k = j ∧ test (d.siteState k) = true then d.sites[k].probed d.now else d.sites[k] := by
  by_cases ht : test (d.siteState j) = true
  · have hprobe : d.probeIf test j = d.probe j := if_pos ht
    rw [hprobe, Dev.probe_sites, sites_set_get]
    by_cases hk : k = j
    · subst hk
      rw [if_pos rfl, if_pos ⟨rfl, ht⟩]
    · rw [if_neg hk, if_neg fun h => hk h.1]
  · have hsame : d.probeIf test j = d := if_neg ht
    rw [hsame, if_neg]
    rintro ⟨rfl, h⟩
    exact ht h

theorem Dev.probeIf_state (test : SiteState → Bool) (d : Dev) (j k : SlotId) :
    (d.probeIf test j).siteState k = d.siteState k := by
  have h := congrArg Site.state (d.probeIf_site test j k)
  refine h.trans ?_
  split <;> rfl

theorem Dev.foldl_probeIf_rest (test : SiteState → Bool) (l : List SlotId) (d : Dev) :
    { l.foldl (Dev.probeIf test) d with sites := d.sites, ports := d.ports, span := d.span } = d :=
  foldl_keeps (fun e : Dev => { e with sites := d.sites, ports := d.ports, span := d.span }) (Dev.probeIf test)
    (fun e j => congrArg (fun x : Dev => { x with sites := d.sites, ports := d.ports, span := d.span }) (e.probeIf_rest test j)) l d

theorem Dev.foldl_probeIf_site (test : SiteState → Bool) {l : List SlotId} (hl : l.Nodup) (d : Dev) (k : SlotId) :
    (l.foldl (Dev.probeIf test) d).sites[k] =
      if k ∈ l ∧ test (d.siteState k) = true then d.sites[k].probed d.now else d.sites[k] := by
  induction l generalizing d with
  | nil => rw [if_neg fun h => nomatch h.1]; rfl
  | cons j t ih =>
    rw [List.nodup_cons] at hl
    have hnow : (d.probeIf test j).now = d.now := (congrArg Dev.now (d.probeIf_rest test j) :)
    rw [List.foldl_cons, ih hl.2, Dev.probeIf_state, hnow, Dev.probeIf_site]
    by_cases hk : k = j
    · subst hk
      simp only [hl.1, false_and, if_false, true_and, List.mem_cons, true_or]
    · simp only [hk, List.mem_cons, false_or, false_and, if_false]

/-- R63, R66: the HELLO of a slot. -/
def Dev.helloOf (d : Dev) (own : Nat) (j : SlotId) : Frame :=
  ⟨own, (d.config j).site.getD 0, d.power.startCount, .hello ((d.config j).site.getD 0)⟩

theorem Dev.probeIf_ctrlQ (test : SiteState → Bool) {d : Dev} {own : Nat} (j : SlotId) (hl : d.settings.localSite = some own)
    (sp : SpanId) (hroom : d.span[sp].ctrlQ.length < 4096) :
    (d.probeIf test j).span[sp].ctrlQ =
      d.span[sp].ctrlQ ++ ([j].filter fun j => test (d.siteState j) && (d.config j).spanPort == sp).map (d.helloOf own) := by
  unfold Dev.probeIf
  by_cases ht : test (d.siteState j) = true
  · have hspan : (d.probe j).span = (d.raiseFrame j (.hello ((d.config j).site.getD 0))).span :=
      (congrArg Dev.span (d.probe_rest j) :)
    rw [if_pos ht, hspan]
    unfold Dev.raiseFrame Dev.modSpan
    dsimp only [Fin.getElem_fin]
    rw [hl, Vector.getElem_set]
    by_cases hsp : (d.config j).spanPort = sp
    · subst hsp
      rw [if_pos rfl, List.filter_cons_of_pos (by simp [ht])]
      exact congrArg SpanPort.ctrlQ (if_pos hroom)
    · rw [if_neg fun h => hsp (Fin.ext h), List.filter_cons_of_neg (by simp [hsp])]
      exact (List.append_nil _).symm
  · rw [if_neg ht, List.filter_cons_of_neg (by simp [ht])]
    exact (List.append_nil _).symm

theorem Dev.foldl_probeIf_ctrlQ (test : SiteState → Bool) (l : List SlotId) {d : Dev} {own : Nat}
    (hl : d.settings.localSite = some own) (sp : SpanId) (hroom : d.span[sp].ctrlQ.length + l.length ≤ 4096) :
    (l.foldl (Dev.probeIf test) d).span[sp].ctrlQ =
      d.span[sp].ctrlQ ++ (l.filter fun j => test (d.siteState j) && (d.config j).spanPort == sp).map (d.helloOf own) := by
  induction l generalizing d with
  | nil => exact (List.append_nil _).symm
  | cons j t ih =>
    rw [List.length_cons] at hroom
    have hstate (k : SlotId) := d.probeIf_state test j k
    have hrest := d.probeIf_rest test j
    have hqueue := Dev.probeIf_ctrlQ test (d := d) j hl sp (by omega)
    rw [List.foldl_cons]
    generalize d.probeIf test j = e at *
    have hsettings : e.settings = d.settings := (congrArg Dev.settings hrest :)
    have hpower : e.power = d.power := (congrArg Dev.power hrest :)
    have hone : (([j].filter fun j => test (d.siteState j) && (d.config j).spanPort == sp).map (d.helloOf own)).length ≤ 1 := by
      rw [List.length_map]
      exact List.length_filter_le _ _
    have hlength : e.span[sp].ctrlQ.length + t.length ≤ 4096 := by
      rw [hqueue, List.length_append]
      omega
    have hconfig (k : SlotId) : e.config k = d.config k := by rw [Dev.config, hsettings]; rfl
    have hhello : e.helloOf own = d.helloOf own := funext fun k => by rw [Dev.helloOf, hconfig, hpower]; rfl
    rw [ih (by rw [hsettings]; exact hl) hlength, hqueue, hhello, List.append_assoc, ← List.map_append]
    simp only [hstate, hconfig]
    rw [← List.filter_append]
    rfl

theorem Dev.probe_portsKept (d : Dev) (j : SlotId) : d.PortsKept (d.probe j) := by
  intro q
  rw [Dev.probe_port]
  split
  · exact Port.addNotice_same _ _ _
  · rfl

theorem Dev.foldl_probeIf_portsKept (test : SiteState → Bool) (l : List SlotId) (d : Dev) :
    d.PortsKept (l.foldl (Dev.probeIf test) d) := by
  induction l generalizing d with
  | nil => exact .refl d
  | cons j t ih =>
    have hstep : d.PortsKept (d.probeIf test j) := by
      unfold Dev.probeIf
      split
      · exact d.probe_portsKept j
      · exact .refl d
    exact hstep.trans (ih _)

/-! ## The part when the start has ended, before the HELLOs (R196) -/

/-- R184, R196: what a start that ends sets, but for the HELLOs. -/
def Dev.readied (d : Dev) : Dev :=
  Dev.setHoldDeadlines (Dev.startGens (Dev.clearLatches
    { d with
      part := .ready
      power := { d.power with
        startCount := sat64 (d.power.startCount + 1), latch := false
        info := { d.power.info with
          site := d.settings.localSite, damaged := d.array.countState .damaged, retentionLost := d.retentionLost } }
      status := { d.status with checkpoint := .running (d.now + 250000) }
      reclaim := { d.reclaim with armed := decide (d.settings.lowWatermark < d.free) } }))

theorem Dev.endStart_eq (d : Dev) : d.endStart = allSlots.foldl (Dev.probeIf (· == .probing)) d.readied := rfl

/-- R54: every WAITING deadline is set to the full hold limit. -/
def HeldList.due (hold : Time) (h : HeldList) : HeldList :=
  { h with
    entries := h.entries.map fun (e : HeldEntry) =>
      match e.state with
      | .waiting _ => { e with state := .waiting (some hold) }
      | _ => e }

theorem Dev.setHoldDeadlines_eq (d : Dev) :
    d.setHoldDeadlines = { d with held := d.held.due (d.now + d.settings.mode.holdLimit * 1000000) } := by
  unfold Dev.setHoldDeadlines
  refine congrArg (fun l : List HeldEntry => { d with held := { d.held with entries := l } }) (List.map_congr_left fun e _ => ?_)
  obtain ⟨q, st⟩ := e
  cases st <;> rfl

theorem Dev.readied_rest (d : Dev) :
    { d.readied with gens := d.gens } =
      { d with
        part := .ready
        power := { d.power with
          startCount := sat64 (d.power.startCount + 1), latch := false
          info := { d.power.info with
            site := d.settings.localSite, damaged := d.array.countState .damaged, retentionLost := d.retentionLost } }
        status := { d.status with checkpoint := .running (d.now + 250000) }
        reclaim := { d.reclaim with armed := decide (d.settings.lowWatermark < d.free) }
        journalMedia := false
        ports := d.ports.map fun q => { q with overrun := false }
        sites := d.sites.map Site.clearFlags
        held := d.held.due (d.now + d.settings.mode.holdLimit * 1000000) } := by
  let e : Dev := Dev.clearLatches
    { d with
      part := .ready
      power := { d.power with
        startCount := sat64 (d.power.startCount + 1), latch := false
        info := { d.power.info with
          site := d.settings.localSite, damaged := d.array.countState .damaged, retentionLost := d.retentionLost } }
      status := { d.status with checkpoint := .running (d.now + 250000) }
      reclaim := { d.reclaim with armed := decide (d.settings.lowWatermark < d.free) } }
  have hrest := e.startGens_rest
  show { e.startGens.setHoldDeadlines with gens := d.gens } = _
  generalize e.startGens = u at *
  have hheld : u.held = d.held := (congrArg Dev.held hrest :)
  have hnow : u.now = d.now := (congrArg Dev.now hrest :)
  have hsettings : u.settings = d.settings := (congrArg Dev.settings hrest :)
  have hdue : u.held.due (u.now + u.settings.mode.holdLimit * 1000000) = d.held.due (d.now + d.settings.mode.holdLimit * 1000000) := by
    rw [hheld, hnow, hsettings]
  rw [Dev.setHoldDeadlines_eq]
  dsimp only
  rw [hdue]
  exact congrArg (fun v : Dev => { v with
    gens := d.gens, held := d.held.due (d.now + d.settings.mode.holdLimit * 1000000) }) hrest

theorem Dev.readied_gens (d : Dev) (g : GenId) : d.readied.gens[g] = { d.gens[g] with due := d.firstPeriod g } :=
  Dev.startGens_gens _ g

end Sys2Proof.Machine

/-- Settles O56: the part is made ready, and then each PROBING slot counts its HELLO. -/
theorem startEndMakesThePartReady : Obligations.StartEndMakesThePartReady := by
  intro s t hpow d n hold
  have hnext {u : Dev} (hu : (s.dev.tick t).startEnds = u) : exec (.startEnd t) s = .next { s with dev := u.settle } := by
    show s.goOn (Dev.event t Dev.startEnds) = _
    rw [State.goOn_next, Dev.event_powered _ _ _ hpow, hu]
  refine ⟨fun h => hnext (if_neg ?_), fun hpart hstop => ?_⟩
  · rintro ⟨hpart, hstop⟩
    rcases h with h | h
    · exact h hpart
    · exact Bool.false_ne_true (hstop.symm.trans h)
  have hready := d.readied_rest
  have hgens := d.readied_gens
  have hrest := Dev.foldl_probeIf_rest (· == .probing) allSlots d.readied
  have hsite (j : SlotId) := Dev.foldl_probeIf_site (· == .probing) (by decide : allSlots.Nodup) d.readied j
  have hqueue (own : Nat) (hl : d.readied.settings.localSite = some own) (sp : SpanId) :=
    Dev.foldl_probeIf_ctrlQ (· == .probing) allSlots hl sp
  have hports := Dev.foldl_probeIf_portsKept (· == .probing) allSlots d.readied
  have hu : d.startEnds = allSlots.foldl (Dev.probeIf (· == .probing)) d.readied := (if_pos ⟨hpart, hstop⟩).trans d.endStart_eq
  generalize allSlots.foldl (Dev.probeIf (· == .probing)) d.readied = u at *
  generalize d.readied = v at *
  have hvsites : v.sites = d.sites.map Site.clearFlags := (congrArg Dev.sites hready :)
  have hvports : v.ports = d.ports.map fun q => { q with overrun := false } := (congrArg Dev.ports hready :)
  have hvspan : v.span = d.span := (congrArg Dev.span hready :)
  have hvsettings : v.settings = d.settings := (congrArg Dev.settings hready :)
  have hvpower : v.power.startCount = n := (congrArg (fun e : Dev => e.power.startCount) hready :)
  have hcleared (j : SlotId) : v.sites[j] = d.sites[j].clearFlags := by
    rw [hvsites]
    exact Vector.getElem_map _ j.isLt
  have hstate (j : SlotId) : v.siteState j = s.dev.sites[j].state := (congrArg Site.state (hcleared j) :)
  have hconfig (j : SlotId) : v.config j = s.dev.config j := by rw [Dev.config, hvsettings]; rfl
  refine ⟨u, hnext hu, ?part, ?power, ?status, ?reclaim, fun g => ?gens, ?held, fun j => ?sites, ?media, ?retention,
    fun sp own hl hroom => ?span, fun p => ?ports, ?settings, ?journal, ?array, ?index⟩
  case part => exact (congrArg Dev.part hrest :).trans (congrArg Dev.part hready :)
  case power => exact (congrArg Dev.power hrest :).trans (congrArg Dev.power hready :)
  case status => exact (congrArg Dev.status hrest :).trans (congrArg Dev.status hready :)
  case reclaim => exact (congrArg Dev.reclaim hrest :).trans (congrArg Dev.reclaim hready :)
  case gens =>
    have hsame : u.gens = v.gens := (congrArg Dev.gens hrest :)
    exact (congrArg (fun x : Vector GenRun 8 => x[g]) hsame).trans (hgens g)
  case held => exact (congrArg Dev.held hrest :).trans (congrArg Dev.held hready :)
  case sites =>
    have hnow : v.now = d.now := (congrArg Dev.now hready :)
    rw [hsite, hstate, hnow, hcleared]
    by_cases hp : s.dev.sites[j].state = .probing
    · rw [if_pos ⟨mem_allSlots j, beq_iff_eq.2 hp⟩, if_pos hp]
      have hstall : (if min (s.dev.sites[j].probeCount + 1) 65535 = 30 then true else false) =
          decide (min (s.dev.sites[j].probeCount + 1) 65535 = 30) := by
        split
        · next hk => exact (decide_eq_true hk).symm
        · next hk => exact (decide_eq_false hk).symm
      exact congrArg (fun b : Bool => { s.dev.sites[j] with
        probeCount := min (s.dev.sites[j].probeCount + 1) 65535, probeDue := some (d.now + 1000000)
        stall := b, overrun := false, digest := false, protocol := false }) hstall
    · rw [if_neg fun h => hp (beq_iff_eq.1 h.2), if_neg hp]
      rfl
  case media => exact (congrArg Dev.journalMedia hrest :).trans (congrArg Dev.journalMedia hready :)
  case retention => exact (congrArg Dev.retentionLost hrest :).trans (congrArg Dev.retentionLost hready :)
  case span =>
    have hall := hqueue own (by rw [hvsettings]; exact hl) sp (by rw [hvspan]; exact Nat.add_le_add_right hroom 8)
    rw [hvspan] at hall
    refine hall.trans (congrArg (s.dev.span[sp].ctrlQ ++ ·) ?_)
    have hhello (j : SlotId) : v.helloOf own j =
        ⟨own, (s.dev.config j).site.getD 0, n, .hello ((s.dev.config j).site.getD 0)⟩ := by
      rw [Dev.helloOf, hconfig, hvpower]
    rw [funext hhello]
    refine congrArg (List.map _) (List.filter_congr fun j _ => ?_)
    rw [hstate, hconfig, Bool.decide_and, beq_eq_decide, beq_eq_decide]
  case ports =>
    have hport : v.ports[p] = { s.dev.ports[p] with overrun := false } := by
      rw [hvports]
      exact Vector.getElem_map _ p.isLt
    have hsame := hports p
    rw [hport] at hsame
    exact ⟨(congrArg Port.respQ hsame :), (congrArg Port.state hsame :), (congrArg Port.overrun hsame :)⟩
  case settings => exact (congrArg Dev.settings hrest :).trans (congrArg Dev.settings hready :)
  case journal => exact (congrArg Dev.journal hrest :).trans (congrArg Dev.journal hready :)
  case array => exact (congrArg Dev.array hrest :).trans (congrArg Dev.array hready :)
  case index => exact (congrArg Dev.index hrest :).trans (congrArg Dev.index hready :)

end

section
/-!
SUPPORT of O55: the loss of main power, and the lines without it (R4, R185, R190).
-/

open Sys2Proof Sys2Proof.Machine

namespace Sys2Proof.Machine

/-! ## Main power is lost (R4) -/

/-- R4: the page that is being programmed is torn. -/
def tornAt (num pos : Nat) : Page := { num := num, pos := pos, recs := [], crcOk := false }

theorem Dev.losePower_programming {d : Dev} {buf : BufId} {seg num pos : Nat} (h : d.array.op = some (.program buf seg num pos)) :
    d.losePower =
      { d.modSeg seg fun s => { s with pages := s.pages ++ [tornAt num pos] } with
        array := { (d.modSeg seg fun s => { s with pages := s.pages ++ [tornAt num pos] }).array with op := none }
        power := { d.power with powered := false } } := by
  unfold Dev.losePower
  rw [h]
  rfl

theorem Dev.losePower_other {d : Dev} (h : ∀ (buf : BufId) (seg num pos : Nat), d.array.op ≠ some (.program buf seg num pos)) :
    d.losePower = { d with array := { d.array with op := none }, power := { d.power with powered := false } } := by
  unfold Dev.losePower
  split
  · next buf seg num pos hop => exact absurd hop (h buf seg num pos)
  · rfl

theorem powerLoss_powered {s : State} (t : Time) (h : s.dev.power.powered = true) :
    exec (.powerLoss t) s = .next { s with dev := (s.dev.tick t).losePower } := by
  show s.goOn (Dev.powerLost t) = _
  rw [State.goOn_next]
  unfold Dev.powerLost
  rw [if_pos h]

theorem powerLoss_unpowered {s : State} (t : Time) (h : s.dev.power.powered = false) : exec (.powerLoss t) s = .next s := by
  show s.goOn (Dev.powerLost t) = _
  rw [State.goOn_next]
  unfold Dev.powerLost
  rw [if_neg (by rw [h]; exact Bool.false_ne_true)]

theorem powerUp_powered {s : State} (t : Time) (m : StartMedia) (h : s.dev.power.powered = true) :
    exec (.powerUp t m) s = .next s := by
  show s.goOn (Dev.powerUp t m) = _
  rw [State.goOn_next]
  unfold Dev.powerUp
  rw [if_pos h]

/-- R4: a segment that holds a page, though a torn one, is not as an unlisted one. -/
theorem ArrayBlk.putSeg_torn (a : ArrayBlk) (n num pos : Nat) (x : Segment) :
    (a.putSeg n { x with pages := x.pages ++ [tornAt num pos] }).seg n = { x with pages := x.pages ++ [tornAt num pos] } := by
  refine a.putSeg_seg_self n fun h => ?_
  have hpages : x.pages ++ [tornAt num pos] = [] := (congrArg Segment.pages h :)
  exact List.cons_ne_nil _ _ (List.append_eq_nil_iff.1 hpages).2

/-! ## The lines without main power (log 2) -/

section Unpowered

variable {s : State} (t : Time) (h : s.dev.power.powered = false)
include h

theorem Dev.lineEvent_unpowered (f g : Dev → Dev) : s.dev.lineEvent t f g = f (s.dev.tick t) :=
  if_neg (by rw [h]; exact Bool.false_ne_true)

theorem guardLineChange_unpowered (raw : Bool) :
    exec (.guardLineChange t raw) s =
      .next { s with dev := { s.dev.tick t with guard := { s.dev.guard with raw := raw } } } := by
  show s.goOn (Dev.guardChange t raw) = _
  rw [State.goOn_next]
  unfold Dev.guardChange
  rw [if_neg (by rw [h]; exact Bool.false_ne_true)]

theorem lineOf_unpowered {i : Instr} {f g : Dev → Dev} (hi : exec i s = s.goOn fun d => d.lineEvent t f g) :
    exec i s = .next { s with dev := f (s.dev.tick t) } := by
  rw [hi, State.goOn_next, Dev.lineEvent_unpowered t h]

end Unpowered

/-- R185: the backup cell falls, with or without main power. -/
theorem backupCellLow_next (s : State) (t : Time) :
    exec (.backupCellLow t) s =
      .next { s with dev := if s.dev.power.powered then (s.dev.tick t).cellDrops.settle else (s.dev.tick t).cellDrops } := by
  show s.goOn (Dev.cellLow t) = _
  rw [State.goOn_next]
  unfold Dev.cellLow Dev.lineEvent
  split
  · next h => rw [Dev.event_powered _ _ _ h]
  · rfl

end Sys2Proof.Machine
end

section
/-!
SUPPORT of O55: the erase of the whole array at a FIRST start (R191).
-/

open Sys2Proof Sys2Proof.Machine

namespace Sys2Proof.Machine

/-! ## The segments that are put, one after another -/

/-- Each segment of a list takes the value that a function gives for its number. -/
def ArrayBlk.putAll (f : Nat → Segment) (keys : List Nat) (b : ArrayBlk) : ArrayBlk := keys.foldl (fun b n => b.putSeg n (f n)) b

theorem ArrayBlk.putAll_seg_other (f : Nat → Segment) {keys : List Nat} {n : Nat} (h : n ∉ keys) (b : ArrayBlk) :
    (b.putAll f keys).seg n = b.seg n := by
  induction keys generalizing b with
  | nil => rfl
  | cons k t ih =>
    rw [List.mem_cons, not_or] at h
    exact (ih h.2 _).trans (b.putSeg_seg_other k n _ h.1)

/-- A segment that the list names more than once takes the same value each time. -/
theorem ArrayBlk.putAll_seg_mem (f : Nat → Segment) {keys : List Nat} {n : Nat} (h : n ∈ keys) {b : ArrayBlk}
    (hb : Tbl.ascending b.segs = true) : (b.putAll f keys).seg n = f n := by
  induction keys generalizing b with
  | nil => exact absurd h List.not_mem_nil
  | cons k t ih =>
    by_cases ht : n ∈ t
    · exact ih ht (b.ascending_putSeg k _ hb)
    · obtain rfl : n = k := (List.mem_cons.1 h).resolve_right ht
      exact (ArrayBlk.putAll_seg_other f ht _).trans (ArrayBlk.putSeg_seg_of_ascending hb n _)

/-! ## The erase (R191) -/

/-- The segments that a FIRST start erases one by one; the others are erased together. -/
def ArrayBlk.eraseKeys (fails : List Nat) (a : ArrayBlk) : List Nat :=
  if 30000 ≤ a.baseErase + 1 then List.range 2048 else a.segs.map (·.1) ++ fails.filter fun n => decide (n < 2048)

theorem ArrayBlk.eraseAll_eq (fails : List Nat) (a : ArrayBlk) :
    a.eraseAll fails =
      ({ baseErase := a.baseErase + 1 } : ArrayBlk).putAll (fun n => (a.seg n).eraseAtFirst (fails.contains n)) (a.eraseKeys fails) :=
  rfl

/-- A segment that is erased with the others is not listed, does not fail its erase and is not worn. -/
theorem ArrayBlk.not_mem_eraseKeys {fails : List Nat} {a : ArrayBlk} {n : Nat} (hn : n < 2048) (h : n ∉ a.eraseKeys fails) :
    a.seg n = a.blankSeg ∧ fails.contains n = false ∧ ¬ 30000 ≤ a.baseErase + 1 := by
  unfold ArrayBlk.eraseKeys at h
  split at h
  · exact absurd (List.mem_range.2 hn) h
  · next hworn =>
    rw [List.mem_append, not_or] at h
    obtain ⟨hlisted, hfails⟩ := h
    refine ⟨ArrayBlk.seg_of_get_none (Tbl.get_eq_none_of_forall_ne fun e he hen => ?_), ?_, hworn⟩
    · exact hlisted (List.mem_map.2 ⟨e, he, hen⟩)
    · rw [List.contains_eq_mem, decide_eq_false_iff_not]
      exact fun hin => hfails (List.mem_filter.2 ⟨hin, decide_eq_true hn⟩)

/-- R191: every segment is erased, unless it is RETIRED. -/
theorem ArrayBlk.eraseAll_seg (fails : List Nat) (a : ArrayBlk) {n : Nat} (hn : n < 2048) :
    (a.eraseAll fails).seg n = (a.seg n).eraseAtFirst (fails.contains n) := by
  rw [ArrayBlk.eraseAll_eq]
  by_cases hkey : n ∈ a.eraseKeys fails
  · exact ArrayBlk.putAll_seg_mem _ hkey rfl
  · obtain ⟨hblank, hfails, hworn⟩ := ArrayBlk.not_mem_eraseKeys hn hkey
    rw [ArrayBlk.putAll_seg_other _ hkey, hblank, hfails]
    simp [ArrayBlk.seg, ArrayBlk.blankSeg, Tbl.get, Segment.eraseAtFirst, retireCount, hworn]

theorem Segment.eraseAtFirst_eq (failed : Bool) (x : Segment) :
    x.eraseAtFirst failed =
      if x.state = .retired then x
      else
        { state := if failed = true ∨ 30000 ≤ x.eraseCount + 1 then .retired else .blank
          eraseCount := x.eraseCount + 1, failed := [], pages := [] } := by
  unfold Segment.eraseAtFirst
  simp only [Bool.or_eq_true, decide_eq_true_eq]
  rfl

end Sys2Proof.Machine
end

section
/-!
SUPPORT of O55: while no port is ONLINE, what the replay of a COLD start notifies reaches none (R118, R169).
-/

open Sys2Proof Sys2Proof.Machine

namespace Sys2Proof.Machine

/-! ## Updates that leave the ports while none is ONLINE -/

def Dev.allOffline (d : Dev) : Prop := ∀ p : PortId, d.ports[p].state ≠ .online

/-- The ports stand while none of them is ONLINE. -/
def Dev.SilentTo (d e : Dev) : Prop := d.allOffline → e.ports = d.ports

theorem Dev.SilentTo.refl (d : Dev) : d.SilentTo d := fun _ => rfl

theorem Dev.SilentTo.of_eq {d e : Dev} (h : e.ports = d.ports) : d.SilentTo e := fun _ => h

theorem Dev.SilentTo.trans {d e f : Dev} (h : d.SilentTo e) (k : e.SilentTo f) : d.SilentTo f := fun hd =>
  have he : e.ports = d.ports := h hd
  (k fun p => he ▸ hd p).trans he

theorem Dev.SilentTo.ite {c : Prop} [Decidable c] {d e f : Dev} (h : d.SilentTo e) (k : d.SilentTo f) :
    d.SilentTo (if c then e else f) := by
  split
  · exact h
  · exact k

theorem Dev.SilentTo.foldl {α : Type} {f : Dev → α → Dev} (h : ∀ (d : Dev) (a : α), d.SilentTo (f d a)) (l : List α) (d : Dev) :
    d.SilentTo (l.foldl f d) := by
  induction l generalizing d with
  | nil => exact .refl d
  | cons a t ih => exact (h d a).trans (ih _)

/-! ## The evaluation of an intent (R113 to R118) -/

theorem Dev.silent_route (d : Dev) (p : PortId) (b : NoticeBody) : d.SilentTo (d.route p b) := fun h =>
  ((d.routedNotice_route p b).2.2 h).1

theorem Dev.silent_putSlot (d : Dev) (s : Seq) (x : Slot) : d.SilentTo (d.putSlot s x) := .of_eq rfl

theorem Dev.silent_setVerdict (d : Dev) (s : Seq) (x : Slot) (v : Verdict) : d.SilentTo (d.setVerdict s x v) := .of_eq rfl

theorem Dev.silent_verdictNotice (d : Dev) (s : Seq) (x : Slot) (v : Verdict) (p : PortId) (b : NoticeBody) :
    d.SilentTo ((d.setVerdict s x v).route p b) := (d.silent_setVerdict s x v).trans (Dev.silent_route _ p b)

theorem Dev.silent_testVerdict (d : Dev) (s : Seq) : d.SilentTo (d.testVerdict s) := by
  unfold Dev.testVerdict
  split
  · exact .refl d
  · exact .ite (.refl d) (.ite (d.silent_verdictNotice s _ _ _ _) (.ite (d.silent_verdictNotice s _ _ _ _) (.refl d)))

theorem Dev.silent_resolve (d : Dev) (s : Seq) (x : Slot) : d.SilentTo (d.resolve s x) := by
  unfold Dev.resolve
  split <;> exact .of_eq rfl

theorem Dev.silent_evaluate (d : Dev) (s : Seq) (was : Bool) : d.SilentTo (d.evaluate s was) := by
  unfold Dev.evaluate
  split
  · exact .refl d
  · exact .ite (.refl d) ((Dev.SilentTo.ite (d.silent_resolve s _) (.refl d)).trans (Dev.silent_testVerdict _ s))

theorem Dev.silent_updateSlot (d : Dev) (s : Seq) (f : Slot → Slot) : d.SilentTo (d.updateSlot s f) := by
  unfold Dev.updateSlot
  split
  · exact .refl d
  · exact (d.silent_putSlot s _).trans (Dev.silent_evaluate _ s _)

theorem Dev.silent_supersede (d : Dev) (l n : Seq) (set : List SlotId) : d.SilentTo (d.supersede l n set) := by
  unfold Dev.supersede
  split
  · exact .refl d
  · refine Dev.SilentTo.trans ?_ (Dev.silent_evaluate _ l _)
    exact .ite (d.silent_verdictNotice l _ _ _ _) (d.silent_putSlot l _)

/-! ## The records of the scan (R39, R195) -/

theorem Dev.silent_offer (d : Dev) (s : Seq) : d.SilentTo (d.offer s) := by
  unfold Dev.offer
  split
  · exact .refl d
  · exact Dev.SilentTo.foldl (fun d (e : SlotId × Mark) => .of_eq (e := d.lowerCursor e.1 s) rfl) _ d

theorem Dev.silent_writeSlot (d : Dev) (r : IntentRec) : d.SilentTo (d.writeSlot r) := by
  have hsup (e : Dev) : e.SilentTo
      (match e.slot? r.seq with
        | none => e
        | some z => e.putSlot r.seq { z with pendingSup := none }) := by
    split
    · exact .refl e
    · exact e.silent_putSlot _ _
  unfold Dev.writeSlot
  split
  · exact .refl d
  · next x _ =>
    have happlied (y : Slot) :
        d.SilentTo (if x.outcome = .stale then d.setVerdict r.seq y .superseded else d.putSlot r.seq y) :=
      .ite (d.silent_setVerdict _ _ _) (d.silent_putSlot _ _)
    refine ((happlied (x.applyOutcome r.held)).trans ?_).trans (Dev.silent_evaluate _ r.seq false)
    cases x.pendingSup with
    | none => exact .refl _
    | some l => exact (Dev.silent_supersede _ l r.seq _).trans (hsup _)

theorem Dev.silent_releaseHeld (d : Dev) (s : Seq) (stamp : Word64) : d.SilentTo (d.releaseHeld s stamp).1 := by
  have hput (x : Slot) (d : Dev) : d.SilentTo (((d.putSlot s x).evaluate s false).offer s) :=
    (d.silent_putSlot s x).trans ((Dev.silent_evaluate _ s false).trans (Dev.silent_offer _ s))
  have hwin (k : KeyIndex) : d.SilentTo { d with index := k } := .of_eq rfl
  unfold Dev.releaseHeld
  split
  case h_1 => exact .refl d
  case h_2 x _ =>
    dsimp only
    split
    · exact hput _ d
    · split
      · exact hput _ d
      · split
        · split
          · exact (Dev.SilentTo.ite (d.silent_verdictNotice s _ _ _ _) (d.silent_putSlot s _)).trans (Dev.silent_evaluate _ s false)
          · exact (hwin _).trans <| (Dev.silent_putSlot _ s _).trans <| (Dev.silent_supersede _ _ s _).trans <|
              (Dev.silent_evaluate _ s false).trans (Dev.silent_offer _ s)
        · exact (hwin _).trans (hput _ _)

theorem Dev.silent_replayIntent (marks : List (SlotId × Mark)) (r : IntentRec) (d : Dev) :
    d.SilentTo (d.replayIntent marks r) := by
  have hslot (k : KeyIndex) (x : Slot) : d.SilentTo (({ d with index := k }.putSlot r.seq x).writeSlot r) :=
    Dev.SilentTo.trans (e := { d with index := k }.putSlot r.seq x) (.of_eq rfl) (Dev.silent_writeSlot _ r)
  unfold Dev.replayIntent
  exact hslot _ _

theorem Dev.silent_replay (slots : SlotId → Rebuilt) (scan : Seq) (e : (Nat × Nat) × Rec) (d : Dev) :
    d.SilentTo (d.replay slots scan e) := by
  unfold Dev.replay
  split
  · exact .ite (d.silent_replayIntent _ _) (.refl d)
  · unfold Dev.replayDecision
    refine .ite ?_ (.refl d)
    split
    · exact d.silent_releaseHeld _ _
    · exact d.silent_updateSlot _ _
  · exact .refl d

theorem Dev.silent_replayAll (slots : SlotId → Rebuilt) (scan : Seq) (l : List ((Nat × Nat) × Rec)) (d : Dev) :
    d.SilentTo (l.foldl (fun d e => d.replay slots scan e) d) := Dev.SilentTo.foldl (fun d e => d.silent_replay slots scan e) l d

end Sys2Proof.Machine
end

section
/-!
SUPPORT of O55: what a start of any kind resets, and what its work leaves of that (R190 to R195).
-/

open Sys2Proof Sys2Proof.Machine

namespace Sys2Proof.Machine

/-! ## What the work of a start leaves -/

/-- The second part is the first but for the journal's array, control queue and counters, the tables, the latches, and what the START
notice carries. -/
def Dev.StartRest (d e : Dev) : Prop :=
  { e with
    array := d.array, index := d.index, held := d.held, status := d.status, sites := d.sites, partLost := d.partLost
    journalMedia := d.journalMedia, retentionLost := d.retentionLost
    journal := { e.journal with
      ctrlQ := d.journal.ctrlQ, nextPos := d.journal.nextPos, nextSeq := d.journal.nextSeq, passedOver := d.journal.passedOver }
    power := { e.power with info := d.power.info, media := d.power.media } } = d

theorem Dev.StartRest.refl (d : Dev) : d.StartRest d := rfl

theorem Dev.StartRest.trans {d e f : Dev} (h : d.StartRest e) (k : e.StartRest f) : d.StartRest f := by
  unfold Dev.StartRest at *
  rw [← h, ← k]

theorem Dev.startRest_dropTorn (d : Dev) : d.StartRest d.dropTorn := by
  unfold Dev.dropTorn
  split <;> rfl

theorem Dev.startRest_passOver (d : Dev) : d.StartRest d.passOver := rfl

/-- R176: while no port is ONLINE, the latch of JOURNAL_MEDIA is all that changes. -/
theorem Dev.latchMedia_offline {d : Dev} (h : d.allOffline) :
    d.latch .journalMedia .part = { d with journalMedia := true } := by
  unfold Dev.latch
  split
  · next hset =>
    obtain hset : d.journalMedia = true := hset
    rw [← hset]
  · unfold Dev.faultNotice
    rw [Dev.onlinePorts_none (d := d.setLatch true .journalMedia .part) h]
    rfl

theorem Dev.startRest_latchMedia {d : Dev} (h : d.allOffline) : d.StartRest (d.latch .journalMedia .part) := by
  rw [Dev.latchMedia_offline h]
  rfl

theorem Dev.startRest_array (d : Dev) (a : ArrayBlk) : d.StartRest { d with array := a } := rfl

theorem Dev.startRest_dropUnreadable {d : Dev} (from_ : Nat) (h : d.allOffline) : d.StartRest (d.dropUnreadable from_) := by
  unfold Dev.dropUnreadable
  dsimp only
  split
  · rfl
  · exact (d.startRest_array _).trans (Dev.startRest_latchMedia h)

theorem Dev.startRest_replayAll {d : Dev} (slots : SlotId → Rebuilt) (scan : Seq) (l : List ((Nat × Nat) × Rec)) (h : d.allOffline) :
    d.StartRest (l.foldl (fun d e => d.replay slots scan e) d) := by
  have hkept := Dev.replayAll_kept slots scan l d
  have hports := Dev.silent_replayAll slots scan l d h
  generalize l.foldl (fun d e => d.replay slots scan e) d = e at *
  unfold Dev.ReplayKept at hkept
  rw [← hports] at hkept
  unfold Dev.StartRest
  rw [← hkept]

theorem Dev.StartRest.allOffline {d e : Dev} (h : d.StartRest e) (hd : d.allOffline) : e.allOffline := fun p =>
  (congrArg Dev.ports h :) ▸ hd p

/-! ## The ports of a start -/

theorem Dev.resetVolatile_port (kind : StartKind) (d : Dev) : ∀ p : PortId, (d.resetVolatile kind).ports[p] = d.startPort p
  | 0 => rfl
  | 1 => rfl
  | 2 => rfl
  | 3 => rfl

theorem Dev.resetVolatile_allOffline (kind : StartKind) (d : Dev) : (d.resetVolatile kind).allOffline := fun p => by
  rw [Dev.resetVolatile_port]
  unfold Dev.startPort
  split <;> exact nofun

/-! ## The sites of a start (R62) -/

theorem Dev.restartSites_site (states : SlotId → SiteState) (d : Dev) :
    ∀ j : SlotId, (d.restartSites states).sites[j] = d.restartSite (states j) j
  | 0 => rfl
  | 1 => rfl
  | 2 => rfl
  | 3 => rfl
  | 4 => rfl
  | 5 => rfl
  | 6 => rfl
  | 7 => rfl

/-- What a start has cleared of a slot: nothing is sent to it, nothing waits, and its counters are 0. -/
structure Site.Restarted (x : Site) : Prop where
  notActive : x.state ≠ .active
  notStalled : x.state ≠ .stalled
  inFlight : x.inFlight = []
  candidates : x.candidates = []
  credit : x.credit = 0
  rtt : x.rtt = none
  peerStart : x.peerStart = none
  stall : x.stall = false
  framesSent : x.framesSent = 0

theorem Site.restarted_default : ({} : Site).Restarted := ⟨nofun, nofun, rfl, rfl, rfl, rfl, rfl, rfl, rfl⟩

theorem SiteState.afterStart_ne (st : SiteState) : st.afterStart ≠ .active ∧ st.afterStart ≠ .stalled := by
  cases st <;> exact ⟨nofun, nofun⟩

section RestartSite

variable (d : Dev) (st : SiteState) (j : SlotId)

theorem Dev.restartSite_detached (h : st.afterStart = .detached) : d.restartSite st j = {} := by
  unfold Dev.restartSite
  rw [h]

theorem Dev.restartSite_other (h : st.afterStart ≠ .detached) :
    d.restartSite st j = { state := st.afterStart, cursor := d.frontierOf j, frontier := some (d.frontierOf j) } := by
  unfold Dev.restartSite
  split
  · next hst => exact absurd hst h
  · rfl

theorem Dev.restartSite_state : (d.restartSite st j).state = st.afterStart := by
  by_cases h : st.afterStart = .detached
  · rw [d.restartSite_detached st j h, h]
  · rw [d.restartSite_other st j h]

theorem Dev.restartSite_restarted : (d.restartSite st j).Restarted := by
  by_cases h : st.afterStart = .detached
  · rw [d.restartSite_detached st j h]
    exact Site.restarted_default
  · rw [d.restartSite_other st j h]
    exact ⟨st.afterStart_ne.1, st.afterStart_ne.2, rfl, rfl, rfl, rfl, rfl, rfl, rfl⟩

theorem Dev.restartSite_frontier (h : (d.restartSite st j).state ≠ .detached) :
    (d.restartSite st j).cursor = d.frontierOf j ∧ (d.restartSite st j).frontier = some (d.frontierOf j) := by
  rw [Dev.restartSite_state] at h
  rw [d.restartSite_other st j h]
  exact ⟨rfl, rfl⟩

end RestartSite

/-! ## FIRST and WARM -/

theorem Dev.startRest_firstStart (d : Dev) : (({ d with settings := {} } : Dev).resetVolatile .first).StartRest d.firstStart := rfl

theorem Dev.startRest_warmStart (c : Settings) (d : Dev) :
    (({ d with settings := c } : Dev).resetVolatile .warm).StartRest (d.warmStart c) := rfl

/-! ## COLD, in its stages (R193 to R195) -/

/-- R193: the array is read, and the next sequence passes over the torn page. -/
def Dev.coldRead (c : Settings) (d : Dev) : Dev := (({ d with settings := c } : Dev).resetVolatile .cold).dropTorn.passOver

/-- R193: the tables that are rebuilt start empty. -/
def Dev.emptied (d : Dev) : Dev :=
  { d with
    journal := { d.journal with ctrlQ := [] }
    index := {}
    held := {}
    status := { d.status with slots := [] }
    sites := Vector.replicate 8 {} }

/-- R195: the records of the scan are replayed. -/
def Dev.replayed (d : Dev) : Dev :=
  (d.journalOrder.foldl (fun e r => e.replay (d.rebuilt d.journalOrder) (d.scanStart d.journalOrder) r)
    (d.dropUnreadable (d.scanFrom (d.scanStart d.journalOrder)))).holdAgain

/-- What the START notice carries of a COLD start, from the part as it reads the array and as the replay leaves it. -/
def coldInfo (read : Dev) (torn : Bool) (tail : Seq) (e : Dev) : StartInfo :=
  { scanStart := some (read.scanStart read.journalOrder)
    scannedTail := some tail
    passedOver := some (tail + 1, tail + 62)
    badPages := read.array.unreadableCount (read.scanFrom (read.scanStart read.journalOrder)) + (if torn then 1 else 0)
    heldAgain := e.held.entries.length
    noticesDropped := e.partLost }

/-- The states of the slots that a COLD start rebuilds. -/
def Dev.rebuiltState (d : Dev) (j : SlotId) : SiteState := (d.rebuilt d.journalOrder j).state

/-- R62, R195: the work of a COLD start after the replay. -/
def Dev.coldEnd (states : SlotId → SiteState) (info : StartInfo) (d : Dev) : Dev :=
  { (d.restartSites states).forgetCounts with
    retentionLost := true
    power := { (d.restartSites states).forgetCounts.power with info := info } }

theorem Dev.coldStart_eq (c : Settings) (d : Dev) :
    d.coldStart c =
      (d.coldRead c).emptied.replayed.coldEnd (d.coldRead c).emptied.rebuiltState
        (coldInfo (d.coldRead c).emptied (({ d with settings := c } : Dev).resetVolatile .cold).tornPage.isSome
          (({ d with settings := c } : Dev).resetVolatile .cold).dropTorn.scannedTail (d.coldRead c).emptied.replayed) := rfl

section ColdEnd

variable (states : SlotId → SiteState) (info : StartInfo) (d : Dev)

theorem Dev.coldEnd_journal : (d.coldEnd states info).journal = d.journal := rfl

theorem Dev.coldEnd_slot (q : Seq) : (d.coldEnd states info).slot? q = d.slot? q := rfl

theorem Dev.coldEnd_frontierOf (j : SlotId) : (d.coldEnd states info).frontierOf j = d.frontierOf j := rfl

theorem Dev.coldEnd_info : (d.coldEnd states info).power.info = info := rfl

theorem Dev.coldEnd_retentionLost : (d.coldEnd states info).retentionLost = true := rfl

theorem Dev.coldEnd_site (j : SlotId) : (d.coldEnd states info).sites[j] = d.restartSite (states j) j :=
  Dev.restartSites_site states d j

end ColdEnd

theorem Dev.startRest_emptied (d : Dev) : d.StartRest d.emptied := rfl

theorem Dev.startRest_holdAgain (d : Dev) : d.StartRest d.holdAgain := rfl

theorem Dev.startRest_coldEnd (states : SlotId → SiteState) (info : StartInfo) (d : Dev) :
    d.StartRest (d.coldEnd states info) := rfl

theorem Dev.startRest_coldRead (c : Settings) (d : Dev) :
    (({ d with settings := c } : Dev).resetVolatile .cold).StartRest (d.coldRead c).emptied :=
  (Dev.startRest_dropTorn _).trans <| (Dev.startRest_passOver _).trans (Dev.startRest_emptied _)

theorem Dev.startRest_replayed {d : Dev} (h : d.allOffline) : d.StartRest d.replayed := by
  have hdropped := Dev.startRest_dropUnreadable (d.scanFrom (d.scanStart d.journalOrder)) h
  have hreplayed := Dev.startRest_replayAll (d.rebuilt d.journalOrder) (d.scanStart d.journalOrder) d.journalOrder
    (hdropped.allOffline h)
  exact (hdropped.trans hreplayed).trans (Dev.startRest_holdAgain _)

theorem Dev.startRest_coldStart (c : Settings) (d : Dev) :
    (({ d with settings := c } : Dev).resetVolatile .cold).StartRest (d.coldStart c) := by
  have hread := d.startRest_coldRead c
  have hoffline := hread.allOffline (Dev.resetVolatile_allOffline .cold _)
  rw [Dev.coldStart_eq]
  exact (hread.trans (Dev.startRest_replayed hoffline)).trans (Dev.startRest_coldEnd _ _ _)

/-! ## The work of a start -/

section StartWork

variable {d : Dev}

theorem Dev.startKind_first (h : d.newestSettings = none) : d.startKind = .first := by
  unfold Dev.startKind
  rw [h]
  rfl

theorem Dev.startKind_other {c : Settings} (h : d.newestSettings = some c) :
    d.startKind = if d.power.latch && d.checkValid && d.cleanShutdown then .warm else .cold := by
  unfold Dev.startKind
  rw [h]
  rfl

theorem Dev.startWork_first (h : d.newestSettings = none) : d.startWork = d.firstStart := by
  unfold Dev.startWork
  rw [h]

theorem Dev.startWork_warm {c : Settings} (h : d.newestSettings = some c) (hkind : d.startKind = .warm) :
    d.startWork = d.warmStart c := by
  unfold Dev.startWork
  rw [h]
  exact if_pos hkind

theorem Dev.startWork_cold {c : Settings} (h : d.newestSettings = some c) (hkind : d.startKind = .cold) :
    d.startWork = d.coldStart c := by
  unfold Dev.startWork
  rw [h]
  exact if_neg (by rw [hkind]; exact nofun)

/-- R190: the three kinds of a start, with the settings that it finds. -/
theorem Dev.startWork_cases (d : Dev) :
    (d.startKind = .first ∧ d.newestSettings = none ∧ d.startWork = d.firstStart) ∨
    (∃ c, d.startKind = .warm ∧ d.newestSettings = some c ∧ d.startWork = d.warmStart c) ∨
    ∃ c, d.startKind = .cold ∧ d.newestSettings = some c ∧ d.startWork = d.coldStart c := by
  cases h : d.newestSettings with
  | none => exact .inl ⟨Dev.startKind_first h, rfl, Dev.startWork_first h⟩
  | some c =>
    have hkind := Dev.startKind_other h
    split at hkind
    · exact .inr (.inl ⟨c, hkind, rfl, Dev.startWork_warm h hkind⟩)
    · exact .inr (.inr ⟨c, hkind, rfl, Dev.startWork_cold h hkind⟩)

end StartWork

theorem Dev.startRest_startWork (d : Dev) :
    (({ d with settings := d.newestSettings.getD {} } : Dev).resetVolatile d.startKind).StartRest d.startWork := by
  rcases d.startWork_cases with ⟨hkind, hset, hwork⟩ | ⟨c, hkind, hset, hwork⟩ | ⟨c, hkind, hset, hwork⟩
  · rw [hkind, hset, hwork]
    exact d.startRest_firstStart
  · rw [hkind, hset, hwork]
    exact d.startRest_warmStart c
  · rw [hkind, hset, hwork]
    exact d.startRest_coldStart c

end Sys2Proof.Machine
end

section
/-!
SUPPORT of O55: the kind of a start, and what a FIRST and a WARM start leave (R190 to R192).
-/

open Sys2Proof Sys2Proof.Machine

namespace Sys2Proof.Machine

theorem Dev.startKind_eq (d : Dev) :
    d.startKind =
      if d.newestSettings = none then .first
      else if d.power.latch = true ∧ d.power.checkWord = Config.checkWord d.retained ∧ d.cleanShutdown = true then .warm
      else .cold := by
  unfold Dev.startKind Dev.checkValid
  simp only [Option.isNone_iff_eq_none, Bool.and_eq_true, beq_iff_eq, and_assoc]

/-! ## Of each kind -/

/-- R18, R176: RETENTION_LOST is set by a COLD start, and by no other. -/
theorem Dev.startWork_retentionLost (d : Dev) : d.startWork.retentionLost = decide (d.startKind = .cold) := by
  rcases d.startWork_cases with ⟨hkind, -, hwork⟩ | ⟨c, hkind, -, hwork⟩ | ⟨c, hkind, -, hwork⟩
  · rw [hkind, hwork]; rfl
  · rw [hkind, hwork]; rfl
  · rw [hkind, hwork, Dev.coldStart_eq, Dev.coldEnd_retentionLost]; rfl

theorem Dev.firstStart_site (d : Dev) (j : SlotId) : d.firstStart.sites[j] = {} :=
  Vector.getElem_replicate _

/-- The sites of a COLD start, from the part as the replay leaves it. -/
theorem Dev.coldStart_site (c : Settings) (d : Dev) (j : SlotId) :
    (d.coldStart c).sites[j] = (d.coldRead c).emptied.replayed.restartSite ((d.coldRead c).emptied.rebuiltState j) j := by
  rw [Dev.coldStart_eq]
  exact Dev.coldEnd_site _ _ _ j

/-- R62, R192: a slot restarts from the state that it had. -/
theorem Dev.warmStart_site (c : Settings) (d : Dev) (j : SlotId) :
    ∃ e : Dev, (d.warmStart c).sites[j] = e.restartSite (d.siteState j) j :=
  ⟨_, Dev.restartSites_site _ _ j⟩

/-- R62: no start leaves a slot that sends, or that holds anything of what it sent. -/
theorem Dev.startWork_site (d : Dev) (j : SlotId) : d.startWork.sites[j].Restarted := by
  rcases d.startWork_cases with ⟨-, -, hwork⟩ | ⟨c, -, -, hwork⟩ | ⟨c, -, -, hwork⟩
  · rw [hwork, Dev.firstStart_site]
    exact Site.restarted_default
  · obtain ⟨e, he⟩ := d.warmStart_site c j
    rw [hwork, he]
    exact e.restartSite_restarted _ j
  · rw [hwork, Dev.coldStart_site]
    exact Dev.restartSite_restarted _ _ j

/-! ## FIRST (R191) -/

theorem Dev.firstStart_seg (d : Dev) {n : Nat} (hn : n < 2048) :
    d.firstStart.seg n =
      if (d.seg n).state = .retired then d.seg n
      else
        { state := if d.power.media.eraseFails.contains n = true ∨ 30000 ≤ (d.seg n).eraseCount + 1 then .retired else .blank
          eraseCount := (d.seg n).eraseCount + 1, failed := [], pages := [] } :=
  (ArrayBlk.eraseAll_seg d.power.media.eraseFails d.array hn).trans (Segment.eraseAtFirst_eq _ _)

/-! ## WARM (R192) -/

/-- R192: what a WARM start does to an IN_FLIGHT mark. -/
theorem Slot.returnMarks_eq (x : Slot) :
    x.moveAll (· == Mark.inFlight) .pending =
      { x with marks := x.marks.map fun m => if m.2 = .inFlight then (m.1, .pending) else m } := by
  simp only [Slot.moveAll, beq_iff_eq]

theorem Dev.warmStart_slots (c : Settings) (d : Dev) :
    (d.warmStart c).status.slots =
      d.status.slots.map fun e =>
        (e.1, { e.2 with marks := e.2.marks.map fun m => if m.2 = .inFlight then (m.1, .pending) else m }) :=
  List.map_congr_left fun e _ => congrArg (Prod.mk e.1) e.2.returnMarks_eq

theorem Dev.warmStart_state (c : Settings) (d : Dev) (j : SlotId) :
    (d.warmStart c).sites[j].state = (d.siteState j).afterStart := by
  obtain ⟨e, he⟩ := d.warmStart_site c j
  rw [he, Dev.restartSite_state]

end Sys2Proof.Machine
end

section
/-!
SUPPORT of O55: what a COLD start reads and rebuilds (R193 to R195).
-/

open Sys2Proof Sys2Proof.Machine

namespace Sys2Proof.Machine

/-! ## What the reading of the journal depends on -/

/-- The two parts read the same journal: of their arrays, with the same settings and the same next sequence. -/
structure Dev.ReadsAs (d e : Dev) : Prop where
  array : d.array = e.array
  settings : d.settings = e.settings
  nextSeq : d.journal.nextSeq = e.journal.nextSeq

section ReadsAs

variable {d e : Dev}

theorem Dev.scannedTail_congr (h : d.array = e.array) : d.scannedTail = e.scannedTail := by
  unfold Dev.scannedTail
  rw [h]

theorem Dev.dropTorn_array_congr (h : d.array = e.array) : d.dropTorn.array = e.dropTorn.array := by
  have htorn : d.tornPage = e.tornPage := by
    unfold Dev.tornPage
    rw [h]
  have hvalid : d.highestValid = e.highestValid := by
    unfold Dev.highestValid
    rw [h]
  unfold Dev.dropTorn
  rw [htorn, hvalid]
  split
  · exact h
  · next n p _ =>
    unfold Dev.modSeg
    dsimp only
    rw [h]

variable (h : d.ReadsAs e)
include h

theorem Dev.ReadsAs.scannedTail : d.scannedTail = e.scannedTail := Dev.scannedTail_congr h.array

theorem Dev.ReadsAs.journalOrder : d.journalOrder = e.journalOrder := by
  unfold Dev.journalOrder Dev.validRecs
  rw [h.array]

theorem Dev.ReadsAs.lowest : d.lowest = e.lowest := by
  unfold Dev.lowest
  rw [h.array, h.nextSeq]

theorem Dev.ReadsAs.rebuilt : d.rebuilt = e.rebuilt := by
  funext l j
  unfold Dev.rebuilt Dev.config
  rw [h.lowest, h.settings, h.nextSeq]

theorem Dev.ReadsAs.scanStart : d.scanStart = e.scanStart := by
  funext l
  unfold Dev.scanStart
  rw [h.lowest, h.rebuilt, h.nextSeq]

end ReadsAs

/-! ## What the stages of a COLD start leave -/

section Stages

variable (from_ : Nat) (d : Dev)

theorem Dev.latch_tables (k : FaultKind) (sc : FaultScope) (hsc : sc = .part) :
    (d.latch k sc).journal = d.journal ∧ (d.latch k sc).status = d.status := by
  subst hsc
  have hset : (d.setLatch true k .part).journal = d.journal ∧ (d.setLatch true k .part).status = d.status := by
    cases k <;> exact ⟨rfl, rfl⟩
  have hrest := Dev.faultNotice_rest (d.setLatch true k .part) k .part
  unfold Dev.latch
  split
  · exact ⟨rfl, rfl⟩
  · exact ⟨(congrArg Dev.journal hrest :).trans hset.1, (congrArg Dev.status hrest :).trans hset.2⟩

theorem Dev.dropUnreadable_tables :
    (d.dropUnreadable from_).journal = d.journal ∧ (d.dropUnreadable from_).status = d.status := by
  unfold Dev.dropUnreadable
  dsimp only
  split
  · exact ⟨rfl, rfl⟩
  · exact Dev.latch_tables _ _ _ rfl

theorem Dev.replayed_journal : d.replayed.journal = d.journal := by
  have hkept := Dev.replayAll_kept (d.rebuilt d.journalOrder) (d.scanStart d.journalOrder) d.journalOrder
    (d.dropUnreadable (d.scanFrom (d.scanStart d.journalOrder)))
  exact (congrArg Dev.journal hkept :).trans (Dev.dropUnreadable_tables _ d).1

/-- R195: below the scan start no slot is filled. -/
theorem Dev.replayed_below {q : Seq} (hslots : d.status.slots = []) (hq : q < d.scanStart d.journalOrder) :
    d.replayed.slot? q = none := by
  refine Dev.replayAll_below _ _ q hq _ _ ?_
  unfold Dev.slot?
  rw [(Dev.dropUnreadable_tables _ d).2, hslots]
  rfl

end Stages

/-- R193: what a COLD start rebuilds from reads the array as found, without the torn page, and passes over 62 sequences. -/
theorem Dev.coldRead_array (c : Settings) (d : Dev) : (d.coldRead c).array = d.dropTorn.array :=
  Dev.dropTorn_array_congr (d := ({ d with settings := c } : Dev).resetVolatile .cold) rfl

theorem Dev.dropTorn_settings (d : Dev) : d.dropTorn.settings = d.settings := (congrArg Dev.settings d.startRest_dropTorn :)

theorem Dev.coldRead_settings (c : Settings) (d : Dev) : (d.coldRead c).settings = c := Dev.dropTorn_settings _

theorem Dev.coldRead_nextSeq (c : Settings) (d : Dev) : (d.coldRead c).journal.nextSeq = (d.coldRead c).scannedTail + 63 := rfl

/-- R9, R193: the sequences from the tail to the next one were passed over. -/
theorem Dev.passOver_passedOver (d : Dev) {n : Seq} (hlow : d.scannedTail < n) (hhigh : n < d.scannedTail + 63) :
    d.passOver.passedOver n = true := by
  have hin : (d.scannedTail + 1, d.scannedTail + 62) ∈ d.passOver.journal.passedOver := by
    unfold Dev.passOver
    dsimp only
    split
    · next h => exact List.contains_iff_mem.1 h
    · exact List.mem_cons_self
  have hrange : (d.scannedTail + 1 ≤ n) ∧ (n ≤ d.scannedTail + 62) :=
    ⟨Nat.succ_le_of_lt hlow, Nat.le_of_lt_succ hhigh⟩
  refine List.any_eq_true.2 ⟨_, hin, ?_⟩
  rw [Bool.and_eq_true, decide_eq_true_eq, decide_eq_true_eq]
  exact hrange

end Sys2Proof.Machine
end

section
/-!
SUPPORT of O55: the states and the marks that a COLD start rebuilds (R194, R195).
-/

open Sys2Proof Sys2Proof.Machine

namespace Sys2Proof.Machine

/-- The newest FRONTIER record, with its place. -/
abbrev NewestFrontier := Option ((Nat × Nat) × Vector (SiteState × Option Seq) 8)

/-! ## Where a slot starts from (R194) -/

/-- R194: the state from which a slot is rebuilt. -/
def baseState (c : SiteConfig) (newest : NewestFrontier) (j : SlotId) : SiteState :=
  if c.site = none then .detached
  else match newest with
    | some v => v.2[j].1
    | none => if c.fenceMark then .fenced else if c.evictMark then .evicted else .probing

/-- R194: whether a record stands after the newest FRONTIER record. -/
def countsIn (newest : NewestFrontier) (at_ : Nat × Nat) : Bool :=
  match newest with
  | some v => later v.1 at_
  | none => true

theorem countsAfter_newest (newest : NewestFrontier) : countsAfter (newest.map (·.1)) = countsIn newest := by
  cases newest <;> rfl

/-- R194: the slot from which a slot is rebuilt. -/
def rebuiltBase (c : SiteConfig) (lowest : Seq) (l : List ((Nat × Nat) × Rec)) (newest : NewestFrontier) (j : SlotId) : Rebuilt :=
  match newest with
  | some v => { rebuildFrom c v.2[j] with closings := closedBefore l v.1 j }
  | none => rebuildBare lowest c

theorem Dev.rebuilt_eq (d : Dev) (l : List ((Nat × Nat) × Rec)) (j : SlotId) :
    d.rebuilt l j =
      (rebuiltBase (d.config j) d.lowest l (lastMatch Rec.frontier? l) j).applyAll l d.journal.nextSeq
        ((lastMatch Rec.frontier? l).map (·.1)) j := by
  unfold Dev.rebuilt
  cases lastMatch Rec.frontier? l with
  | none => rfl
  | some v => rfl

theorem rebuildFrom_state (c : SiteConfig) (e : SiteState × Option Seq) :
    (rebuildFrom c e).state = if c.site = none then .detached else e.1 := by
  unfold rebuildFrom
  cases c.site <;> rfl

theorem rebuildBare_state (scan : Seq) (c : SiteConfig) :
    (rebuildBare scan c).state =
      if c.site = none then .detached else if c.fenceMark then .fenced else if c.evictMark then .evicted else .probing := by
  unfold rebuildBare
  cases c.site with
  | none => rfl
  | some n => cases c.fenceMark <;> cases c.evictMark <;> rfl

theorem rebuiltBase_state (c : SiteConfig) (lowest : Seq) (l : List ((Nat × Nat) × Rec)) (newest : NewestFrontier) (j : SlotId) :
    (rebuiltBase c lowest l newest j).state = baseState c newest j := by
  cases newest with
  | none => exact rebuildBare_state lowest c
  | some v => exact rebuildFrom_state c v.2[j]

/-! ## The state of a rebuilt slot -/

/-- The state that a record gives the slot, if it counts. -/
def countedMove (counts : Nat × Nat → Bool) (j : SlotId) (e : (Nat × Nat) × Rec) : Option SiteState :=
  match e.2.siteEvent? j with
  | some (.state st, _) => if counts e.1 then some st else none
  | _ => none

theorem countedMove_eq (counts : Nat × Nat → Bool) (j : SlotId) (e : (Nat × Nat) × Rec) :
    countedMove counts j e = if counts e.1 then e.2.movesTo j else none := by
  unfold countedMove Rec.movesTo
  rcases e.2.siteEvent? j with _ | ⟨_ | _, q⟩
  · exact (ite_self _).symm
  · rfl
  · exact (ite_self _).symm

theorem Dev.rebuilt_state (d : Dev) (l : List ((Nat × Nat) × Rec)) (j : SlotId) :
    (d.rebuilt l j).state =
      (l.filterMap (countedMove (countsIn (lastMatch Rec.frontier? l)) j)).getLast?.getD
        (baseState (d.config j) (lastMatch Rec.frontier? l) j) := by
  have hmoves : countedMove (countsIn (lastMatch Rec.frontier? l)) j = fun e =>
      if countsIn (lastMatch Rec.frontier? l) e.1 then e.2.movesTo j else none :=
    funext (countedMove_eq _ j)
  rw [Dev.rebuilt_eq, Rebuilt.applyAll_state, rebuiltBase_state, countsAfter_newest, hmoves]

/-! ## The marks of a slot that no record moves (R195) -/

/-- R195: the mark that a slot's frontier leaves. -/
def frontierMark (frontier : Option Seq) (s : Seq) : Mark :=
  match frontier with
  | some f => if f ≤ s then .pending else .acked
  | none => .acked

/-- R195: the mark that a slot's state and frontier leave. -/
def standingMark (st : SiteState) (frontier : Option Seq) (s : Seq) : Mark :=
  match st with
  | .detached => .skipped .detached
  | .evicted => .skipped .evicted
  | _ => frontierMark frontier s

theorem Rebuilt.markOf_open {x : Rebuilt} {at_ : Nat × Nat} (hclosed : x.closings.find? (fun c => later at_ c.1) = none)
    (hbase : x.base = none) (s : Seq) :
    x.markOf at_ s = frontierMark x.frontier s := by
  unfold Rebuilt.markOf
  rw [hclosed, hbase]
  rfl

theorem Rebuilt.markOf_closed {x : Rebuilt} {at_ : Nat × Nat} {why : SkipReason}
    (hclosed : x.closings.find? (fun c => later at_ c.1) = none) (hbase : x.base = some (why, none)) (s : Seq) :
    x.markOf at_ s = .skipped why := by
  unfold Rebuilt.markOf
  rw [hclosed, hbase]
  rfl

/-- R195: of a slot that no change closed, the state and the frontier give the mark. -/
theorem Rebuilt.markOf_standing {x : Rebuilt} {at_ : Nat × Nat} (hclosed : x.closings.find? (fun c => later at_ c.1) = none)
    (hbase : x.base = (closingReason x.state).map fun r => (r, none)) (s : Seq) :
    x.markOf at_ s = standingMark x.state x.frontier s := by
  cases hst : x.state with
  | detached => exact Rebuilt.markOf_closed hclosed (hbase.trans (by rw [hst]; rfl)) s
  | evicted => exact Rebuilt.markOf_closed hclosed (hbase.trans (by rw [hst]; rfl)) s
  | probing => exact Rebuilt.markOf_open hclosed (hbase.trans (by rw [hst]; rfl)) s
  | active => exact Rebuilt.markOf_open hclosed (hbase.trans (by rw [hst]; rfl)) s
  | stalled => exact Rebuilt.markOf_open hclosed (hbase.trans (by rw [hst]; rfl)) s
  | fenced => exact Rebuilt.markOf_open hclosed (hbase.trans (by rw [hst]; rfl)) s

/-- The frontier from which a slot is rebuilt. -/
def baseFrontier (lowest : Seq) (newest : NewestFrontier) (j : SlotId) : Option Seq :=
  match newest with
  | some v => v.2[j].2
  | none => some lowest

section Configured

variable {c : SiteConfig} (hsite : c.site ≠ none) (lowest : Seq) (l : List ((Nat × Nat) × Rec)) (newest : NewestFrontier) (j : SlotId)
include hsite

theorem rebuiltBase_frontier : (rebuiltBase c lowest l newest j).frontier = baseFrontier lowest newest j := by
  obtain ⟨n, hn⟩ := Option.ne_none_iff_exists'.1 hsite
  cases newest with
  | none =>
    show (rebuildBare lowest c).frontier = some lowest
    unfold rebuildBare
    rw [hn]
    cases c.fenceMark <;> cases c.evictMark <;> rfl
  | some v =>
    show (rebuildFrom c v.2[j]).frontier = v.2[j].2
    unfold rebuildFrom
    rw [hn]
    rfl

theorem rebuiltBase_base :
    (rebuiltBase c lowest l newest j).base = (closingReason (rebuiltBase c lowest l newest j).state).map fun r => (r, none) := by
  obtain ⟨n, hn⟩ := Option.ne_none_iff_exists'.1 hsite
  cases newest with
  | none =>
    show (rebuildBare lowest c).base = (closingReason (rebuildBare lowest c).state).map fun r => (r, none)
    unfold rebuildBare
    rw [hn]
    cases c.fenceMark <;> cases c.evictMark <;> rfl
  | some v =>
    show (rebuildFrom c v.2[j]).base = (closingReason (rebuildFrom c v.2[j]).state).map fun r => (r, none)
    unfold rebuildFrom
    rw [hn]
    rfl

end Configured

/-- No change before the newest FRONTIER record closed a slot that no record after the intent names. -/
theorem rebuiltBase_unclosed {l : List ((Nat × Nat) × Rec)} {j : SlotId} {at_ : Nat × Nat}
    (h : ∀ e ∈ l, later at_ e.1 = true → e.2.siteEvent? j = none) (c : SiteConfig) (lowest : Seq) (newest : NewestFrontier) :
    (rebuiltBase c lowest l newest j).closings.find? (fun c => later at_ c.1) = none := by
  cases newest with
  | none =>
    show (rebuildBare lowest c).closings.find? _ = none
    unfold rebuildBare
    cases c.site with
    | none => rfl
    | some n => cases c.fenceMark <;> cases c.evictMark <;> rfl
  | some v =>
    refine closedBefore_none v.1 fun e he hlater => ?_
    unfold Rec.closes?
    rw [h e he hlater]

/-- R195: the mark of a slot that no record moves, from the state and the frontier that it starts from. -/
theorem Dev.rebuilt_mark_standing (d : Dev) {l : List ((Nat × Nat) × Rec)} {j : SlotId} {at_ : Nat × Nat}
    (hquiet : ∀ e ∈ l, (countsAfter ((lastMatch Rec.frontier? l).map (·.1)) e.1 = true ∨ later at_ e.1 = true) →
      e.2.siteEvent? j = none)
    (hsite : (d.config j).site ≠ none) (s : Seq) :
    (d.rebuilt l j).markOf at_ s =
      standingMark (baseState (d.config j) (lastMatch Rec.frontier? l) j) (baseFrontier d.lowest (lastMatch Rec.frontier? l) j) s := by
  have hclosed := rebuiltBase_unclosed (fun e he hl => hquiet e he (.inr hl)) (d.config j) d.lowest (lastMatch Rec.frontier? l)
  have hbase := rebuiltBase_base hsite d.lowest l (lastMatch Rec.frontier? l) j
  rw [Dev.rebuilt_eq, Rebuilt.applyAll_none _ _ _ _ _ fun e he hc => hquiet e he (.inl hc), Rebuilt.markOf_standing hclosed hbase,
    rebuiltBase_state, rebuiltBase_frontier hsite]

/-- R195: the mark that a slot's state and the newest FRONTIER record leave, or the lowest intent where there is none. -/
def recordedMark (st : SiteState) (lowest : Seq) (newest : NewestFrontier) (j : SlotId) (s : Seq) : Mark :=
  match st with
  | .detached => .skipped .detached
  | .evicted => .skipped .evicted
  | _ =>
    match newest with
    | some v =>
      match v.2[j].2 with
      | some f => if f ≤ s then .pending else .acked
      | none => .acked
    | none => if lowest ≤ s then .pending else .acked

theorem standingMark_base (st : SiteState) (lowest : Seq) (newest : NewestFrontier) (j : SlotId) (s : Seq) :
    standingMark st (baseFrontier lowest newest j) s = recordedMark st lowest newest j s := by
  cases newest with
  | none => rfl
  | some v => rfl

theorem Dev.rebuilt_mark_recorded (d : Dev) {l : List ((Nat × Nat) × Rec)} {j : SlotId} {at_ : Nat × Nat}
    (hquiet : ∀ e ∈ l, (countsIn (lastMatch Rec.frontier? l) e.1 = true ∨ later at_ e.1 = true) → e.2.siteEvent? j = none)
    (hsite : (d.config j).site ≠ none) (s : Seq) :
    (d.rebuilt l j).markOf at_ s =
      recordedMark (baseState (d.config j) (lastMatch Rec.frontier? l) j) d.lowest (lastMatch Rec.frontier? l) j s := by
  rw [← countsAfter_newest] at hquiet
  rw [d.rebuilt_mark_standing hquiet hsite, standingMark_base]

/-! ## The marks of a slot of the status array -/

/-- The mark of a key, where every mark is paired with one of its key. -/
theorem marks_find {f : SlotId → Mark} {j : SlotId} {keys : List SlotId} (hj : j ∈ keys) {marks : List (SlotId × Mark)}
    (h : List.Forall₂ markSkips (keys.map fun k => (k, f k)) marks) :
    ∃ m, (marks.find? fun e => e.1 == j).map (·.2) = some m ∧ markSkips (j, f j) (j, m) := by
  induction keys generalizing marks with
  | nil => exact absurd hj List.not_mem_nil
  | cons k t ih =>
    obtain ⟨e, rest, he, hrest, rfl⟩ := List.forall₂_cons_left_iff.1 h
    by_cases hk : e.1 = j
    · obtain rfl : k = j := he.1.symm.trans hk
      rw [List.find?_cons_of_pos (by exact beq_iff_eq.2 hk)]
      exact ⟨e.2, rfl, rfl, he.2⟩
    · rw [List.find?_cons_of_neg (by exact fun hin => hk (beq_iff_eq.1 hin))]
      exact ih ((List.mem_cons.1 hj).resolve_left fun h => hk (he.1.trans h.symm)) hrest

theorem marks_keys {f : SlotId → Mark} {keys : List SlotId} {marks : List (SlotId × Mark)}
    (h : List.Forall₂ markSkips (keys.map fun k => (k, f k)) marks) : marks.map (·.1) = keys := by
  induction keys generalizing marks with
  | nil =>
    obtain rfl := List.forall₂_nil_left_iff.1 h
    rfl
  | cons k t ih =>
    obtain ⟨e, rest, he, hrest, rfl⟩ := List.forall₂_cons_left_iff.1 h
    rw [List.map_cons, ih hrest, he.1]

end Sys2Proof.Machine
end

section
/-!
SUPPORT of O55: what a COLD start leaves (R193 to R195), and the application of main power (R190).
-/

open Sys2Proof Sys2Proof.Machine

namespace Sys2Proof.Machine

/-! ## What a COLD start leaves, by the part as it reads the journal -/

theorem Dev.replayed_intent {d : Dev} {at_ : Nat × Nat} {r : IntentRec} {before after : List ((Nat × Nat) × Rec)}
    (hl : d.journalOrder = before ++ (at_, Rec.intent r) :: after) (hlast : ∀ e ∈ after, e.2.intentSeq ≠ some r.seq)
    (hs : d.scanStart d.journalOrder ≤ r.seq) :
    ∃ x, d.replayed.slot? r.seq = some x ∧ x.written = true ∧ x.origin = r.origin ∧ x.tag = r.tag ∧ x.quorum = r.quorum ∧
      List.Forall₂ markSkips ((slotsOf r.siteSet).map fun j => (j, (d.rebuilt d.journalOrder j).markOf at_ r.seq)) x.marks := by
  have hslot := Dev.replayAll_slot (d.rebuilt d.journalOrder) (d.scanStart d.journalOrder) at_ r before after hlast hs
    (d.dropUnreadable (d.scanFrom (d.scanStart d.journalOrder)))
  rw [← hl] at hslot
  exact hslot

theorem Dev.coldStart_journal (c : Settings) (d : Dev) : (d.coldStart c).journal = (d.coldRead c).emptied.journal := by
  rw [Dev.coldStart_eq, Dev.coldEnd_journal, Dev.replayed_journal]

theorem Dev.coldStart_settings (c : Settings) (d : Dev) : (d.coldStart c).settings = c :=
  (congrArg Dev.settings (d.startRest_coldStart c) :)

/-- The part after a COLD start reads as the start did, with the array that the start found, without the torn page. -/
theorem Dev.coldStart_readsAs (c : Settings) (d : Dev) :
    ({ d.coldStart c with array := d.dropTorn.array } : Dev).ReadsAs (d.coldRead c).emptied :=
  ⟨(d.coldRead_array c).symm, (d.coldStart_settings c).trans (d.coldRead_settings c).symm,
    (congrArg Journal.nextSeq (d.coldStart_journal c) :)⟩

theorem Dev.coldStart_slot (c : Settings) (d : Dev) (q : Seq) :
    (d.coldStart c).slot? q = (d.coldRead c).emptied.replayed.slot? q := by
  rw [Dev.coldStart_eq, Dev.coldEnd_slot]

theorem Dev.coldStart_frontierOf (c : Settings) (d : Dev) (j : SlotId) :
    (d.coldStart c).frontierOf j = (d.coldRead c).emptied.replayed.frontierOf j := by
  rw [Dev.coldStart_eq, Dev.coldEnd_frontierOf]

theorem Dev.coldStart_cursor (c : Settings) (d : Dev) (j : SlotId) (h : (d.coldStart c).sites[j].state ≠ .detached) :
    (d.coldStart c).sites[j].cursor = (d.coldStart c).frontierOf j ∧
      (d.coldStart c).sites[j].frontier = some ((d.coldStart c).frontierOf j) := by
  rw [Dev.coldStart_site] at h ⊢
  rw [Dev.coldStart_frontierOf]
  exact Dev.restartSite_frontier _ _ j h

theorem Dev.coldStart_passedOver (c : Settings) (d : Dev) {n : Seq} (hlow : (d.coldRead c).scannedTail < n)
    (hhigh : n < (d.coldRead c).scannedTail + 63) : (d.coldStart c).passedOver n = true := by
  unfold Dev.passedOver
  rw [Dev.coldStart_journal]
  exact Dev.passOver_passedOver _ hlow hhigh

section Reads

variable {c : Settings} {d read : Dev} (h : read.ReadsAs (d.coldRead c).emptied)
include h

theorem Dev.coldStart_nextSeq : (d.coldStart c).journal.nextSeq = read.scannedTail + 63 := by
  rw [Dev.coldStart_journal, h.scannedTail]
  exact d.coldRead_nextSeq c

theorem Dev.coldStart_info :
    (d.coldStart c).power.info.scanStart = some (read.scanStart read.journalOrder) ∧
      (d.coldStart c).power.info.scannedTail = some read.scannedTail ∧
      (d.coldStart c).power.info.passedOver = some (read.scannedTail + 1, read.scannedTail + 62) := by
  rw [h.scanStart, h.journalOrder, h.scannedTail, Dev.coldStart_eq, Dev.coldEnd_info]
  exact ⟨rfl, rfl, rfl⟩

theorem Dev.coldStart_state (j : SlotId) :
    (d.coldStart c).sites[j].state = (read.rebuilt read.journalOrder j).state.afterStart := by
  rw [Dev.coldStart_site, Dev.restartSite_state, h.rebuilt, h.journalOrder]
  rfl

theorem Dev.coldStart_below {q : Seq} (hq : q < read.scanStart read.journalOrder) : (d.coldStart c).slot? q = none := by
  rw [h.scanStart, h.journalOrder] at hq
  rw [Dev.coldStart_slot]
  exact Dev.replayed_below _ rfl hq

theorem Dev.coldStart_intent {at_ : Nat × Nat} {r : IntentRec} {before after : List ((Nat × Nat) × Rec)}
    (hl : read.journalOrder = before ++ (at_, Rec.intent r) :: after) (hlast : ∀ e ∈ after, e.2.intentSeq ≠ some r.seq)
    (hs : read.scanStart read.journalOrder ≤ r.seq) :
    ∃ x, (d.coldStart c).slot? r.seq = some x ∧ x.written = true ∧ x.origin = r.origin ∧ x.tag = r.tag ∧ x.quorum = r.quorum ∧
      List.Forall₂ markSkips ((slotsOf r.siteSet).map fun j => (j, (read.rebuilt read.journalOrder j).markOf at_ r.seq))
        x.marks := by
  rw [h.scanStart, h.journalOrder] at hs
  rw [h.journalOrder] at hl
  rw [Dev.coldStart_slot, h.rebuilt, h.journalOrder]
  exact Dev.replayed_intent hl hlast hs

end Reads

/-! ## A mark that the replay leaves -/

theorem Slot.mark_of_skips {x : Slot} {f : SlotId → Mark} {keys : List SlotId} {j : SlotId} (hj : j ∈ keys)
    (h : List.Forall₂ markSkips (keys.map fun k => (k, f k)) x.marks) :
    x.mark j = some (f j) ∨ (f j = .pending ∧ ∃ why, x.mark j = some (.skipped why)) := by
  obtain ⟨m, hm, -, hsame | ⟨hpending, why, hwhy⟩⟩ := marks_find hj h
  · exact .inl (hm.trans (congrArg some hsame))
  · exact .inr ⟨hpending, why, hm.trans (congrArg some hwhy)⟩

/-! ## Power is applied (R190) -/

/-- What the start found of the array stays with the array. -/
def Dev.withoutMedia (d : Dev) : Dev := { d with power := { d.power with media := ⟨[], []⟩ } }

theorem Dev.startRest_withoutMedia (d : Dev) : d.StartRest d.withoutMedia := rfl

theorem powerUp_started {s : State} (t : Time) (m : StartMedia) (h : s.dev.power.powered = false) :
    exec (.powerUp t m) s =
      .next { s with dev :=
        (Dev.readArray { s.dev.tick t with
          power := { s.dev.power with powered := true, warn := false, media := m } }).startWork.withoutMedia.settle } :=
  powerUp_next t m h

end Sys2Proof.Machine
end

section
/-!
SUPPORT and settlement of O55: the loss and the return of main power (R185, R190 to R195).
-/

open Sys2Proof Sys2Proof.Machine

namespace Sys2Proof.Machine

section Started

variable {f u : Dev}

/-- What every start leaves of the part, whatever its kind. -/
structure Dev.Started (f u : Dev) : Prop where
  rest : (({ f with settings := f.newestSettings.getD {} } : Dev).resetVolatile f.startKind).StartRest u
  retentionLost : u.retentionLost = decide (f.startKind = .cold)
  site (j : SlotId) : u.sites[j].Restarted

theorem Dev.started_startWork (f : Dev) : f.Started f.startWork.withoutMedia :=
  ⟨f.startRest_startWork.trans (Dev.startRest_withoutMedia _), f.startWork_retentionLost, f.startWork_site⟩

theorem Dev.Started.course (h : f.Started u) :
    u.part = .starting ∧ u.power.powered = f.power.powered ∧ u.power.warn = f.power.warn ∧ u.power.kind = f.startKind ∧
      u.power.startCount = f.power.startCount :=
  ⟨(congrArg Dev.part h.rest :), (congrArg (fun u : Dev => u.power.powered) h.rest :),
    (congrArg (fun u : Dev => u.power.warn) h.rest :), (congrArg (fun u : Dev => u.power.kind) h.rest :),
    (congrArg (fun u : Dev => u.power.startCount) h.rest :)⟩

theorem Dev.Started.buffers (h : f.Started u) :
    u.journal.bufA = {} ∧ u.journal.bufB = {} ∧ u.journal.tailCache = [] ∧ u.journal.progFails = 0 :=
  ⟨(congrArg (fun u : Dev => u.journal.bufA) h.rest :), (congrArg (fun u : Dev => u.journal.bufB) h.rest :),
    (congrArg (fun u : Dev => u.journal.tailCache) h.rest :), (congrArg (fun u : Dev => u.journal.progFails) h.rest :)⟩

theorem Dev.Started.engines (h : f.Started u) :
    u.fetch = { nextRead := f.fetch.nextRead } ∧ u.inbound = {} ∧ u.intake = {} ∧ u.reclaim = {} ∧ u.foreign = 0 :=
  ⟨(congrArg Dev.fetch h.rest :), (congrArg Dev.inbound h.rest :), (congrArg Dev.intake h.rest :),
    (congrArg Dev.reclaim h.rest :), (congrArg Dev.foreign h.rest :)⟩

theorem Dev.Started.guards (h : f.Started u) :
    u.guard.software = false ∧ u.guard.filtered = true ∧ u.guard.raw = f.guard.raw :=
  ⟨(congrArg (fun u : Dev => u.guard.software) h.rest :), (congrArg (fun u : Dev => u.guard.filtered) h.rest :),
    (congrArg (fun u : Dev => u.guard.raw) h.rest :)⟩

theorem Dev.Started.settings (h : f.Started u) : u.settings = f.newestSettings.getD {} := (congrArg Dev.settings h.rest :)

theorem Dev.Started.port (h : f.Started u) (p : PortId) :
    u.ports[p] = { state := if u.settings.portFence[p] = true then .fenced else .offline } := by
  have hports := (congrArg Dev.ports h.rest :)
  rw [h.settings, hports, Dev.resetVolatile_port]
  rfl

end Started

/-! ## The work of each kind -/

section Kinds

variable {f : Dev}

theorem Dev.firstWork (h : f.startKind = .first) : f.startWork = f.firstStart := by
  rcases f.startWork_cases with ⟨-, -, hwork⟩ | ⟨c, hkind, -⟩ | ⟨c, hkind, -⟩
  · exact hwork
  · rw [h] at hkind; cases hkind
  · rw [h] at hkind; cases hkind

theorem Dev.warmWork (h : f.startKind = .warm) : ∃ c, f.startWork = f.warmStart c := by
  rcases f.startWork_cases with ⟨hkind, -⟩ | ⟨c, -, -, hwork⟩ | ⟨c, hkind, -⟩
  · rw [h] at hkind; cases hkind
  · exact ⟨c, hwork⟩
  · rw [h] at hkind; cases hkind

theorem Dev.coldWork (h : f.startKind = .cold) : ∃ c, f.startWork = f.coldStart c := by
  rcases f.startWork_cases with ⟨hkind, -⟩ | ⟨c, hkind, -⟩ | ⟨c, -, -, hwork⟩
  · rw [h] at hkind; cases hkind
  · rw [h] at hkind; cases hkind
  · exact ⟨c, hwork⟩

end Kinds

/-! ## What a COLD start has done -/

/-- What a COLD start has done, where the second part reads the journal as the start did. -/
structure Dev.ColdDone (u read : Dev) : Prop where
  config : read.config = u.config
  nextSeq : u.journal.nextSeq = read.scannedTail + 63
  ctrlQ : u.journal.ctrlQ = []
  passedOver (n : Seq) (hlow : read.scannedTail < n) (hhigh : n < read.scannedTail + 63) : u.passedOver n = true
  scanStart : u.power.info.scanStart = some (read.scanStart read.journalOrder)
  scannedTail : u.power.info.scannedTail = some read.scannedTail
  passedRange : u.power.info.passedOver = some (read.scannedTail + 1, read.scannedTail + 62)
  state (j : SlotId) : u.sites[j].state = (read.rebuilt read.journalOrder j).state.afterStart
  cursor (j : SlotId) (h : u.sites[j].state ≠ .detached) :
    u.sites[j].cursor = u.frontierOf j ∧ u.sites[j].frontier = some (u.frontierOf j)
  below (q : Seq) (hq : q < read.scanStart read.journalOrder) : u.slot? q = none
  intent (at_ : Nat × Nat) (r : IntentRec) (before after : List ((Nat × Nat) × Rec))
    (hl : read.journalOrder = before ++ (at_, Rec.intent r) :: after) (hlast : ∀ e ∈ after, e.2.intentSeq ≠ some r.seq)
    (hs : read.scanStart read.journalOrder ≤ r.seq) :
    ∃ x, u.slot? r.seq = some x ∧ x.written = true ∧ x.origin = r.origin ∧ x.tag = r.tag ∧ x.quorum = r.quorum ∧
      List.Forall₂ markSkips ((slotsOf r.siteSet).map fun j => (j, (read.rebuilt read.journalOrder j).markOf at_ r.seq)) x.marks

theorem Dev.coldStart_done (c : Settings) (d : Dev) : (d.coldStart c).ColdDone { d.coldStart c with array := d.dropTorn.array } := by
  have hreads := d.coldStart_readsAs c
  have hjournal := d.coldStart_journal c
  have hinfo := Dev.coldStart_info hreads
  have hconfig : ({ d.coldStart c with array := d.dropTorn.array } : Dev).config = (d.coldStart c).config := rfl
  generalize ({ d.coldStart c with array := d.dropTorn.array } : Dev) = read at *
  obtain ⟨hscan, hscanned, hpassed⟩ := hinfo
  have htail : read.scannedTail = (d.coldRead c).scannedTail := hreads.scannedTail
  refine ⟨hconfig, Dev.coldStart_nextSeq hreads, (congrArg Journal.ctrlQ hjournal :), fun n hlow hhigh => ?_, hscan, hscanned, hpassed,
    Dev.coldStart_state hreads, d.coldStart_cursor c, fun q => Dev.coldStart_below hreads, fun at_ r before after =>
    Dev.coldStart_intent hreads⟩
  rw [htail] at hlow hhigh
  exact d.coldStart_passedOver c hlow hhigh

theorem Dev.ColdDone.withoutMedia {u : Dev} {a : ArrayBlk} (h : u.ColdDone { u with array := a }) :
    u.withoutMedia.ColdDone { u.withoutMedia with array := a } := by
  obtain ⟨hconfig, hseq, hctrl, hover, hscan, htail, hrange, hstate, hcursor, hbelow, hintent⟩ := h
  exact ⟨hconfig, hseq, hctrl, hover, hscan, htail, hrange, hstate, hcursor, hbelow, hintent⟩

end Sys2Proof.Machine

/-- Settles O55: the loss of power and the lines without it each have their lemma above; a start is what it resets
(`Dev.Started`), and the work of its kind. -/
theorem powerIsLostAndApplied : Obligations.PowerIsLostAndApplied := by
  intro s t d w
  refine ⟨?lost, fun h => powerLoss_unpowered t h, backupCellLow_next s t, ?lines, fun h m => powerUp_powered t m h, ?applied⟩
  case lost =>
    intro hpow
    refine ⟨fun buf seg num pos hop => ?torn, fun hop => ?plain⟩
    case torn =>
      have hexec := (powerLoss_powered t hpow).trans (congrArg (fun u : Dev => Host.Outcome.next { s with dev := u })
        (Dev.losePower_programming (d := s.dev.tick t) hop))
      exact ⟨_, hexec, ArrayBlk.putSeg_torn _ _ _ _ _, fun n hn => ArrayBlk.putSeg_seg_other _ _ _ _ hn, rfl, rfl⟩
    case plain =>
      rw [powerLoss_powered t hpow, Dev.losePower_other (d := s.dev.tick t) hop]
      rfl
  case lines =>
    intro h
    exact ⟨fun raw => guardLineChange_unpowered t h raw, lineOf_unpowered t h (f := Dev.setWarn true) rfl,
      lineOf_unpowered t h (f := Dev.setWarn false) rfl, lineOf_unpowered t h (f := Dev.setResetLine true) rfl,
      lineOf_unpowered t h (f := Dev.setResetLine false) rfl⟩
  case applied =>
    intro hpow m found kind
    have hkind : found.startKind = kind := found.startKind_eq
    have hstarted := found.started_startWork
    have hrest := hstarted.rest
    have hcases := found.startWork_cases
    obtain ⟨hpart, hpowered, hwarn, hkind', hcount⟩ := hstarted.course
    obtain ⟨hbufA, hbufB, hcache, hfails⟩ := hstarted.buffers
    obtain ⟨hfetch, hinbound, hintake, hreclaim, hforeign⟩ := hstarted.engines
    obtain ⟨hsoftware, hfiltered, hraw⟩ := hstarted.guards
    refine ⟨_, powerUp_started t m hpow, hpart, hpowered, hwarn, hkind'.trans hkind, hcount, hstarted.settings, hstarted.port,
      hbufA, hbufB, hcache, hfails, hfetch, hinbound, hintake, hreclaim, hforeign, hsoftware, hfiltered, hraw,
      hkind ▸ hstarted.retentionLost, ?sites, ?first, ?warm, ?cold⟩
    case sites =>
      intro j
      obtain ⟨hactive, hstalled, hflight, hcandidates, hcredit, hrtt, hpeer, hstall, hsent⟩ := hstarted.site j
      exact ⟨hactive, hstalled, hflight, hcandidates, hcredit, hrtt, hpeer, hstall, hsent⟩
    case first =>
      intro hfirst
      rw [Dev.firstWork (hkind.trans hfirst)]
      exact ⟨rfl, rfl, rfl, rfl, rfl, found.firstStart_site, fun n hn => found.firstStart_seg hn⟩
    case warm =>
      intro hwarmKind
      obtain ⟨c, hwork⟩ := Dev.warmWork (hkind.trans hwarmKind)
      rw [hwork]
      have hsites : found.sites = s.dev.sites := rfl
      refine ⟨rfl, rfl, rfl, rfl, found.warmStart_slots c, fun j => ?_⟩
      have hstate : (found.warmStart c).withoutMedia.sites[j].state = s.dev.sites[j].state.afterStart :=
        (found.warmStart_state c j).trans (congrArg (fun v : Vector Site 8 => v[j].state.afterStart) hsites)
      exact hstate
    case cold =>
      intro hcold
      obtain ⟨c, hwork⟩ := Dev.coldWork (hkind.trans hcold)
      have hdone := (found.coldStart_done c).withoutMedia
      rw [hwork]
      revert hdone
      generalize (found.coldStart c).withoutMedia = u
      generalize found.dropTorn.array = a
      intro hdone read tail l scan newest counts base moves
      refine ⟨hdone.nextSeq, hdone.ctrlQ, fun n hlow hhigh => hdone.passedOver n hlow (hdone.nextSeq ▸ hhigh), hdone.scanStart,
        hdone.scannedTail, hdone.passedRange, fun j => ?state, hdone.cursor, hdone.below, ?intent⟩
      case state => exact (hdone.state j).trans (congrArg SiteState.afterStart (Dev.rebuilt_state read l j))
      case intent =>
        intro at_ r before after hl hlast hs
        obtain ⟨x, hx, hwritten, horigin, htag, hquorum, hmarks⟩ := hdone.intent at_ r before after hl hlast hs
        refine ⟨x, hx, hwritten, horigin, htag, hquorum, marks_keys hmarks, fun j hj => ?_⟩
        intro built
        refine ⟨Slot.mark_of_skips hj hmarks, ?closed, ?standing⟩
        case closed =>
          intro v e why earlier rest hnewest hparts hafter hbefore hcloses hnone
          have hnew : lastMatch Rec.frontier? l = some v := hnewest
          rw [hparts] at hnew
          have hskipped := read.rebuilt_closedBefore j r.seq hnew hafter hbefore hcloses hnone
          rw [← hparts] at hskipped
          exact hskipped
        case standing =>
          intro hquiet hsite
          exact read.rebuilt_mark_recorded hquiet hsite r.seq

end
